-- ==== Sys2Proof/Word.lean ====
section
/-! DEFINITION. The words of the machine: bytes, scalar words, vector registers and masks, and their plainest
conversions. Little-endian everywhere (R4). -/

namespace Sys2Proof

/-- A byte (R4). -/
abbrev Byte := BitVec 8

/-- A scalar register (R43). -/
abbrev Word := BitVec 64

/-- An instruction slot (R67). -/
abbrev SlotWord := BitVec 32

/-- A vector register (R45). -/
abbrev VReg := BitVec 2048

/-- A mask register (R46). -/
abbrev Mask := BitVec 256

end Sys2Proof
end

