-- ==== Sys2Proof/Syntax.lean ====
section
/-! DEFINITION. The syntax of the machine: the operand forms of R69 and R77 to R82, the micro-operation fields of R140,
the operands of the events, and `Instr`, one constructor for each row of spec/opcode_table.json. -/

namespace Sys2Proof

/-- The predicate of an S, M, K, E or C slot (R69): the slot executes when q XOR neg is true. -/
structure Guard where
  neg : Bool
  q   : BitVec 4
  deriving DecidableEq, Repr

/-- The mask of a V slot (R69): lanes are governed by m XOR neg. -/
structure LaneMask where
  neg : Bool
  m   : BitVec 3
  deriving DecidableEq, Repr

/-! ### S-class forms (R77) -/

/-- S3 and BF. With i = 0, b names a register; with i = 1 it is an immediate. -/
structure S3 where
  g   : Guard
  dup : Bool
  d   : BitVec 6
  a   : BitVec 6
  i   : Bool
  b   : BitVec 6
  deriving DecidableEq, Repr

/-- S2: CLZ and POPC. -/
structure S2 where
  g   : Guard
  dup : Bool
  d   : BitVec 6
  a   : BitVec 6
  deriving DecidableEq, Repr

/-- CMP. -/
structure SCmp where
  g   : Guard
  dup : Bool
  qd  : BitVec 4
  cc  : BitVec 3
  a   : BitVec 6
  b   : BitVec 6
  deriving DecidableEq, Repr

/-- PLOG. -/
structure SPlog where
  g   : Guard
  dup : Bool
  qd  : BitVec 4
  qa  : BitVec 4
  qb  : BitVec 4
  tt  : BitVec 4
  deriving DecidableEq, Repr

/-- MOVI. -/
structure SMovi where
  g   : Guard
  dup : Bool
  d   : BitVec 6
  imm : BitVec 13
  deriving DecidableEq, Repr

/-- SM and SA: LD, ST, ATOM and CAS, which carry no dup. -/
structure SMem where
  g    : Guard
  d    : BitVec 6
  base : BitVec 6
  pi   : Bool
  size : BitVec 2
  off  : BitVec 4
  deriving DecidableEq, Repr

/-- LEA: the SM form with pi = 0 and a dup bit. -/
structure SLea where
  g    : Guard
  dup  : Bool
  d    : BitVec 6
  base : BitVec 6
  size : BitVec 2
  off  : BitVec 4
  deriving DecidableEq, Repr

/-- SK: CHK. -/
structure SChk where
  g    : Guard
  pair : BitVec 2
  deriving DecidableEq, Repr

/-! ### V-class forms (R78) -/

structure V3 where
  m   : LaneMask
  dup : Bool
  d   : BitVec 5
  a   : BitVec 5
  b   : BitVec 5
  fmt : BitVec 5
  deriving DecidableEq, Repr

structure V2 where
  m   : LaneMask
  dup : Bool
  d   : BitVec 5
  a   : BitVec 5
  fmt : BitVec 5
  deriving DecidableEq, Repr

/-- VR: VRED and VSCAN. -/
structure VR where
  m   : LaneMask
  dup : Bool
  d   : BitVec 5
  a   : BitVec 5
  op  : BitVec 5
  fmt : BitVec 5
  deriving DecidableEq, Repr

/-- VS: VBCAST. -/
structure VS where
  m   : LaneMask
  dup : Bool
  d   : BitVec 5
  s   : BitVec 6
  fmt : BitVec 5
  deriving DecidableEq, Repr

/-- VC: VCMP. -/
structure VC where
  m   : LaneMask
  dup : Bool
  md  : BitVec 3
  cc  : BitVec 2
  a   : BitVec 5
  b   : BitVec 5
  fmt : BitVec 5
  deriving DecidableEq, Repr

/-- VCV: VCVT. -/
structure VCv where
  m    : LaneMask
  dup  : Bool
  d    : BitVec 5
  a    : BitVec 5
  outF : BitVec 5
  inF  : BitVec 5
  deriving DecidableEq, Repr

/-- VM with k = 0: VLD and VST of the scratchpad. -/
structure VMem where
  m    : LaneMask
  v    : BitVec 5
  base : BitVec 6
  pi   : Bool
  off  : BitVec 7
  deriving DecidableEq, Repr

/-- VM with k = 1: VLD and VST of a stream register. -/
structure VStr where
  m : LaneMask
  v : BitVec 5
  w : BitVec 3
  deriving DecidableEq, Repr

/-- VX: VLDX and VSTX. -/
structure VX where
  m    : LaneMask
  d    : BitVec 5
  a    : BitVec 5
  base : BitVec 6
  size : BitVec 2
  deriving DecidableEq, Repr

/-- VK: VTOPK; k is the field k − 1. -/
structure VK where
  m   : LaneMask
  dup : Bool
  d   : BitVec 5
  a   : BitVec 5
  k   : BitVec 5
  nan : Bool
  fmt : BitVec 4
  deriving DecidableEq, Repr

/-- VG: VMERGE, whose mask field must be zero (R423). -/
structure VG where
  dup  : Bool
  d    : BitVec 5
  a    : BitVec 5
  b    : BitVec 5
  keep : Bool
  deriving DecidableEq, Repr

/-! ### M-, K- and C-class forms (R79 to R82) -/

/-- One scalar register operand. -/
structure GReg where
  g : Guard
  a : BitVec 6
  deriving DecidableEq, Repr

/-- Two scalar register operands. -/
structure GReg2 where
  g : Guard
  a : BitVec 6
  b : BitVec 6
  deriving DecidableEq, Repr

structure MBank where
  g    : Guard
  bank : BitVec 2
  deriving DecidableEq, Repr

structure MCallF where
  g       : Guard
  routine : BitVec 8
  tile    : BitVec 6
  flags   : BitVec 4
  deriving DecidableEq, Repr

structure MCompF where
  g   : Guard
  td  : BitVec 6
  ts  : BitVec 6
  nm  : BitVec 2
  fmt : BitVec 5
  deriving DecidableEq, Repr

structure MLoadF where
  g       : Guard
  routine : BitVec 8
  tile    : BitVec 6
  deriving DecidableEq, Repr

/-- SCLD: side false is the left operand, true the right. -/
structure ScldF where
  g    : Guard
  desc : BitVec 8
  side : Bool
  deriving DecidableEq, Repr

structure TdsetF where
  g    : Guard
  desc : BitVec 8
  a    : BitVec 6
  deriving DecidableEq, Repr

/-- CBADV; k is the field k − 1. -/
structure CbAdvF where
  g : Guard
  h : BitVec 4
  k : BitVec 6
  deriving DecidableEq, Repr

structure CbWaitF where
  g     : Guard
  h     : BitVec 4
  free  : Bool
  count : BitVec 7
  deriving DecidableEq, Repr

structure KaqF where
  g  : Guard
  aq : Bool
  nb : Bool
  qn : BitVec 4
  a  : BitVec 5
  b  : BitVec 6
  deriving DecidableEq, Repr

structure KBarF where
  g   : Guard
  cls : BitVec 3
  deriving DecidableEq, Repr

structure KBindF where
  g : Guard
  w : BitVec 3
  a : BitVec 6
  deriving DecidableEq, Repr

/-- The command form (R80); the variant is part of the row. -/
structure Cmd where
  g     : Guard
  acq   : Bool
  rel   : Bool
  scope : BitVec 3
  cb    : BitVec 6
  so    : BitVec 6
  deriving DecidableEq, Repr

/-- KDQ; cnt is the field count − 1. -/
structure KdqF where
  g   : Guard
  dq  : Bool
  d   : BitVec 5
  cnt : BitVec 3
  deriving DecidableEq, Repr

structure TlSetF where
  g  : Guard
  t  : BitVec 6
  a  : BitVec 6
  st : Bool
  deriving DecidableEq, Repr

structure BrF where
  g   : Guard
  off : BitVec 19
  deriving DecidableEq, Repr

/-- JMP and CALL with ind = 0. -/
structure JmpF where
  g   : Guard
  off : BitVec 15
  deriving DecidableEq, Repr

/-- LOOP; body is the field body − 1. -/
structure LoopF where
  g    : Guard
  a    : BitVec 6
  body : BitVec 10
  deriving DecidableEq, Repr

structure LcntF where
  g  : Guard
  a  : BitVec 6
  b  : BitVec 6
  lo : BitVec 3
  deriving DecidableEq, Repr

structure Imm16F where
  g   : Guard
  imm : BitVec 16
  deriving DecidableEq, Repr

/-- ACQ and REL. -/
structure SyncF where
  g     : Guard
  a     : BitVec 6
  scope : BitVec 3
  deriving DecidableEq, Repr

structure FenceF where
  g     : Guard
  scope : BitVec 3
  deriving DecidableEq, Repr

structure DbarF where
  g     : Guard
  level : BitVec 2
  deriving DecidableEq, Repr

structure RkeepF where
  g  : Guard
  a  : BitVec 6
  vb : BitVec 4
  deriving DecidableEq, Repr

structure EinjF where
  g    : Guard
  kind : BitVec 4
  a    : BitVec 6
  deriving DecidableEq, Repr

structure LaunchF where
  g     : Guard
  a     : BitVec 6
  queue : BitVec 6
  deriving DecidableEq, Repr

/-- CRD and CWR: the scalar register and control number bits [9:0]. -/
structure CtlF where
  g   : Guard
  r   : BitVec 6
  ctl : BitVec 10
  deriving DecidableEq, Repr

/-! ### Operands of the events: messages and packets from outside the module -/

/-- A queue configuration (R236, message 0x01). -/
structure QueueConfig where
  src    : BitVec 2
  pre    : Bool
  maxrq  : BitVec 4
  lsize  : BitVec 5
  seq    : BitVec 32
  rbase  : BitVec 56
  ptroot : BitVec 56
  key    : BitVec 32
  wbud   : BitVec 64
  consa  : BitVec 56
  deriving DecidableEq, Repr

/-- A region table entry (R217, message 0x02). -/
structure RegionEntry where
  key   : BitVec 256
  valid : Bool
  off   : BitVec 40
  span  : BitVec 40
  deriving DecidableEq, Repr

/-- A packet of the launch traffic class (R237). -/
structure LaunchPkt where
  src    : Nat           -- fabric address it came from, and the transport's packet number, by which duplicates are known
  psn    : Nat
  key    : BitVec 32
  tag    : BitVec 32
  record : List Byte
  deriving DecidableEq, Repr

/-- The extension header's fields of a count or payload packet (R179) with what it carries. -/
structure XPkt where
  module  : Nat          -- fabric address of the sender, and the transport's packet number, by which duplicates are known
  psn     : Nat
  paths   : List (BitVec 4)  -- the paths its packets are sprayed over (R184)
  key     : BitVec 32
  src     : Nat          -- sending position in the peer table, and the sending logical core, to which the transport answers
  sender  : Nat
  core    : Nat          -- logical core addressed (R180)
  dest    : Nat          -- receiving position
  tag     : BitVec 32
  seq     : Nat          -- position of the first entry or element within its source
  last    : Bool
  npeer   : Nat          -- the sender's N
  esz     : Nat          -- the sender's entry bytes (FRED: elements)
  var     : Nat
  entries : List (List Byte)
  deriving DecidableEq, Repr

/-- A refusal report (R185). -/
structure RefusalRpt where
  tag    : BitVec 32
  core   : Nat
  pos    : Nat
  total  : Nat
  capw   : Nat
  capo   : Nat
  placed : Nat
  deriving DecidableEq, Repr

/-- Which packet it is: the module that sent it, and its number (R179). -/
structure PacketId where
  module : Nat
  psn    : Nat
  deriving DecidableEq, Repr

/-- The packet that carries a refusal report (R179, R185). -/
structure RefusalPkt where
  src    : PacketId
  report : RefusalRpt
  deriving DecidableEq, Repr

/-- A flush marker (R209). -/
structure MarkerPkt where
  psn    : Nat
  key    : BitVec 32
  module : Nat
  anchor : Nat
  epoch  : BitVec 32
  path   : BitVec 4
  paths  : BitVec 4      -- |P| − 1
  deriving DecidableEq, Repr

/-- What a remote access asks for (R208): bytes read or written, or one atomic step at the location's home: an ATOM or a CAS
(R210, R300), the acquire or the release of a sync object by a core of a module (R203), or a completion signal (R206). -/
inductive RemoteOp where
  | read (len : Nat)
  | write (bytes : List Byte)
  | atom (code : Nat) (wide : Bool) (operand : BitVec 64)
  | cas (wide : Bool) (new compare : BitVec 64)
  | acquire (core module : Nat)
  | release (core module : Nat)
  | signal
  deriving DecidableEq, Repr

/-- A remote access packet (R179, R208): a kind 4 packet for a device address of the receiving module. -/
structure RemotePkt where
  key    : BitVec 32
  module : Nat           -- fabric address of the sender, and the transport's packet number
  psn    : Nat
  src    : Nat           -- the header's source and tag fields
  tag    : BitVec 32
  group  : Nat
  addr   : Nat
  op     : RemoteOp
  deriving DecidableEq, Repr

/-- An SPDM or management request's requester-chosen data, where its answer depends on it (R288). -/
structure SpdmReq where
  slot   : Nat
  index  : Nat
  offset : Nat            -- GET_CERTIFICATE's portion
  length : Nat
  sign   : Bool           -- GET_MEASUREMENTS asks for a signature
  nonce  : List Byte
  deriving DecidableEq, Repr

/-- A debug token (R289). -/
structure DebugToken where
  zaevo  : Bool           -- signed by Zaevo (vendor-return) or by the customer's key
  signed : Bool           -- the signature verifies under the token's key
  key    : BitVec 512     -- the hash of that key
  fuse   : Bool           -- a vendor-return token that fuses the state (R289; log 73)
  halt   : Bool
  trace  : Bool
  queues : List Nat
  deriving DecidableEq, Repr

/-- The images that R287 verifies. -/
inductive FirmwarePart where
  | pilot
  | decks                 -- the deck and Quay firmware
  | library               -- the library routine image (R142)
  deriving DecidableEq, Repr

/-- A firmware image's header (R287). -/
structure FirmwareImage where
  part      : FirmwarePart
  version   : Nat
  svn       : Nat
  digest    : BitVec 512
  signature : List Byte
  pubkey    : List Byte
  deriving DecidableEq, Repr

/-- For whom a memory controller serves a request (R18): a task, by the Harbourmaster's number; the host port; the pilot
core; or the bond store, whose span traffic and reclaim walker count as no task's (R217). -/
inductive Requester where
  | task (num : Nat)
  | host
  | pilot
  | bond
  deriving DecidableEq, Repr

/-- What management sets of the host's view of the module: a 64 KiB physical page's system-atomic attribute (R210), BAR2's
base, or that the host has enabled CXL.cache (R292; log 74). -/
inductive HostItem where
  | page (n : Nat)
  | aperture (base : Nat)
  | cxlCache
  deriving DecidableEq, Repr

/-- One constructor for each row of spec/opcode_table.json: the slot operations (R83), the matrix micro-operations
(R140), and the steps that the engines, the Harbourmaster, the host and the fabric take by themselves. A docstring
names the governing rule and the row where the name differs. -/
inductive Instr where
  /-- ADD (R297). -/
  | add (x : S3)
  /-- AND (R297). -/
  | and (x : S3)
  /-- ANDN (R297). -/
  | andn (x : S3)
  /-- ATOM (R298). -/
  | atom (x : SMem)
  /-- BFI (R305). -/
  | bfi (x : S3)
  /-- BFX (R305). -/
  | bfx (x : S3)
  /-- CAS (R322). -/
  | cas (x : SMem)
  /-- CHK (R326). -/
  | chk (x : SChk)
  /-- CLZ (R328). -/
  | clz (x : S2)
  /-- CMP (R329). -/
  | cmp (x : SCmp)
  /-- DIV (R336). -/
  | div (x : S3)
  /-- LD (R365). -/
  | ld (x : SMem)
  /-- LEA (R366). -/
  | lea (x : SLea)
  /-- MAX (R370). -/
  | max (x : S3)
  /-- MIN (R370). -/
  | min (x : S3)
  /-- MOVI (R376). -/
  | movi (x : SMovi)
  /-- MUL (R379). -/
  | mul (x : S3)
  /-- MULH (R379). -/
  | mulh (x : S3)
  /-- OR (R382). -/
  | or (x : S3)
  /-- PLOG (R383). -/
  | plog (x : SPlog)
  /-- POPC (R384). -/
  | popc (x : S2)
  /-- REM (R382). -/
  | rem (x : S3)
  /-- SAR (R382). -/
  | sar (x : S3)
  /-- SEL (R396). -/
  | sel (x : S3)
  /-- SHL (R382). -/
  | shl (x : S3)
  /-- SHR (R382). -/
  | shr (x : S3)
  /-- ST (R398). -/
  | st (x : SMem)
  /-- SUB (R382). -/
  | sub (x : S3)
  /-- XOR (R430). -/
  | xor (x : S3)
  /-- VABS (R411). -/
  | vabs (x : V2)
  /-- VADD (R411). -/
  | vadd (x : V3)
  /-- VBCAST (R413). -/
  | vbcast (x : VS)
  /-- VCMP (R414). -/
  | vcmp (x : VC)
  /-- VCVT (R415). -/
  | vcvt (x : VCv)
  /-- VEXP (R417). -/
  | vexp (x : V2)
  /-- VFMA (R411). -/
  | vfma (x : V3)
  /-- VLD (R419). -/
  | vld (x : VMem)
  /-- VLD_STREAM (R420). -/
  | vldStream (x : VStr)
  /-- VLDX (R422). -/
  | vldx (x : VX)
  /-- VLOG (R417). -/
  | vlog (x : V2)
  /-- VMAX (R411). -/
  | vmax (x : V3)
  /-- VMERGE (R423). -/
  | vmerge (x : VG)
  /-- VMIN (R411). -/
  | vmin (x : V3)
  /-- VMOV (R424). -/
  | vmov (x : V2)
  /-- VMUL (R411). -/
  | vmul (x : V3)
  /-- VPERM (R424). -/
  | vperm (x : V3)
  /-- VRCP (R417). -/
  | vrcp (x : V2)
  /-- VRED (R425). -/
  | vred (x : VR)
  /-- VRSQ (R417). -/
  | vrsq (x : V2)
  /-- VSCAN (R426). -/
  | vscan (x : VR)
  /-- VSEL (R424). -/
  | vsel (x : V3)
  /-- VSHF (R424). -/
  | vshf (x : V3)
  /-- VST (R419). -/
  | vst (x : VMem)
  /-- VST_STREAM (R420). -/
  | vstStream (x : VStr)
  /-- VSTX (R422). -/
  | vstx (x : VX)
  /-- VSUB (R411). -/
  | vsub (x : V3)
  /-- VTOPK (R427). -/
  | vtopk (x : VK)
  /-- BKLEND (R307). -/
  | bklend (x : MBank)
  /-- BKLEND_RET (R307). -/
  | bklendRet (x : MBank)
  /-- HSTRD (R344). -/
  | hstrd (x : GReg)
  /-- MCALL (R371). -/
  | mcall (x : MCallF)
  /-- MCOMP (R373). -/
  | mcomp (x : MCompF)
  /-- MLOAD (R374). -/
  | mload (x : MLoadF)
  /-- MSWAP (R377). -/
  | mswap (x : Guard)
  /-- MSYNC (R378). -/
  | msync (x : Guard)
  /-- SCLD (R394). -/
  | scld (x : ScldF)
  /-- TDSET (R401). -/
  | tdset (x : TdsetF)
  /-- CBADV_PROD (R323). -/
  | cbadvProd (x : CbAdvF)
  /-- CBADV_CONS (R323). -/
  | cbadvCons (x : CbAdvF)
  /-- CBWAIT (R325). -/
  | cbwait (x : CbWaitF)
  /-- KAQ (R349). -/
  | kaq (x : KaqF)
  /-- KBAR (R351). -/
  | kbar (x : KBarF)
  /-- KBIND (R353). -/
  | kbind (x : KBindF)
  /-- KCOPY (R356). -/
  | kcopy (x : Cmd)
  /-- KDQ (R358). -/
  | kdq (x : KdqF)
  /-- KPEER (R360). -/
  | kpeer (x : Cmd)
  /-- TLSET (R403). -/
  | tlset (x : TlSetF)
  /-- BCOPY (R230). -/
  | bcopy (x : Cmd)
  /-- BCOPY_VERIFY (R230). -/
  | bcopyVerify (x : Cmd)
  /-- BDROP (R303). -/
  | bdrop (x : Cmd)
  /-- BHOLD_LIST (R227). -/
  | bholdList (x : Cmd)
  /-- BHOLD_ROOT (R227). -/
  | bholdRoot (x : Cmd)
  /-- BLOOK_LEAF (R226). -/
  | blookLeaf (x : Cmd)
  /-- BLOOK_INTERIOR (R226). -/
  | blookInterior (x : Cmd)
  /-- BREAD (R229). -/
  | bread (x : Cmd)
  /-- BREAD_VERIFY (R229). -/
  | breadVerify (x : Cmd)
  /-- BSWAP (R231). -/
  | bswap (x : Cmd)
  /-- BWALK_LEAF (R228). -/
  | bwalkLeaf (x : Cmd)
  /-- BWALK_ELEMENT (R228). -/
  | bwalkElement (x : Cmd)
  /-- CUPD_SGD (R173). -/
  | cupdSgd (x : Cmd)
  /-- CUPD_ADAGRAD (R173). -/
  | cupdAdagrad (x : Cmd)
  /-- CUPD_ROWWISE_ADAGRAD (R173). -/
  | cupdRowwiseAdagrad (x : Cmd)
  /-- CUPD_ADAM (R173). -/
  | cupdAdam (x : Cmd)
  /-- FBKT_MOD (R177). -/
  | fbktMod (x : Cmd)
  /-- FBKT_RANGE (R177). -/
  | fbktRange (x : Cmd)
  /-- FBKT_HASH (R177). -/
  | fbktHash (x : Cmd)
  /-- FRED_ALL (R190). -/
  | fredAll (x : Cmd)
  /-- FRED_ROOT (R190). -/
  | fredRoot (x : Cmd)
  /-- FXCH (R182). -/
  | fxch (x : Cmd)
  /-- FXCH_PAYLOAD (R182). -/
  | fxchPayload (x : Cmd)
  /-- HRCTL_SET_GROUP (R162). -/
  | hrctlSetGroup (x : Cmd)
  /-- HRCTL_INVALIDATE_TABLE (R162). -/
  | hrctlInvalidateTable (x : Cmd)
  /-- HRCTL_WRITE_BACK (R162). -/
  | hrctlWriteBack (x : Cmd)
  /-- HRCTL_CLEAR_SKETCH (R162). -/
  | hrctlClearSketch (x : Cmd)
  /-- L2OP_UPDATE (R362). -/
  | l2opUpdate (x : Cmd)
  /-- L2OP_GATHER (R362). -/
  | l2opGather (x : Cmd)
  /-- QGATH (R154). -/
  | qgath (x : Cmd)
  /-- QPOOL_SPLIT (R153). -/
  | qpoolSplit (x : Cmd)
  /-- QPOOL_ORDERED (R153). -/
  | qpoolOrdered (x : Cmd)
  /-- SKRD (R161). -/
  | skrd (x : Cmd)
  /-- WPIN (R165). -/
  | wpin (x : Cmd)
  /-- WPIN_LOAD (R165). -/
  | wpinLoad (x : Cmd)
  /-- WUNPIN (R166). -/
  | wunpin (x : Cmd)
  /-- BR (R311). -/
  | br (x : BrF)
  /-- JMP (R348). -/
  | jmp (x : JmpF)
  /-- JMP_REG (R348). -/
  | jmpReg (x : GReg)
  /-- CALL (R321). -/
  | call (x : JmpF)
  /-- CALL_REG (R321). -/
  | callReg (x : GReg)
  /-- RET (R390). -/
  | ret (x : Guard)
  /-- BSEL (R315). -/
  | bsel (x : GReg2)
  /-- LOOP (R368). -/
  | loop (x : LoopF)
  /-- LCNT (R364). -/
  | lcnt (x : LcntF)
  /-- NOP (R381). -/
  | nop
  /-- TEND (R402). -/
  | tend (x : Guard)
  /-- CABORT (R320). -/
  | cabort (x : Imm16F)
  /-- YIELD (R431). -/
  | yield (x : Guard)
  /-- BRKPT (R313). -/
  | brkpt (x : Imm16F)
  /-- IFENCE (R347). -/
  | ifence (x : Guard)
  /-- IBANK (R345). -/
  | ibank (x : GReg)
  /-- ACQ (R295). -/
  | acq (x : SyncF)
  /-- REL (R389). -/
  | rel (x : SyncF)
  /-- FENCE (R340). -/
  | fence (x : FenceF)
  /-- MON (R375). -/
  | mon (x : GReg)
  /-- MWAIT (R380). -/
  | mwait (x : GReg)
  /-- DBAR (R335). -/
  | dbar (x : DbarF)
  /-- ROPEN (R392). -/
  | ropen (x : GReg2)
  /-- RKEEP (R391). -/
  | rkeep (x : RkeepF)
  /-- RCLOSE (R388). -/
  | rclose (x : Guard)
  /-- EINJ (R337). -/
  | einj (x : EinjF)
  /-- STEST (R284). -/
  | stest (x : Guard)
  /-- TRAP (R404). -/
  | trap (x : Imm16F)
  /-- TRET (R405). -/
  | tret (x : Guard)
  /-- LAUNCH (R363). -/
  | launch (x : LaunchF)
  /-- CRD (R331). -/
  | crd (x : CtlF)
  /-- CWR (R333). -/
  | cwr (x : CtlF)
  /-- XINV_PAGE (R429). -/
  | xinvPage (x : GReg)
  /-- XINV_ALL (R429). -/
  | xinvAll (x : GReg)
  /-- END (R140): Ends the matrix routine. -/
  | mxEnd
  /-- MNOP (R140): Matrix micro-operation with no effect. -/
  | mxNop
  /-- ZACC (R140): Clears accumulator rows to +0. -/
  | zacc (xc : BitVec 4) (n : BitVec 6)
  /-- LDACC (R140): Loads accumulator rows from an operand. -/
  | ldacc (xc xa : BitVec 4) (n : BitVec 6)
  /-- LDW (R140): Loads a dense weight block into the load bank. -/
  | ldw (xw : BitVec 4)
  /-- LDW_SPARSE (R145): Loads a compressed sparse weight block into the load bank. -/
  | ldwSparse (xw : BitVec 4) (nm : BitVec 2)
  /-- SWAP (R129): Swaps the active and load weight banks in routine order. -/
  | mxSwap
  /-- STRM (R140): Streams left-operand rows through the active bank into accumulators. -/
  | strm (xa xc : BitVec 4) (n : BitVec 6)
  /-- DRAIN (R146): Drains accumulator rows with scale and rounding into a destination. -/
  | drain (xc xd : BitVec 4) (n : BitVec 6)
  /-- SETS (R140): Sets the routine's drain scale. -/
  | sets (xs : BitVec 4)
  /-- SETR (R140): Sets the routine's rounding mode, saturate and seed. -/
  | setr (mode : BitVec 3) (sat : Bool) (xr : BitVec 4)
  /-- SETX (R140): Sets a routine register to an immediate. -/
  | setx (xd : BitVec 4) (imm : BitVec 55)
  /-- MOVX (R140): Copies one routine register to another. -/
  | movx (xd xa : BitVec 4)
  /-- ADDX (R140): Adds an immediate to a routine register field. -/
  | addx (xd : BitVec 4) (fld : BitVec 2) (imm : BitVec 32)
  /-- LOOPX (R140): Decrements a routine register and loops to a target while nonzero. -/
  | loopx (xc : BitVec 4) (target : BitVec 6)
  /-- RESULT_LAND (R44): An in-flight result is written to its destination in its landing cycle. -/
  | resultLand
  /-- LOAD_RETURN (R365): A scoreboarded load, ATOM or CAS returns its value and releases the scoreboard. -/
  | loadReturn (k : Nat)
  /-- ENGINE_FAULT_REPORT (R265): An engine stopped on a translation fault reports it and the core traps at its next boundary. -/
  | engineFaultReport
  /-- IMPRECISE_FAULT (R266): A fatal fault reaches the task, stopping its cores and cancelling its commands. -/
  | impreciseFault
  /-- ROLLBACK (R271): A caught error rolls back the innermost recovery region at the next boundary. -/
  | rollback
  /-- RELEASE_PERFORM (R203): A pending release is performed at the object's home once prior writes are performed. -/
  | releasePerform (k : Nat)
  /-- GATHER_ROW_ARRIVAL (R57): A fetched row enters its data queue, freeing its address entry. -/
  | gatherRowArrival (q : Bool)
  /-- KPEER_ARRIVAL (R54): A peer copy lands in a ring slot, making the tile ready and advancing prod and kbar. -/
  | kpeerArrival (id : Nat)
  /-- STREAM_FILL (R56): A copy unit places a read-stream element into its FIFO. -/
  | streamFill (w : BitVec 3)
  /-- STREAM_DRAIN (R56): A copy unit writes a pushed write-stream element to its target. -/
  | streamDrain (w : BitVec 3)
  /-- COMMAND_COMPLETE (R206): An engine command completes, readies its tiles and signals its completion object. -/
  | commandComplete (id : Nat)
  /-- MATRIX_CALL_COMPLETE (R136): A call-queue item completes and updates its primary tile. -/
  | matrixCallComplete
  /-- BANK_DRAINED (R129): The last tagged row leaves the array and a draining bank becomes idle. -/
  | bankDrained
  /-- DESCRIPTOR_RELOAD (R334): A reload item replaces the descriptor copy from memory in queue order. -/
  | descriptorReload
  /-- PROMOTION_COMPLETE (R158): A promoted row's copy completes and its way becomes valid, or is abandoned. -/
  | promotionComplete (k : Nat)
  /-- RECLAIM_DECREMENT (R223): The reclaim walker performs a queued count decrement. -/
  | reclaimDecrement (quay : Nat)
  /-- LINE_FREE (R224): A dying line's frame and entry are freed once earlier users have finished. -/
  | lineFree (region : Nat) (mark : BitVec 128)
  /-- WINDOW_FADE_TICK (R167): At each 1 ms tick a pinned window's fade counter is reloaded or decremented. -/
  | windowFadeTick
  /-- MEMORY_REQUEST_SERVE (R248): A controller serves a request and updates its class accumulators. -/
  | memoryRequestServe (ctrl : Nat) (pending : List (Requester × Nat))
  /-- QUEUE_DOORBELL (R237): A producer count written to a queue doorbell makes records available. -/
  | queueDoorbell (queue : Nat) (prod : BitVec 32)
  /-- RECORD_READ (R238): The Harbourmaster reads a ring record and consumes it when its stamp matches. -/
  | recordRead (queue : Nat)
  /-- RECORD_REREAD (R238): A record with a mismatched stamp is read again after 64 ns. -/
  | recordReread (queue : Nat)
  /-- LAUNCH_PACKET (R237): A launch-class packet delivers one record to a network queue. -/
  | launchPacket (p : LaunchPkt)
  /-- DISPATCH (R242): The Harbourmaster takes the first ready card and places or waits for it. -/
  | dispatch
  /-- CORE_PREEMPT_STOP (R277): A signalled core stops at a boundary, saves its state and acknowledges. -/
  | corePreemptStop
  /-- PREEMPTION_COMPLETE (R278): All acknowledgements arrive, completing the pre-emption and freeing the berth. -/
  | preemptionComplete (task : Nat)
  /-- CARD_EXPIRE (R243): A pooled card's deadline passes, retiring it EXPIRED when late is set. -/
  | cardExpire (k : Nat)
  /-- CORE_PART_END (R24): A core's part ends once its commands and releases are done. -/
  | corePartEnd
  /-- COMPLETION_RECORD_WRITE (R240): The Harbourmaster writes a completion record and signals cso once its event is numbered. -/
  | completionRecordWrite (k : Nat)
  /-- EVENT_CONSUMER_WRITE (R252): The host writes its consumer count, letting waiting events be written. -/
  | eventConsumerWrite (n : BitVec 64)
  /-- WAITING_BUDGET_EXHAUSTED (R249): A core's waiting budget reaches zero, pre-empting the task and writing a snapshot. -/
  | waitingBudgetExhausted
  /-- CONTAINED_REQUEUE (R275): A caught error in a contained node stops it, discards staged writes and re-queues the card. -/
  | containedRequeue
  /-- CODE_IMAGE_LOAD (R235): A non-resident code image is read, verified or translated and placed in bank 0. -/
  | codeImageLoad (task : Nat)
  /-- COUNT_MESSAGE (R183): An exchange count arrives and is written to rctile or kept. -/
  | countMessage (p : XPkt)
  /-- PAYLOAD_MESSAGE (R184): An exchange payload message arrives and its entries are placed or refused. -/
  | payloadMessage (p : XPkt)
  /-- PAYLOAD_ACK (R186): A sent message is acknowledged toward the send side's completion. -/
  | payloadAck (id : Nat)
  /-- REFUSAL_REPORT (R185): A refusal report from a receiver is kept by the sender's Ferry. -/
  | refusalReport (p : RefusalPkt)
  /-- FLUSH_MARKER (R209): A flush marker arrives on a path and is collected per epoch. -/
  | flushMarker (m : MarkerPkt)
  /-- FLUSH_ACK (R209): A receiver's acknowledgement arrives, letting the release raise seq. -/
  | flushAck (task module : Nat) (epoch : BitVec 32)
  /-- REVOCATION_NOTICE (R181): A key revocation notice fences commands naming that key. -/
  | revocationNotice (key : BitVec 32)
  /-- REMOTE_ACCESS_PACKET (R208): A remote access packet is checked against the key list and performed or dropped. -/
  | remoteAccessPacket (p : RemotePkt)
  /-- FABRIC_BARRIER_ARRIVAL (R446): A module's joined level-3 arrival reaches another module's Ferry. -/
  | fabricBarrierArrival (group : Nat) (src : PacketId) (inst : Nat)
  /-- FRED_CONTRIBUTION (R190): A FRED contribution arrives at an element's summing point. -/
  | fredContribution (p : XPkt)
  /-- PATH_FAILURE (R209): A failed path's unacknowledged packets and marker are resent on another path. -/
  | pathFailure (module : Nat) (path newPath : BitVec 4)
  /-- HOST_BAR2_READ (R292): A host read through the BAR2 aperture. -/
  | hostBar2Read (off len : Nat)
  /-- HOST_BAR2_WRITE (R212): A host write through the BAR2 aperture, a release when it targets seq. -/
  | hostBar2Write (off : Nat) (bytes : List Byte)
  /-- HOST_ATOMICOP (R211): A host PCIe AtomicOp to device memory, performed or aborted by attribute. -/
  | hostAtomicop (addr : Nat) (op : BitVec 2) (wide : Bool) (operand compare : Word)
  /-- MGMT_QUEUE_CONFIG (R236): Management message 0x01 sets a launch queue's configuration. -/
  | mgmtQueueConfig (queue : Nat) (c : QueueConfig)
  /-- MGMT_REGION_ENTRY (R217): Management message 0x02 sets a region table entry. -/
  | mgmtRegionEntry (region : Nat) (e : RegionEntry)
  /-- MGMT_BANDWIDTH_SHARES (R18): Management message 0x03 sets bandwidth class shares. -/
  | mgmtBandwidthShares (hbm lpddr : List Nat)
  /-- MGMT_POWER_CAP (R17): Management message 0x04 sets the power cap. -/
  | mgmtPowerCap (watts : Nat)
  /-- MGMT_C3_ENTRY (R290): Management message 0x04 enters C3. -/
  | mgmtC3Entry
  /-- MGMT_HOT_ROW_CACHE (R156): Management message 0x05 sets the hot-row cache size and slot. -/
  | mgmtHotRowCache (c slot : Nat)
  /-- MGMT_SNAPSHOT_RESTORE (R249): Management message 0x06 restores a snapshotted task with new budgets. -/
  | mgmtSnapshotRestore (task : Word) (budget : List Word)
  /-- MGMT_SNAPSHOT_RETIRE (R249): Management message 0x06 retires a snapshotted task HOST_RETIRED. -/
  | mgmtSnapshotRetire (task : Word)
  /-- MGMT_READ_LOGICAL_MAPS (R283): Management message 0x07 returns the logical maps. -/
  | mgmtReadLogicalMaps
  /-- MGMT_READ_SCAN_LOG (R436): Management message 0x08 returns the scan log. -/
  | mgmtReadScanLog
  /-- MGMT_READ_ERROR_COUNTS (R281): Management message 0x09 returns error counts. -/
  | mgmtReadErrorCounts
  /-- MGMT_CLEAR_ERROR_COUNTS (R281): Management message 0x09 clears error counts. -/
  | mgmtClearErrorCounts
  /-- MGMT_HOST_ATTRIBUTE_MAP (R210): Management message 0x0A writes the host attribute map. -/
  | mgmtHostAttributeMap (page : HostItem) (sa : Bool)
  /-- MGMT_EVENT_RING_SETUP (R252): Management message 0x0B sets the event ring and snapshot area. -/
  | mgmtEventRingSetup (base k snapBase slots : Nat)
  /-- MGMT_DEBUG_TOKEN (R289): Management message 0x0C presents a debug token. -/
  | mgmtDebugToken (t : DebugToken)
  /-- MGMT_STAGE_FIRMWARE (R287): Management message 0x0D stages a firmware update. -/
  | mgmtStageFirmware (f : FirmwareImage)
  /-- MGMT_ENLARGE_OVERFLOW (R185): Management message 0x0E enlarges an exchange's overflow so held messages proceed. -/
  | mgmtEnlargeOverflow (core : Nat) (tag : BitVec 32) (ovbytes : Nat)
  /-- MGMT_UNKNOWN (R293): An unlisted management code is answered with an error. -/
  | mgmtUnknown (code : Nat)
  /-- GET_VERSION (R288): SPDM GET_VERSION request answered by the responder. -/
  | getVersion
  /-- GET_CAPABILITIES (R288): SPDM GET_CAPABILITIES request answered by the responder. -/
  | getCapabilities
  /-- NEGOTIATE_ALGORITHMS (R288): SPDM NEGOTIATE_ALGORITHMS request answered by the responder. -/
  | negotiateAlgorithms (rsaPss4096Sha512 : Bool)
  /-- GET_DIGESTS (R288): SPDM GET_DIGESTS request answered by the responder. -/
  | getDigests
  /-- GET_CERTIFICATE (R288): SPDM GET_CERTIFICATE request answered from slot 0. -/
  | getCertificate (r : SpdmReq)
  /-- CHALLENGE (R288): SPDM CHALLENGE request answered unless in vendor-return. -/
  | challenge (r : SpdmReq)
  /-- GET_MEASUREMENTS (R288): SPDM GET_MEASUREMENTS request answered with indexed measurements. -/
  | getMeasurements (r : SpdmReq)
  /-- LANE_REPAIR (R285): A lane whose error count exceeds the threshold is switched to the spare. -/
  | laneRepair (link lane : Nat) (retrainOk : Bool)
  /-- HEARTBEAT (R286): The pilot core sends a heartbeat to each Quay every 20 µs. -/
  | heartbeat
  /-- QUAY_REFRESH_TAKEOVER (R286): A Quay without heartbeat for 250 µs switches to autonomous refresh. -/
  | quayRefreshTakeover (quay : Nat)
  /-- REFRESH_HANDBACK (R286): Refresh returns to the pilot core at a refresh boundary on request. -/
  | refreshHandback (quay : Nat)
  /-- P1_ENTRY (R17): Draw over a 1 ms window above the cap enters P1. -/
  | p1Entry (draw : Nat)
  /-- P1_EXIT (R17): Draw falling below the cap leaves P1. -/
  | p1Exit (draw : Nat)
  /-- STEST_PATTERN_END (R284): The scan pattern ends, its signature is judged and the core resumes or retires. -/
  | stestPatternEnd (pass : Bool)
  /-- STEST_DRAIN_TIMEOUT (R284): A STEST drain exceeding 1 ms abandons the test. -/
  | stestDrainTimeout
  /-- DEBUG_STEP (R291): The debugger steps one bundle of a halted core. -/
  | debugStep (engineSync : Option Nat)
  /-- DEBUG_STEP_TIMEOUT (R291): An engine-sync step reaches its timeout with the command running. -/
  | debugStepTimeout
  /-- MODULE_RESET (R287): Module reset verifies firmware and enters production with debug off. -/
  | moduleReset
  /-- D3COLD (R290): Host D3cold loses all state except fuses and logical maps. -/
  | d3cold
  /-- POOL_CLEAR_DONE (R66): The module finishes clearing a core's SRAM pool after its part ended or was saved, and the core counts as free. -/
  | poolClearDone
  /-- WRITE_BACK_ARRIVAL (R158): A dirty way's write-back reaches its home Quay, releasing cold reads of that row that wait there. -/
  | writeBackArrival (k : Nat)
  /-- FLIT_REPLAY (R281): A flit arrives with a CRC error on a die-to-die link and is replayed, and its lane's error count rises. -/
  | flitReplay (link lane : Nat)
  /-- DEBUG_RESUME (R291): The debugger resumes a halted core, and a fault held from a stepped command is taken. -/
  | debugResume
  /-- CORE_SPARE_SWAP (R283): A failed core not in any berth is replaced by a spare physical core, or retired if none is left. -/
  | coreSpareSwap (c : Nat)
  /-- SLICE_REHOME (R194): The pilot core copies a failing L2 slice's lines to a spare, or rehomes them on retirement, while every context is pre-empted. -/
  | sliceRehome (slice : Nat)
  /-- HBM_CHANNEL_SPARE (R283): A failing HBM channel is replaced at once by its stack's spare channel, which the controller copies while serving accesses. -/
  | hbmChannelSpare (stack channel : Nat)
  /-- LPDDR_ROW_REMAP (R283): A failing LPDDR row is served from the Quay's remap SRAM until post-package repair at the next reset. -/
  | lpddrRowRemap (quay row : Nat)
  deriving DecidableEq, Repr

end Sys2Proof
end

