-- ==== Sys2Proof/WellFormed.lean ====
section
/-! DEFINITION. Which instructions are well formed: the field values that R72 to R82, R140 and the reference entries do
not mark illegal. Everything else an encoding says is in the types of Sys2Proof/Syntax.lean. -/

namespace Sys2Proof

/-- R99, R411, R425: the arithmetic formats, codes 0 to 9. -/
def fmtArith (f : BitVec 5) : Bool := f.toNat ≤ 9

/-- R417: the IEEE formats, codes 0 to 3. -/
def fmtFloat (f : BitVec 5) : Bool := f.toNat ≤ 3

/-- R144: the formats MCOMP accepts, codes 2, 3 and 11 to 31. -/
def fmtMcomp (f : BitVec 5) : Bool := f.toNat == 2 || f.toNat == 3 || f.toNat ≥ 11

/-- R80, R82: scopes 0 to 4. -/
def scopeOk (s : BitVec 3) : Bool := s.toNat ≤ 4

/-- An even register number (R77, R78, R81). -/
def even {w : Nat} (r : BitVec w) : Bool := r.toNat % 2 == 0

/-- R77: an SA slot names an even d and a size of b32 or b64. -/
def saOk (x : SMem) : Bool := even x.d && x.size.toNat ≥ 2

/-- R78: VRED and VSCAN operations 0 to 2. -/
def vrOk (x : VR) : Bool := x.op.toNat ≤ 2 && fmtArith x.fmt

/-- The check on a whole instruction. Events carry values that arrive from outside and are always well formed. -/
def wellFormed : Instr → Bool
  | .atom x => saOk x
  | .cas x => saOk x
  | .chk x => x.pair.toNat ≤ 1
  | .cmp x => x.cc.toNat ≤ 6
  | .vabs x => fmtArith x.fmt
  | .vadd x => fmtArith x.fmt
  | .vfma x => fmtArith x.fmt
  | .vmax x => fmtArith x.fmt
  | .vmin x => fmtArith x.fmt
  | .vmul x => fmtArith x.fmt
  | .vsub x => fmtArith x.fmt
  | .vexp x => fmtFloat x.fmt
  | .vlog x => fmtFloat x.fmt
  | .vrcp x => fmtFloat x.fmt
  | .vrsq x => fmtFloat x.fmt
  | .vred x => vrOk x
  | .vscan x => vrOk x
  | .vtopk x => even x.d && x.fmt.toNat ≤ 3
  | .vmerge x => even x.d && even x.a && even x.b
  | .mcall x => x.flags.toNat % 4 != 3
  | .mcomp x => x.nm.toNat ≤ 2 && fmtMcomp x.fmt
  | .mload x => x.routine.toNat ≥ 64
  | .cbwait x => x.count.toNat ≤ 64
  | .kaq x => even x.b && (x.nb || x.qn == 0)
  | .kbar x => x.cls != 0
  | .kdq x => x.d.toNat + x.cnt.toNat ≤ 31
  | .kcopy x | .kpeer x | .bcopy x | .bcopyVerify x | .bdrop x | .bholdList x | .bholdRoot x
  | .blookLeaf x | .blookInterior x | .bread x | .breadVerify x | .bswap x | .bwalkLeaf x | .bwalkElement x
  | .cupdSgd x | .cupdAdagrad x | .cupdRowwiseAdagrad x | .cupdAdam x
  | .fbktMod x | .fbktRange x | .fbktHash x | .fredAll x | .fredRoot x | .fxch x | .fxchPayload x
  | .hrctlSetGroup x | .hrctlInvalidateTable x | .hrctlWriteBack x | .hrctlClearSketch x
  | .l2opUpdate x | .l2opGather x | .qgath x | .qpoolSplit x | .qpoolOrdered x | .skrd x
  | .wpin x | .wpinLoad x | .wunpin x => scopeOk x.scope
  | .acq x => scopeOk x.scope
  | .rel x => scopeOk x.scope
  | .fence x => scopeOk x.scope
  | .lcnt x => x.lo.toNat ≤ 5
  | .einj x => x.kind.toNat ≤ 3
  | .ldwSparse _ nm => nm.toNat ≤ 2
  | .setr mode _ _ => mode.toNat ≤ 5
  | .addx _ fld _ => fld.toNat ≤ 2
  | _ => true

/-- What LEND's 23 lent bits must satisfy for its target, beyond the target being one that R72 lists: a legal rounding
code, a zero random-bits field unless the mode is SR, and the zero bits of the V and control forms. -/
def lendOkV (ext : BitVec 23) : Bool :=
  let mode := (ext.extractLsb' 20 3).toNat
  mode ≤ 5 && ext.extractLsb' 0 14 == 0 && (mode == 5 || ext.extractLsb' 14 5 == 0)

/-- R72: may LEND with these bits name this target? -/
def lendOk (ext : BitVec 23) : Instr → Bool
  | .add x | .and x | .andn x | .div x | .max x | .min x | .mul x | .mulh x | .or x | .rem x | .sar x | .sel x
  | .shl x | .shr x | .sub x | .xor x | .bfi x | .bfx x => x.i
  | .cmp _ | .movi _ => true
  | .ld _ | .st _ | .atom _ | .cas _ | .lea _ => true
  | .vadd _ | .vsub _ | .vmul _ | .vfma _ | .vexp _ | .vlog _ | .vrcp _ | .vrsq _ | .vred _ | .vscan _
  | .vcvt _ => lendOkV ext
  | .crd _ | .cwr _ => ext.extractLsb' 2 21 == 0
  | _ => false

end Sys2Proof
end

