-- ==== Sys2Proof/Decode.lean ====
section
/-! DEFINITION. The decoder, total on any bytes and rejecting by name, and after it the encoder; both from the frames
of R69, the forms of R77 to R82, the opcode map of R83 and R84, and the micro-operation table of R140. -/

namespace Sys2Proof

/-- Why a word is no instruction. Each is the precise illegal-instruction trap of R84 for a slot, and ROUTINE_BAD for a
micro-operation (R374). -/
inductive DecodeError where
  /-- A major opcode R84 reserves. -/
  | reservedMajor
  /-- A header major outside slot 0 (R71), or one of the reserved headers. -/
  | headerPlacement
  /-- A sub-operation or variant not listed in R80 or R82. -/
  | reservedSubop
  /-- A nonzero field that its form marks 0 (R70). -/
  | nonzeroField
  /-- A field value its form marks illegal (R72 to R82). -/
  | illegalField
  /-- A reserved micro-operation code (R140). -/
  | reservedMicro
  /-- Too few bytes for the word. -/
  | truncated
  deriving DecidableEq, Repr

/-! ### Field helpers -/

def fld (w : SlotWord) (lo n : Nat) : BitVec n := w.extractLsb' lo n
def flag (w : SlotWord) (k : Nat) : Bool := w.getLsbD k
def putFld {n : Nat} (x : BitVec n) (lo : Nat) : SlotWord := x.setWidth 32 <<< lo
def putFlag (b : Bool) (k : Nat) : SlotWord := (BitVec.ofBool b).setWidth 32 <<< k

def getGuard (w : SlotWord) : Guard := ⟨flag w 24, fld w 20 4⟩
def putGuard (g : Guard) : SlotWord := putFlag g.neg 24 ||| putFld g.q 20
def getMask (w : SlotWord) : LaneMask := ⟨flag w 24, fld w 21 3⟩
def putMask (m : LaneMask) : SlotWord := putFlag m.neg 24 ||| putFld m.m 21

/-! ### The fields of each form (R77 to R82) -/

def getS3 (w : SlotWord) : S3 := ⟨getGuard w, flag w 19, fld w 13 6, fld w 7 6, flag w 6, fld w 0 6⟩
def getS2 (w : SlotWord) : S2 := ⟨getGuard w, flag w 19, fld w 13 6, fld w 7 6⟩
def getSCmp (w : SlotWord) : SCmp := ⟨getGuard w, flag w 19, fld w 15 4, fld w 12 3, fld w 6 6, fld w 0 6⟩
def getSPlog (w : SlotWord) : SPlog := ⟨getGuard w, flag w 19, fld w 15 4, fld w 11 4, fld w 7 4, fld w 3 4⟩
def getSMovi (w : SlotWord) : SMovi := ⟨getGuard w, flag w 19, fld w 13 6, fld w 0 13⟩
def getSMem (w : SlotWord) : SMem := ⟨getGuard w, fld w 13 6, fld w 7 6, flag w 6, fld w 4 2, fld w 0 4⟩
def getSLea (w : SlotWord) : SLea := ⟨getGuard w, flag w 19, fld w 13 6, fld w 7 6, fld w 4 2, fld w 0 4⟩
def getSChk (w : SlotWord) : SChk := ⟨getGuard w, fld w 17 2⟩
def getV3 (w : SlotWord) : V3 := ⟨getMask w, flag w 20, fld w 15 5, fld w 10 5, fld w 5 5, fld w 0 5⟩
def getV2 (w : SlotWord) : V2 := ⟨getMask w, flag w 20, fld w 15 5, fld w 10 5, fld w 0 5⟩
def getVR (w : SlotWord) : VR := ⟨getMask w, flag w 20, fld w 15 5, fld w 10 5, fld w 5 5, fld w 0 5⟩
def getVS (w : SlotWord) : VS := ⟨getMask w, flag w 20, fld w 15 5, fld w 9 6, fld w 0 5⟩
def getVC (w : SlotWord) : VC := ⟨getMask w, flag w 20, fld w 17 3, fld w 15 2, fld w 10 5, fld w 5 5, fld w 0 5⟩
def getVCv (w : SlotWord) : VCv := ⟨getMask w, flag w 20, fld w 15 5, fld w 10 5, fld w 5 5, fld w 0 5⟩
def getVMem (w : SlotWord) : VMem := ⟨getMask w, fld w 15 5, fld w 8 6, flag w 7, fld w 0 7⟩
def getVStr (w : SlotWord) : VStr := ⟨getMask w, fld w 15 5, fld w 8 3⟩
def getVX (w : SlotWord) : VX := ⟨getMask w, fld w 15 5, fld w 10 5, fld w 4 6, fld w 2 2⟩
def getVK (w : SlotWord) : VK := ⟨getMask w, flag w 20, fld w 15 5, fld w 10 5, fld w 5 5, flag w 4, fld w 0 4⟩
def getVG (w : SlotWord) : VG := ⟨flag w 20, fld w 15 5, fld w 10 5, fld w 5 5, flag w 4⟩
def getGReg (w : SlotWord) : GReg := ⟨getGuard w, fld w 10 6⟩
def getGReg2 (w : SlotWord) : GReg2 := ⟨getGuard w, fld w 10 6, fld w 4 6⟩
def getMBank (w : SlotWord) : MBank := ⟨getGuard w, fld w 17 2⟩
def getMCallF (w : SlotWord) : MCallF := ⟨getGuard w, fld w 11 8, fld w 5 6, fld w 0 4⟩
def getMCompF (w : SlotWord) : MCompF := ⟨getGuard w, fld w 13 6, fld w 7 6, fld w 5 2, fld w 0 5⟩
def getMLoadF (w : SlotWord) : MLoadF := ⟨getGuard w, fld w 11 8, fld w 5 6⟩
def getScldF (w : SlotWord) : ScldF := ⟨getGuard w, fld w 11 8, flag w 10⟩
def getTdsetF (w : SlotWord) : TdsetF := ⟨getGuard w, fld w 11 8, fld w 5 6⟩
def getCbAdvF (w : SlotWord) : CbAdvF := ⟨getGuard w, fld w 15 4, fld w 7 6⟩
def getCbWaitF (w : SlotWord) : CbWaitF := ⟨getGuard w, fld w 15 4, flag w 14, fld w 6 7⟩
def getKaqF (w : SlotWord) : KaqF := ⟨getGuard w, flag w 18, flag w 17, fld w 13 4, fld w 8 5, fld w 2 6⟩
def getKBarF (w : SlotWord) : KBarF := ⟨getGuard w, fld w 16 3⟩
def getKBindF (w : SlotWord) : KBindF := ⟨getGuard w, fld w 16 3, fld w 10 6⟩
def getCmd (w : SlotWord) : Cmd := ⟨getGuard w, flag w 18, flag w 17, fld w 14 3, fld w 8 6, fld w 2 6⟩
def getKdqF (w : SlotWord) : KdqF := ⟨getGuard w, flag w 18, fld w 13 5, fld w 10 3⟩
def getTlSetF (w : SlotWord) : TlSetF := ⟨getGuard w, fld w 13 6, fld w 7 6, flag w 6⟩
def getBrF (w : SlotWord) : BrF := ⟨getGuard w, fld w 0 19⟩
def getJmpF (w : SlotWord) : JmpF := ⟨getGuard w, fld w 0 15⟩
def getLoopF (w : SlotWord) : LoopF := ⟨getGuard w, fld w 10 6, fld w 0 10⟩
def getLcntF (w : SlotWord) : LcntF := ⟨getGuard w, fld w 10 6, fld w 4 6, fld w 1 3⟩
def getImm16F (w : SlotWord) : Imm16F := ⟨getGuard w, fld w 0 16⟩
def getSyncF (w : SlotWord) : SyncF := ⟨getGuard w, fld w 10 6, fld w 7 3⟩
def getFenceF (w : SlotWord) : FenceF := ⟨getGuard w, fld w 7 3⟩
def getDbarF (w : SlotWord) : DbarF := ⟨getGuard w, fld w 14 2⟩
def getRkeepF (w : SlotWord) : RkeepF := ⟨getGuard w, fld w 10 6, fld w 6 4⟩
def getEinjF (w : SlotWord) : EinjF := ⟨getGuard w, fld w 12 4, fld w 6 6⟩
def getLaunchF (w : SlotWord) : LaunchF := ⟨getGuard w, fld w 10 6, fld w 4 6⟩
def getCtlF (w : SlotWord) : CtlF := ⟨getGuard w, fld w 10 6, fld w 0 10⟩
/-- One register at another place: [14:9] in JMP and CALL (R82), [18:13] in HSTRD (R79). -/
def getGRegAt (w : SlotWord) (lo : Nat) : GReg := ⟨getGuard w, fld w lo 6⟩

/-! ### Slots -/

/-- The zero fields of a form: the bits of `mask` must equal `value`. -/
def need (w mask value : SlotWord) (i : Instr) : Except DecodeError Instr :=
  if w &&& mask = value then .ok i else .error .nonzeroField

/-- The rows of one major that its sub-operation, variant or k bit tells apart. -/
def firstRow (w : SlotWord) : List (SlotWord × SlotWord × Instr) → Except DecodeError Instr
  | [] => .error .reservedSubop
  | (mask, value, i) :: rest => if w &&& mask = value then .ok i else firstRow w rest

/-- The row a slot word names and its fields (R69, R83), before the checks on field values. -/
def rawDecode (w : SlotWord) : Except DecodeError Instr :=
  match (w.extractLsb' 25 7).toNat with
  | 0x00 => .ok (.add (getS3 w))
  | 0x01 => .ok (.and (getS3 w))
  | 0x02 => .ok (.andn (getS3 w))
  | 0x03 => need w 0x0080000 0 (.atom (getSMem w))
  | 0x04 => .ok (.bfi (getS3 w))
  | 0x05 => .ok (.bfx (getS3 w))
  | 0x06 => need w 0x0080000 0 (.cas (getSMem w))
  | 0x07 => need w 0x009FFFF 0 (.chk (getSChk w))
  | 0x08 => need w 0x000007F 0 (.clz (getS2 w))
  | 0x09 => .ok (.cmp (getSCmp w))
  | 0x0A => .ok (.div (getS3 w))
  | 0x0B => need w 0x0080000 0 (.ld (getSMem w))
  | 0x0C => need w 0x0000040 0 (.lea (getSLea w))
  | 0x0D => .ok (.max (getS3 w))
  | 0x0E => .ok (.min (getS3 w))
  | 0x0F => .ok (.movi (getSMovi w))
  | 0x10 => .ok (.mul (getS3 w))
  | 0x11 => .ok (.mulh (getS3 w))
  | 0x12 => .ok (.or (getS3 w))
  | 0x13 => need w 0x0000007 0 (.plog (getSPlog w))
  | 0x14 => need w 0x000007F 0 (.popc (getS2 w))
  | 0x15 => .ok (.rem (getS3 w))
  | 0x16 => .ok (.sar (getS3 w))
  | 0x17 => .ok (.sel (getS3 w))
  | 0x18 => .ok (.shl (getS3 w))
  | 0x19 => .ok (.shr (getS3 w))
  | 0x1A => need w 0x0080000 0 (.st (getSMem w))
  | 0x1B => .ok (.sub (getS3 w))
  | 0x1C => .ok (.xor (getS3 w))
  | 0x20 => need w 0x00003E0 0 (.vabs (getV2 w))
  | 0x21 => .ok (.vadd (getV3 w))
  | 0x22 => need w 0x00001E0 0 (.vbcast (getVS w))
  | 0x23 => .ok (.vcmp (getVC w))
  | 0x24 => .ok (.vcvt (getVCv w))
  | 0x25 => need w 0x00003E0 0 (.vexp (getV2 w))
  | 0x26 => .ok (.vfma (getV3 w))
  | 0x27 => firstRow w [(0x0104000, 0x0000000, .vld (getVMem w)),
      (0x01078FF, 0x0004000, .vldStream (getVStr w))]
  | 0x28 => need w 0x0100003 0 (.vldx (getVX w))
  | 0x29 => need w 0x00003E0 0 (.vlog (getV2 w))
  | 0x2A => .ok (.vmax (getV3 w))
  | 0x2B => need w 0x1E0000F 0 (.vmerge (getVG w))
  | 0x2C => .ok (.vmin (getV3 w))
  | 0x2D => need w 0x00003E0 0 (.vmov (getV2 w))
  | 0x2E => .ok (.vmul (getV3 w))
  | 0x2F => .ok (.vperm (getV3 w))
  | 0x30 => need w 0x00003E0 0 (.vrcp (getV2 w))
  | 0x31 => .ok (.vred (getVR w))
  | 0x32 => need w 0x00003E0 0 (.vrsq (getV2 w))
  | 0x33 => .ok (.vscan (getVR w))
  | 0x34 => .ok (.vsel (getV3 w))
  | 0x35 => .ok (.vshf (getV3 w))
  | 0x36 => firstRow w [(0x0104000, 0x0000000, .vst (getVMem w)),
      (0x01078FF, 0x0004000, .vstStream (getVStr w))]
  | 0x37 => need w 0x0100003 0 (.vstx (getVX w))
  | 0x38 => .ok (.vsub (getV3 w))
  | 0x39 => .ok (.vtopk (getVK w))
  | 0x40 => firstRow w [(0x009FFFF, 0x0000000, .bklend (getMBank w)),
      (0x009FFFF, 0x0010000, .bklendRet (getMBank w))]
  | 0x41 => need w 0x0081FFF 0 (.hstrd (getGRegAt w 13))
  | 0x42 => need w 0x0080010 0 (.mcall (getMCallF w))
  | 0x43 => need w 0x0080000 0 (.mcomp (getMCompF w))
  | 0x44 => need w 0x008001F 0 (.mload (getMLoadF w))
  | 0x45 => need w 0x00FFFFF 0 (.mswap (getGuard w))
  | 0x46 => need w 0x00FFFFF 0 (.msync (getGuard w))
  | 0x47 => need w 0x00803FF 0 (.scld (getScldF w))
  | 0x48 => need w 0x008001F 0 (.tdset (getTdsetF w))
  | 0x4C => firstRow w [(0x008607F, 0x0000000, .cbadvProd (getCbAdvF w)),
      (0x008607F, 0x0004000, .cbadvCons (getCbAdvF w))]
  | 0x4D => need w 0x008203F 0 (.cbwait (getCbWaitF w))
  | 0x4E => need w 0x0080003 0 (.kaq (getKaqF w))
  | 0x4F => need w 0x008FFFF 0 (.kbar (getKBarF w))
  | 0x50 => need w 0x00803FF 0 (.kbind (getKBindF w))
  | 0x51 => need w 0x0080003 0 (.kcopy (getCmd w))
  | 0x52 => need w 0x00803FF 0 (.kdq (getKdqF w))
  | 0x53 => need w 0x0080003 0 (.kpeer (getCmd w))
  | 0x54 => need w 0x008003F 0 (.tlset (getTlSetF w))
  | 0x58 => firstRow w [(0x0080003, 0x0000000, .bcopy (getCmd w)),
      (0x0080003, 0x0000001, .bcopyVerify (getCmd w))]
  | 0x59 => need w 0x0080003 0 (.bdrop (getCmd w))
  | 0x5A => firstRow w [(0x0080003, 0x0000000, .bholdList (getCmd w)),
      (0x0080003, 0x0000001, .bholdRoot (getCmd w))]
  | 0x5B => firstRow w [(0x0080003, 0x0000000, .blookLeaf (getCmd w)),
      (0x0080003, 0x0000001, .blookInterior (getCmd w))]
  | 0x5C => firstRow w [(0x0080003, 0x0000000, .bread (getCmd w)),
      (0x0080003, 0x0000001, .breadVerify (getCmd w))]
  | 0x5D => need w 0x0080003 0 (.bswap (getCmd w))
  | 0x5E => firstRow w [(0x0080003, 0x0000000, .bwalkLeaf (getCmd w)),
      (0x0080003, 0x0000001, .bwalkElement (getCmd w))]
  | 0x5F => firstRow w [(0x0080003, 0x0000000, .cupdSgd (getCmd w)),
      (0x0080003, 0x0000001, .cupdAdagrad (getCmd w)),
      (0x0080003, 0x0000002, .cupdRowwiseAdagrad (getCmd w)),
      (0x0080003, 0x0000003, .cupdAdam (getCmd w))]
  | 0x60 => firstRow w [(0x0080003, 0x0000000, .fbktMod (getCmd w)),
      (0x0080003, 0x0000001, .fbktRange (getCmd w)),
      (0x0080003, 0x0000002, .fbktHash (getCmd w))]
  | 0x61 => firstRow w [(0x0080003, 0x0000000, .fredAll (getCmd w)),
      (0x0080003, 0x0000001, .fredRoot (getCmd w))]
  | 0x62 => firstRow w [(0x0080003, 0x0000000, .fxch (getCmd w)),
      (0x0080003, 0x0000001, .fxchPayload (getCmd w))]
  | 0x63 => firstRow w [(0x0080003, 0x0000000, .hrctlSetGroup (getCmd w)),
      (0x0080003, 0x0000001, .hrctlInvalidateTable (getCmd w)),
      (0x0080003, 0x0000002, .hrctlWriteBack (getCmd w)),
      (0x0080003, 0x0000003, .hrctlClearSketch (getCmd w))]
  | 0x64 => firstRow w [(0x0080003, 0x0000000, .l2opUpdate (getCmd w)),
      (0x0080003, 0x0000001, .l2opGather (getCmd w))]
  | 0x65 => need w 0x0080003 0 (.qgath (getCmd w))
  | 0x66 => firstRow w [(0x0080003, 0x0000000, .qpoolSplit (getCmd w)),
      (0x0080003, 0x0000001, .qpoolOrdered (getCmd w))]
  | 0x67 => need w 0x0080003 0 (.skrd (getCmd w))
  | 0x68 => firstRow w [(0x0080003, 0x0000000, .wpin (getCmd w)),
      (0x0080003, 0x0000001, .wpinLoad (getCmd w))]
  | 0x69 => need w 0x0080003 0 (.wunpin (getCmd w))
  | 0x6C => need w 0x0080000 0 (.br (getBrF w))
  | 0x6D => firstRow w [(0x00F8000, 0x0000000, .jmp (getJmpF w)),
      (0x00F81FF, 0x0008000, .jmpReg (getGRegAt w 9)),
      (0x00F8000, 0x0010000, .call (getJmpF w)),
      (0x00F81FF, 0x0018000, .callReg (getGRegAt w 9)),
      (0x00FFFFF, 0x0020000, .ret (getGuard w))]
  | 0x6E => firstRow w [(0x00F000F, 0x0000000, .bsel (getGReg2 w))]
  | 0x6F => firstRow w [(0x00F0000, 0x0000000, .loop (getLoopF w)),
      (0x00F0001, 0x0010000, .lcnt (getLcntF w))]
  | 0x70 => firstRow w [(0x1FFFFFF, 0x0000000, .nop),
      (0x00FFFFF, 0x0010000, .tend (getGuard w)),
      (0x00F0000, 0x0020000, .cabort (getImm16F w)),
      (0x00FFFFF, 0x0030000, .yield (getGuard w)),
      (0x00F0000, 0x0040000, .brkpt (getImm16F w))]
  | 0x71 => firstRow w [(0x00FFFFF, 0x0000000, .ifence (getGuard w)),
      (0x00F03FF, 0x0010000, .ibank (getGReg w))]
  | 0x72 => firstRow w [(0x00F007F, 0x0000000, .acq (getSyncF w)),
      (0x00F007F, 0x0010000, .rel (getSyncF w)),
      (0x00FFC7F, 0x0020000, .fence (getFenceF w))]
  | 0x73 => firstRow w [(0x00F03FF, 0x0000000, .mon (getGReg w)),
      (0x00F03FF, 0x0010000, .mwait (getGReg w)),
      (0x00F3FFF, 0x0020000, .dbar (getDbarF w))]
  | 0x74 => firstRow w [(0x00F000F, 0x0000000, .ropen (getGReg2 w)),
      (0x00F003F, 0x0010000, .rkeep (getRkeepF w)),
      (0x00FFFFF, 0x0020000, .rclose (getGuard w))]
  | 0x75 => firstRow w [(0x00F003F, 0x0000000, .einj (getEinjF w)),
      (0x00FFFFF, 0x0010000, .stest (getGuard w))]
  | 0x76 => firstRow w [(0x00F0000, 0x0000000, .trap (getImm16F w)),
      (0x00FFFFF, 0x0010000, .tret (getGuard w)),
      (0x00F000F, 0x0020000, .launch (getLaunchF w))]
  | 0x77 => firstRow w [(0x00F0000, 0x0000000, .crd (getCtlF w)),
      (0x00F0000, 0x0010000, .cwr (getCtlF w)),
      (0x00F03FF, 0x0020000, .xinvPage (getGReg w)),
      (0x00F03FF, 0x0020100, .xinvAll (getGReg w))]
  | 0x78 => .error .headerPlacement
  | 0x79 => .error .headerPlacement
  | 0x7A => .error .headerPlacement
  | 0x7B => .error .headerPlacement
  | 0x7C => .error .headerPlacement
  | 0x7D => .error .headerPlacement
  | 0x7E => .error .headerPlacement
  | 0x7F => .error .headerPlacement
  | _ => .error .reservedMajor

/-- Refuse an instruction with an illegal field value. -/
def checked : Except DecodeError Instr → Except DecodeError Instr
  | .ok i => if wellFormed i then .ok i else .error .illegalField
  | .error e => .error e

/-- Decode one 32-bit slot (R69 to R84). -/
def decodeSlot (w : SlotWord) : Except DecodeError Instr := checked (rawDecode w)

/-! ### Micro-operations (R140) -/

def fldM (w : BitVec 64) (lo n : Nat) : BitVec n := w.extractLsb' lo n

def needM (w mask : BitVec 64) (i : Instr) : Except DecodeError Instr :=
  if w &&& mask = 0 then .ok i else .error .nonzeroField

/-- The operand fields of each micro-operation, with the bits that must be zero (R140). -/
def rawMicro (w : BitVec 64) : Except DecodeError Instr :=
  match (w.extractLsb' 59 5).toNat with
  | 0x00 => needM w 0x07FFFFFFFFFFFFFF .mxEnd
  | 0x01 => needM w 0x07FFFFFFFFFFFFFF .mxNop
  | 0x02 => needM w 0x0001FFFFFFFFFFFF (.zacc (fldM w 55 4) (fldM w 49 6))
  | 0x03 => needM w 0x00001FFFFFFFFFFF (.ldacc (fldM w 55 4) (fldM w 51 4) (fldM w 45 6))
  | 0x04 =>
    if w.getLsbD 54 then needM w 0x000FFFFFFFFFFFFF (.ldwSparse (fldM w 55 4) (fldM w 52 2))
    else needM w 0x003FFFFFFFFFFFFF (.ldw (fldM w 55 4))
  | 0x05 => needM w 0x07FFFFFFFFFFFFFF .mxSwap
  | 0x06 => needM w 0x00001FFFFFFFFFFF (.strm (fldM w 55 4) (fldM w 51 4) (fldM w 45 6))
  | 0x07 => needM w 0x00001FFFFFFFFFFF (.drain (fldM w 55 4) (fldM w 51 4) (fldM w 45 6))
  | 0x08 => needM w 0x007FFFFFFFFFFFFF (.sets (fldM w 55 4))
  | 0x09 => needM w 0x0007FFFFFFFFFFFF (.setr (fldM w 56 3) (w.getLsbD 55) (fldM w 51 4))
  | 0x0A => .ok (.setx (fldM w 55 4) (fldM w 0 55))
  | 0x0B => needM w 0x0007FFFFFFFFFFFF (.movx (fldM w 55 4) (fldM w 51 4))
  | 0x0C => needM w 0x001FFFFF00000000 (.addx (fldM w 55 4) (fldM w 53 2) (fldM w 0 32))
  | 0x0D => needM w 0x0040FFFFFFFFFFFF (.loopx (fldM w 55 4) (fldM w 48 6))
  | _ => .error .reservedMicro

/-- Decode one 64-bit micro-operation (R140, R374). -/
def decodeMicro (w : BitVec 64) : Except DecodeError Instr := checked (rawMicro w)

/-! ### Headers (R71 to R73) and bundles (R67) -/

/-- A header slot. LOOPF's flags are first-only and last-only of slots 1 to 3. -/
inductive Header where
  | lend (slot : BitVec 2) (ext : BitVec 23)
  | loopf (first last : BitVec 4) (level : BitVec 3)
  deriving DecidableEq, Repr

/-- Decode a slot 0 that may be a header: none when it is no header. Reserved bits of LOOPF must be zero (R59, R73),
LEND's target slot is 1 to 3 (R71). -/
def decodeHeader (w : SlotWord) : Except DecodeError (Option Header) :=
  match (w.extractLsb' 25 7).toNat with
  | 0x78 =>
    if fld w 23 2 = 0 then .error .illegalField else .ok (some (.lend (fld w 23 2) (fld w 0 23)))
  | 0x79 =>
    if w &&& 0x00491FFF = 0 then
      .ok (some (.loopf (BitVec.ofBool (flag w 18) ++ BitVec.ofBool (flag w 21) ++ BitVec.ofBool (flag w 24) ++ 0#1)
        (BitVec.ofBool (flag w 17) ++ BitVec.ofBool (flag w 20) ++ BitVec.ofBool (flag w 23) ++ 0#1) (fld w 13 3)))
    else .error .nonzeroField
  | _ => .ok none

/-- A bundle: its header, if slot 0 is one, and its operations by slot; a header slot holds no operation. -/
structure Bundle where
  header : Option Header
  ops    : List (Nat × Instr)
  deriving DecidableEq, Repr

/-- Step 1 of R85: the slot encodings in slot order. The error names the slot. -/
def decodeSlots : Nat → List SlotWord → Except (DecodeError × Nat) (List (Nat × Instr))
  | _, [] => .ok []
  | k, w :: ws =>
    match decodeSlot w with
    | .error e => .error (e, k)
    | .ok i =>
      match decodeSlots (k + 1) ws with
      | .error e => .error e
      | .ok r => .ok ((k, i) :: r)

/-- The operation that LEND sees in its target: the form its major and sub-op name, even where a field that must be zero is
not, which is the target's own fault. -/
def lendTarget (w : SlotWord) : Option Instr :=
  match rawDecode w with
  | .ok i => some i
  | .error _ =>
    match (w.extractLsb' 25 7).toNat with
    | 0x03 => some (.atom (getSMem w))
    | 0x06 => some (.cas (getSMem w))
    | 0x0B => some (.ld (getSMem w))
    | 0x0C => some (.lea (getSLea w))
    | 0x1A => some (.st (getSMem w))
    | 0x25 => some (.vexp (getV2 w))
    | 0x29 => some (.vlog (getV2 w))
    | 0x30 => some (.vrcp (getV2 w))
    | 0x32 => some (.vrsq (getV2 w))
    | 0x77 => if fld w 16 3 = 0 then some (.crd (getCtlF w)) else if fld w 16 3 = 1 then some (.cwr (getCtlF w)) else none
    | _ => none

/-- R72: LEND must name a target that takes its bits, and the fault is slot 0's. LOOPF's level is checked against the state
(R59). -/
def lendTargetOk (h : Header) (rest : List SlotWord) : Bool :=
  match h with
  | .lend s ext => (rest[s.toNat - 1]?.bind lendTarget).any (lendOk ext)
  | .loopf .. => true

/-- Decode the four words of a bundle (R67, R85 step 1): the first failing slot in slot order is named; a header slot
fails first, and LEND also when its target cannot take the bits (R72). -/
def decodeBundle (ws : List SlotWord) : Except (DecodeError × Nat) Bundle :=
  match ws with
  | [] => .error (.truncated, 0)
  | w0 :: rest =>
    match decodeHeader w0 with
    | .error e => .error (e, 0)
    | .ok none =>
      match decodeSlots 0 ws with
      | .error e => .error e
      | .ok r => .ok ⟨none, r⟩
    | .ok (some h) =>
      match decodeSlots 1 rest with
      | .error e => if lendTargetOk h rest then .error e else .error (.illegalField, 0)
      | .ok r => if lendTargetOk h rest then .ok ⟨some h, r⟩ else .error (.illegalField, 0)

/-! ### Bytes -/

/-- The little-endian value of bytes (R4). -/
def leNat : List Byte → Nat
  | [] => 0
  | b :: bs => b.toNat + 256 * leNat bs

/-- The n little-endian bytes of a value (R4). -/
def leBytes : Nat → Nat → List Byte
  | 0, _ => []
  | n + 1, v => BitVec.ofNat 8 v :: leBytes n (v / 256)

/-- Decode the bytes of a slot (4 of them) or of a micro-operation (8 of them). -/
def decodeBytes (bs : List Byte) : Except DecodeError Instr :=
  if bs.length = 4 then decodeSlot (BitVec.ofNat 32 (leNat bs))
  else if bs.length = 8 then decodeMicro (BitVec.ofNat 64 (leNat bs))
  else .error .truncated

/-- The instruction the decoder reads from an instruction whose bits are w, laid out as the hardware stores it: slots
are little-endian 32-bit words (R67), micro-operations little-endian 64-bit words (R138). -/
def decodeTableWord (nbits w : Nat) : Option Instr :=
  match decodeBytes (leBytes (if nbits ≤ 32 then 4 else 8) w) with
  | .ok i => some i
  | .error _ => none

/-! ### The encoder -/

def putS3 (x : S3) : SlotWord :=
  putGuard x.g ||| putFlag x.dup 19 ||| putFld x.d 13 ||| putFld x.a 7 ||| putFlag x.i 6 ||| putFld x.b 0
def putS2 (x : S2) : SlotWord :=
  putGuard x.g ||| putFlag x.dup 19 ||| putFld x.d 13 ||| putFld x.a 7
def putSCmp (x : SCmp) : SlotWord :=
  putGuard x.g ||| putFlag x.dup 19 ||| putFld x.qd 15 ||| putFld x.cc 12 ||| putFld x.a 6 ||| putFld x.b 0
def putSPlog (x : SPlog) : SlotWord :=
  putGuard x.g ||| putFlag x.dup 19 ||| putFld x.qd 15 ||| putFld x.qa 11 ||| putFld x.qb 7 ||| putFld x.tt 3
def putSMovi (x : SMovi) : SlotWord :=
  putGuard x.g ||| putFlag x.dup 19 ||| putFld x.d 13 ||| putFld x.imm 0
def putSMem (x : SMem) : SlotWord :=
  putGuard x.g ||| putFld x.d 13 ||| putFld x.base 7 ||| putFlag x.pi 6 ||| putFld x.size 4 ||| putFld x.off 0
def putSLea (x : SLea) : SlotWord :=
  putGuard x.g ||| putFlag x.dup 19 ||| putFld x.d 13 ||| putFld x.base 7 ||| putFld x.size 4 ||| putFld x.off 0
def putSChk (x : SChk) : SlotWord :=
  putGuard x.g ||| putFld x.pair 17
def putV3 (x : V3) : SlotWord :=
  putMask x.m ||| putFlag x.dup 20 ||| putFld x.d 15 ||| putFld x.a 10 ||| putFld x.b 5 ||| putFld x.fmt 0
def putV2 (x : V2) : SlotWord :=
  putMask x.m ||| putFlag x.dup 20 ||| putFld x.d 15 ||| putFld x.a 10 ||| putFld x.fmt 0
def putVR (x : VR) : SlotWord :=
  putMask x.m ||| putFlag x.dup 20 ||| putFld x.d 15 ||| putFld x.a 10 ||| putFld x.op 5 ||| putFld x.fmt 0
def putVS (x : VS) : SlotWord :=
  putMask x.m ||| putFlag x.dup 20 ||| putFld x.d 15 ||| putFld x.s 9 ||| putFld x.fmt 0
def putVC (x : VC) : SlotWord :=
  putMask x.m ||| putFlag x.dup 20 ||| putFld x.md 17 ||| putFld x.cc 15 ||| putFld x.a 10 ||| putFld x.b 5 ||| putFld x.fmt 0
def putVCv (x : VCv) : SlotWord :=
  putMask x.m ||| putFlag x.dup 20 ||| putFld x.d 15 ||| putFld x.a 10 ||| putFld x.outF 5 ||| putFld x.inF 0
def putVMem (x : VMem) : SlotWord :=
  putMask x.m ||| putFld x.v 15 ||| putFld x.base 8 ||| putFlag x.pi 7 ||| putFld x.off 0
def putVStr (x : VStr) : SlotWord :=
  putMask x.m ||| putFld x.v 15 ||| putFld x.w 8
def putVX (x : VX) : SlotWord :=
  putMask x.m ||| putFld x.d 15 ||| putFld x.a 10 ||| putFld x.base 4 ||| putFld x.size 2
def putVK (x : VK) : SlotWord :=
  putMask x.m ||| putFlag x.dup 20 ||| putFld x.d 15 ||| putFld x.a 10 ||| putFld x.k 5 ||| putFlag x.nan 4 ||| putFld x.fmt 0
def putVG (x : VG) : SlotWord :=
  putFlag x.dup 20 ||| putFld x.d 15 ||| putFld x.a 10 ||| putFld x.b 5 ||| putFlag x.keep 4
def putGReg (x : GReg) : SlotWord :=
  putGuard x.g ||| putFld x.a 10
def putGReg2 (x : GReg2) : SlotWord :=
  putGuard x.g ||| putFld x.a 10 ||| putFld x.b 4
def putMBank (x : MBank) : SlotWord :=
  putGuard x.g ||| putFld x.bank 17
def putMCallF (x : MCallF) : SlotWord :=
  putGuard x.g ||| putFld x.routine 11 ||| putFld x.tile 5 ||| putFld x.flags 0
def putMCompF (x : MCompF) : SlotWord :=
  putGuard x.g ||| putFld x.td 13 ||| putFld x.ts 7 ||| putFld x.nm 5 ||| putFld x.fmt 0
def putMLoadF (x : MLoadF) : SlotWord :=
  putGuard x.g ||| putFld x.routine 11 ||| putFld x.tile 5
def putScldF (x : ScldF) : SlotWord :=
  putGuard x.g ||| putFld x.desc 11 ||| putFlag x.side 10
def putTdsetF (x : TdsetF) : SlotWord :=
  putGuard x.g ||| putFld x.desc 11 ||| putFld x.a 5
def putCbAdvF (x : CbAdvF) : SlotWord :=
  putGuard x.g ||| putFld x.h 15 ||| putFld x.k 7
def putCbWaitF (x : CbWaitF) : SlotWord :=
  putGuard x.g ||| putFld x.h 15 ||| putFlag x.free 14 ||| putFld x.count 6
def putKaqF (x : KaqF) : SlotWord :=
  putGuard x.g ||| putFlag x.aq 18 ||| putFlag x.nb 17 ||| putFld x.qn 13 ||| putFld x.a 8 ||| putFld x.b 2
def putKBarF (x : KBarF) : SlotWord :=
  putGuard x.g ||| putFld x.cls 16
def putKBindF (x : KBindF) : SlotWord :=
  putGuard x.g ||| putFld x.w 16 ||| putFld x.a 10
def putCmd (x : Cmd) : SlotWord :=
  putGuard x.g ||| putFlag x.acq 18 ||| putFlag x.rel 17 ||| putFld x.scope 14 ||| putFld x.cb 8 ||| putFld x.so 2
def putKdqF (x : KdqF) : SlotWord :=
  putGuard x.g ||| putFlag x.dq 18 ||| putFld x.d 13 ||| putFld x.cnt 10
def putTlSetF (x : TlSetF) : SlotWord :=
  putGuard x.g ||| putFld x.t 13 ||| putFld x.a 7 ||| putFlag x.st 6
def putBrF (x : BrF) : SlotWord :=
  putGuard x.g ||| putFld x.off 0
def putJmpF (x : JmpF) : SlotWord :=
  putGuard x.g ||| putFld x.off 0
def putLoopF (x : LoopF) : SlotWord :=
  putGuard x.g ||| putFld x.a 10 ||| putFld x.body 0
def putLcntF (x : LcntF) : SlotWord :=
  putGuard x.g ||| putFld x.a 10 ||| putFld x.b 4 ||| putFld x.lo 1
def putImm16F (x : Imm16F) : SlotWord :=
  putGuard x.g ||| putFld x.imm 0
def putSyncF (x : SyncF) : SlotWord :=
  putGuard x.g ||| putFld x.a 10 ||| putFld x.scope 7
def putFenceF (x : FenceF) : SlotWord :=
  putGuard x.g ||| putFld x.scope 7
def putDbarF (x : DbarF) : SlotWord :=
  putGuard x.g ||| putFld x.level 14
def putRkeepF (x : RkeepF) : SlotWord :=
  putGuard x.g ||| putFld x.a 10 ||| putFld x.vb 6
def putEinjF (x : EinjF) : SlotWord :=
  putGuard x.g ||| putFld x.kind 12 ||| putFld x.a 6
def putLaunchF (x : LaunchF) : SlotWord :=
  putGuard x.g ||| putFld x.a 10 ||| putFld x.queue 4
def putCtlF (x : CtlF) : SlotWord :=
  putGuard x.g ||| putFld x.r 10 ||| putFld x.ctl 0
def putGRegAt (x : GReg) (lo : Nat) : SlotWord := putGuard x.g ||| putFld x.a lo

/-- The word of a slot operation (R69 to R83); events and micro-operations have none. -/
def encode : Instr → Option SlotWord
  | .add x => some (0x00000000 ||| putS3 x)
  | .and x => some (0x02000000 ||| putS3 x)
  | .andn x => some (0x04000000 ||| putS3 x)
  | .atom x => some (0x06000000 ||| putSMem x)
  | .bfi x => some (0x08000000 ||| putS3 x)
  | .bfx x => some (0x0A000000 ||| putS3 x)
  | .cas x => some (0x0C000000 ||| putSMem x)
  | .chk x => some (0x0E000000 ||| putSChk x)
  | .clz x => some (0x10000000 ||| putS2 x)
  | .cmp x => some (0x12000000 ||| putSCmp x)
  | .div x => some (0x14000000 ||| putS3 x)
  | .ld x => some (0x16000000 ||| putSMem x)
  | .lea x => some (0x18000000 ||| putSLea x)
  | .max x => some (0x1A000000 ||| putS3 x)
  | .min x => some (0x1C000000 ||| putS3 x)
  | .movi x => some (0x1E000000 ||| putSMovi x)
  | .mul x => some (0x20000000 ||| putS3 x)
  | .mulh x => some (0x22000000 ||| putS3 x)
  | .or x => some (0x24000000 ||| putS3 x)
  | .plog x => some (0x26000000 ||| putSPlog x)
  | .popc x => some (0x28000000 ||| putS2 x)
  | .rem x => some (0x2A000000 ||| putS3 x)
  | .sar x => some (0x2C000000 ||| putS3 x)
  | .sel x => some (0x2E000000 ||| putS3 x)
  | .shl x => some (0x30000000 ||| putS3 x)
  | .shr x => some (0x32000000 ||| putS3 x)
  | .st x => some (0x34000000 ||| putSMem x)
  | .sub x => some (0x36000000 ||| putS3 x)
  | .xor x => some (0x38000000 ||| putS3 x)
  | .vabs x => some (0x40000000 ||| putV2 x)
  | .vadd x => some (0x42000000 ||| putV3 x)
  | .vbcast x => some (0x44000000 ||| putVS x)
  | .vcmp x => some (0x46000000 ||| putVC x)
  | .vcvt x => some (0x48000000 ||| putVCv x)
  | .vexp x => some (0x4A000000 ||| putV2 x)
  | .vfma x => some (0x4C000000 ||| putV3 x)
  | .vld x => some (0x4E000000 ||| putVMem x)
  | .vldStream x => some (0x4E004000 ||| putVStr x)
  | .vldx x => some (0x50000000 ||| putVX x)
  | .vlog x => some (0x52000000 ||| putV2 x)
  | .vmax x => some (0x54000000 ||| putV3 x)
  | .vmerge x => some (0x56000000 ||| putVG x)
  | .vmin x => some (0x58000000 ||| putV3 x)
  | .vmov x => some (0x5A000000 ||| putV2 x)
  | .vmul x => some (0x5C000000 ||| putV3 x)
  | .vperm x => some (0x5E000000 ||| putV3 x)
  | .vrcp x => some (0x60000000 ||| putV2 x)
  | .vred x => some (0x62000000 ||| putVR x)
  | .vrsq x => some (0x64000000 ||| putV2 x)
  | .vscan x => some (0x66000000 ||| putVR x)
  | .vsel x => some (0x68000000 ||| putV3 x)
  | .vshf x => some (0x6A000000 ||| putV3 x)
  | .vst x => some (0x6C000000 ||| putVMem x)
  | .vstStream x => some (0x6C004000 ||| putVStr x)
  | .vstx x => some (0x6E000000 ||| putVX x)
  | .vsub x => some (0x70000000 ||| putV3 x)
  | .vtopk x => some (0x72000000 ||| putVK x)
  | .bklend x => some (0x80000000 ||| putMBank x)
  | .bklendRet x => some (0x80010000 ||| putMBank x)
  | .hstrd x => some (0x82000000 ||| putGRegAt x 13)
  | .mcall x => some (0x84000000 ||| putMCallF x)
  | .mcomp x => some (0x86000000 ||| putMCompF x)
  | .mload x => some (0x88000000 ||| putMLoadF x)
  | .mswap x => some (0x8A000000 ||| putGuard x)
  | .msync x => some (0x8C000000 ||| putGuard x)
  | .scld x => some (0x8E000000 ||| putScldF x)
  | .tdset x => some (0x90000000 ||| putTdsetF x)
  | .cbadvProd x => some (0x98000000 ||| putCbAdvF x)
  | .cbadvCons x => some (0x98004000 ||| putCbAdvF x)
  | .cbwait x => some (0x9A000000 ||| putCbWaitF x)
  | .kaq x => some (0x9C000000 ||| putKaqF x)
  | .kbar x => some (0x9E000000 ||| putKBarF x)
  | .kbind x => some (0xA0000000 ||| putKBindF x)
  | .kcopy x => some (0xA2000000 ||| putCmd x)
  | .kdq x => some (0xA4000000 ||| putKdqF x)
  | .kpeer x => some (0xA6000000 ||| putCmd x)
  | .tlset x => some (0xA8000000 ||| putTlSetF x)
  | .bcopy x => some (0xB0000000 ||| putCmd x)
  | .bcopyVerify x => some (0xB0000001 ||| putCmd x)
  | .bdrop x => some (0xB2000000 ||| putCmd x)
  | .bholdList x => some (0xB4000000 ||| putCmd x)
  | .bholdRoot x => some (0xB4000001 ||| putCmd x)
  | .blookLeaf x => some (0xB6000000 ||| putCmd x)
  | .blookInterior x => some (0xB6000001 ||| putCmd x)
  | .bread x => some (0xB8000000 ||| putCmd x)
  | .breadVerify x => some (0xB8000001 ||| putCmd x)
  | .bswap x => some (0xBA000000 ||| putCmd x)
  | .bwalkLeaf x => some (0xBC000000 ||| putCmd x)
  | .bwalkElement x => some (0xBC000001 ||| putCmd x)
  | .cupdSgd x => some (0xBE000000 ||| putCmd x)
  | .cupdAdagrad x => some (0xBE000001 ||| putCmd x)
  | .cupdRowwiseAdagrad x => some (0xBE000002 ||| putCmd x)
  | .cupdAdam x => some (0xBE000003 ||| putCmd x)
  | .fbktMod x => some (0xC0000000 ||| putCmd x)
  | .fbktRange x => some (0xC0000001 ||| putCmd x)
  | .fbktHash x => some (0xC0000002 ||| putCmd x)
  | .fredAll x => some (0xC2000000 ||| putCmd x)
  | .fredRoot x => some (0xC2000001 ||| putCmd x)
  | .fxch x => some (0xC4000000 ||| putCmd x)
  | .fxchPayload x => some (0xC4000001 ||| putCmd x)
  | .hrctlSetGroup x => some (0xC6000000 ||| putCmd x)
  | .hrctlInvalidateTable x => some (0xC6000001 ||| putCmd x)
  | .hrctlWriteBack x => some (0xC6000002 ||| putCmd x)
  | .hrctlClearSketch x => some (0xC6000003 ||| putCmd x)
  | .l2opUpdate x => some (0xC8000000 ||| putCmd x)
  | .l2opGather x => some (0xC8000001 ||| putCmd x)
  | .qgath x => some (0xCA000000 ||| putCmd x)
  | .qpoolSplit x => some (0xCC000000 ||| putCmd x)
  | .qpoolOrdered x => some (0xCC000001 ||| putCmd x)
  | .skrd x => some (0xCE000000 ||| putCmd x)
  | .wpin x => some (0xD0000000 ||| putCmd x)
  | .wpinLoad x => some (0xD0000001 ||| putCmd x)
  | .wunpin x => some (0xD2000000 ||| putCmd x)
  | .br x => some (0xD8000000 ||| putBrF x)
  | .jmp x => some (0xDA000000 ||| putJmpF x)
  | .jmpReg x => some (0xDA008000 ||| putGRegAt x 9)
  | .call x => some (0xDA010000 ||| putJmpF x)
  | .callReg x => some (0xDA018000 ||| putGRegAt x 9)
  | .ret x => some (0xDA020000 ||| putGuard x)
  | .bsel x => some (0xDC000000 ||| putGReg2 x)
  | .loop x => some (0xDE000000 ||| putLoopF x)
  | .lcnt x => some (0xDE010000 ||| putLcntF x)
  | .nop => some 0xE0000000
  | .tend x => some (0xE0010000 ||| putGuard x)
  | .cabort x => some (0xE0020000 ||| putImm16F x)
  | .yield x => some (0xE0030000 ||| putGuard x)
  | .brkpt x => some (0xE0040000 ||| putImm16F x)
  | .ifence x => some (0xE2000000 ||| putGuard x)
  | .ibank x => some (0xE2010000 ||| putGReg x)
  | .acq x => some (0xE4000000 ||| putSyncF x)
  | .rel x => some (0xE4010000 ||| putSyncF x)
  | .fence x => some (0xE4020000 ||| putFenceF x)
  | .mon x => some (0xE6000000 ||| putGReg x)
  | .mwait x => some (0xE6010000 ||| putGReg x)
  | .dbar x => some (0xE6020000 ||| putDbarF x)
  | .ropen x => some (0xE8000000 ||| putGReg2 x)
  | .rkeep x => some (0xE8010000 ||| putRkeepF x)
  | .rclose x => some (0xE8020000 ||| putGuard x)
  | .einj x => some (0xEA000000 ||| putEinjF x)
  | .stest x => some (0xEA010000 ||| putGuard x)
  | .trap x => some (0xEC000000 ||| putImm16F x)
  | .tret x => some (0xEC010000 ||| putGuard x)
  | .launch x => some (0xEC020000 ||| putLaunchF x)
  | .crd x => some (0xEE000000 ||| putCtlF x)
  | .cwr x => some (0xEE010000 ||| putCtlF x)
  | .xinvPage x => some (0xEE020000 ||| putGReg x)
  | .xinvAll x => some (0xEE020100 ||| putGReg x)
  | _ => none

def putM {n : Nat} (x : BitVec n) (lo : Nat) : BitVec 64 := x.setWidth 64 <<< lo

/-- The word of a micro-operation (R140). -/
def encodeMicro : Instr → Option (BitVec 64)
  | .mxEnd => some 0
  | .mxNop => some (putM (0x01 : BitVec 5) 59)
  | .zacc xc n => some (putM (0x02 : BitVec 5) 59 ||| putM xc 55 ||| putM n 49)
  | .ldacc xc xa n => some (putM (0x03 : BitVec 5) 59 ||| putM xc 55 ||| putM xa 51 ||| putM n 45)
  | .ldw xw => some (putM (0x04 : BitVec 5) 59 ||| putM xw 55)
  | .ldwSparse xw nm => some (putM (0x04 : BitVec 5) 59 ||| putM xw 55 ||| putM (1 : BitVec 1) 54 ||| putM nm 52)
  | .mxSwap => some (putM (0x05 : BitVec 5) 59)
  | .strm xa xc n => some (putM (0x06 : BitVec 5) 59 ||| putM xa 55 ||| putM xc 51 ||| putM n 45)
  | .drain xc xd n => some (putM (0x07 : BitVec 5) 59 ||| putM xc 55 ||| putM xd 51 ||| putM n 45)
  | .sets xs => some (putM (0x08 : BitVec 5) 59 ||| putM xs 55)
  | .setr mode sat xr =>
    some (putM (0x09 : BitVec 5) 59 ||| putM mode 56 ||| putM (BitVec.ofBool sat) 55 ||| putM xr 51)
  | .setx xd imm => some (putM (0x0A : BitVec 5) 59 ||| putM xd 55 ||| putM imm 0)
  | .movx xd xa => some (putM (0x0B : BitVec 5) 59 ||| putM xd 55 ||| putM xa 51)
  | .addx xd fld imm => some (putM (0x0C : BitVec 5) 59 ||| putM xd 55 ||| putM fld 53 ||| putM imm 0)
  | .loopx xc target => some (putM (0x0D : BitVec 5) 59 ||| putM xc 55 ||| putM target 48)
  | _ => none

end Sys2Proof
end

