-- ==== Sys2Proof/Config.lean ====
section
/-! DEFINITION. What an implementation fixes and the spec leaves open: free values without a body, so that no proof can
see them, and the identity of this module. Each opaque constant is named in an assumption log entry. -/

namespace Sys2Proof.Config

/-- R113: for each elementary function (0 exp, 1 log, 2 reciprocal, 3 reciprocal square root), format code, input bits
and rounding mode: whether the upper of the two bracketing values is the result. FREE VALUE (log 7). -/
opaque elemUpper : Nat → Nat → Nat → Nat → Bool

/-- R190: the order in which the N contributions reach the summing point of an element, as a list of choices: at step i,
which of the remaining contributions comes next. FREE VALUE (log 8), drawn by the counter State.fresh. -/
opaque fredPick : Nat → Nat → Nat

/-- R208: bytes read from another module. FREE VALUE (log 9), drawn by the counter State.fresh. -/
opaque remoteByte : Nat → Byte

/-- R288: the certificate chain, the digests and the boot measurements of this part. FREE VALUES (log 12). -/
opaque certificate : Nat → List Byte
opaque spdmSign : List Byte → List Byte
opaque measure : Nat → BitVec 512

/-- R287: the SHA-512 of the message an image's signature covers, from its version, svn and digest; the spec gives the
image's layout nowhere. FREE VALUE (log 12). -/
opaque signedHash : Nat → Nat → BitVec 512 → BitVec 512

/-- R285: the CRC errors of a lane in 1 ms that firmware bears. FREE VALUE (log 72). -/
opaque laneThreshold : Nat

/-- R281: the correctable errors met since they were last read. FREE VALUE (log 72), drawn by the counter State.fresh. -/
opaque corrected : Nat → Nat

/-- R208: whether another module, whose key lists this one does not see, refuses a remote access. FREE VALUE (log 9), drawn by
State.fresh. -/
opaque remoteRefuses : Nat → Bool

/-- R203, R208: the first 16 bytes of a sync object of another module as an access at a time finds them, by physical address and
State.clock; none when the module refuses the access. FREE VALUE (log 9). -/
opaque remoteSync : Nat → Nat → Option (BitVec 128)

/-- R164: the set of a Quay's memory-side cache that holds a line, by line number. FREE VALUE (log 35). -/
opaque cacheSet : Nat → Nat

/-- R184, R208, R209: the path the Ferry takes for a message or a remote line. FREE VALUE (log 14), drawn by State.fresh. -/
opaque ferryPath : Nat → BitVec 4

/-- R285, R209: the Ferry port, of eight, that a path to a module leaves by. FREE VALUE (log 86). -/
opaque ferryPort : Nat → BitVec 4 → Nat

/-- R442: which of several commands of one tag a message is matched to. FREE VALUE (log 14), drawn by State.fresh. -/
opaque matchPick : Nat → Nat

/-- R98: the native bundles the pilot core's translator makes of a legal Usone body, and the bundle index of a record of it.
FREE VALUES (log 22). -/
opaque translated : List Byte → List (BitVec 128)
opaque translatedEntry : List Byte → Nat → Nat

/-- R334: a descriptor as instructions act on it that issue after a reload whose table cannot be read, by the value of ctl.tdt
and index. FREE VALUE (log 37). -/
opaque unreadDesc : BitVec 64 → Nat → BitVec 512

/-- R116, R125: the scale of a block that lies outside the loaded scale tile, by block row and column. FREE VALUE (log 67). -/
opaque unloadedScale : Nat → Nat → Byte

/-- R239: the address of the Harbourmaster's copy of a network card, by card number. FREE VALUE (log 23). -/
opaque cardCopy : Nat → BitVec 57

end Sys2Proof.Config
end

