-- ==== Sys2Proof/Machine/State.lean ====
section
/-! DEFINITION. The state of the module as plain data (INVENTORY.md, '## State'): the cores, the memories, the engines,
the Harbourmaster, the Ferry, the host and the pilot core; the outcomes a step can stop with; and the state after module
reset. -/

namespace Sys2Proof.Machine

/-! ### Outcomes -/

/-- A fault that stops the machine. The traps and faults of R261 are next states; none of them is one of these. -/
inductive Fault where
  /-- Raised by `step` when the module lies in D3 (R290: all state lost) and the next move is not MODULE_RESET. Safe. -/
  | poweredOff
  deriving DecidableEq, Repr

/-- Why an instruction or event has no meaning in a state. -/
inductive Refusal where
  /-- Raised by an arm of `exec` whose instruction has no meaning yet. Safe. -/
  | notModelled (mnemonic : String)
  /-- Raised by an event that cannot take place in this state: the thing it is about is not there. The spec gives an
  event an effect only when its condition holds. Safe. -/
  | notEnabled (event : String)
  deriving DecidableEq, Repr

/-! ### Memory -/

/-- Sparse bytes by address: addresses strictly rising, no byte equal to zero, which an unlisted address reads as. -/
abbrev Mem := List Host.Cell

/-! ### Numbers -/

/-- An exact value of any format: NaN, an infinity, or (−1)^neg × man × 2^exp. Zero keeps its sign. -/
inductive Num where
  | nan
  | inf (neg : Bool)
  | fin (neg : Bool) (man : Nat) (exp : Int)
  deriving DecidableEq, Repr

/-! ### Core registers (R43 to R47) -/

structure Regs where
  s : Vector Word 64
  q : Vector Bool 16
  v : Vector VReg 32
  m : Vector Mask 8
  p : Vector Word 8
  deriving DecidableEq, Repr

/-- Control registers (R64, R65). Reserved fields hold zero. -/
structure Ctl where
  cause   : Word
  epc     : Word
  frame   : Word
  part    : Word
  core    : Word
  task    : Word
  wbudget : Word
  rgn     : Word
  tdt     : Word
  vround  : Word
  abort   : Word
  dom     : Vector Word 4
  hist    : Word
  fault   : Word
  pad     : Word
  grp     : Word
  card    : Word
  tvec    : Word
  lend    : Word
  deriving DecidableEq, Repr

inductive TileState where
  | empty | filling | ready | draining
  deriving DecidableEq, Repr

/-- A tile entry (R51). Size 0 is unbound. -/
structure Tile where
  base  : BitVec 7
  size  : BitVec 7
  state : TileState
  deriving DecidableEq, Repr

/-- A ring handle (R53). n = 0 is unbound. -/
structure Ring where
  first : BitVec 6
  n     : BitVec 7
  prod  : BitVec 16
  cons  : BitVec 16
  kbar  : BitVec 16
  deriving DecidableEq, Repr

/-- A stream binding (R55, R352): pairs (count, stride) of four dimensions; `pad` is the padding count sampled at KBIND. -/
structure StreamBind where
  write  : Bool
  sp     : Bool
  base   : Nat
  dims   : List (Nat × Int)
  bucket : Bool
  pad    : Nat
  hint   : BitVec 3
  deriving DecidableEq, Repr

/-- An element in a stream FIFO: for a write stream the address it drains to and the bytes its mask lets through. A push is
a store of the core (R354): `num` is its place among them, `depth` its region's, and `after` what a KBAR put before it. -/
structure StreamElem where
  addr  : Nat
  sp    : Bool
  keep  : Mask
  data  : VReg
  bad   : Bool                 -- poisoned (R281)
  num   : Nat
  depth : Nat
  after : List Nat
  hint  : BitVec 3             -- its binding's (R164)
  deriving DecidableEq, Repr

/-- A stream register (R55, R56): `pos` elements popped or pushed, `moved` elements the copy unit has fetched. -/
structure Stream where
  bind  : Option StreamBind
  pos   : Nat
  moved : Nat
  fifo  : List StreamElem
  old   : List StreamElem      -- pushed under the binding before, still to be written (R56)
  stop  : Option (Nat × Nat)   -- a translation fault met by the copy unit: cause code, address
  told  : Bool                 -- it has been reported to the core
  unit  : Nat                  -- the copy unit that bound it
  after : List Nat             -- the pushes that its reads come after (R354)
  deriving DecidableEq, Repr

structure GatherAddr where
  id   : Nat
  after : List Nat
  addr : Nat
  len  : Nat
  hint : BitVec 3
  deriving DecidableEq, Repr

/-- A row in a data queue (R57); a faulted row holds its cause and the faulting address. -/
structure GatherRow where
  src    : GatherAddr
  data   : List Byte
  fault  : Option (Nat × Nat)
  poison : Bool
  deriving DecidableEq, Repr

/-- An active loop level (R58, R368). -/
structure LoopLevel where
  start   : Nat
  stop    : Nat
  trip    : Nat
  left    : Nat
  strides : List (BitVec 6 × Int)
  deriving DecidableEq, Repr

/-- An open recovery region (R392). -/
structure Region where
  target  : Nat
  logMark : Nat
  bufMark : Nat
  deriving DecidableEq, Repr

/-- A store held in the region store buffer (R269): `cost` is the stores it counts as (R401), `num` its place among the core's
stores, `depth` the region it belongs to. -/
structure BufStore where
  va    : Nat
  pa    : Nat
  bytes : List Byte
  cost  : Nat
  num   : Nat
  depth : Nat
  deriving DecidableEq, Repr

structure TwinS where
  primary : Word
  twin    : Word
  valid   : Bool
  deriving DecidableEq, Repr

structure TwinV where
  primary : VReg
  twin    : VReg
  valid   : Bool
  deriving DecidableEq, Repr

/-- A loaded scale tile (R125): its pair, where SCLD found it and how large, and its scales once they are read (R394). -/
structure ScaleTile where
  desc   : BitVec 8
  ver    : BitVec 16
  base   : Nat
  rows   : Nat
  cols   : Nat
  scales : Option (List Byte)
  deriving DecidableEq, Repr

/-- Where an in-flight result lands, and its value (R259). A vector or mask result carries the bits it writes; VMERGE and VTOPK write a
pair; KDQ rows
carry the first register; a scale load carries its side. -/
inductive Result where
  | s (d : BitVec 6) (x : Word)
  | q (d : BitVec 4) (x : Bool)
  | v (d : BitVec 5) (x keep : VReg)
  | vv (d : BitVec 5) (x y : VReg)
  | m (d : BitVec 3) (x keep : Mask)
  | scale (side : Bool) (t : ScaleTile)
  | rows (d : BitVec 5) (xs : List VReg) (poison : Bool)
  deriving DecidableEq, Repr

/-- What a landing .dup result records in its pair's twin latch (R76). -/
inductive Twin where
  | none
  | s (primary twin : Word)
  | v (primary twin : VReg)
  deriving DecidableEq, Repr

/-- An in-flight result: the issue cycle in which it lands, its unit (R259: 0 SX0, 1 SX1, 2 VX0, 3 VX1, 4 MX, 5 KX0,
6 KX1), the issue cycle and slot that produced it, and whether it occupies a divider. -/
structure Flight where
  res    : Result
  land   : Nat
  unit   : Nat
  issued : Nat
  slot   : Nat
  twin   : Twin
  div    : Bool
  slow   : Bool                -- a MUL or MULH of latency 2 in a legacy context (R96)
  deriving DecidableEq, Repr

/-- An outstanding scoreboarded load, ATOM or CAS (R31, R263): its value as the access found it, or the fault it met. `late` holds
while the access itself stands behind a FENCE (R204). -/
structure Load where
  dest   : BitVec 6
  atomic : Bool
  va     : Word
  size   : BitVec 2
  value  : Word
  fault  : Option (Nat × Nat)
  poison : Bool
  bidx   : Nat
  bank   : Bool
  slot   : Nat
  unit   : Nat                 -- 0 SX0, 1 SX1 (R259)
  late   : Bool
  deriving DecidableEq, Repr

/-- A slot that faulted in translation and waits to be replayed (R256, R262): its operands in latch order, and its
effective address. -/
structure Latch where
  slot : Nat
  src0 : Word
  src1 : Word
  src2 : Word
  ea   : Word
  deriving DecidableEq, Repr

/-- The monitor (R213, R214): the armed line, whether it armed nothing, and whether the line has been written. -/
structure Monitor where
  line    : Nat
  nothing : Bool
  hit     : Bool
  num     : Nat                -- its MON's place among the core's accesses
  deriving DecidableEq, Repr

/-- The binding a command read from a tile entry at its issue (R403). -/
structure TileRef where
  idx  : Nat
  base : Nat
  size : Nat
  deriving DecidableEq, Repr

/-- An exchange that a FXCH or FRED has begun (R180 to R190). -/
structure Exchange where
  red     : Bool                          -- FRED
  tag     : BitVec 32
  self    : Nat
  table   : List (Nat × Nat × BitVec 32)  -- the peer table: module, core, key
  esz     : Nat                           -- entry bytes; FRED: elements
  var     : Nat                           -- FRED: 2 and its variant
  unacked : Nat                           -- messages to other modules not yet acknowledged
  counts  : List (Option Nat)             -- receive counts, by source
  capw    : Nat
  ovf     : Nat
  ovbytes : Nat
  got     : List (Nat × Nat × Nat)        -- messages placed: source, first entry, entries
  spill   : Nat
  parts   : List (Nat × Nat × List (List Byte))  -- FRED contributions: source, first element, elements
  run     : Nat                           -- FRED: the number of its order of summing
  deriving DecidableEq, Repr

/-- A command accepted by a copy unit (R80, R294, R448): the operation's row, the copied block, and how far it is. -/
structure Command where
  id     : Nat
  op     : Instr
  block  : BitVec 512
  cb     : Nat                 -- scratchpad offset of the block
  so     : Word                -- completion sync object, 0 for none
  acq    : Bool
  rel    : Bool
  scope  : BitVec 3
  unit   : Nat                 -- 0 KX0, 1 KX1
  pad    : Nat                 -- ctl.pad at issue
  srcs   : List TileRef        -- source tiles, in the entry's order
  dsts   : List TileRef        -- destination tiles that fill
  cons   : List Nat            -- source tiles consumed
  depth  : Nat                 -- region depth at issue; 0 outside every region
  prog   : Nat                 -- units of work done (R276, R277)
  acc    : List Nat            -- engine state kept between units: a BCOPY's root, an FXCH's enlarged overflow
  fx     : Option Exchange     -- the exchange it has begun
  stop   : Option (Nat × Nat)  -- stopped on a translation fault: cause code, address
  told   : Bool                -- the stop has been reported to the core
  bank   : Bool                -- writes the idle instruction bank (R88)
  after  : List Nat            -- commands and gathers a KBAR orders before it (R207)
  rels   : List Nat            -- the releases of its core that its own release comes after (R206)
  sig    : Bool                -- its work is done; its completion signal is left (R294)
  sent   : Bool                -- a fabric release has sent its markers (R209)
  waits  : List (Nat × BitVec 32)   -- flush acknowledgements it waits for: module and epoch
  deriving DecidableEq, Repr

/-! ### The matrix unit (chapter 06) -/

inductive BankState where
  | idle | loading | active | draining
  deriving DecidableEq, Repr

/-- A weight bank (R128, R129): row k, column n; the format code of its block. -/
structure WBank where
  state : BankState
  valid : Bool
  fmt   : BitVec 5
  w     : List (List Num)
  rows  : Bool                 -- rows tagged with it may remain in the array
  deriving DecidableEq, Repr

/-- What an MCALL samples in its issue cycle (R135). -/
structure Call where
  routine : Nat
  tile    : TileRef
  flags   : BitVec 4
  p       : Vector Word 8
  vround  : Word
  pad     : Nat
  hist    : Word
  descs   : Vector (BitVec 512) 256
  late    : Option (List (Nat × BitVec 512))  -- TDSETs since a reload whose table is not read yet (R334)
  count   : Nat                -- ctl.tdt.count
  lend    : Word
  tiles   : Vector Tile 64     -- the tile table it may name (R403)
  scaleL  : Option ScaleTile   -- the loaded scale tiles: an SCLD that lands later does not reach the call (R125)
  scaleR  : Option ScaleTile
  depth   : Nat
  after   : List Nat           -- the accesses of the core that its reads come after (R206, R354)
  deriving DecidableEq, Repr

/-- An item of the call queue (R136, R334); a reload holds the table once it has been read, the TDSETs since, and
the accesses of the core that its reads come after. -/
inductive MxItem where
  | call (c : Call)
  | mload (routine : Nat) (words : List (BitVec 64)) (depth : Nat)
  | mswap (depth : Nat)
  | mcomp (src dst : TileRef) (nm : BitVec 2) (fmt : BitVec 5) (depth : Nat)
  | reload (tdt : Word) (table : Option (Vector (BitVec 512) 256)) (overlay : List (Nat × BitVec 512)) (after : List Nat)
  deriving DecidableEq, Repr

/-- The call being run (R139): its micro-operations, its index and its routine state. -/
structure Run where
  call  : Call
  prog  : List Instr
  pc    : Nat
  x     : Vector Word 16
  scale : BitVec 32
  mode  : BitVec 3
  sat   : Bool
  seed  : Word
  steps : Nat
  done  : Bool
  deriving DecidableEq, Repr

structure Matrix where
  bankA  : WBank
  bankB  : WBank
  active : Option Bool         -- false A, true B
  queue  : List MxItem
  run    : Option Run
  store  : List (Nat × List (BitVec 64))   -- routines 64 to 255 that MLOAD installed
  scaleL : Option ScaleTile
  scaleR : Option ScaleTile
  descs  : Vector (BitVec 512) 256
  hist   : Vector (BitVec 32) 33           -- bins 0 to 31 and the NaN counter
  stop   : Option (Nat × Nat)
  told   : Bool
  pend   : List (ScaleTile × List Nat)     -- scale loads still to be read, and the core's accesses that their reads come after (R394)
  deriving DecidableEq, Repr

/-! ### A core -/

/-- A pending redirect (R87, R346): taken after the delay bundle. -/
structure Redirect where
  target : Nat
  flip   : Bool
  deriving DecidableEq, Repr

/-- A replay that TRET has started (R264): the retired slots and the operand latch. -/
structure Replay where
  ret     : Nat
  latches : List Latch
  deriving DecidableEq, Repr

/-- Fetch and issue (R67, R68, R86). `after` holds when the bundle before held a branch-class operation, taken or not. -/
structure Fetch where
  bank0    : Mem
  bank1    : Mem
  ibank    : Bool
  written  : Bool               -- idle-bank-written flag (R88)
  pc       : Nat
  redirect : Option Redirect
  skip     : Option Nat         -- a LOOP of the bundle being issued skips its body to here (R368)
  replay   : Option Replay
  after    : Bool
  cycle    : Nat                -- issue cycles
  deriving DecidableEq, Repr

/-- What became of the last issue: it ran; it stalled (R33: nothing took effect); it trapped at issue; or the
instruction itself moved the core past its bundle. -/
inductive Flow where
  | ran | stalled | trapped | moved
  deriving DecidableEq, Repr

/-- The MODEL's issue context of the slot being executed: its number, its lent bits, whether LOOPF suppresses it, the
unit of its class it takes (R75), whether it is replayed by TRET (R264), whether steps 3 and 4 of R85 have been passed for
the whole bundle, and what became of it. -/
structure Issue where
  slot       : Nat
  ext        : Option (BitVec 23)
  suppressed : Bool
  unit       : Nat
  replay     : Option Latch
  checked    : Bool
  flow       : Flow
  deriving DecidableEq, Repr

/-- Recovery regions (R267 to R272). -/
structure Regions where
  stack   : List Region        -- innermost first
  logBase : Nat
  logEnd  : Nat
  logPos  : Nat
  buf     : List BufStore      -- oldest first
  filled  : List (Nat × Nat)   -- tiles that commands and items of the open regions have filled: depth and tile (R271)
  deriving DecidableEq, Repr

/-- A cached translation (R198): the page of a root, its physical page and attributes. -/
structure Xlat where
  root : Nat
  page : Nat
  size : Nat
  pa   : Nat
  w    : Bool
  sa   : Bool
  bond : Bool
  deriving DecidableEq, Repr

/-- A part of an access that lies in one page. -/
structure Piece where
  va  : Nat
  pa  : Nat
  len : Nat
  x   : Xlat
  deriving DecidableEq, Repr

/-- What an access of the core does when its turn comes: a store of bytes; the read of the LD that waits for s(`dest`); an atomic step on `n`
bytes, for the ATOM or CAS that does; the arming of a line (R213); or the read of a card for a queue (R241). Translations are done at issue,
save an LD's. -/
inductive FencedOp where
  | store (parts : List BufStore)
  | load (dest : BitVec 6)
  | atomic (dest : BitVec 6) (va n : Nat) (op : RemoteOp) (ps : List Piece)
  | monitor (line : Nat)
  | launch (queue va : Nat) (ps : List Piece)
  deriving DecidableEq, Repr

/-- An access of the core to memory that waits for earlier ones, `after`: it came after a FENCE (R204), or is a MON or a LAUNCH (R213, R241).
`num` is its place among them. -/
structure Fenced where
  num   : Nat
  after : List Nat
  op    : FencedOp
  deriving DecidableEq, Repr

/-- Copy units: streams, gather queues and command queues (R55 to R57, R448). -/
structure CopyUnits where
  streams : Vector Stream 8
  aq0     : List GatherAddr
  aq1     : List GatherAddr
  dq0     : List GatherRow
  dq1     : List GatherRow
  cmds    : List Command       -- oldest first; those of both units
  fences  : List (BitVec 3 × List Nat)   -- KBARs: class mask, and what was outstanding at each
  fence   : List Nat           -- the accesses that stood before the core's FENCEs, not yet performed then (R204)
  fenced  : List Fenced        -- the accesses that wait for earlier ones, oldest first
  deriving DecidableEq, Repr

/-- Why the core must leave its stream at the next boundary (R280). -/
structure Boundary where
  rollback : Option Nat              -- the why code of R65
  byUnit   : Bool                    -- a command or a matrix item met its error, not a slot: it waits for the resume of a halted core (R291)
  fatal    : List Nat                -- imprecise faults, by cause code (R266)
  faulted  : List (Nat × Nat × Latch) -- translation faults of the bundle's slots: cause, address, latch (R262)
  preempt  : Bool                    -- signalled by the Harbourmaster (R278)
  sample   : Bool                    -- the abort line is sampled at this boundary, after all else (R41, R280)
  deriving DecidableEq, Repr

/-- Handler state (R254, R260) and what stays frozen in the units until TRET (R259). -/
structure Handler where
  active : Bool
  frozen : List (Nat × Flight)       -- frozen latches by latch number
  loads  : List Load                 -- loads whose kind 6 entries wait in the frame
  pc     : Nat                       -- where the stream was interrupted; `after` and `skip` hold there
  after  : Bool                      -- the interrupted stream stands after a branch-class bundle (R86)
  skip   : Option Nat                -- its replayed bundle has activated a loop whose body starts here (R368)
  waits  : List (Nat × Nat)    -- the arrival of the DBAR it interrupted (R335): level and instance
  loops  : List LoopLevel            -- the loops it interrupted: a rollback goes on from them (R271, R272)
  deriving DecidableEq, Repr

inductive PartStatus where
  | none | running | ending (aborted : Bool) | ended (aborted : Bool) | saved | scanning
  deriving DecidableEq, Repr

/-- An outstanding REL (R203, R389): the object, its scope, and the modules whose flush acknowledgements it waits for. -/
structure Release where
  va    : Word
  pa    : Nat
  scope : BitVec 3
  waits : List (Nat × BitVec 32)      -- module and epoch
  sent  : Bool
  after : List Nat                    -- pushes that it covers and that are still to be written (R354)
  num   : Nat                         -- its place among the core's accesses
  deriving DecidableEq, Repr

/-- Barriers, monitor and outstanding releases (R27, R335, R213, R389). -/
structure Sync where
  arrivals : Vector (List Word) 4   -- own DBARs at each level, newest first: the member set of each (R335)
  waiting  : List (Nat × Nat)       -- outstanding arrivals: level and instance
  monitor  : Option Monitor
  restored : Bool
  rels     : List Release
  deriving DecidableEq, Repr

/-- A debugger's step of a halted core (R291): one bundle; one in engine-sync mode, with its timeout in ns; or, its bundle
issued, the wait for the bundle's commands, those numbered from `since` on, and its matrix calls, until the HM time
`deadline`. -/
inductive DebugStep where
  | none
  | bundle
  | sync (timeout : Nat)
  | waiting (deadline since : Nat) (calls : Bool)
  deriving DecidableEq, Repr

/-- The card and context the core runs for, and its part (R23, R24, R40). -/
structure Part where
  status : PartStatus
  task   : Nat                      -- the Harbourmaster's number of the task
  abort  : Bool                     -- the abort line of its task cluster
  clean  : Bool                     -- the pool has been cleared (R66)
  lat    : Option (List Nat)        -- legacy latencies in effect (R96)
  halted : Bool                     -- halted for debug (R289)
  step   : DebugStep
  wait   : Nat                      -- sub-nanosecond remainder of the stall charge
  budget : Bool                     -- the context has a waiting budget (R236)
  scan   : Nat                      -- STEST: 0 none, 1 draining, 2 pattern running
  scanAt : Nat                      -- HM time at which the pattern began, or before it the drain
  deriving DecidableEq, Repr

structure Core where
  id      : Nat
  regs    : Regs
  ctl     : Ctl
  pool    : Mem
  poison  : List Nat                -- poisoned 32-byte granules of the pool (R281)
  fetch   : Fetch
  tiles   : Vector Tile 64
  rings   : Vector Ring 16
  copy    : CopyUnits
  loops   : List LoopLevel          -- level 0 first
  pend    : Vector (Option (BitVec 32)) 6
  regions : Regions
  twinS   : TwinS
  twinV   : TwinV
  flight  : List Flight
  loads   : List Load
  handler : Handler
  bound   : Boundary
  sync    : Sync
  inject  : Vector (Option Word) 4
  spoiled : List (Nat × Nat)        -- granules of the pool that an injection of kind 3 has poisoned in a tile being filled: tile, granule (R337)
  mx      : Matrix
  tlb     : List Xlat
  part    : Part
  issue   : Issue
  deriving DecidableEq, Repr

/-! ### Harbourmaster (chapter 11) -/

structure Queue where
  cfg      : QueueConfig
  consumed : BitVec 32
  prod     : BitVec 32
  rereads  : Nat                    -- failed reads of the record in hand (R238)
  held     : List (BitVec 32 × List Byte)   -- network records within the window (R237)
  deriving DecidableEq, Repr

/-- A card in the Harbourmaster's care (R239 to R247). -/
structure Card where
  num    : Nat
  raw    : BitVec 1024
  queue  : Nat
  addr   : Nat                      -- ctl.card
  stamp  : BitVec 32
  deps   : List Nat                 -- watched predecessor records, physical addresses
  todo   : Nat                      -- tasks not yet ended
  status : Nat                      -- 0 while open, else the first status other than DONE, or DONE
  sub    : Nat
  cause  : Nat
  acode  : BitVec 32
  nrq    : Nat
  unc    : Bool
  closed : Bool                     -- its completion waits to be written
  ragged : Bool                     -- its ragged-group list is still to be expanded (R245)
  cplPa  : Option Nat               -- where its completion record lay at its admission (R246)
  deriving DecidableEq, Repr

inductive TaskPhase where
  | pooled | loading | running | stopping | preempted | snapshot | requeue | over
  deriving DecidableEq, Repr

/-- A row that a contained node's CUPD has written (R159, R274): its key, where it lies, its bytes, whether they are poisoned, and
whether it stood in the hot-row cache then. -/
structure StagedRow where
  key  : Nat
  home : List (Nat × Nat)
  data : List Byte
  bad  : Bool
  hot  : Bool
  deriving DecidableEq, Repr

/-- A task emitted from a card (R22, R245). -/
structure Task where
  num    : Nat
  card   : Nat
  index  : Nat
  grp    : BitVec 32
  row0   : BitVec 32
  pad    : Nat
  tid    : Word
  phase  : TaskPhase
  cores  : List Nat
  status : Nat
  cause  : Nat                      -- fatal cause code, or 2^16 × the subcode of R240
  acode  : Option (BitVec 32)
  root   : Nat                      -- page-table root
  key    : BitVec 32
  group  : Option Nat               -- fabric group of the card
  saved  : List Core                -- contexts saved by a pre-emption
  staged : List (Nat × Byte)        -- staged writes of a contained node, newest first
  stagedBad : List (Nat × Bool)     -- whether they leave a granule poisoned, newest first (R281)
  stagedRows : List StagedRow       -- rows that its CUPDs have written, newest first (R159)
  lines  : List Nat                 -- lines staged
  unc    : Bool
  epoch  : BitVec 32                -- release epoch (R209)
  paths  : List (Nat × BitVec 4)    -- modules and paths used since the last fabric release
  acks   : List (Nat × BitVec 32)   -- flush acknowledgements collected
  joins  : List (Nat × Nat)         -- fabric groups and their instances that this module has joined for it (R446)
  deriving DecidableEq, Repr

/-- An event-ring entry (R250). -/
structure Event where
  evno  : Nat
  kind  : Nat
  queue : Nat
  task  : Word
  arg   : Word
  time  : Nat
  deriving DecidableEq, Repr

/-- An event that waits to be numbered. -/
structure RawEvent where
  kind  : Nat
  queue : Nat
  task  : Word
  arg   : Word
  deriving DecidableEq, Repr

structure Harbour where
  queues   : Vector Queue 64
  cards    : List Card
  tasks    : List Task
  nextNum  : Nat                    -- numbers for cards, tasks and commands
  evno     : Nat                    -- events numbered so far
  backlog  : List Event             -- numbered, not yet written (R252)
  lost     : Nat                    -- events counted for a kind 8 entry
  waiting  : List RawEvent          -- faults, aborts, snapshots waiting for the backlog
  consumer : Nat
  ringBase : Nat
  ringK    : Nat
  snapBase : Nat
  snapNum  : Nat
  snaps    : List (Nat × Word)      -- slots in use and the task
  snapWait : List (Nat × Nat)       -- snapshots waiting for a slot: task, core
  launches : List (Nat × Nat × List Byte)  -- cards of LAUNCHes that wait while the backlog is full (R252): queue, address, card
  images   : List (BitVec 128 × List Byte)   -- image cache, most recently launched first (R253)
  deriving DecidableEq, Repr

/-! ### Quays, hot rows, bond store (chapters 07 and 10) -/

/-- A sketch group at a Quay (R160, R162): threshold T, decay period D, updates since the last halving, and its nonzero
counters by (row i, index h). -/
structure Sketch where
  thr    : Nat
  decay  : Nat
  count  : Nat
  cnt    : List ((Nat × Nat) × Nat)
  deriving DecidableEq, Repr

/-- A line of a Quay's memory-side cache (R164): its number, its priority, and the pinned window it lies in. -/
structure CacheLine where
  line : Nat
  prio : Nat
  win  : Option Nat
  deriving DecidableEq, Repr

structure Quay where
  groups   : Vector Sketch 16
  queue    : List (Nat × BitVec 128)  -- queued decrements: region, mark (R223)
  lastBeat : Nat
  auto     : Bool                     -- autonomous refresh (R286)
  remap    : List Nat                 -- LPDDR rows served from the remap SRAM
  cache    : List CacheLine           -- most recently used first
  deriving DecidableEq, Repr

/-- A way of the hot-row cache (R156, R157, R447). -/
structure Way where
  set    : Nat
  way    : Nat
  key    : Nat
  dirty  : Bool
  home   : List (Nat × Nat)           -- the row at its Quay: physical ranges, in order
  quay   : Nat
  group  : Nat
  data   : List Byte
  bad    : List Nat                   -- poisoned granules, by position in the row (R281)
  deriving DecidableEq, Repr

/-- A promotion whose copy has been read and is not yet complete (R158). -/
structure Promotion where
  set   : Nat
  way   : Nat
  key   : Nat
  home  : List (Nat × Nat)
  quay  : Nat
  group : Nat
  data  : List Byte
  bad   : List Nat
  dead  : Bool                        -- abandoned (R158 step 5)
  deriving DecidableEq, Repr

structure HotRows where
  c      : Nat                        -- 0 for no cache
  slot   : Nat
  ways   : List Way                   -- the valid ways
  promos : List Promotion
  backs  : List Way                   -- write-backs not yet arrived
  deriving DecidableEq, Repr

/-- A pinned window of the memory-side cache (R165 to R167). -/
structure Window where
  num   : Nat
  span  : List (Nat × Nat)            -- physical ranges: first byte and bytes
  fade  : Nat
  count : Nat
  cls   : Nat
  rso   : Nat
  root  : Nat
  hit   : Bool
  deriving DecidableEq, Repr

/-- A live or dying line (R220, R223). -/
structure Line where
  region   : Nat
  mark     : BitVec 128
  interior : Bool
  data     : List Byte
  count    : Nat
  dying    : Bool
  since    : Nat                      -- commands accepted before it died are numbered below this (R224)
  deriving DecidableEq, Repr

structure BondStore where
  regions : Vector RegionEntry 64
  lines   : List Line
  deriving DecidableEq, Repr

/-! ### Ferry and fabric (chapters 08 and 09) -/

/-- The header of a packet that an answer or a barrier rides in (R179). -/
structure ExtHeader where
  key  : BitVec 32
  path : BitVec 4
  src  : Nat
  tag  : BitVec 32
  seq  : BitVec 32
  psn  : Nat
  deriving DecidableEq, Repr

/-- A packet or message the Ferry has sent (R179, R208). -/
inductive Sent where
  | count (dst : Nat) (p : XPkt)
  | payload (cmd dst : Nat) (p : XPkt)
  | marker (module : Nat) (m : MarkerPkt)
  | remote (module : Nat) (p : RemotePkt) (path : BitVec 4)
  | refusal (dst : Nat) (h : ExtHeader) (r : RefusalRpt)
  | reply (h : ExtHeader) (bytes : List Byte)
  | barrier (module : Nat) (h : ExtHeader) (group inst : Nat)
  | ack (module : Nat) (h : ExtHeader) (epoch : BitVec 32)
  deriving DecidableEq, Repr

/-- An instance of a fabric group's barrier that this module has joined for a task: the other modules of the table whose joined
arrivals are still to come (R446). -/
structure OpenJoin where
  group   : Nat
  inst    : Nat
  task    : Nat
  missing : List Nat
  deriving DecidableEq, Repr

structure Ferry where
  addr      : Nat                         -- fabric address of this module
  groups    : List (Nat × List Nat)       -- module tables: group, fabric addresses by slot
  keyLists  : List (Nat × List (BitVec 32)) -- key list of each group (R208)
  sent      : List Sent                   -- newest last
  keptCount : List XPkt                   -- count messages kept (R188, R442)
  keptData  : List XPkt                   -- payload messages kept for a context that is not resident (R188)
  held      : List XPkt                   -- payload messages refused and held at their senders (R185)
  reports   : List RefusalRpt             -- latest refusal report of each held exchange, by sending core and tag
  markers   : List MarkerPkt              -- collected, not yet complete
  revoked   : List (BitVec 32)
  keyErrors : Nat
  joined    : List (Nat × Nat × Nat)      -- level-3 arrivals of other modules at instances not open here: group, module, instance
  opens     : List OpenJoin               -- instances that this module has joined and others have not (R446)
  psn       : Nat                         -- the number of the next packet sent (R179)
  seen      : List (Nat × Nat)            -- packets received: module and number
  downPaths : List (Nat × BitVec 4 × BitVec 4)  -- failed paths, oldest first: module, path, the path that serves for it (R209)
  downPorts : List Nat                    -- ports of which no lane is left (R285)
  deriving DecidableEq, Repr

/-! ### Host, pilot core, spares, links (chapter 13) -/

inductive Security where
  | production | customerDebug | vendorReturn
  deriving DecidableEq, Repr

inductive Power where
  | p0 | p1 | c3 | d3
  deriving DecidableEq, Repr

/-- An answer of the pilot core or the host port. -/
inductive Response where
  | ok (code : Nat)
  | error (code : Nat)
  | data (code : Nat) (bytes : List Byte)
  | numbers (code : Nat) (xs : List Nat)
  | hostRead (addr : Nat) (bytes : List Byte) (poisoned : Bool)
  | completerAbort (addr : Nat)
  | atomicOld (addr : Nat) (old : Word) (poisoned : Bool)
  | spdm (name : Nat) (bytes : List Byte)
  deriving DecidableEq, Repr

/-- A scan-log record (R436). -/
structure ScanRecord where
  core    : Nat
  outcome : Nat
  deck    : Nat
  phys    : Nat
  spare   : Nat
  task    : Word
  tstart  : Nat
  tend    : Nat
  deriving DecidableEq, Repr

/-- A die-to-die link (R285). -/
structure Link where
  num    : Nat
  errs   : List (Nat × Nat)      -- lane and CRC errors since they were cleared (R281)
  window : Nat                   -- the 1 ms window of `recent`, by HM time (R285)
  recent : List (Nat × Nat)      -- lane and CRC errors in the window
  failed : List Nat              -- lanes over the threshold that wait for their repair
  spared : Bool                  -- the spare lane is in use
  dead   : Bool
  deriving DecidableEq, Repr

structure HostPort where
  bar2     : Nat
  cxl      : Bool
  attr     : List Nat            -- 64 KiB physical pages whose system-atomic attribute is set (R210)
  lines    : List Nat            -- host lines that CXL.cache holds, most recently used first (R292)
  logged   : List Nat            -- dropped accesses
  msix     : List Nat            -- interrupts raised, by vector
  replies  : List Response       -- newest last
  deriving DecidableEq, Repr

structure Pilot where
  hbm       : Vector Nat 16      -- bandwidth shares (R18)
  lpddr     : Vector Nat 16
  cap       : Nat
  errors    : Nat                -- error counts (R281)
  svn       : Nat                -- fused anti-rollback count
  imageSvn  : Nat                -- the running firmware's
  fused     : Bool               -- vendor-return is fused (R289)
  version   : Nat
  digest    : BitVec 512
  keyHash   : BitVec 512         -- fused SHA-512 of the firmware key (R287)
  customer  : BitVec 512         -- fused hash of the customer's debug key (R289)
  boot      : List FirmwareImage -- the images that have replaced the factory's, one for a part at most
  staged    : List FirmwareImage
  recovery  : Bool               -- recovery mode (R287)
  down      : Bool               -- the pilot core does not answer (R286)
  negotiated : Bool              -- SPDM algorithms agreed (R288)
  security  : Security
  halt      : Bool
  trace     : Bool
  debugQs   : List Nat
  traceBuf  : List (Nat × Nat)   -- core and bundle address (R289)
  power     : Power
  scanLog   : List ScanRecord    -- a ring of 1,024 records (R436)
  scanIdx   : Nat
  deriving DecidableEq, Repr

/-- Logical maps (R11, R12, R283): physical unit of each logical one, none when retired; spares left per deck. -/
structure Maps where
  core    : Vector (Option Nat) 224
  slice   : Vector (Option Nat) 384
  spareA  : List Nat
  spareB  : List Nat
  sliceA  : List Nat
  sliceB  : List Nat
  channels : List (Nat × Nat)    -- HBM stacks whose spare channel serves the named channel
  deriving DecidableEq, Repr

/-! ### The whole module -/

/-- Who moves (the MODEL's schedule, log 1): a core issues; its matrix unit runs its next micro-operation; or an event
takes place at that core or in the module. -/
inductive Move where
  | issue
  | matrix
  | event (i : Instr)
  deriving DecidableEq, Repr

structure Turn where
  core : Nat
  move : Move
  deriving DecidableEq, Repr

structure State where
  core    : Core                 -- the core whose turn it is
  rest    : List Core            -- the other cores
  agenda  : List Turn            -- the MODEL's: who moves next (log 1)
  fresh   : Nat                  -- the MODEL's: the next free value (log 7)
  clock   : Nat                  -- 1/36 ns since module reset (log 2)
  mem     : Mem                  -- by physical address, host window included
  poison  : List Nat             -- poisoned 32-byte granules of memory (R281)
  walkA   : List Xlat            -- the page walkers' cached translations (R198)
  walkB   : List Xlat
  walkP   : List Xlat
  hm      : Harbour
  quays   : Vector Quay 8
  hot     : HotRows
  windows : List Window
  bond    : BondStore
  ctrls   : Vector (Vector Int 16) 16  -- class accumulators: HBM controllers 0 to 7, LPDDR 8 to 15 (R248)
  ferry   : Ferry
  host    : HostPort
  pilot   : Pilot
  maps    : Maps
  links   : List Link
  fades   : Nat                  -- ticks of R167 that have ended
  deriving DecidableEq, Repr

/-! ### Module reset -/

def Regs.reset : Regs :=
  ⟨Vector.replicate 64 0, Vector.replicate 16 false, Vector.replicate 32 0, Vector.replicate 8 0, Vector.replicate 8 0⟩

def Ctl.reset : Ctl :=
  ⟨0, 0, 0, 0, 0, 0, 0, 0, 0, 0, 0, Vector.replicate 4 0, 0, 0, 0, 0, 0, 0, 0⟩

def WBank.reset : WBank := ⟨.idle, false, 0, [], false⟩

def Matrix.reset : Matrix :=
  ⟨WBank.reset, WBank.reset, none, [], none, [], none, none, Vector.replicate 256 0, Vector.replicate 33 0, none, false, []⟩

def Handler.reset : Handler := ⟨false, [], [], 0, false, none, [], []⟩

def Core.reset (id : Nat) : Core where
  id      := id
  regs    := Regs.reset
  ctl     := Ctl.reset
  pool    := []
  poison  := []
  fetch   := ⟨[], [], false, false, 0, none, none, none, false, 0⟩
  tiles   := Vector.replicate 64 ⟨0, 0, .empty⟩
  rings   := Vector.replicate 16 ⟨0, 0, 0, 0, 0⟩
  copy    := ⟨Vector.replicate 8 ⟨none, 0, 0, [], [], none, false, 0, []⟩, [], [], [], [], [], [], [], []⟩
  loops   := []
  pend    := Vector.replicate 6 none
  regions := ⟨[], 0, 0, 0, [], []⟩
  twinS   := ⟨0, 0, false⟩
  twinV   := ⟨0, 0, false⟩
  flight  := []
  loads   := []
  handler := Handler.reset
  bound   := ⟨none, false, [], [], false, false⟩
  sync    := ⟨Vector.replicate 4 [], [], none, false, []⟩
  inject  := Vector.replicate 4 none
  spoiled := []
  mx      := Matrix.reset
  tlb     := []
  part    := ⟨.none, 0, false, true, none, false, .none, 0, false, 0, 0⟩
  issue   := ⟨0, none, false, 0, none, false, .ran⟩

def QueueConfig.reset : QueueConfig := ⟨0, false, 0, 0, 0, 0, 0, 0, 0, 0⟩

def Harbour.reset : Harbour where
  queues   := Vector.replicate 64 ⟨QueueConfig.reset, 0, 0, 0, []⟩
  cards    := []
  tasks    := []
  nextNum  := 1
  evno     := 0
  backlog  := []
  lost     := 0
  waiting  := []
  consumer := 0
  ringBase := 0
  ringK    := 0
  snapBase := 0
  snapNum  := 0
  snaps    := []
  snapWait := []
  launches := []
  images   := []

/-- The factory maps: logical core n of a deck is its physical core n of 120, logical slice n its physical slice n of
200; the rest are spares (R10, R12, log 15). -/
def Maps.reset : Maps where
  core     := Vector.ofFn fun i => some (i.val % 112)
  slice    := Vector.ofFn fun i => some (i.val % 192)
  spareA   := (List.range 8).map (· + 112)
  spareB   := (List.range 8).map (· + 112)
  sliceA   := (List.range 8).map (· + 192)
  sliceB   := (List.range 8).map (· + 192)
  channels := []

def Pilot.reset : Pilot where
  hbm := Vector.replicate 16 0
  lpddr := Vector.replicate 16 0
  cap := 1700
  errors := 0
  svn := 0
  imageSvn := 0
  fused := false
  version := 0
  digest := 0
  keyHash := 0
  customer := 0
  boot := []
  staged := []
  recovery := false
  down := false
  negotiated := false
  security := .production
  halt := false
  trace := false
  debugQs := []
  traceBuf := []
  power := .p0
  scanLog := List.replicate 1024 ⟨0, 0, 0, 0, 0, 0, 0, 0⟩
  scanIdx := 0

/-- The machine right after module reset: no task runs, every queue is disabled, every core is free. -/
def State.reset : State where
  core    := Core.reset 0
  rest    := (List.range 223).map fun i => Core.reset (i + 1)
  agenda  := []
  fresh   := 0
  clock   := 0
  mem     := []
  poison  := []
  walkA   := []
  walkB   := []
  walkP   := []
  hm      := Harbour.reset
  quays   := Vector.replicate 8 ⟨Vector.replicate 16 ⟨0, 0, 0, []⟩, [], 0, false, [], []⟩
  hot     := ⟨0, 0, [], [], []⟩
  windows := []
  bond    := ⟨Vector.replicate 64 ⟨0, false, 0, 0⟩, []⟩
  ctrls   := Vector.replicate 16 (Vector.replicate 16 0)
  ferry   := ⟨0, [], [], [], [], [], [], [], [], [], 0, [], [], 0, [], [], []⟩
  host    := ⟨0, false, [], [], [], [], []⟩
  pilot   := Pilot.reset
  maps    := Maps.reset
  links   := []
  fades   := 0

end Sys2Proof.Machine
end

