-- ==== Sys2Proof/Machine/Memory.lean ====
section
/-! DEFINITION. Memory (chapter 09): the sparse bytes, the physical map, translation, views of bonded trees, and the
reads and writes that the agents of one core perform. -/

namespace Sys2Proof.Machine

/-! ### Little-endian bytes (R4) -/

def leVal : List Byte → Nat
  | [] => 0
  | b :: bs => b.toNat + 256 * leVal bs

def toBytes : Nat → Nat → List Byte
  | 0, _ => []
  | n + 1, v => BitVec.ofNat 8 v :: toBytes n (v / 256)

/-- Bits [hi:lo] of a number. -/
def bitsOf (x hi lo : Nat) : Nat := x / 2 ^ lo % 2 ^ (hi + 1 - lo)

/-- The signed value of the low w bits. -/
def sext (w x : Nat) : Int := if x / 2 ^ (w - 1) % 2 = 1 then (x % 2 ^ w : Nat) - (2 ^ w : Nat) else (x % 2 ^ w : Nat)

/-! ### Sparse bytes -/

/-- Canonical from `lo` on: addresses rise and no byte is zero. -/
def Mem.wfFrom : Nat → Mem → Bool
  | _, [] => true
  | lo, (a, b) :: r => decide (lo ≤ a) && b != 0 && Mem.wfFrom (a + 1) r

def Mem.wf (m : Mem) : Bool := Mem.wfFrom 0 m

/-- The n bytes from `a` on, given the cells that lie there in order. -/
def Mem.spread : Nat → Nat → Mem → List Byte
  | 0, _, _ => []
  | n + 1, a, [] => 0 :: Mem.spread n (a + 1) []
  | n + 1, a, (k, b) :: r => if k = a then b :: Mem.spread n (a + 1) r else 0 :: Mem.spread n (a + 1) ((k, b) :: r)

/-- Read n bytes; an unlisted byte reads as zero (log 3). -/
def Mem.read (m : Mem) (a n : Nat) : List Byte := Mem.spread n a (m.filter fun c => a ≤ c.1 && c.1 < a + n)

def Mem.byte (m : Mem) (a : Nat) : Byte :=
  match m.find? (fun c => c.1 == a) with
  | some c => c.2
  | none => 0

/-- The nonzero bytes of a block as cells. -/
def Mem.cells : Nat → List Byte → Mem
  | _, [] => []
  | a, b :: bs => if b = 0 then Mem.cells (a + 1) bs else (a, b) :: Mem.cells (a + 1) bs

/-- Write a block of bytes from `a` on, keeping the canonical form. -/
def Mem.write (m : Mem) (a : Nat) (bs : List Byte) : Mem :=
  m.filter (fun c => c.1 < a) ++ (Mem.cells a bs ++ m.filter (fun c => a + bs.length ≤ c.1))

def Mem.le (m : Mem) (a n : Nat) : Nat := leVal (m.read a n)

/-- Write those bytes of a block whose position the mask lets through. -/
def Mem.writeMasked (m : Mem) (a : Nat) (bs : List Byte) (keep : Nat → Bool) : Mem :=
  m.write a ((List.range bs.length).map fun i =>
    if keep i then bs.getD i 0 else m.byte (a + i))

/-! ### Poison (R281): 32-byte granules -/

def granules (a n : Nat) : List Nat := if n = 0 then [] else (List.range ((a + n - 1) / 32 + 1 - a / 32)).map (· + a / 32)

def poisonedIn (p : List Nat) (a n : Nat) : Bool := (granules a n).any p.contains

/-- A write clears the poison of the granules it covers whole, and poisons those it touches when its data is poisoned. -/
def poisonAfter (p : List Nat) (a n : Nat) (bad : Bool) : List Nat :=
  if bad then (granules a n).foldl (fun q g => if q.contains g then q else g :: q) p
  else p.filter fun g => !(decide (a ≤ 32 * g) && decide (32 * g + 32 ≤ a + n))

/-! ### The physical map (R193) -/

inductive Place where
  | hbm (deckB : Bool)
  | tier (quay : Nat)
  | host
  | remote (slot : Nat) (addr : Nat)
  | hole
  deriving DecidableEq, Repr

def placeOf (pa : Nat) : Place :=
  if pa < 0x003000000000 then .hbm false
  else if pa < 0x006000000000 then .hbm true
  else if pa ≥ 0x80000000000000 then (if pa < 2 ^ 56 then .remote (bitsOf pa 54 43) (bitsOf pa 42 0) else .hole)
  else if pa ≥ 0x40000000000000 then .host
  else if pa ≥ 0x010000000000 ∧ pa < 0x010000000000 + 8 * 0x004000000000 then
    (if (pa - 0x010000000000) % 0x004000000000 < 192 * 2 ^ 30 then .tier ((pa - 0x010000000000) / 0x004000000000) else .hole)
  else .hole

/-- Device memory: what HBM and the capacity tier hold. -/
def isDevice (pa : Nat) : Bool :=
  match placeOf pa with
  | .hbm _ => true
  | .tier _ => true
  | _ => false

/-- The home slice of a device line (R194); a retired slice hands its lines to the next one of the deck. -/
def homeSlice (maps : Maps) (pa : Nat) : Nat :=
  let d := match placeOf pa with
    | .hbm b => if b then 1 else 0
    | _ => bitsOf pa 12 12
  let j := pa / 128 * 0x9E3779B9 % 2 ^ 32 * 192 / 2 ^ 32
  let order := (List.range 192).map fun k => 192 * d + (j + k) % 192
  (order.find? fun l => ((maps.slice.toList.getD l none).isSome)).getD (192 * d + j)

/-- The scratchpad window (R192). -/
def windowBase : Nat := 0x1FFFFFFFFE00000
def inWindow (va : Nat) : Bool := windowBase ≤ va && va < windowBase + 2 ^ 21

/-! ### Cores -/

/-- Make core c the focused one. -/
def State.focus (s : State) (c : Nat) : State :=
  if s.core.id = c then s
  else match s.rest.find? (fun k => k.id == c) with
    | none => s
    | some k => { s with core := k, rest := s.rest.map fun r => if r.id = c then s.core else r }

/-- Change every core. -/
def State.mapCores (s : State) (f : Core → Core) : State := { s with core := f s.core, rest := s.rest.map f }

def State.onCore (s : State) (f : Core → Core) : State := { s with core := f s.core }

def State.cores (s : State) : List Core := s.core :: s.rest

/-- Change every core, resident or saved. -/
def State.mapAllCores (s : State) (f : Core → Core) : State :=
  let s := s.mapCores f
  { s with hm := { s.hm with tasks := s.hm.tasks.map fun (t : Task) => { t with saved := t.saved.map f } } }

/-- All cores, resident and saved. -/
def State.allCores (s : State) : List Core := s.cores ++ s.hm.tasks.flatMap (·.saved)

def State.coreOf (s : State) (c : Nat) : Option Core := s.cores.find? fun k => k.id == c

def State.taskOf (s : State) (n : Nat) : Option Task := s.hm.tasks.find? fun t => t.num == n

/-- The task the focused core runs for. -/
def State.task (s : State) : Option Task := s.taskOf s.core.part.task

def State.mapTask (s : State) (n : Nat) (f : Task → Task) : State :=
  { s with hm := { s.hm with tasks := s.hm.tasks.map fun t => if t.num = n then f t else t } }

def State.cardOf (s : State) (n : Nat) : Option Card := s.hm.cards.find? fun c => c.num == n

/-- Card bits (R239). -/
def Card.bits (c : Card) (hi lo : Nat) : Nat := bitsOf c.raw.toNat hi lo

def State.root (s : State) : Nat := (s.task.map (·.root)).getD 0

/-! ### Staged writes of a contained node (R274) -/

/-- A node stages its writes while its card has contain = 1 and it has not become uncontained. -/
def State.contained (s : State) (t : Task) : Bool :=
  !t.unc && (match s.cardOf t.card with | some c => c.bits 257 257 == 1 | none => false)

def lookupStaged (st : List (Nat × Byte)) (a : Nat) : Option Byte := (st.find? fun p => p.1 == a).map (·.2)

/-- Bytes as an agent of the task sees them: its staged writes over memory. -/
def State.viewBytes (s : State) (t : Option Task) (pa n : Nat) : List Byte :=
  let bs := s.mem.read pa n
  match t with
  | none => bs
  | some t =>
    if t.staged.isEmpty then bs
    else (List.range n).map fun i => (lookupStaged t.staged (pa + i)).getD (bs.getD i 0)

/-- The bytes of a row that the task's own CUPDs have staged (R159). -/
def stagedRow (t : Option Task) (key : Nat) : Option StagedRow := t.bind fun t => t.stagedRows.find? fun r => r.key == key

/-- Bytes of a resident row as the task sees them: what its CUPDs have staged over the cache's. -/
def viewWay (t : Option Task) (w : Way) : List Byte := ((stagedRow t w.key).map (·.data)).getD w.data

/-- Is a granule of memory poisoned, as an agent of the task sees it? -/
def State.granuleBad (s : State) (t : Option Task) (g : Nat) : Bool :=
  match t.bind fun t => t.stagedBad.find? fun p => p.1 == g with
  | some p => p.2
  | none => s.poison.contains g

/-! ### Performing writes at their home (R199, R213) -/

/-- A write to the line of an armed monitor ends its watch (R214). -/
def Core.monitorHit (c : Core) (pa n : Nat) : Core :=
  match c.sync.monitor with
  | some m =>
    if !m.nothing && decide (pa < m.line + 128) && decide (m.line < pa + n) then
      { c with sync := { c.sync with monitor := some { m with hit := true } } }
    else c
  | none => c

/-! ### The memory-side caches (R164 to R167) -/

/-- Sets of a Quay's cache: 384 MiB in 128-byte lines, 16 ways. -/
def cacheSetOf (line : Nat) : Nat := Config.cacheSet line % 196608

/-- The line that makes room in a full set: of the lowest priority present, the least recently used; none when all 16 are
pinned. `l` lists the set, most recently used first. -/
def cacheVictim (l : List CacheLine) : Option CacheLine :=
  l.foldl (fun b x => if x.win.isSome then b else match b with | none => some x | some y => if x.prio ≤ y.prio then some x else b) none

/-- A line enters the cache, when its set has room for it. -/
def cacheEnter (l : List CacheLine) (x : CacheLine) : List CacheLine :=
  let set := l.filter fun y => cacheSetOf y.line == cacheSetOf x.line
  if set.length < 16 then x :: l
  else match cacheVictim set with
    | some v => x :: l.filter fun y => y.line != v.line
    | none => l

/-- An access to a line: `alloc` is the priority at which it allocates, or none; `win` the pinned window that it lies in. An allocating
hint gives a line that is present its priority (DESIGN CHOICE, log 87: R164 says only what a hint of 0 does there). -/
def cacheAccess (l : List CacheLine) (line : Nat) (alloc win : Option Nat) : List CacheLine :=
  match l.find? fun x => x.line == line with
  | some x =>
    (match win, alloc with
    | some w, _ => { x with win := some w } :: l.filter fun y => y.line != line
    | none, some p => { x with prio := p } :: l.filter fun y => y.line != line
    | none, none => l)
  | none =>
    match win, alloc with
    | some w, _ => cacheEnter l ⟨line, 0, some w⟩
    | none, some p => cacheEnter l ⟨line, p, none⟩
    | none, none => l

def linesOf (pa n : Nat) : List Nat := if n = 0 then [] else (List.range ((pa + n - 1) / 128 + 1 - pa / 128)).map (· + pa / 128)

/-- The priority of a hint (R164): 0b100 to 0b111 allocate. -/
def hintPrio (h : Nat) : Option Nat := if 4 ≤ h then some (h - 4) else none

def State.mapQuay (s : State) (q : Nat) (f : Quay → Quay) : State :=
  if h : q < 8 then { s with quays := s.quays.set q (f (s.quays.get ⟨q, h⟩)) h } else s

def Window.covers (w : Window) (pa n : Nat) : Bool := w.span.any fun r => decide (pa < r.1 + r.2) && decide (r.1 < pa + n)

/-- The lines of an access to a Quay's memory go through its cache. -/
def State.cached (s : State) (pa n : Nat) (alloc : Option Nat) : State :=
  if s.windows.isEmpty && alloc.isNone then s
  else match placeOf pa with
    | .tier q => s.mapQuay q fun x => { x with cache := (linesOf pa n).foldl (fun l line =>
        cacheAccess l line alloc ((s.windows.find? fun w => w.covers (128 * line) 128).map (·.num))) x.cache }
    | _ => s

/-- An access to memory: it hits the pinned windows it touches (R167). -/
def State.touch (s : State) (pa n : Nat) : State :=
  if s.windows.isEmpty then s
  else
    let mark (w : Window) : Window := if w.covers pa n then { w with hit := true } else w
    { s.cached pa n none with windows := s.windows.map mark }

/-- A write performed in memory. -/
def State.store (s : State) (pa : Nat) (bs : List Byte) (bad : Bool := false) : State :=
  if bs.isEmpty then s
  else
    let s := { s.touch pa bs.length with mem := s.mem.write pa bs, poison := poisonAfter s.poison pa bs.length bad }
    s.mapCores fun c => c.monitorHit pa bs.length

/-- The granules of a row's bytes at its Quay; a row's poisoned granules are named by their place in this list. -/
def rowGranules (home : List (Nat × Nat)) : List Nat := home.flatMap fun r => granules r.1 r.2

/-- Write a row at its Quay, with its poison (R281). -/
def State.storeRow (s : State) (home : List (Nat × Nat)) (data : List Byte) (bad : List Nat) : State :=
  let s := (home.foldl (fun (a : State × List Byte) r => (a.1.store r.1 (a.2.take r.2), a.2.drop r.2)) (s, data)).1
  { s with poison := (bad.filterMap fun i => (rowGranules home)[i]?).foldl (fun p g => if p.contains g then p else g :: p) s.poison }

/-- Perform a staged row (R159): in the cache when the row is resident, else at its Quay, after a write-back of the row that has not
arrived; a promotion that has read the row is abandoned (R158). -/
def State.performRow (s : State) (r : StagedRow) : State :=
  let bad := if r.bad then List.range (rowGranules r.home).length else []
  if s.hot.ways.any fun w => w.key == r.key then
    let put (w : Way) : Way := if w.key = r.key then { w with data := r.data, dirty := true, bad := bad } else w
    { s with hot := { s.hot with ways := s.hot.ways.map put } }
  else
    let s := if r.hot then
        { s with hot := { s.hot with backs := s.hot.backs.filter fun w => w.key != r.key } }.storeRow r.home r.data bad
      else s
    { s with hot := { s.hot with promos := s.hot.promos.map fun (p : Promotion) => if p.key = r.key then { p with dead := true } else p } }

/-- A granule's poison as the last staged write left it. -/
def State.performPoison (s : State) (p : Nat × Bool) : State :=
  { s with poison := if p.2 then (if s.poison.contains p.1 then s.poison else p.1 :: s.poison) else s.poison.filter (· != p.1) }

/-- Commit what a node has staged, oldest first (R274). -/
def State.commit (s : State) (n : Nat) : State :=
  match s.taskOf n with
  | none => s
  | some t =>
    let s := t.staged.reverse.foldl (fun s p => s.store p.1 [p.2]) s
    let s := t.stagedBad.reverse.foldl State.performPoison s
    let s := t.stagedRows.reverse.foldl State.performRow s
    s.mapTask n fun t => { t with staged := [], stagedBad := [], stagedRows := [], lines := [] }

/-- The node becomes uncontained (R274). -/
def State.uncontain (s : State) (n : Nat) : State :=
  match s.taskOf n with
  | none => s
  | some t =>
    if s.contained t then
      (s.commit n).mapTask n fun t => { t with unc := true }
    else s

/-- Lines that a write adds to those staged. -/
def addLines (l : List Nat) (pa n : Nat) : List Nat := (linesOf pa n).foldl (fun l x => if l.contains x then l else x :: l) l

/-- What a write leaves of its granules' poison, newest first. -/
def stagePoison (pa n : Nat) (bad : Bool) : List (Nat × Bool) :=
  if bad then (granules pa n).map fun g => (g, true)
  else ((granules pa n).filter fun g => decide (pa ≤ 32 * g) && decide (32 * g + 32 ≤ pa + n)).map fun g => (g, false)

/-- A device-memory write by the focused core's task: staged while the node is contained (R274), else performed. The
staging budget is 16 MiB in whole lines. -/
def State.taskStore (s : State) (pa : Nat) (bs : List Byte) (bad : Bool := false) : State :=
  match s.task with
  | none => s.store pa bs bad
  | some t =>
    if s.contained t then
      let lines := addLines t.lines pa bs.length
      if lines.length * 128 > 16 * 2 ^ 20 then (s.uncontain t.num).store pa bs bad
      else
        let new := ((List.range bs.length).map fun i => (pa + i, bs.getD i 0)).reverse
        let s := s.mapTask t.num fun t =>
          { t with staged := new ++ t.staged, stagedBad := stagePoison pa bs.length bad ++ t.stagedBad, lines := lines }
        s.mapCores fun c => if c.part.task = t.num then c.monitorHit pa bs.length else c
    else s.store pa bs bad

/-! ### Views: trees read as memory (R221, R222, R232) -/

/-- A root record (R222). -/
structure RootRec where
  mark    : Nat
  depth   : Nat
  region  : Nat
  code    : Bool
  length  : Nat
  version : Nat
  deriving DecidableEq, Repr

def rootOf (x : Nat) : RootRec :=
  ⟨bitsOf x 127 0, bitsOf x 135 128, bitsOf x 141 136, bitsOf x 142 142 == 1, bitsOf x 191 144, bitsOf x 255 192⟩

def State.line (s : State) (region mark : Nat) : Option Line :=
  s.bond.lines.find? fun l => l.region == region && l.mark.toNat == mark

/-- Bytes of the line a mark names, live or dying (R219, R223); none when no such line is held. -/
def State.lineBytes (s : State) (region mark : Nat) : Option (List Byte) :=
  if mark = 0 then some (List.replicate 128 0) else (s.line region mark).map (·.data)

/-- The mark of leaf i below a mark that roots a tree of depth d (R221); none at a dangling interior mark. A root slot whose length passes
its tree's 128 · 8^d bytes has the leaf taken modulo 8^d (DESIGN CHOICE, log 89: the spec is silent on the bytes past the tree). -/
def State.leafMark (s : State) (region : Nat) : Nat → Nat → Nat → Option Nat
  | 0, mark, _ => some mark
  | d + 1, mark, i =>
    if mark = 0 then some 0
    else match s.lineBytes region mark with
      | none => none
      | some bs => State.leafMark s region d (leVal ((bs.drop (16 * (i / 8 ^ d % 8))).take 16)) i

/-- The bytes of leaf i of a root record: zeros beyond its length (R221). -/
def State.leafBytes (s : State) (r : RootRec) (i : Nat) : Option (List Byte) :=
  match s.leafMark r.region r.depth r.mark i with
  | none => none
  | some m => (s.lineBytes r.region m).map fun bs =>
      (List.range 128).map fun j => if 128 * i + j < r.length then bs.getD j 0 else 0

/-- Cause codes of R261 that this file raises. -/
def cTrInvalid : Nat := 0x10
def cTrFormat : Nat := 0x11
def cTrProt : Nat := 0x12
def cTrRange : Nat := 0x13
def cBondWrite : Nat := 0x0B
def cPaHole : Nat := 0x128
def cRemoteKey : Nat := 0x129
def cUncorrectable : Nat := 0x148
def cBondPlace : Nat := 0x139

/-- Bytes under the stores that a core's region buffer holds (R269). -/
def underBuffer (buf : List BufStore) (pa : Nat) (bs : List Byte) : List Byte :=
  (List.range bs.length).map fun i =>
    buf.foldl (fun b st => if st.pa ≤ pa + i ∧ pa + i < st.pa + st.bytes.length then st.bytes.getD (pa + i - st.pa) 0 else b)
      (bs.getD i 0)

/-- A view's record (R222, R232, R233), under the reading core's own buffered stores: its bytes, or the fault of a record that is
no device memory. One in the remote window is REMOTE_KEY (DEDUCED, log 89: R233's remote view, and not R222's place of a root slot). -/
def State.viewRecord (s : State) (t : Option Task) (buf : List BufStore) (rcd : Nat) : Except Nat (List Byte) :=
  match placeOf rcd with
  | .hole => .error cPaHole
  | .host => .error cBondPlace
  | .remote _ _ => .error cRemoteKey
  | _ => .ok (underBuffer buf rcd (s.viewBytes t rcd 40))

/-- One byte of a view (R232) with a record: the byte, or TR_FORMAT. -/
def State.viewByte (s : State) (record : List Byte) (va : Nat) : Option Byte :=
  let slot := rootOf (leVal (record.take 32))
  let vb := leVal (record.drop 32)
  if va < vb then none
  else
    let o := va - vb
    if o ≥ slot.length then some 0 else (s.leafBytes slot (o / 128)).map fun bs => bs.getD (o % 128) 0

/-! ### The core's own stores that are not performed yet (R269, R354) -/

def Stream.isWrite (x : Stream) : Bool := match x.bind with | some b => b.write | none => false

/-- Pushed elements that wait to be written, oldest first (R56). -/
def Stream.pushed (x : Stream) : List StreamElem := x.old ++ (if x.isWrite then x.fifo else [])

/-- The pushes of the regions at depth d and inside them are dropped (R269, R271). -/
def Stream.dropRegion (x : Stream) (d : Nat) : Stream :=
  let keep (l : List StreamElem) : List StreamElem := l.filter fun e => decide (e.depth < d)
  let y := { x with old := keep x.old, fifo := if x.isWrite then keep x.fifo else x.fifo }
  if y.pushed.isEmpty && x.isWrite then { y with stop := none, told := false } else y

/-- Every pushed element that waits. -/
def Core.pushes (c : Core) : List StreamElem := c.copy.streams.toList.flatMap Stream.pushed

/-- The stores that stand behind a FENCE (R204). -/
def Core.fencedStores (c : Core) : List BufStore :=
  c.copy.fenced.flatMap fun f => match f.op with | .store parts => parts | _ => []

/-- The core's translated stores that are not performed yet: those of its regions (R269), and those behind a FENCE. -/
def Core.waiting (c : Core) : List BufStore := c.regions.buf ++ c.fencedStores

/-- The byte that an element stores at an address, if its mask lets it through. -/
def StreamElem.at' (e : StreamElem) (va : Nat) : Option Byte :=
  if e.addr ≤ va ∧ va < e.addr + 256 ∧ e.keep.getLsbD (va - e.addr) then some (e.data.extractLsb' (8 * (va - e.addr)) 8)
  else none

def BufStore.at' (b : BufStore) (pa : Nat) : Option Byte :=
  if b.pa ≤ pa ∧ pa < b.pa + b.bytes.length then some (b.bytes.getD (pa - b.pa) 0) else none

/-- The newest of the waiting stores' bytes for one address. -/
def newestByte (buf : List BufStore) (es : List StreamElem) (va pa : Nat) (b : Byte) : Byte :=
  let all := buf.filterMap (fun x => (x.at' pa).map fun y => (x.num, y)) ++ es.filterMap fun e => (e.at' va).map fun y => (e.num, y)
  (all.foldl (fun best p => if best.1 ≤ p.1 then p else best) (0, b)).2

/-- Bytes of a page table as a walk for the core sees them: the stores that it has issued stand over memory (R429). -/
def Core.overTable (c : Core) (pa : Nat) (bs : List Byte) : List Byte :=
  if c.waiting.isEmpty then bs else (List.range bs.length).map fun i => newestByte c.waiting [] 0 (pa + i) (bs.getD i 0)

/-- Do the core's own waiting stores cover all of n bytes? -/
def Core.coversTable (c : Core) (pa n : Nat) : Bool := (List.range n).all fun i => c.waiting.any fun x => (x.at' (pa + i)).isSome

/-! ### Translation (R195 to R198) -/

/-- One level of the walk: index field, entries' table alignment for the next level, page size of a leaf here. -/
structure Level where
  lo    : Nat
  width : Nat
  next  : Nat
  page  : Nat
  deriving DecidableEq, Repr

def levels : List Level := [⟨44, 13, 2 ^ 16, 0⟩, ⟨31, 13, 2 ^ 13, 2 ^ 31⟩, ⟨21, 10, 2 ^ 8, 2 ^ 21⟩, ⟨16, 5, 0, 2 ^ 16⟩]

/-- A page-table entry as a walk reads it: for a task, under the waiting stores of the core that the walk is for (R429). -/
def State.tableEntry (s : State) (t : Option Task) (a : Nat) : Nat :=
  let bs := s.viewBytes t a 8
  leVal (if t.isSome then s.core.overTable a bs else bs)

/-- Is an entry poisoned where no waiting store covers it (R281)? -/
def State.entryBad (s : State) (t : Option Task) (a : Nat) : Bool :=
  s.granuleBad t (a / 32) && !(t.isSome && s.core.coversTable a 8)

/-- Walk the remaining levels from a table (R195, R196): a translation, or the cause. A table at an unpopulated address is PA_HOLE
(R193), and so is one in the remote window, whether or not the context has a fabric group (DESIGN CHOICE, log 89: the spec does not say
that a walker reaches another module). A poisoned entry is UNCORRECTABLE (R281). -/
def State.walkFrom (s : State) (t : Option Task) (root va : Nat) : List Level → Nat → Except Nat Xlat
  | [], _ => .error cTrFormat
  | l :: rest, table =>
    let a := table + 8 * (va / 2 ^ l.lo % 2 ^ l.width)
    if (match placeOf table with | .hole => true | .remote _ _ => true | _ => false) then .error cPaHole else
    if s.entryBad t a then .error cUncorrectable else
    let e := s.tableEntry t a
    let pa := bitsOf e 55 8 * 256
    if e % 2 = 0 then .error cTrInvalid
    else if bitsOf e 7 5 ≠ 0 ∨ bitsOf e 63 56 ≠ 0 then .error cTrFormat
    else if bitsOf e 1 1 = 1 then
      if l.page = 0 ∨ pa % l.page ≠ 0 then .error cTrFormat
      else .ok ⟨root, va / l.page, l.page, pa, bitsOf e 2 2 == 1, bitsOf e 3 3 == 1, bitsOf e 4 4 == 1⟩
    else if l.next = 0 ∨ pa % l.next ≠ 0 then .error cTrFormat
    else State.walkFrom s t root va rest pa

/-- The table entries that a walk reads. -/
def State.walkReads (s : State) (t : Option Task) (va : Nat) : List Level → Nat → List Nat
  | [], _ => []
  | l :: rest, table =>
    let a := table + 8 * (va / 2 ^ l.lo % 2 ^ l.width)
    let e := s.tableEntry t a
    a :: (if e % 4 = 1 then State.walkReads s t va rest (bitsOf e 55 8 * 256) else [])

/-- A page walk is a read of its tables (R167). -/
def State.touchWalk (s : State) (t : Option Task) (root va : Nat) : State :=
  if s.windows.isEmpty then s else (s.walkReads t va levels root).foldl (fun s a => s.touch a 8) s

/-- Who translates: the walker of the core's deck; the Pier's for an engine (R198); or the Pier's for the Harbourmaster under
a queue's own root (R444). -/
inductive Via where
  | deck
  | pier
  | hm (root : Nat)
  deriving DecidableEq, Repr

def hitIn (l : List Xlat) (root va : Nat) : Option Xlat := l.find? fun x => x.root == root && x.page == va / x.size

/-- Decks (R11): cores 112 to 223 stand on Deck B. -/
def onDeckB (core : Nat) : Bool := 112 ≤ core

/-- Translate without the permission check. The cached translation is used while it is held (R198); a fresh one is
cached; an invalid entry is not. -/
def State.xlat (s : State) (via : Via) (va : Nat) : State × Except Nat Xlat :=
  let root := s.root
  let pier (t : Option Task) (root : Nat) : State × Except Nat Xlat :=
    match hitIn s.walkP root va with
    | some x => (s, .ok x)
    | none =>
      let s := s.touchWalk t root va
      match s.walkFrom t root va levels root with
      | .ok x => ({ s with walkP := x :: s.walkP }, .ok x)
      | .error c => (s, .error c)
  if va ≥ 2 ^ 57 then (s, .error cTrRange)
  else if inWindow va then (s, .error cTrInvalid)
  else match via with
    | .pier => pier s.task root
    | .hm r => pier none r
    | .deck =>
      let b := onDeckB s.core.id
      match hitIn s.core.tlb root va with
      | some x => (s, .ok x)
      | none =>
        match hitIn (if b then s.walkB else s.walkA) root va with
        | some x => ({ s with core := { s.core with tlb := x :: s.core.tlb } }, .ok x)
        | none =>
          let s := s.touchWalk s.task root va
          match s.walkFrom s.task root va levels root with
          | .ok x =>
            let s := { s with core := { s.core with tlb := x :: s.core.tlb } }
            ((if b then { s with walkB := x :: s.walkB } else { s with walkA := x :: s.walkA }), .ok x)
          | .error c => (s, .error c)

/-- No walker holds a translation of a context any more (R198, R279). -/
def State.dropWalks (s : State) (root : Nat) : State :=
  let keep (x : Xlat) : Bool := x.root != root
  { s with walkA := s.walkA.filter keep, walkB := s.walkB.filter keep, walkP := s.walkP.filter keep }

/-- What stops an access: a translation fault (cause, address), or an imprecise fatal fault. -/
inductive MemErr where
  | trans (code va : Nat)
  | fatal (code : Nat)
  deriving DecidableEq, Repr

/-- What a failed translation of an address is to its access. -/
def xlatErr (code va : Nat) : MemErr := if code = cPaHole ∨ code = cUncorrectable then .fatal code else .trans code va

/-- Translate an access of `len` bytes page by page, with R197's and R233's write checks. -/
def State.pieces (s : State) (via : Via) (write : Bool) : Nat → Nat → Nat → State × Except MemErr (List Piece)
  | 0, _, _ => (s, .ok [])
  | fuel + 1, va, len =>
    if len = 0 then (s, .ok [])
    else
      match s.xlat via va with
      | (s, .error c) => (s, .error (xlatErr c va))
      | (s, .ok x) =>
        if write && x.bond then (s, .error (.trans cBondWrite va))
        else if write && !x.w then (s, .error (.trans cTrProt va))
        else
          let n := min len (x.size - va % x.size)
          match State.pieces s via write fuel (va + n) (len - n) with
          | (s, .error e) => (s, .error e)
          | (s, .ok ps) => (s, .ok (⟨va, x.pa + va % x.size, n, x⟩ :: ps))

/-! ### Remote memory (R193, R208) -/

/-- The fabric group of a context: ctl.dom3's, when fab is set. -/
def Core.fabGroup (c : Core) : Option Nat :=
  let d := (c.ctl.dom.get 3).toNat
  if bitsOf d 16 16 = 1 then some (bitsOf d 47 32) else none

def Ferry.moduleOf (f : Ferry) (group slot : Nat) : Option Nat :=
  match f.groups.find? fun g => g.1 == group with
  | some g => (g.2.take 4096)[slot]?
  | none => none

/-- The module a remote-window slot names for the focused core; none is unpopulated. -/
def State.moduleAt (s : State) (slot : Nat) : Option Nat :=
  match s.core.fabGroup with
  | some g => s.ferry.moduleOf g slot
  | none => none

/-- Has a path failed, or gone down with its port (R209, R285)? -/
def Ferry.pathDown (f : Ferry) (module : Nat) (path : BitVec 4) : Bool :=
  f.downPaths.any (fun d => d.1 == module && d.2.1 == path) || f.downPorts.contains (Config.ferryPort module path % 8)

/-- The path that serves for a path now: failed ones are replaced (R209), and one whose port is down by the first that works. -/
def Ferry.pathFor (f : Ferry) (module : Nat) (path : BitVec 4) : BitVec 4 :=
  let p := f.downPaths.foldl (fun p d => if d.1 = module ∧ d.2.1 = p then d.2.2 else p) path
  if f.downPorts.isEmpty || !f.pathDown module p then p
  else (((List.range 16).map (BitVec.ofNat 4)).find? fun q => !f.pathDown module q).getD p

/-- The parts of an access that lie in one line each: offset and bytes. -/
def lineCuts (addr n : Nat) : List (Nat × Nat) :=
  (linesOf addr n).map fun l => (Nat.max (128 * l) addr - addr, min (128 * l + 128) (addr + n) - Nat.max (128 * l) addr)

/-- The packets of an access: reads and writes go line by line, an atomic step as one. -/
def packetsOf (op : RemoteOp) (addr : Nat) : List (Nat × RemoteOp) :=
  match op with
  | .read n => (lineCuts addr n).map fun c => (addr + c.1, .read c.2)
  | .write bs => (lineCuts addr bs.length).map fun c => (addr + c.1, .write ((bs.drop c.1).take c.2))
  | op => [(addr, op)]

/-- Send one remote access packet on the path of its line (R208), recorded for R209. -/
def Ferry.post (f : Ferry) (module group : Nat) (key : BitVec 32) (p : Nat × RemoteOp) : Ferry × BitVec 4 :=
  let path := f.pathFor module (Config.ferryPath (2 * (p.1 / 128)))
  ({ f with psn := f.psn + 1, sent := f.sent ++ [Sent.remote module ⟨key, f.addr, f.psn, 0, 0, group, p.1, p.2⟩ path] }, path)

def Ferry.postAll (f : Ferry) (module group : Nat) (key : BitVec 32) : List (Nat × RemoteOp) → Ferry × List (BitVec 4)
  | [] => (f, [])
  | p :: r =>
    let (f, path) := f.post module group key p
    let (f, l) := Ferry.postAll f module group key r
    (f, path :: l)

/-- A remote access of the focused core's context: its packets carry the context's key, and its paths are in use (R209). -/
def State.sendRemote (s : State) (module addr : Nat) (op : RemoteOp) : State :=
  let (f, ps) := s.ferry.postAll module (s.core.fabGroup.getD 0) ((s.task.map (·.key)).getD 0) (packetsOf op addr)
  ({ s with ferry := f }).mapTask s.core.part.task fun t =>
    { t with paths := ps.foldl (fun l p => if l.contains (module, p) then l else (module, p) :: l) t.paths }

/-- What another module answers to a read, and to a write: it performs the access or refuses it (R208). -/
def State.remoteAnswer (s : State) (bs : List Byte) : Except MemErr (List Byte) :=
  if Config.remoteRefuses (s.fresh + bs.length) then .error (.fatal cRemoteKey) else .ok bs

def State.remoteWritten (s : State) : Option MemErr :=
  if Config.remoteRefuses s.fresh then some (.fatal cRemoteKey) else none

/-- One atomic step at another module's home travels as one packet (R210): the old value comes back. -/
def State.remoteAtomic (s : State) (slot addr n : Nat) (op : RemoteOp) : State × Except MemErr Nat :=
  match s.moduleAt slot with
  | none => (s, .error (.fatal cPaHole))
  | some m =>
    let old := leVal ((List.range n).map fun i => Config.remoteByte (s.fresh + i))
    (({ s with fresh := s.fresh + n + 1 }).sendRemote m addr op,
      if Config.remoteRefuses (s.fresh + n) then .error (.fatal cRemoteKey) else .ok old)

/-! ### Reads and writes of the focused core and its commands -/

/-- Bytes of a bonded page (R232): the record is read under `buf`. -/
def State.readView (s : State) (t : Option Task) (buf : List BufStore) (p : Piece) : Except MemErr (List Byte) :=
  match s.viewRecord t buf p.x.pa with
  | .error code => .error (.fatal code)
  | .ok rcd =>
    let bs := (List.range p.len).map fun i => s.viewByte rcd (p.va + i)
    match (List.range p.len).find? fun i => (bs.getD i none).isNone with
    | some i => .error (.trans cTrFormat (p.va + i))
    | none => .ok (bs.map (·.getD 0))

/-- Bytes of one piece as the focused core's task sees them. -/
def State.readPiece (s : State) (p : Piece) : State × Except MemErr (List Byte) :=
  if p.x.bond then (s.touch p.x.pa 40, s.readView s.task [] p)
  else
    match placeOf p.pa with
    | .hole => (s, .error (.fatal cPaHole))
    | .remote slot a =>
      match s.moduleAt slot with
      | none => (s, .error (.fatal cPaHole))
      | some m =>
        let bs := (List.range p.len).map fun i => Config.remoteByte (s.fresh + i)
        (({ s with fresh := s.fresh + p.len + 1 }).sendRemote m a (.read p.len), s.remoteAnswer bs)
    | _ => (s.touch p.pa p.len, .ok (s.viewBytes s.task p.pa p.len))

def State.readPieces (s : State) : List Piece → State × Except MemErr (List Byte)
  | [] => (s, .ok [])
  | p :: ps =>
    match s.readPiece p with
    | (s, .error e) => (s, .error e)
    | (s, .ok bs) =>
      match State.readPieces s ps with
      | (s, .error e) => (s, .error e)
      | (s, .ok r) => (s, .ok (bs ++ r))

/-- Is any byte of the access, or of the record of a view it reads, poisoned? -/
def State.poisonedAt (s : State) (ps : List Piece) : Bool :=
  ps.any fun p => (if p.x.bond then granules p.x.pa 40 else granules p.pa p.len).any fun g => s.granuleBad s.task g

/-- Read memory through translation. -/
def State.readVa (s : State) (via : Via) (va len : Nat) : State × Except MemErr (List Byte) :=
  match s.pieces via false (len + 1) va len with
  | (s, .error e) => (s, .error e)
  | (s, .ok ps) =>
    let bad := s.poisonedAt ps
    match s.readPieces ps with
    | (s, .ok bs) => (s, if bad then .error (.fatal cUncorrectable) else .ok bs)
    | r => r

/-- A transfer that carries a hint (R164). -/
def State.hinted (s : State) (ps : List Piece) (hint : Nat) : State :=
  match hintPrio hint with
  | none => s
  | some p => ps.foldl (fun s x => if x.x.bond then s else s.cached x.pa x.len (some p)) s

/-- Write one piece: device memory (staged in a contained node), host memory or the remote window (either of which makes
the node uncontained, R274). Poisoned data never goes out (R281). -/
def State.writePiece (s : State) (p : Piece) (bs : List Byte) (bad : Bool) : State × Option MemErr :=
  match placeOf p.pa with
  | .hole => (s, some (.fatal cPaHole))
  | .remote slot a =>
    match s.moduleAt slot with
    | none => (s, some (.fatal cPaHole))
    | some m =>
      if bad then (s, some (.fatal cUncorrectable)) else
      ((({ s with fresh := s.fresh + 1 }).uncontain s.core.part.task).sendRemote m a (.write bs), s.remoteWritten)
  | .host => ((s.uncontain s.core.part.task).store p.pa bs bad, none)
  | _ => (s.taskStore p.pa bs bad, none)

def State.writePieces (s : State) (bad : Bool) : List Piece → List Byte → State × Option MemErr
  | [], _ => (s, none)
  | p :: ps, bs =>
    match s.writePiece p (bs.take p.len) bad with
    | (s, some e) => (s, some e)
    | (s, none) => State.writePieces s bad ps (bs.drop p.len)

/-- Write memory through translation: an engine write. -/
def State.writeVa (s : State) (via : Via) (va : Nat) (bs : List Byte) (bad : Bool := false) : State × Option MemErr :=
  match s.pieces via true (bs.length + 1) va bs.length with
  | (s, .error e) => (s, some e)
  | (s, .ok ps) => s.writePieces bad ps bs

/-! ### The core's own reads (R199) -/

/-- Bytes of memory as the core sees them under its own waiting stores. -/
def Core.underOwn (c : Core) (p : Piece) (bs : List Byte) : List Byte :=
  if c.waiting.isEmpty && c.pushes.isEmpty then bs
  else (List.range bs.length).map fun i => newestByte c.waiting c.pushes (p.va + i) (p.pa + i) (bs.getD i 0)

/-- Does a waiting store of the core cover a byte? -/
def Core.ownCovers (c : Core) (va pa : Nat) : Bool :=
  c.waiting.any (fun x => (x.at' pa).isSome) || c.pushes.any fun e => (e.at' va).isSome

/-- Is a byte that the core's own read takes from memory poisoned? -/
def State.poisonedOwn (s : State) (ps : List Piece) : Bool :=
  if s.core.waiting.isEmpty && s.core.pushes.isEmpty then s.poisonedAt ps
  else ps.any fun p =>
    if p.x.bond then s.poisonedAt [p]
    else (List.range p.len).any fun i => s.granuleBad s.task ((p.pa + i) / 32) && !s.core.ownCovers (p.va + i) (p.pa + i)

/-- A core's own read (LD): its waiting stores over the task's view. -/
def State.readOwn (s : State) : List Piece → State × Except MemErr (List Byte)
  | [] => (s, .ok [])
  | p :: ps =>
    let one : State × Except MemErr (List Byte) :=
      if p.x.bond then (s.touch p.x.pa 40, s.readView s.task s.core.waiting p)
      else match s.readPiece p with
        | (s, .error e) => (s, .error e)
        | (s, .ok bs) => (s, .ok (s.core.underOwn p bs))
    match one with
    | (s, .error e) => (s, .error e)
    | (s, .ok bs) =>
      match State.readOwn s ps with
      | (s, .error e) => (s, .error e)
      | (s, .ok r) => (s, .ok (bs ++ r))

end Sys2Proof.Machine
end

