-- ==== Sys2Proof/Machine/Ops.lean ====
section
/-! DEFINITION. The named operations over a core: registers and the landing of results (R43 to R47, R44), the scratchpad
and the region log (R48 to R50, R268), the outcome of a slot (R61, R85), ending a core's part (R24, R402), taking a trap
(R254 to R260) and returning from it (R264, R405, R406), and the end of a bundle (R58, R86, R87, R262, R368). -/

namespace Sys2Proof.Machine

/-! ### Cause codes (R261) -/

def cIllegalInstruction : Nat := 0x01
def cIllegalBundle : Nat := 0x02
def cIllegalOperation : Nat := 0x03
def cTileBusy : Nat := 0x04
def cStreamEnd : Nat := 0x05
def cSpadRange : Nat := 0x06
def cMisalign : Nat := 0x07
def cRoutineBad : Nat := 0x08
def cDivBusy : Nat := 0x09
def cRegionOp : Nat := 0x0A
def cSwTrap : Nat := 0x0C
def cBreakpoint : Nat := 0x0D
def cScaleStale : Nat := 0x14
def cNestedTrap : Nat := 0x100
def cDomMismatch : Nat := 0x101
def cSyncPlace : Nat := 0x130
def cSyncMode : Nat := 0x131
def cSyncOwner : Nat := 0x132
def cChkFail : Nat := 0x149
def cPoison : Nat := 0x14A

/-! ### Registers -/

/-- s0 reads as zero (R43). -/
def Core.getS (c : Core) (r : BitVec 6) : Word := if r = 0 then 0 else c.regs.s.get r.toFin
/-- q0 reads as true (R43). -/
def Core.getQ (c : Core) (r : BitVec 4) : Bool := if r = 0 then true else c.regs.q.get r.toFin
def Core.getV (c : Core) (r : BitVec 5) : VReg := c.regs.v.get r.toFin
/-- m0 reads as all ones (R46). -/
def Core.getM (c : Core) (r : BitVec 3) : Mask := if r = 0 then BitVec.allOnes 256 else c.regs.m.get r.toFin

/-- A write to s0 is discarded (R43). -/
def Core.setS (c : Core) (r : BitVec 6) (x : Word) : Core :=
  if r = 0 then c else { c with regs := { c.regs with s := c.regs.s.set r.toNat x r.isLt } }
def Core.setQ (c : Core) (r : BitVec 4) (x : Bool) : Core :=
  if r = 0 then c else { c with regs := { c.regs with q := c.regs.q.set r.toNat x r.isLt } }
def Core.setV (c : Core) (r : BitVec 5) (x : VReg) : Core :=
  { c with regs := { c.regs with v := c.regs.v.set r.toNat x r.isLt } }
/-- A write to m0 is discarded (R46). -/
def Core.setM (c : Core) (r : BitVec 3) (x : Mask) : Core :=
  if r = 0 then c else { c with regs := { c.regs with m := c.regs.m.set r.toNat x r.isLt } }

def Latch.value (l : Latch) (k : Nat) : Word := if k = 0 then l.src0 else if k = 1 then l.src1 else l.src2

/-- Source operand k of the slot (0 base or a, 1 b, 2 data or d): the register, or the latch on a replay (R264). -/
def Core.src (c : Core) (k : Nat) (r : BitVec 6) : Word :=
  match c.issue.replay with
  | some l => l.value k
  | none => c.getS r

/-- The address that s(r) names: on a replay the latch's effective address (R256, R406). -/
def Core.srcAddr (c : Core) (r : BitVec 6) : Word :=
  match c.issue.replay with
  | some l => l.ea
  | none => c.getS r

/-- Is s(r) the destination of a pending load (R31)? A faulted load keeps its register through the handler (R263). A slot that
writes s(r) then stalls. -/
def Core.pendingW (c : Core) (r : BitVec 6) : Bool :=
  r != 0 && (c.loads.any (fun l => l.dest == r) || c.handler.loads.any (fun l => l.dest == r))

/-- The register of an s result. -/
def Result.sDest : Result → Option (BitVec 6)
  | .s d _ => some d
  | _ => none

/-- A slot that reads s(r) stalls for the same loads, and for a legacy MUL or MULH whose result is due in this very cycle (R96). -/
def Core.pending (c : Core) (r : BitVec 6) : Bool :=
  c.pendingW r || (r != 0 && c.flight.any fun f => f.slow && f.land == c.fetch.cycle && f.res.sDest == some r)

/-! ### Slot predicates (R43, R61, R69) -/

/-- A slot executes when q XOR neg is true; LOOPF suppresses it; a replayed slot was found true before (R262). -/
def Core.active (c : Core) (g : Guard) : Bool :=
  c.issue.replay.isSome || (!c.issue.suppressed && (c.getQ g.q != g.neg))

/-! ### The pool and the scratchpad (R48 to R50) -/

def Core.rf (c : Core) : Nat := bitsOf c.ctl.part.toNat 6 0
def Core.sp (c : Core) : Nat := bitsOf c.ctl.part.toNat 13 7
def Core.accGranules (c : Core) : Nat := bitsOf c.ctl.part.toNat 20 14
def Core.spBytes (c : Core) : Nat := c.sp * 16384
/-- First byte of the scratchpad share in the pool. -/
def Core.spBase (c : Core) : Nat := (c.rf + c.accGranules) * 16384
/-- First byte of the trap-frame area in the scratchpad (R49). -/
def Core.frameOff (c : Core) : Nat := c.ctl.frame.toNat

def Core.poolRead (c : Core) (a n : Nat) : List Byte := c.pool.read a n
def Core.poolWrite (c : Core) (a : Nat) (bs : List Byte) (bad : Bool := false) : Core :=
  if bs.isEmpty then c
  else { c with pool := c.pool.write a bs, poison := poisonAfter c.poison a bs.length bad }

def Core.spRead (c : Core) (off n : Nat) : List Byte := c.poolRead (c.spBase + off) n
def Core.spWrite (c : Core) (off : Nat) (bs : List Byte) (bad : Bool := false) : Core := c.poolWrite (c.spBase + off) bs bad
/-- Does [off, off + n) lie in the scratchpad share? -/
def Core.inShare (c : Core) (off n : Nat) : Bool := decide (off + n ≤ c.spBytes)
/-- Does it lie below the trap-frame area? -/
def Core.belowFrame (c : Core) (off n : Nat) : Bool := decide (off + n ≤ c.frameOff)

/-! ### Errors that regions catch (R271, R273) and fatal faults (R266) -/

def Core.depth (c : Core) : Nat := c.regions.stack.length

/-- An imprecise fault, fatal to the context: taken by the event IMPRECISE_FAULT. -/
def Core.fatal (c : Core) (code : Nat) : Core := { c with bound := { c.bound with fatal := c.bound.fatal ++ [code] } }

/-- A caught error: the innermost region rolls back at the next boundary, with R65's why code; outside every region the
error goes to R274 or R266. -/
def Core.caught (c : Core) (why code : Nat) : Core :=
  if c.depth > 0 then
    (if c.bound.rollback.isSome then c else { c with bound := { c.bound with rollback := some why } })
  else c.fatal code

/-- The same where a command or a matrix item meets the error. -/
def Core.unitCaught (c : Core) (why code : Nat) : Core :=
  let d := c.caught why code
  if c.bound.rollback.isNone && d.bound.rollback.isSome then { d with bound := { d.bound with byUnit := true } } else d

/-- A command or a matrix item consumes a poisoned value (R271, R281). -/
def Core.unitUncorrectable (c : Core) : Core := c.unitCaught 1 cUncorrectable

/-- A fatal memory error that one meets. -/
def Core.unitFatal (c : Core) (code : Nat) : Core := if code = cUncorrectable then c.unitUncorrectable else c.fatal code

/-- The core consumes a poisoned value, or one with an uncorrectable error (R271, R281). -/
def Core.uncorrectable (c : Core) : Core := c.caught 1 cUncorrectable

/-- A value has been consumed; `bad` says that it was poisoned. -/
def Core.consumed (c : Core) (bad : Bool) : Core := if bad then c.uncorrectable else c

/-- Is a 64-byte block of the scratchpad poisoned? -/
def Core.blockBad (c : Core) (off : Nat) : Bool := poisonedIn c.poison (c.spBase + off) 64

/-! ### The region log (R268) -/

def padTo8 (n : Nat) : Nat := (n + 7) / 8 * 8

/-- A log record: header, then the old bytes padded to a multiple of 8. -/
def logRecord (kind loc : Nat) (data : List Byte) : List Byte :=
  toBytes 8 (loc % 2 ^ 21 + kind * 2 ^ 24 + data.length * 2 ^ 32) ++ data ++ List.replicate (padTo8 data.length - data.length) 0

/-- Append a record; none when it does not fit. -/
def Core.logAppend (c : Core) (kind loc : Nat) (data : List Byte) : Option Core :=
  let r := logRecord kind loc data
  if c.regions.logPos + r.length > c.regions.logEnd then none
  else
    let c := c.spWrite c.regions.logPos r
    some { c with regions := { c.regions with logPos := c.regions.logPos + r.length } }

/-- Append several; the flag says whether all fitted. Those that did stay (R268). -/
def Core.logAll (c : Core) : List (Nat × Nat × List Byte) → Core × Bool
  | [] => (c, true)
  | (k, l, d) :: r =>
    match c.logAppend k l d with
    | none => (c.caught 4 0, false)
    | some c => Core.logAll c r

/-- Write the bytes of a block that `keep` lets through by position; a granule stays poisoned unless all 32 of its bytes are
overwritten (R281). -/
def Core.spPut (c : Core) (off : Nat) (bs : List Byte) (keep : Nat → Bool) : Core :=
  let a := c.spBase + off
  let old := c.poolRead a bs.length
  { c with
    pool := c.pool.write a ((List.range bs.length).map fun i => if keep i then bs.getD i 0 else old.getD i 0)
    poison := c.poison.filter fun g =>
      !(decide (a ≤ 32 * g) && decide (32 * g + 32 ≤ a + bs.length) && (List.range 32).all fun j => keep (32 * g + j - a)) }

/-- A scratchpad store of the core: ranges of (offset, bytes) with one undo record each inside a region, then the bytes
under `keep` by position (R268, R50). Nothing is written when a record does not fit. -/
def Core.spStore (c : Core) (parts : List (Nat × List Byte × (Nat → Bool))) : Core :=
  let (c, ok) :=
    if c.depth > 0 then c.logAll (parts.map fun p => (0, p.1, c.spRead p.1 p.2.1.length)) else (c, true)
  if ok then parts.foldl (fun c p => c.spPut p.1 p.2.1 p.2.2) c else c

/-! ### Results in flight (R29, R30, R44, R62) -/

/-- The latency of a class: the context's legacy byte when it names one (R96), else R62's. -/
def Core.latency (c : Core) (cls dflt : Nat) : Nat :=
  match c.part.lat with
  | some l => if l.getD cls 0 = 0 then dflt else l.getD cls 0
  | none => dflt

/-- The issue cycle of the bundle being executed: a replayed one stands in the cycle before the next bundle's (R264). -/
def Core.issueCycle (c : Core) : Nat := if c.fetch.replay.isSome then c.fetch.cycle - 1 else c.fetch.cycle

/-- Put a result in flight: it lands `lat` issue cycles after this one. -/
def Core.send (c : Core) (res : Result) (lat unit : Nat) (twin : Twin := .none) (div slow : Bool := false) : Core :=
  { c with flight := c.flight ++ [⟨res, c.issueCycle + lat, unit, c.issueCycle, c.issue.slot, twin, div, slow⟩] }

/-- The twin latch of a landing .dup result, with an armed injection of kind 0 or 1 (R76, R337). -/
def Core.landTwin (c : Core) (isQ : Bool) : Twin → Core
  | .none => c
  | .s p t =>
    match c.inject.get 0 with
    | none => { c with twinS := ⟨p, t, true⟩ }
    | some k =>
      { c with twinS := ⟨p, t ^^^ ((1 : Word) <<< (if isQ then 0 else k.toNat % 64)), true⟩, inject := c.inject.set 0 none }
  | .v p t =>
    match c.inject.get 1 with
    | none => { c with twinV := ⟨p, t, true⟩ }
    | some k => { c with twinV := ⟨p, t ^^^ ((1 : VReg) <<< (k.toNat % 2048)), true⟩, inject := c.inject.set 1 none }

/-- Write rows v(d), v(d+1), ... (R358). -/
def Core.setRows (c : Core) : Nat → List VReg → Core
  | _, [] => c
  | d, x :: xs => Core.setRows (c.setV (BitVec.ofNat 5 d) x) (d + 1) xs

/-- A result that lands in s(d) discards the legacy MUL and MULH results for it that an earlier operation issued (R96). -/
def Core.dropSlow (c : Core) (d : BitVec 6) (issued slot : Nat) : Core :=
  if c.flight.any (·.slow) then
    { c with flight := c.flight.filter fun f =>
        !(f.slow && f.res.sDest == some d && (decide (f.issued < issued) || (f.issued == issued && decide (f.slot < slot)))) }
  else c

/-- One result lands (R44). -/
def Core.landOne (c : Core) (f : Flight) : Core :=
  match f.res with
  | .s d x => ((c.setS d x).dropSlow d f.issued f.slot).landTwin false f.twin
  | .q d x => (c.setQ d x).landTwin true f.twin
  | .v d x keep => (c.setV d ((x &&& keep) ||| (c.getV d &&& ~~~keep))).landTwin false f.twin
  | .vv d x y => ((c.setV d x).setV (d + 1) y).landTwin false f.twin
  | .m d x keep => (c.setM d ((x &&& keep) ||| (c.getM d &&& ~~~keep))).landTwin false f.twin
  | .scale side t => { c with mx := if side then { c.mx with scaleR := some t } else { c.mx with scaleL := some t } }
  | .rows d xs poison =>
    let c := c.setRows d.toNat xs
    if poison then c.uncorrectable else c

/-- Insertion by issue cycle and slot: later operations land last, so their results are kept (R44). -/
def insertFlight (f : Flight) : List Flight → List Flight
  | [] => [f]
  | g :: r => if f.issued < g.issued ∨ (f.issued = g.issued ∧ f.slot < g.slot) then f :: g :: r else g :: insertFlight f r

def sortFlight (l : List Flight) : List Flight := l.foldl (fun acc f => insertFlight f acc) []

/-- Land the results that `due` names. -/
def Core.landThose (c : Core) (due : Flight → Bool) : Core :=
  (sortFlight (c.flight.filter due)).foldl Core.landOne { c with flight := c.flight.filter fun f => !due f }

/-- Land every result whose landing cycle has come. -/
def Core.landDue (c : Core) : Core := c.landThose fun f => decide (f.land ≤ c.fetch.cycle)

/-- The same before a bundle issues: a legacy MUL or MULH result due in this cycle is there one clock later (R96). -/
def Core.landReady (c : Core) : Core :=
  c.landThose fun f => decide (f.land < c.fetch.cycle) || (f.land == c.fetch.cycle && !f.slow)

/-! ### Scoreboarded loads (R31, R263, R365) -/

/-- A load returns its value (not its fault); a poisoned value raises UNCORRECTABLE as it lands, and EINJ kind 2 marks the
next LD to return (R337). -/
def Core.returnLoad (c : Core) (l : Load) : Core :=
  let c := (c.setS l.dest l.value).dropSlow l.dest c.fetch.cycle 0
  let hit := !l.atomic && (c.inject.get 2).isSome
  let c := if hit then { c with inject := c.inject.set 2 none } else c
  if l.poison || hit then c.uncorrectable else c

/-! ### Accesses that wait for earlier ones (R204, R213, R241, R354, log 81) -/

/-- The place of an access of the slot being executed among the core's accesses; a replayed slot comes after the bundle of
the TRET that resumes it. -/
def Core.stamp (c : Core) : Nat :=
  2 ^ 64 + 8 * c.issueCycle + (if c.fetch.replay.isSome then 4 else 0) + c.issue.slot

/-- The accesses of the core that are still to be performed: its pushes, and what waits behind them. -/
def Core.unperformed (c : Core) : List Nat := c.pushes.map (·.num) ++ c.copy.fenced.map (·.num)

/-- Those that stand before the core's FENCEs: its later accesses come after them. -/
def Core.fenceLeft (c : Core) : List Nat := c.copy.fence.filter c.unperformed.contains

/-- An access that waits for others takes its place in the order. -/
def Core.holdAccess (c : Core) (after : List Nat) (op : FencedOp) : Core :=
  { c with copy := { c.copy with fenced := c.copy.fenced ++ [⟨c.stamp, after, op⟩] } }

def FencedOp.isLoad : FencedOp → Bool
  | .load _ => true
  | _ => false

def FencedOp.isMonitor : FencedOp → Bool
  | .monitor _ => true
  | _ => false

/-- The held accesses of a kind are given up. -/
def Core.dropHeld (c : Core) (kind : FencedOp → Bool) : Core :=
  if c.copy.fenced.any fun f => kind f.op then
    { c with copy := { c.copy with fenced := c.copy.fenced.filter fun f => !kind f.op } }
  else c

/-- The line that a waiting MON will arm (R213). -/
def Core.heldMonitor (c : Core) : Option Nat :=
  c.copy.fenced.findSome? fun f => match f.op with | .monitor line => some line | _ => none

/-- Every load that has its value returns. A load that met a fault stays, as does one whose access stands behind a FENCE (R204, log 81). -/
def Core.settleLoads (c : Core) : Core :=
  let good (l : Load) : Bool := l.fault.isNone && !l.late
  (c.loads.filter good).foldl Core.returnLoad { c with loads := c.loads.filter fun l => !good l }

/-- Has the load no value yet and none coming: it met a fault, or, an LD, its access stands behind a FENCE (log 81)? -/
def Load.unmet (l : Load) : Bool := l.fault.isSome || (l.late && !l.atomic)

/-- Step 2 of R254: every outstanding LD returns or is recorded as faulted-pending. One that a FENCE holds back cannot return: it is recorded
too, and TRET reissues it (DEDUCED, log 81). -/
def Core.drainLoads (c : Core) : Core :=
  let bad := c.loads.filter Load.unmet
  let c := c.settleLoads.dropHeld FencedOp.isLoad
  { c with loads := c.loads.filter (!·.unmet), handler := { c.handler with loads := c.handler.loads ++ bad } }

/-! ### Ending a core's part (R24, R41, R402) -/

/-- The core stops issuing: results, loads, twin latches and monitor are discarded, open regions lose their buffered
stores, and the commands stopped on a reported fault end with it (R265). The part is over once its commands and releases
are (CORE_PART_END). -/
def Core.endPart (c : Core) (aborted : Bool) : Core :=
  let codes := c.copy.cmds.filterMap fun k => k.stop.map (·.1)
  let streamCodes := c.copy.streams.toList.filterMap fun w => (if c.depth > 0 then w.dropRegion 1 else w).stop.map (·.1)
  let mxCode := match c.mx.stop with | some p => [p.1] | none => []
  let c := c.dropHeld FencedOp.isMonitor
  { c with
    flight := [], loads := []
    handler := Handler.reset
    twinS := ⟨0, 0, false⟩, twinV := ⟨0, 0, false⟩
    mx := { c.mx with pend := [] }
    sync := { c.sync with monitor := none, waiting := [] }
    regions := ⟨[], 0, 0, 0, [], []⟩
    copy := { c.copy with streams := c.copy.streams.map fun w => { w.dropRegion 1 with stop := none, told := false } }
    fetch := { c.fetch with redirect := none, skip := none, replay := none, after := false }
    bound := { c.bound with rollback := none, byUnit := false, faulted := [], sample := false, fatal := c.bound.fatal ++ codes ++ streamCodes ++ mxCode }
    part := { c.part with status := .ending aborted } }

/-- The abort line is sampled at the boundary that the core has come to (R41). -/
def Core.sampleHere (c : Core) : Core := { c with bound := { c.bound with sample := true } }

/-! ### The trap frame (R256 to R259) -/

def zeros (n : Nat) : List Byte := List.replicate n 0

def latchAt (ls : List Latch) (k : Nat) : List Byte :=
  match ls.find? fun l => l.slot == k with
  | some l => toBytes 8 l.src0.toNat ++ toBytes 8 l.src1.toNat ++ toBytes 8 l.src2.toNat ++ toBytes 8 l.ea.toNat
  | none => zeros 32

/-- Two's-complement residue of an integer. -/
def wrapTo (w : Nat) (i : Int) : Nat := (i % (2 ^ w : Nat)).toNat

def padList {α : Type} (n : Nat) (x : α) (l : List α) : List α := (l ++ List.replicate n x).take n

/-- R258. -/
def loopRecord (l : LoopLevel) : List Byte :=
  toBytes 2 l.start ++ toBytes 2 l.stop ++ toBytes 4 l.trip ++ toBytes 4 l.left ++ [1, 0, 0, 0] ++
    ((padList 6 (0, 0) l.strides).map fun p => toBytes 1 p.1.toNat ++ toBytes 7 (wrapTo 56 p.2)).flatten

/-- Counters i0 to i3 of a stream at its position (R55). -/
def streamCounters : Nat → List (Nat × Int) → List Nat
  | _, [] => []
  | p, (c, _) :: r => (if c = 0 then 0 else p % c) :: streamCounters (if c = 0 then 0 else p / c) r

/-- A stream's record (R256): its FIFO holds what is left of an earlier binding too (R56). -/
def streamRecord (w : Stream) : List Byte :=
  let held := toBytes 4 (w.old.length + w.fifo.length)
  match w.bind with
  | none => zeros 16 ++ held ++ zeros 12
  | some b => ((padList 4 0 (streamCounters w.pos b.dims)).map (toBytes 4)).flatten ++ held ++ [if b.write then 3 else 1] ++ zeros 11

def ringWord (h : Ring) : Nat :=
  h.first.toNat + h.n.toNat * 2 ^ 6 + h.prod.toNat * 2 ^ 16 + h.cons.toNat * 2 ^ 32 + h.kbar.toNat * 2 ^ 48

def resultKind : Result → Nat
  | .s _ _ => 0
  | .q _ _ => 1
  | .v _ _ _ => 2
  | .vv _ _ _ => 2
  | .m _ _ _ => 3
  | .scale _ _ => 4
  | .rows _ _ _ => 5

def resultDest : Result → Nat
  | .s d _ => d.toNat
  | .q d _ => d.toNat
  | .v d _ _ => d.toNat
  | .vv d _ _ => d.toNat
  | .m d _ _ => d.toNat
  | .scale side _ => if side then 1 else 0
  | .rows d _ _ => d.toNat

def resultValue : Result → Nat
  | .s _ x => x.toNat
  | .q _ x => if x then 1 else 0
  | _ => 0

/-- R259, kinds 0 to 5: the entry of a frozen result, counted from issue cycle `u`, in latch `i` of its unit. -/
def flightEntry (i u : Nat) (f : Flight) : List Byte :=
  let k := resultKind f.res
  toBytes 16 (resultValue f.res + resultDest f.res * 2 ^ 64 + k * 2 ^ 70 + f.unit * 2 ^ 73 + (f.land - u) * 2 ^ 76 +
    (if f.twin = .none then 0 else 2 ^ 81) + 2 ^ 82 + (if k = 2 ∨ k = 3 ∨ k = 5 then i % 32 * 2 ^ 83 else 0))

/-- The entries of the frozen results: each unit numbers its latches in entry order. -/
def flightEntries (u : Nat) : List Flight → List Flight → List (List Byte)
  | _, [] => []
  | before, f :: r => flightEntry (before.filter fun g => g.unit == f.unit).length u f :: flightEntries u (before ++ [f]) r

/-- R259, kind 6. -/
def loadEntry (l : Load) : List Byte :=
  toBytes 16 (l.va.toNat + l.dest.toNat * 2 ^ 64 + 6 * 2 ^ 70 + l.unit * 2 ^ 73 + 2 ^ 82 + l.size.toNat * 2 ^ 88 + l.bidx * 2 ^ 90 +
    (if l.bank then 2 ^ 101 else 0) + l.slot * 2 ^ 102)

/-- What a trap is about (R257): `addr` is the address for ctl.fault, `ret` the retired slots of a bundle that is
replayed, `eng` the engine when src is 2. -/
structure TrapInfo where
  code    : Nat
  slot    : Nat
  src     : Nat
  eng     : Nat
  addr    : Option Nat
  replay  : Bool
  ret     : Nat
  latches : List Latch
  deriving DecidableEq, Repr

def numbered {α : Type} : Nat → List α → List (Nat × α)
  | _, [] => []
  | i, x :: xs => (i, x) :: numbered (i + 1) xs

/-- Order of the frame's entries: faulted-pending loads, then results by landing cycle. -/
def insertByLand (f : Flight) : List Flight → List Flight
  | [] => [f]
  | g :: r => if f.land < g.land then f :: g :: r else g :: insertByLand f r

/-- ctl.cause (R65). -/
def causeWord (code slot : Nat) : Word := BitVec.ofNat 64 (code + 2 ^ 16 + slot % 4 * 2 ^ 17)
def faultWord (va : Nat) : Word := BitVec.ofNat 64 (va % 2 ^ 57 + 2 ^ 63)

/-- The line that a MON has armed, or that it arms once the accesses before it are performed; one that names no device line arms nothing
(R213, log 81). -/
def Core.armed (c : Core) : Option Nat := ((c.sync.monitor.filter fun m => !m.nothing).map (·.line)).or c.heldMonitor

/-- The frame's header (R257). -/
def frameHeader (c : Core) (t : TrapInfo) (epc nent : Nat) : List Byte :=
  let b (x : Bool) (k : Nat) : Nat := if x then 2 ^ k else 0
  let rtgt := match c.fetch.redirect with | some r => r.target + (if r.flip then 1 else 0) | none => 0
  let mline := c.armed.getD 0
  toBytes 64 (epc + c.ctl.cause.toNat * 2 ^ 64 + c.ctl.fault.toNat * 2 ^ 128 +
    b c.fetch.redirect.isSome 192 + b t.replay 193 + t.ret % 16 * 2 ^ 194 +
    b c.fetch.written 198 + b c.armed.isSome 199 + b c.sync.restored 200 + t.src * 2 ^ 201 + t.eng * 2 ^ 203 +
    nent * 2 ^ 206 + rtgt * 2 ^ 256 + mline * 2 ^ 320)

/-- The whole 4 KiB frame (R256). -/
def frameBytes (c : Core) (t : TrapInfo) (epc : Nat) (entries : List (List Byte)) : List Byte :=
  frameHeader c t epc entries.length ++
  ((List.range 4).map (latchAt t.latches)).flatten ++
  toBytes 8 ((List.range 16).foldl (fun a i => if c.getQ (BitVec.ofNat 4 i) then a + 2 ^ i else a) 0) ++ zeros 56 ++
  ((List.range 8).map fun i => toBytes 32 (c.getM (BitVec.ofNat 3 i)).toNat).flatten ++
  ((List.range 6).map fun i => match c.loops[i]? with | some l => loopRecord l | none => zeros 64).flatten ++
  (c.copy.streams.toList.map streamRecord).flatten ++
  (c.rings.toList.map fun h => toBytes 8 (ringWord h)).flatten ++
  toBytes 8 c.copy.aq0.length ++ toBytes 8 c.copy.aq1.length ++ toBytes 8 c.copy.dq0.length ++ toBytes 8 c.copy.dq1.length ++
  ((List.range 4).map fun i => match c.regions.stack.reverse[i]? with
    | some r => toBytes 8 r.target ++ toBytes 4 r.logMark ++ toBytes 4 r.bufMark ++ zeros 16
    | none => zeros 32).flatten ++
  toBytes 8 c.twinS.primary.toNat ++ toBytes 8 c.twinS.twin.toNat ++
  toBytes 1 ((if c.twinS.valid then 1 else 0) + (if c.twinV.valid then 2 else 0)) ++ zeros 15 ++ zeros 64 ++
  toBytes 256 c.twinV.primary.toNat ++ toBytes 256 c.twinV.twin.toNat ++
  entries.flatten ++ zeros (2048 - 16 * entries.length)

/-! ### Taking a trap (R254) -/

/-- Take a trap at the present boundary, with ctl.epc := `epc`: in handler state it is NESTED_TRAP (R260); without a
handler the task ends FAULTED with its cause. -/
def Core.takeTrap (c : Core) (t : TrapInfo) (epc : Nat) : Core :=
  if c.handler.active then c.fatal cNestedTrap
  else if c.ctl.tvec = 0 then c.fatal t.code
  else
    let c := c.drainLoads.landDue
    let t := match c.fetch.replay with
      | some r => if t.replay then t else { t with replay := true, ret := r.ret, latches := r.latches }
      | none => t
    let frozen := c.flight.foldl (fun acc f => insertByLand f acc) []
    let k := c.handler.loads.length
    let entries := c.handler.loads.map loadEntry ++ flightEntries c.fetch.cycle [] frozen
    let c := { c with ctl := { c.ctl with
      cause := causeWord t.code t.slot, epc := BitVec.ofNat 64 epc
      fault := match t.addr with | some va => faultWord va | none => c.ctl.fault } }
    let c := c.spWrite c.frameOff (frameBytes c t epc entries)
    { c with
      flight := []
      loops := []
      handler := ⟨true, (numbered k frozen).map fun p => (p.1, { p.2 with land := p.2.land - c.fetch.cycle }), c.handler.loads,
        epc, c.fetch.after, c.fetch.skip, c.sync.waiting, c.loops⟩
      sync := { c.sync with waiting := [] }
      fetch := { c.fetch with pc := c.ctl.tvec.toNat, redirect := none, skip := none, replay := none, after := false } }

/-- The outcome of a meaning. -/
abbrev Outcome := Host.Outcome State Fault Refusal

/-! ### The outcome of a slot (R32, R33, R61, R85) -/

def State.flow (s : State) (f : Flow) : State := s.onCore fun c => { c with issue := { c.issue with flow := f } }

/-- A precise trap found at issue (R85): no slot of the bundle has any effect, ctl.epc holds the bundle's address. -/
def State.trapAt (s : State) (code slot : Nat) : State :=
  (s.onCore fun c => c.takeTrap ⟨code, slot, 0, 0, none, false, 0, []⟩ c.fetch.pc).flow .trapped

/-- The rule of every slot: without effect when predicate-false (R61), else its first failing state check traps (R85 step
3), else it stalls (step 4), else it takes effect. `checked` says that the whole bundle has passed both steps. -/
def State.slot (s : State) (on : Bool) (bad : Option Nat) (stall : Bool) (effect : State → State) : State :=
  if !on then s.flow .ran
  else if s.core.issue.checked then effect (s.flow .ran)
  else match bad with
    | some code => s.trapAt code s.core.issue.slot
    | none => if stall then s.flow .stalled else effect (s.flow .ran)

/-- A check of operand values waits with the slot while a register it reads is the destination of a pending load (R31,
R263): the value to check is not there yet. -/
def known (pend : Bool) (bad : Option Nat) : Option Nat := if pend then none else bad

/-- The first of the named checks that fails. -/
def firstBad : List (Bool × Nat) → Option Nat
  | [] => none
  | (b, c) :: r => if b then some c else firstBad r

/-- The checks that need no pending register are made at once; the others wait with the slot. -/
def checks (now : List (Bool × Nat)) (pend : Bool) (later : List (Bool × Nat)) : Option Nat :=
  match firstBad now with
  | some c => some c
  | none => known pend (firstBad later)

/-- Record a slot that faulted in translation: taken at the boundary after the bundle (R262). -/
def Core.slotFault (c : Core) (code va : Nat) (l : Latch) : Core :=
  { c with bound := { c.bound with faulted := c.bound.faulted ++ [(code, va, l)] } }

/-- What a memory error does to the slot that met it: a translation fault is replayable, anything else fatal. -/
def Core.memFault (c : Core) (e : MemErr) (l : Latch) : Core :=
  match e with
  | .trans code va => c.slotFault code va l
  | .fatal code => if code = cUncorrectable then c.uncorrectable else c.fatal code

/-- What a memory error does to an access whose slot has retired: it is fatal. -/
def Core.lateFault (c : Core) (e : MemErr) : Core :=
  match e with
  | .trans code _ => c.fatal code
  | .fatal code => if code = cUncorrectable then c.uncorrectable else c.fatal code

/-! ### Loops and redirects (R58, R87, R368) -/

/-- No legal bundle address (R68, R82). -/
def targetBad (t : Nat) : Bool := decide (t > 0x7FF0) || t % 16 != 0

/-- Add every stride of a level to its register; no issue cycle (R58). -/
def Core.addStrides (c : Core) : List (BitVec 6 × Int) → Core
  | [] => c
  | (r, t) :: rest => Core.addStrides (c.setS r (c.getS r + BitVec.ofInt 64 t)) rest

/-- The next bundle in sequence, with the iteration ends that fall on the bundle at `pc`: levels innermost last. -/
def Core.sequence (c : Core) (pc : Nat) : Nat → Core
  | 0 => { c with fetch := { c.fetch with pc := (pc + 16) % 0x8000 } }
  | fuel + 1 =>
    match c.loops.getLast? with
    | none => { c with fetch := { c.fetch with pc := (pc + 16) % 0x8000 } }
    | some l =>
      if l.stop ≠ pc then { c with fetch := { c.fetch with pc := (pc + 16) % 0x8000 } }
      else
        let c := c.addStrides l.strides
        if l.left > 1 then
          ({ c with loops := c.loops.dropLast ++ [{ l with left := l.left - 1 }]
                    fetch := { c.fetch with pc := l.start } }).sampleHere
        else Core.sequence { c with loops := c.loops.dropLast } pc fuel

/-- A redirect ends every level whose body its target leaves, and every level nested in it (R87). Pending counts of the
levels it ends stay, except at a rollback (R364). -/
def keepLevels (target : Nat) : List LoopLevel → List LoopLevel
  | [] => []
  | l :: r => if l.start ≤ target ∧ target ≤ l.stop then l :: keepLevels target r else []

def Core.redirectTo (c : Core) (r : Redirect) : Core :=
  { c with
    loops := if r.flip then [] else keepLevels r.target c.loops
    fetch := { c.fetch with pc := r.target, redirect := none, ibank := c.fetch.ibank != r.flip } }

/-- Where fetch goes after the bundle at pc: after a LOOP, its body's first bundle, before which the abort line is sampled,
or past the body (R368); a pending redirect is taken after its delay bundle; `branchy` says that this
bundle holds a branch-class operation, whose redirect waits for the next bundle (R86). -/
def Core.advance (c : Core) (branchy : Bool) : Core :=
  let c := { c with fetch := { c.fetch with after := branchy, replay := none } }
  match c.fetch.redirect with
  | some r => if branchy then c.sequence c.fetch.pc 7 else c.redirectTo r
  | none =>
    match c.fetch.skip with
    | some t =>
      let c := { c with fetch := { c.fetch with pc := t, skip := none } }
      if c.loops.any (fun l => l.start == t && l.left == l.trip) then c.sampleHere else c
    | none => c.sequence c.fetch.pc 7

/-- Slots 0 to 3 that are not among the faulted ones. -/
def retired (fs : List (Nat × Nat × Latch)) : Nat :=
  (List.range 4).foldl (fun a k => if fs.any (fun f => f.2.2.slot == k) then a else a + 2 ^ k) 0

/-- The faulted slot of the lowest number; code 0 marks a slot that only waits for its siblings. -/
def lowestFault (fs : List (Nat × Nat × Latch)) : Option (Nat × Nat × Latch) :=
  (List.range 4).findSome? fun k => fs.find? fun f => f.1 != 0 && f.2.2.slot == k

/-- The replayable trap of a bundle whose slots `fs` faulted, named after the lowest of them (R262). -/
def slotTrap (code va : Nat) (l : Latch) (fs : List (Nat × Nat × Latch)) : TrapInfo where
  code := code
  slot := l.slot
  src := 0
  eng := 0
  addr := if code = cScaleStale then none else some va
  replay := true
  ret := retired fs
  latches := fs.map fun f => f.2.2

/-- The end of a bundle's issue cycle: results land, then a translation fault of a slot is taken (R262) or fetch advances.
A rollback that the bundle raised discards its trap (R280). A replayed bundle takes no issue cycle, and what lands in the
next bundle's cycle lands after it, so a TRET leaves the landing to the bundle it resumes with (R264, R405). -/
def Core.finish (c : Core) (branchy : Bool) (land : Bool := true) : Core :=
  let cyc := if c.fetch.replay.isSome then c.fetch.cycle else c.fetch.cycle + 1
  let c := { c with fetch := { c.fetch with cycle := cyc }, issue := ⟨0, none, false, 0, none, false, .ran⟩ }
  let c := if land then c.landReady else c
  let fs := c.bound.faulted
  let c := { c with bound := { c.bound with faulted := [] } }
  match (if c.bound.rollback.isSome then none else lowestFault fs) with
  | some (code, va, l) =>
    let c := { c with fetch := { c.fetch with
      replay := none
      skip := if c.fetch.skip = some (c.fetch.pc + 16) then c.fetch.skip else none
      redirect := match c.fetch.skip with
        | some t => if t = c.fetch.pc + 16 then c.fetch.redirect else some ⟨t, false⟩
        | none => c.fetch.redirect } }
    c.takeTrap (slotTrap code va l fs) c.fetch.pc
  | none => c.advance branchy

/-- A C-class operation that acts at the boundary after its bundle: the bundle ends, and then `act` (R313, R402, R405). A
sibling's translation fault is taken first, and this slot is then not retired: it acts when the bundle is replayed. -/
def State.boundaryAct (s : State) (act : Core → Core) (land : Bool := true) : State :=
  if s.core.bound.faulted.isEmpty || s.core.bound.rollback.isSome then
    (s.onCore fun c =>
      let c := c.finish false land
      if c.bound.rollback.isSome then c else act c).flow .moved
  else
    (s.onCore fun c => (c.slotFault 0 0 ⟨c.issue.slot, 0, 0, 0, 0⟩).finish false).flow .moved

/-! ### Returning from a trap (R264, R405, R406) -/

/-- The frame's 128-bit entries that the header counts. -/
def entryBits (c : Core) (i : Nat) : Nat := leVal (c.spRead (c.frameOff + 0x800 + 16 * i) 16)

/-- A frozen result as its entry now stands: destination, value and remaining cycles from the frame (R406). -/
def editResult (r : Result) (e : Nat) : Result :=
  let d := bitsOf e 69 64
  match r with
  | .s _ _ => .s (BitVec.ofNat 6 d) (BitVec.ofNat 64 e)
  | .q _ _ => .q (BitVec.ofNat 4 d) (e % 2 == 1)
  | .v _ x k => .v (BitVec.ofNat 5 d) x k
  | .vv _ x y => .vv (BitVec.ofNat 5 d) x y
  | .m _ x k => .m (BitVec.ofNat 3 d) x k
  | .scale _ t => .scale (d % 2 == 1) t
  | .rows _ xs p => .rows (BitVec.ofNat 5 d) xs p

/-- A frozen result as its entry leaves it: an edited value is the primary result that a twin latch records, too (R76, R406). -/
def editFlight (f : Flight) (e : Nat) : Flight :=
  let r := editResult f.res e
  { f with
    res := r
    twin := match f.twin, r with
      | .s _ t, .s _ x => .s x t
      | .s _ t, .q _ b => .s (if b then 1 else 0) t
      | t, _ => t }

/-- Highest legal destination of an entry (R406): the v registers of a pair or of rows must all exist. -/
def destLimit : Result → Nat
  | .s _ _ => 63
  | .q _ _ => 15
  | .v _ _ _ => 31
  | .vv _ _ _ => 30
  | .m _ _ _ => 7
  | .scale _ _ => 1
  | .rows _ xs _ => 32 - xs.length

/-- R406: does an entry of kinds 0 to 5 break its range? -/
def badFlightEdit (f : Flight) (e : Nat) : Bool :=
  bitsOf e 82 82 == 1 && (bitsOf e 80 76 == 0 || decide (bitsOf e 69 64 > destLimit f.res))

def badLoadEdit (l : Load) (e : Nat) : Bool :=
  bitsOf e 82 82 == 1 && (bitsOf e 100 90 != l.bidx || (bitsOf e 101 101 == 1) != l.bank || bitsOf e 103 102 != l.slot)

/-- R406: does an active loop-level record break its range: a bound that is no bundle address, or a register beyond s63? -/
def badLoopEdit (bs : List Byte) : Bool :=
  let at' (o n : Nat) : Nat := leVal ((bs.drop o).take n)
  at' 12 1 % 2 == 1 && (targetBad (at' 0 2) || targetBad (at' 2 2) || (List.range 6).any fun j => decide (at' (16 + 8 * j) 1 > 63))

/-- The frame's loop-level records, level 0 first. -/
def Core.frameLoops (c : Core) : List (List Byte) := (List.range 6).map fun i => c.spRead (c.frameOff + 0x200 + 64 * i) 64

/-- A loop-level record read back (R258). -/
def readLoop (bs : List Byte) : Option LoopLevel :=
  let at' (o n : Nat) : Nat := leVal ((bs.drop o).take n)
  if at' 12 1 % 2 = 0 then none
  else some ⟨at' 0 2, at' 2 2, at' 4 4, at' 8 4,
    (List.range 6).filterMap fun j =>
      if at' (16 + 8 * j) 1 % 64 = 0 then none
      else some (BitVec.ofNat 6 (at' (16 + 8 * j) 1), sext 56 (at' (17 + 8 * j) 7))⟩

/-- The fields TRET loads whatever follows (R256): q, m, twin latches, the idle-bank-written and restored flags. -/
def Core.loadFrame (c : Core) : Core :=
  let rd (o n : Nat) : Nat := leVal (c.spRead (c.frameOff + o) n)
  let hdr := rd 0 64
  let tv := rd 0x5B0 1
  { c with
    regs := { c.regs with
      q := Vector.ofFn fun i : Fin 16 => bitsOf (rd 0xC0 8) i.val i.val == 1
      m := Vector.ofFn fun i : Fin 8 => BitVec.ofNat 256 (rd (0x100 + 32 * i.val) 32) }
    twinS := ⟨BitVec.ofNat 64 (rd 0x5A0 8), BitVec.ofNat 64 (rd 0x5A8 8), tv % 2 == 1⟩
    twinV := ⟨BitVec.ofNat 2048 (rd 0x600 256), BitVec.ofNat 2048 (rd 0x700 256), bitsOf tv 1 1 == 1⟩
    fetch := { c.fetch with written := bitsOf hdr 198 198 == 1 }
    sync := { c.sync with restored := bitsOf hdr 200 200 == 1 } }

/-- Perform the read of a load: the load with its value, or with the fault that it meets. -/
def State.readLoad (s : State) (l : Load) : State × Load :=
  let n := 2 ^ l.size.toNat
  let l := { l with fault := none, late := false }
  match s.pieces .deck false (n + 1) l.va.toNat n with
  | (s, .error (.trans c va)) => (s, { l with fault := some (c, va) })
  | (s, .error (.fatal c)) => (s.onCore fun k => k.fatal c, l)
  | (s, .ok ps) =>
    match s.readOwn ps with
    | (s, .error (.trans c va)) => (s, { l with fault := some (c, va) })
    | (s, .error (.fatal c)) => (s.onCore fun k => k.fatal c, l)
    | (s, .ok bs) => (s, { l with value := BitVec.ofNat 64 (leVal bs), poison := s.poisonedOwn ps })

/-- A load whose access stands behind a FENCE (R204): its translation is done, and its read takes its place in the order. -/
def State.holdLoad (s : State) (l : Load) : State × Load :=
  let n := 2 ^ l.size.toNat
  match s.pieces .deck false (n + 1) l.va.toNat n with
  | (s, .error (.trans c va)) => (s, { l with fault := some (c, va), late := false })
  | (s, .error (.fatal c)) => (s.onCore fun k => k.fatal c, { l with fault := none, late := false })
  | (s, .ok _) => (s.onCore fun c => c.holdAccess c.fenceLeft (.load l.dest), { l with fault := none, late := true })

/-- A load is reissued at its latched address: at once, or behind the FENCE that it comes after. -/
def State.reread (s : State) (l : Load) : State × Load := if s.core.fenceLeft.isEmpty then s.readLoad l else s.holdLoad l

/-- A load TRET reissues, as the frame has it (R264, R438). -/
def State.reissue (s : State) (l : Load) (e : Nat) : State × Load :=
  s.reread { l with va := BitVec.ofNat 64 e, dest := BitVec.ofNat 6 (bitsOf e 69 64) }

def State.reissueAll (s : State) : List (Load × Nat) → State × List Load
  | [] => (s, [])
  | (l, e) :: r =>
    let (s, l) := if bitsOf e 82 82 = 1 then s.reissue l e else (s, l)
    let (s, ls) := State.reissueAll s r
    (s, if bitsOf e 82 82 = 1 then l :: ls else ls)

/-- The replay a frame asks for: its ret bits and the four operand-latch records. -/
def Core.frameReplay (c : Core) : Replay :=
  let rd (o n : Nat) : Nat := leVal (c.spRead (c.frameOff + o) n)
  ⟨bitsOf (rd 0 64) 197 194, (List.range 4).map fun k =>
    ⟨k, BitVec.ofNat 64 (rd (0x40 + 32 * k) 8), BitVec.ofNat 64 (rd (0x48 + 32 * k) 8), BitVec.ofNat 64 (rd (0x50 + 32 * k) 8),
      BitVec.ofNat 64 (rd (0x58 + 32 * k) 8)⟩⟩

/-- A reissued load of a slot faults (R438): the frame keeps what the handler left, but for cause, fault and src. -/
def Core.faultAgain (c : Core) (code va slot : Nat) : Core :=
  let c := { c with ctl := { c.ctl with cause := causeWord code slot, fault := faultWord va } }
  let c := c.spWrite (c.frameOff + 8) (toBytes 8 c.ctl.cause.toNat ++ toBytes 8 c.ctl.fault.toNat)
  let b25 := leVal (c.spRead (c.frameOff + 25) 1)
  let c := c.spWrite (c.frameOff + 25) (toBytes 1 (b25 - bitsOf b25 2 1 * 2 + 2))
  if c.ctl.tvec = 0 then c.fatal code
  else { c with loops := [], fetch := { c.fetch with pc := c.ctl.tvec.toNat, skip := none } }

/-- TRET at the boundary after its bundle: the cycle is already u'. A bad edit raises NESTED_TRAP. A reissued load that
faults enters handler state again with the frame as the handler left it but for cause, fault and src (R438). Engines that
the trap stopped resume: their stops are cleared and the command walks again. -/
def State.trapReturn (s : State) : State :=
  let c := s.core
  let hdr := leVal (c.spRead c.frameOff 64)
  let nent := bitsOf hdr 213 206
  let loads := (numbered 0 c.handler.loads).filterMap fun p => if p.1 < nent then some (p.2, entryBits c p.1) else none
  let frozen := c.handler.frozen.filterMap fun p => if p.1 < nent then some (p.1, p.2, entryBits c p.1) else none
  let rdv := bitsOf hdr 192 192 == 1
  let rt := bitsOf hdr 319 256
  if nent > 128 || loads.any (fun p => badLoadEdit p.1 p.2) || frozen.any (fun p => badFlightEdit p.2.1 p.2.2) ||
      (rdv && targetBad (rt / 2 * 2)) || c.frameLoops.any badLoopEdit then
    s.onCore fun c => c.fatal cNestedTrap
  else
    let s := s.onCore Core.loadFrame
    let (s, back) := s.reissueAll loads
    match back.find? fun l => l.fault.isSome with
    | some l =>
      let (code, va) := l.fault.getD (0, 0)
      s.onCore fun c => (c.dropHeld FencedOp.isLoad).faultAgain code va l.slot
    | none =>
      s.onCore fun c =>
        let u := c.fetch.cycle
        let land := frozen.filterMap fun p =>
          if bitsOf p.2.2 82 82 = 1 then
            some { editFlight p.2.1 p.2.2 with land := u + bitsOf p.2.2 80 76 }
          else none
        { c with
          flight := land ++ c.flight
          loads := c.loads ++ back
          loops := c.frameLoops.filterMap readLoop
          handler := Handler.reset
          sync := { c.sync with waiting := if c.ctl.epc.toNat = c.handler.pc then c.handler.waits else [] }
          fetch := { c.fetch with
            pc := c.ctl.epc.toNat
            redirect := if rdv then some ⟨rt / 2 * 2, rt % 2 == 1⟩ else none
            skip := if c.ctl.epc.toNat = c.handler.pc then c.handler.skip else none
            replay := if bitsOf hdr 193 193 = 1 then some c.frameReplay else none
            after := (c.handler.after && c.ctl.epc.toNat == c.handler.pc) || rdv }
          copy := { c.copy with
            cmds := c.copy.cmds.map fun k => if k.told then { k with stop := none, told := false } else k
            streams := c.copy.streams.map fun w => if w.told then { w with stop := none, told := false } else w }
          mx := if c.mx.told then { c.mx with stop := none, told := false } else c.mx }

end Sys2Proof.Machine
end

