-- ==== Sys2Proof/Machine/Units.lean ====
section
/-! DEFINITION. Classes, units and the composition of a bundle (R61, R74 to R76, R86), and the order in which the model
performs the slots of one bundle (log 10). -/

namespace Sys2Proof.Machine

/-- The class of an operation (R74); `none` for NOP, and for what no slot holds. -/
inductive SlotClass where
  | s | v | m | k | c | none
  deriving DecidableEq, Repr

def slotClass (i : Instr) : SlotClass :=
  match i with
  | .add _ | .and _ | .andn _ | .atom _ | .bfi _ | .bfx _ | .cas _ | .chk _ | .clz _ | .cmp _ | .div _ | .ld _ | .lea _
  | .max _ | .min _ | .movi _ | .mul _ | .mulh _ | .or _ | .plog _ | .popc _ | .rem _ | .sar _ | .sel _ | .shl _ | .shr _
  | .st _ | .sub _ | .xor _ => .s
  | .vabs _ | .vadd _ | .vbcast _ | .vcmp _ | .vcvt _ | .vexp _ | .vfma _ | .vld _ | .vldStream _ | .vldx _ | .vlog _
  | .vmax _ | .vmerge _ | .vmin _ | .vmov _ | .vmul _ | .vperm _ | .vrcp _ | .vred _ | .vrsq _ | .vscan _ | .vsel _
  | .vshf _ | .vst _ | .vstStream _ | .vstx _ | .vsub _ | .vtopk _ => .v
  | .bklend _ | .bklendRet _ | .hstrd _ | .mcall _ | .mcomp _ | .mload _ | .mswap _ | .msync _ | .scld _ | .tdset _ => .m
  | .cbadvProd _ | .cbadvCons _ | .cbwait _ | .kaq _ | .kbar _ | .kbind _ | .kcopy _ | .kdq _ | .kpeer _ | .tlset _
  | .bcopy _ | .bcopyVerify _ | .bdrop _ | .bholdList _ | .bholdRoot _ | .blookLeaf _ | .blookInterior _ | .bread _
  | .breadVerify _ | .bswap _ | .bwalkLeaf _ | .bwalkElement _ | .cupdSgd _ | .cupdAdagrad _ | .cupdRowwiseAdagrad _
  | .cupdAdam _ | .fbktMod _ | .fbktRange _ | .fbktHash _ | .fredAll _ | .fredRoot _ | .fxch _ | .fxchPayload _
  | .hrctlSetGroup _ | .hrctlInvalidateTable _ | .hrctlWriteBack _ | .hrctlClearSketch _ | .l2opUpdate _ | .l2opGather _
  | .qgath _ | .qpoolSplit _ | .qpoolOrdered _ | .skrd _ | .wpin _ | .wpinLoad _ | .wunpin _ => .k
  | .br _ | .jmp _ | .jmpReg _ | .call _ | .callReg _ | .ret _ | .bsel _ | .loop _ | .lcnt _ | .tend _ | .cabort _
  | .yield _ | .brkpt _ | .ifence _ | .ibank _ | .acq _ | .rel _ | .fence _ | .mon _ | .mwait _ | .dbar _ | .ropen _
  | .rkeep _ | .rclose _ | .einj _ | .stest _ | .trap _ | .tret _ | .launch _ | .crd _ | .cwr _ | .xinvPage _
  | .xinvAll _ => .c
  | _ => .none

/-- R86. -/
def isBranch (i : Instr) : Bool :=
  match i with
  | .br _ | .jmp _ | .jmpReg _ | .call _ | .callReg _ | .ret _ | .bsel _ | .ibank _ => true
  | _ => false

/-- Does an S operation carry .dup (R76)? -/
def dupS (i : Instr) : Bool :=
  match i with
  | .add x | .and x | .andn x | .bfi x | .bfx x | .div x | .max x | .min x | .mul x | .mulh x | .or x | .rem x | .sar x
  | .sel x | .shl x | .shr x | .sub x | .xor x => x.dup
  | .clz x | .popc x => x.dup
  | .cmp x => x.dup
  | .plog x => x.dup
  | .movi x => x.dup
  | .lea x => x.dup
  | _ => false

/-- Does a V operation carry .dup? -/
def dupV (i : Instr) : Bool :=
  match i with
  | .vadd x | .vfma x | .vmax x | .vmin x | .vmul x | .vperm x | .vsel x | .vshf x | .vsub x => x.dup
  | .vabs x | .vexp x | .vlog x | .vmov x | .vrcp x | .vrsq x => x.dup
  | .vred x | .vscan x => x.dup
  | .vbcast x => x.dup
  | .vcmp x => x.dup
  | .vcvt x => x.dup
  | .vtopk x => x.dup
  | .vmerge x => x.dup
  | _ => false

/-- The copy unit that owns a queue-bound operation's queue (R57, R75). -/
def queueUnit (i : Instr) : Option Nat :=
  match i with
  | .kaq x => some (if x.aq then 1 else 0)
  | .kdq x => some (if x.dq then 1 else 0)
  | _ => none

abbrev SlotOps := List (Nat × Instr)

def SlotOps.ofClass (ops : SlotOps) (c : SlotClass) : SlotOps := ops.filter fun p => slotClass p.2 == c

/-- The lowest slot of some operations. -/
def lowest (ops : SlotOps) : Nat := ops.foldl (fun n p => min n p.1) 3

/-- Step 2 of R85: the first breach of R74 to R76 and R86, with the lowest slot involved. -/
def composition (c : Core) (ops : SlotOps) : Option Nat :=
  let cls := fun k => SlotOps.ofClass ops k
  let on := fun (n : Nat) => ops.filter fun p => queueUnit p.2 == some n
  let bad := fun (b : Bool) (l : SlotOps) => if b then some (lowest l) else none
  [ bad (decide ((cls .s).length > 2)) (cls .s), bad (decide ((cls .v).length > 2)) (cls .v),
    bad (decide ((cls .m).length > 1)) (cls .m), bad (decide ((cls .k).length > 2)) (cls .k),
    bad (decide ((cls .c).length > 1)) (cls .c),
    bad (decide ((on 0).length > 1)) (on 0), bad (decide ((on 1).length > 1)) (on 1),
    bad ((cls .s).any (fun p => dupS p.2) && decide ((cls .s).length > 1)) (cls .s),
    bad ((cls .v).any (fun p => dupV p.2) && decide ((cls .v).length > 1)) (cls .v),
    bad (c.fetch.after && !(cls .c).isEmpty) (cls .c),
    bad (ops.any (fun p => isBranch p.2) &&
        c.loops.any (fun l => l.stop == c.fetch.pc || l.stop == c.fetch.pc + 16)) (ops.filter fun p => isBranch p.2)
  ].findSome? id

/-- R75: the unit of its class that the operation of a slot takes. -/
def unitOf (ops : SlotOps) (slot : Nat) (i : Instr) : Nat :=
  let before := fun (l : SlotOps) => (l.filter fun p => p.1 < slot).length
  match slotClass i with
  | .s => before (SlotOps.ofClass ops .s)
  | .v => before (SlotOps.ofClass ops .v)
  | .k =>
    match queueUnit i with
    | some u => u
    | none =>
      let taken := ops.filterMap fun p => queueUnit p.2
      let free := [0, 1].filter fun u => !taken.contains u
      free.getD (before ((SlotOps.ofClass ops .k).filter fun p => (queueUnit p.2).isNone)) 0
  | _ => 0

/-- The order of the slots' effects, each after all that must see the state before it (log 10): operations that read
registers, tiles, streams and scratchpad; C operations; TDSET, whose image stands before the bundle's stores (R50, R401);
pushes, which go to the binding from before; KBIND; scratchpad and memory stores; what changes the tiles, rings, banks and ctl.pad that
the others named; and C operations that act at the end of the issue cycle. KBIND and BSEL read the scratchpad as it was before the
bundle (State.performSlot). -/
def slotRank (i : Instr) : Nat :=
  match i with
  | .tdset _ => 2
  | .vstStream _ => 3
  | .kbind _ => 4
  | .st _ | .vst _ | .vstx _ | .atom _ | .cas _ | .hstrd _ | .rkeep _ => 5
  | .cbadvProd _ | .cbadvCons _ | .tlset _ | .bklend _ | .bklendRet _ | .bsel _ => 6
  | .ropen _ | .rclose _ | .cwr _ | .trap _ | .brkpt _ | .tend _ | .cabort _ | .tret _ | .stest _ | .yield _ => 7
  | _ => if slotClass i == .c then 1 else 0

/-- The operations of a bundle in the order of their effects: by rank, then by slot. -/
def inRank (ops : SlotOps) : SlotOps := (List.range 8).flatMap fun r => ops.filter fun p => slotRank p.2 == r

/-- R59: does a LOOPF header suppress the slot in this iteration? -/
def loopfOff (c : Core) (h : Option Header) (slot : Nat) : Bool :=
  match h with
  | some (.loopf first last level) =>
    let f := first.getLsbD slot
    let l := last.getLsbD slot
    (f || l) && (match c.loops[level.toNat]? with
      | some lv => !((f && lv.left == lv.trip) || (l && lv.left == 1))
      | none => false)
  | _ => false

/-- The bits LEND lends to a slot (R72). -/
def lendFor (h : Option Header) (slot : Nat) : Option (BitVec 23) :=
  match h with
  | some (.lend s e) => if s.toNat = slot then some e else none
  | _ => none

/-- R59: a LOOPF naming a level that is not active. -/
def loopfBad (c : Core) (h : Option Header) : Bool :=
  match h with
  | some (.loopf _ _ level) => decide (level.toNat ≥ c.loops.length)
  | _ => false

end Sys2Proof.Machine
end

