-- ==== Sys2Proof/Machine/Image.lean ====
section
/-! DEFINITION. Code images (R94 to R98): the header, the expansion of a body into bundles, the legacy latency table, and
the legality of Usone records. -/

namespace Sys2Proof.Machine

/-- An image's header fields (R94). -/
structure ImageHead where
  kind   : Nat
  body   : Nat
  length : Nat
  entry  : Nat
  lat    : Nat
  deriving DecidableEq, Repr

/-- The header, when it keeps R94's table. -/
def imageHead (bs : List Byte) : Option ImageHead :=
  if bs.length < 64 then none
  else
    let h := leVal (bs.take 64)
    let k : ImageHead := ⟨bitsOf h 39 32, bitsOf h 95 64, bitsOf h 111 96, bitsOf h 127 112, bitsOf h 255 128⟩
    if bitsOf h 31 0 ≠ 0x5A454349 ∨ bitsOf h 47 40 ≠ 1 ∨ bitsOf h 63 48 ≠ 0 ∨ h / 2 ^ 256 ≠ 0 ∨ k.kind > 3 ∨ k.length = 0 ∨
        (k.kind ≠ 3 ∧ k.length > 2048) ∨ k.entry ≥ k.length ∨ (k.kind ≠ 2 ∧ k.lat ≠ 0) then none
    else some k

def nopWord : List Byte := toBytes 4 0xE0000000
def nopBundle : List Byte := nopWord ++ nopWord ++ nopWord ++ nopWord

/-- The slot words after a tag byte (R95). -/
def tagWords : Nat → List Byte → Nat → List Byte
  | _, _, 0 => []
  | mask, bs, n + 1 =>
    if mask % 2 = 1 then bs.take 4 ++ tagWords (mask / 2) (bs.drop 4) n else nopWord ++ tagWords (mask / 2) bs n

def bitCount : Nat → Nat → Nat
  | 0, _ => 0
  | n + 1, m => m % 2 + bitCount n (m / 2)

/-- Expand a kind 1 body into at most n bundles: the bundles whose bytes are all there, the bytes left, and whether nothing
breaks R95 so far. -/
def expandTags : Nat → Nat → List Byte → List (List Byte) × List Byte × Bool
  | 0, _, bs => ([], bs, true)
  | _, _, [] => ([], [], true)
  | fuel + 1, n, t :: r =>
    if n = 0 then ([], t :: r, true)
    else
      let mask := t.toNat % 16
      let run := t.toNat / 16
      if mask = 0 then
        if run + 1 > n then ([], t :: r, false)
        else
          let (out, rest, ok) := expandTags fuel (n - (run + 1)) r
          (List.replicate (run + 1) nopBundle ++ out, rest, ok)
      else if run ≠ 0 then ([], t :: r, false)
      else
        let k := 4 * bitCount 4 mask
        if r.length < k then ([], t :: r, true)
        else
          let (out, rest, ok) := expandTags fuel (n - 1) (r.drop k)
          (tagWords mask r 4 :: out, rest, ok)

/-- Bundles stored one after another (kinds 0 and 2). -/
def splitBundles : Nat → List Byte → List (List Byte)
  | 0, _ => []
  | n + 1, bs => if bs.length < 16 then [] else bs.take 16 :: splitBundles n (bs.drop 16)

/-- R96: the latency of a class under a legacy header, and the limits a legal header keeps. -/
def classLatencies : List Nat := [1, 3, 20, 1, 2, 4, 3, 8, 6, 10, 12, 4, 16]

def legacyBytes (lat : Nat) : List Nat := (List.range 16).map fun c => bitsOf lat (8 * c + 7) (8 * c)

def legacyOk (lat : Nat) : Bool :=
  let bs := legacyBytes lat
  let eff (c : Nat) : Nat := if bs.getD c 0 = 0 then classLatencies.getD c 0 else bs.getD c 0
  let mx (cs : List Nat) : Nat := cs.foldl (fun m c => Nat.max m (eff c)) 0
  (List.range 16).all (fun c =>
    let b := bs.getD c 0
    if c > 12 then b == 0
    else decide (b ≤ 31) && (b == 0 || decide (b ≥ classLatencies.getD c 0) || (c == 1 && b == 2))) &&
  decide (2 * mx [0, 1, 3] + 2 * (mx [4, 5, 6, 7, 8, 9, 10, 11] - 1) + (eff 12 - 1) + 2 ≤ 64)

/-! ### Usone records (R97) -/

/-- A control register as `usesOf` numbers it. -/
def ctlUse (n : Nat) : Nat := 1000 + n

/-- The control number of CRD and CWR with lent bits (R72, R331). -/
def ctlNumber (ext : Option (BitVec 23)) (n : BitVec 10) : Nat :=
  n.toNat + (match ext with | some e => e.toNat % 4 * 1024 | none => 0)

/-- The registers an operation reads and writes, by file: s 0, q 100, v 200, m 300, w 400, and control registers from 1000
by number, where p, h and tile entries stand (R64); what a dep field is held against. With lent bits an immediate stands in
the place of CMP's b, and a rounding slot may name its random-bits register (R72, R409); without them ctl.vround names it.
Where a register is named by a value, any one may be read: RKEEP's scalars (R391), a command's tiles. -/
def usesOf (ext : Option (BitVec 23)) (i : Instr) : List Nat × List Nat :=
  let s (r : BitVec 6) : Nat := r.toNat
  let q (r : BitVec 4) : Nat := 100 + r.toNat
  let v (r : BitVec 5) : Nat := 200 + r.toNat
  let m (r : BitVec 3) : Nat := 300 + r.toNat
  let rnd : List Nat := match ext with
    | some e => if e.extractLsb' 20 3 == 5 then [v (e.extractLsb' 14 5)] else []
    | none => ctlUse 0x00A :: (List.range 32).map (200 + ·)
  let w (r : BitVec 3) : Nat := 400 + r.toNat
  let h (r : BitVec 4) : Nat := ctlUse (0x050 + r.toNat)
  let tl (r : BitVec 6) : Nat := ctlUse (0x080 + r.toNat)
  let tiles : List Nat := (List.range 64).map fun i => ctlUse (0x080 + i)
  match i with
  | .add x | .and x | .andn x | .bfx x | .div x | .max x | .min x | .mul x | .mulh x | .or x | .rem x | .sar x | .sel x
  | .shl x | .shr x | .sub x | .xor x => (q x.g.q :: s x.a :: (if x.i then [] else [s x.b]), [s x.d])
  | .bfi x => (q x.g.q :: s x.a :: s x.d :: (if x.i then [] else [s x.b]), [s x.d])
  | .clz x | .popc x => ([q x.g.q, s x.a], [s x.d])
  | .cmp x => (q x.g.q :: s x.a :: (if ext.isSome then [] else [s x.b]), [q x.qd])
  | .plog x => ([q x.g.q, q x.qa, q x.qb], [q x.qd])
  | .movi x => ([q x.g.q], [s x.d])
  | .lea x => ([q x.g.q, s x.base], [s x.d])
  | .ld x => ([q x.g.q, s x.base], s x.d :: (if x.pi then [s x.base] else []))
  | .st x => ([q x.g.q, s x.base, s x.d], if x.pi then [s x.base] else [])
  | .atom x | .cas x => ([q x.g.q, s x.base, s x.d, s (x.d + 1)], s x.d :: (if x.pi then [s x.base] else []))
  | .chk x => ([q x.g.q], [])
  | .vadd x | .vmul x | .vsub x => (m x.m.m :: v x.a :: v x.b :: rnd, [v x.d])
  | .vmax x | .vmin x | .vperm x | .vsel x | .vshf x => ([m x.m.m, v x.a, v x.b], [v x.d])
  | .vfma x => (m x.m.m :: v x.a :: v x.b :: v x.d :: rnd, [v x.d])
  | .vabs x => ([m x.m.m, v x.a, ctlUse 0x00A], [v x.d])
  | .vmov x => ([m x.m.m, v x.a], [v x.d])
  | .vexp x | .vlog x | .vrcp x | .vrsq x => (m x.m.m :: v x.a :: rnd, [v x.d])
  | .vred x | .vscan x => (m x.m.m :: v x.a :: rnd, [v x.d])
  | .vbcast x => ([m x.m.m, s x.s], [v x.d])
  | .vcmp x => ([m x.m.m, v x.a, v x.b], [m x.md])
  | .vcvt x => (m x.m.m :: v x.a :: rnd, [v x.d])
  | .vld x => ([m x.m.m, s x.base], v x.v :: (if x.pi then [s x.base] else []))
  | .vst x => ([m x.m.m, s x.base, v x.v], if x.pi then [s x.base] else [])
  | .vldStream x => ([m x.m.m, w x.w], [v x.v, w x.w])
  | .vstStream x => ([m x.m.m, v x.v, w x.w], [w x.w])
  | .vldx x => ([m x.m.m, v x.a, s x.base], [v x.d])
  | .vstx x => ([m x.m.m, v x.a, v x.d, s x.base], [])
  | .vtopk x => ([m x.m.m, v x.a], [v x.d, v (x.d + 1)])
  | .vmerge x => ([v x.a, v (x.a + 1), v x.b, v (x.b + 1)], [v x.d, v (x.d + 1)])
  | .call x => ([q x.g.q], [s 63])
  | .callReg x => ([q x.g.q, s x.a], [s 63])
  | .mwait x => ([q x.g.q], [s x.a])
  | .crd x => ([q x.g.q, ctlUse (ctlNumber ext x.ctl)], [s x.r])
  | .kdq x => ([q x.g.q], (List.range (x.cnt.toNat + 1)).map fun j => 200 + x.d.toNat + j)
  | .kaq x => ([q x.g.q, s x.b, s (x.b + 1), v x.a], if x.nb then [q x.qn] else [])
  | .rkeep x => (q x.g.q :: s x.a :: List.range 64 ++
      ((List.range 32).filter fun r => x.vb.getLsbD (r / 8)).map (200 + ·), [])
  | .ret x => ([q x.q, s 63], [])
  | .jmpReg x | .ibank x | .hstrd x | .mon x | .xinvPage x => ([q x.g.q, s x.a], [])
  | .bsel x => ([q x.g.q, s x.a, s x.b], [ctlUse 0x012])
  | .ropen x => ([q x.g.q, s x.a, s x.b, ctlUse 0x008], [ctlUse 0x008])
  | .lcnt x => ([q x.g.q, s x.a, s x.b], [])
  | .acq x | .rel x => ([q x.g.q, s x.a], [])
  | .loop x => ([q x.g.q, s x.a], [])
  | .einj x => ([q x.g.q, s x.a], [])
  | .launch x => ([q x.g.q, s x.a], [])
  | .cwr x => ([q x.g.q, s x.r], [ctlUse (ctlNumber ext x.ctl)])
  | .kbind x => ([q x.g.q, s x.a, ctlUse 0x012], [w x.w])
  | .tlset x => ([q x.g.q, s x.a], [tl x.t])
  | .tdset x => ([q x.g.q, s x.a, ctlUse 0x009], [])
  | .kcopy x | .kpeer x | .bcopy x | .bcopyVerify x | .bdrop x | .bholdList x | .bholdRoot x | .blookLeaf x
  | .blookInterior x | .bread x | .breadVerify x | .bswap x | .bwalkLeaf x | .bwalkElement x | .cupdSgd x
  | .cupdAdagrad x | .cupdRowwiseAdagrad x | .cupdAdam x | .fbktMod x | .fbktRange x | .fbktHash x | .fredAll x
  | .fredRoot x | .fxch x | .fxchPayload x | .hrctlSetGroup x | .hrctlInvalidateTable x | .hrctlWriteBack x
  | .hrctlClearSketch x | .l2opUpdate x | .l2opGather x | .qgath x | .qpoolSplit x | .qpoolOrdered x | .skrd x
  | .wpin x | .wpinLoad x | .wunpin x => (q x.g.q :: s x.cb :: s x.so :: ctlUse 0x012 :: tiles, tiles)
  | .br x => ([q x.g.q], [])
  | .jmp x => ([q x.g.q], [])
  | .mcall x => (q x.g.q :: tl x.tile :: [0x009, 0x00A, 0x010, 0x012].map ctlUse ++
      (List.range 8).map fun i => ctlUse (0x040 + i), [tl x.tile])
  | .mcomp x => ([q x.g.q, tl x.ts, tl x.td], [tl x.ts, tl x.td])
  | .mload x => ([q x.g.q, tl x.tile], [tl x.tile])
  | .scld x => ([q x.g.q, ctlUse 0x009], [])
  | .cbadvProd x | .cbadvCons x => (q x.g.q :: h x.h :: tiles, h x.h :: tiles)
  | .cbwait x => ([q x.g.q, h x.h], [])
  | .kbar x => ([q x.g.q], [])
  | .fence x => ([q x.g.q], [])
  | .dbar x => ([q x.g.q, ctlUse (0x00C + x.level.toNat)], [])
  | .bklend x | .bklendRet x => ([q x.g.q, ctlUse 0x017], [ctlUse 0x017])
  | .cabort x => ([q x.g.q], [ctlUse 0x00B])
  | .brkpt x | .trap x => ([q x.g.q], [])
  | .stest x => ([q x.q], [s 63])
  | .rclose x => ([q x.q, ctlUse 0x008], [ctlUse 0x008])
  | .tret x => ([q x.q, ctlUse 0x001], [])
  | .mswap x | .msync x | .tend x | .yield x | .ifence x => ([q x.q], [])
  | .xinvAll x => ([q x.g.q], [])
  | _ => ([], [])

/-- A write to s0, q0 or m0 is discarded (R43, R46), so it is no result. -/
def resultsOf (uses : List Nat × List Nat) : List Nat × List Nat := (uses.1, uses.2.filter fun r => r != 0 && r != 100 && r != 300)

/-- One record (R97): its operation, legal in itself. -/
def usoneOp (x : Nat) : Option Instr :=
  if bitsOf x 63 62 ≠ 0 ∨ bitsOf x 127 124 ≠ 0 ∨ bitsOf x 58 58 ≠ 0 ∨ (bitsOf x 57 56 ≠ 0 ∧ bitsOf x 61 59 > 5) then none
  else match decodeSlot (BitVec.ofNat 32 x) with
    | .error _ => none
    | .ok i =>
      if dupS i || dupV i || (bitsOf x 55 55 == 1 && !lendOk (BitVec.ofNat 23 (bitsOf x 54 32)) i) then none else some i

/-- Every dep field names an earlier record that writes a register its own reads. -/
def usoneDepsOk (ops : Array (List Nat × List Nat)) (i x : Nat) : Bool :=
  (List.range 5).all fun k =>
    let d := bitsOf x (12 * k + 75) (12 * k + 64)
    d == 0 || (decide (d ≤ i) && ((ops.getD (i - d) ([], [])).2.any fun r => (ops.getD i ([], [])).1.contains r))

def usoneOk (n : Nat) (body : List Byte) : Bool :=
  let recs := (splitBundles n body).map leVal
  let ops := recs.map usoneOp
  recs.length == n && ops.all Option.isSome &&
    (let uses := ((recs.zip ops).map fun p => match p.2 with
        | some i => resultsOf (usesOf (if bitsOf p.1 55 55 = 1 then some (BitVec.ofNat 23 (bitsOf p.1 54 32)) else none) i)
        | none => ([], [])).toArray
     (numbered 0 recs).all fun p => usoneDepsOk uses p.1 p.2)

/-! ### Whole images -/

/-- An image ready for a bank: its bundles, its entry bundle, and its legacy latencies. -/
structure CodeImage where
  bytes : List Byte
  entry : Nat
  count : Nat
  lat   : Option (List Nat)
  deriving DecidableEq, Repr

/-- Expand an image (R94 to R98); `all` allows kinds 2 and 3, which only a launch runs (R235, R357). Legal Usone records
become what the translator makes of them, more than 2,048 bundles of which are BAD_IMAGE (log 22). -/
def expandImage (bs : List Byte) (all : Bool) : Option CodeImage :=
  match imageHead bs with
  | none => none
  | some h =>
    let body := (bs.drop 64).take h.body
    if body.length ≠ h.body then none
    else if h.kind = 0 ∨ (h.kind = 2 ∧ all) then
      if h.body ≠ 16 * h.length ∨ (h.kind = 2 ∧ !legacyOk h.lat) then none
      else some ⟨body, h.entry, h.length, if h.kind = 2 then some (legacyBytes h.lat) else none⟩
    else if h.kind = 1 then
      let (out, rest, ok) := expandTags (body.length + 1) h.length body
      if ok ∧ rest.isEmpty ∧ out.length = h.length then some ⟨out.flatten, h.entry, h.length, none⟩ else none
    else if h.kind = 3 ∧ all then
      if h.body ≠ 16 * h.length ∨ !usoneOk h.length body then none
      else
        let out := Config.translated body
        let entry := Config.translatedEntry body h.entry
        if out.length > 2048 ∨ entry ≥ out.length then none else some ⟨(out.map fun w => toBytes 16 w.toNat).flatten, entry, out.length, none⟩
    else none

/-- What a bank copy that stops after `avail` image bytes has expanded (R432). -/
def expandPrefix (bs : List Byte) (avail : Nat) : List Byte :=
  match imageHead (bs.take avail) with
  | none => []
  | some h =>
    let body := ((bs.take avail).drop 64).take h.body
    if h.kind = 0 then (splitBundles h.length body).flatten
    else if h.kind = 1 then (expandTags (body.length + 1) h.length body).1.flatten
    else []

/-- Does an expansion stay at or below offset 0x7FF0 (R357)? -/
def bankFits (off bytes : Nat) : Bool := decide (off + bytes ≤ 0x8000)

end Sys2Proof.Machine
end

