-- ==== Sys2Proof/Machine/Events.lean ====
section
/-! DEFINITION. HM time (R14) and the event arbiter with the host's event ring (R250 to R252). -/

namespace Sys2Proof.Machine

/-- HM time in nanoseconds (R14); the model's clock counts 36ths (log 2). -/
def State.time (s : State) : Nat := s.clock / 36

/-- Has every engine command of the core completed or faulted (R284)? -/
def Core.drained (c : Core) : Bool :=
  c.copy.cmds.all (fun k => k.stop.isSome) && (c.mx.queue.isEmpty || c.mx.stop.isSome) && c.sync.rels.isEmpty

/-- Is a command of the core still running (R291)? -/
def Core.commandRuns (c : Core) : Bool :=
  c.copy.cmds.any (fun k => k.stop.isNone) || (!c.mx.queue.isEmpty && c.mx.stop.isNone)

/-- The scan pattern of a STEST begins once its core has drained (R284, R436). -/
def Core.scanFrom (c : Core) (t : Nat) : Core :=
  if c.part.scan = 1 ∧ c.drained then { c with part := { c.part with scan := 2, scanAt := t } } else c

def State.scanStart (s : State) : State := s.onCore fun c => c.scanFrom s.time

/-- An event-ring entry (R250). -/
def eventBytes (e : Event) : List Byte :=
  toBytes 64 (e.evno % 2 ^ 64 + e.kind * 2 ^ 64 + e.queue % 64 * 2 ^ 72 + e.task.toNat * 2 ^ 128 + e.arg.toNat * 2 ^ 192 +
    e.time % 2 ^ 64 * 2 ^ 256)

def State.ringSize (s : State) : Nat := 2 ^ s.hm.ringK

/-- Write backlog entries to the ring, in number order, while it has room; each raises MSI-X vector 0 (R252). Before the
first message 0x0B there is no ring. -/
def State.writeEvents (s : State) : Nat → State
  | 0 => s
  | n + 1 =>
    match s.hm.backlog with
    | [] => s
    | e :: r =>
      if s.hm.ringK ≠ 0 ∧ e.evno - 1 - s.hm.consumer < s.ringSize then
        let s := s.store (s.hm.ringBase + 64 * ((e.evno - 1) % s.ringSize)) (eventBytes e)
        State.writeEvents { s with hm := { s.hm with backlog := r }, host := { s.host with msix := s.host.msix ++ [0] } } n
      else s

/-- The next number is given to an event, which enters the backlog and goes on to the ring when that has room. -/
def State.addEvent (s : State) (e : RawEvent) : State :=
  let s : State := { s with hm := { s.hm with
    evno := s.hm.evno + 1
    backlog := s.hm.backlog ++ [(⟨s.hm.evno + 1, e.kind, e.queue, e.task, e.arg, s.time⟩ : Event)] } }
  s.writeEvents s.hm.backlog.length

/-- Is there room to number an event, after the kind 8 entry that is due when events were lost (R252)? -/
def State.canNumber (s : State) : Bool := decide (s.hm.backlog.length + (if s.hm.lost > 0 then 1 else 0) < 1024)

/-- The kind 8 entry of the events that were lost. -/
def State.numberLost (s : State) : State :=
  if s.hm.lost > 0 ∧ s.hm.backlog.length < 1024 then
    ({ s with hm := { s.hm with lost := 0 } }).addEvent ⟨8, 0, 0, BitVec.ofNat 64 s.hm.lost⟩
  else s

/-- The arbiter numbers one event, after a kind 8 entry when events were lost (R252). -/
def State.number (s : State) (e : RawEvent) : State := s.numberLost.addEvent e

/-- Offer an event to the arbiter: with the backlog full, key errors and management interrupts are counted, the others
wait (R252). -/
def State.emit (s : State) (e : RawEvent) : State :=
  if s.canNumber then s.number e
  else if e.kind = 6 ∨ e.kind = 7 then { s with hm := { s.hm with lost := s.hm.lost + 1 } }
  else { s with hm := { s.hm with waiting := s.hm.waiting ++ [e] } }

/-- Number the events that waited, while there is room. -/
def State.emitWaiting (s : State) : Nat → State
  | 0 => s
  | n + 1 =>
    match s.hm.waiting with
    | [] => s
    | e :: r => if s.canNumber then State.emitWaiting ({ s with hm := { s.hm with waiting := r } }.number e) n else s

/-- The queue of the focused core's task, and its task identifier. -/
def State.queueOf (s : State) (t : Task) : Nat := match s.cardOf t.card with | some c => c.queue | none => 0

def State.taskQueue (s : State) : Nat := match s.task with | some t => s.queueOf t | none => 0

end Sys2Proof.Machine
end

