-- ==== Sys2Proof/Machine/Numbers.lean ====
section
/-! DEFINITION. Number formats and arithmetic (chapter 05): how each format is coded, exact arithmetic, and the one
rounding `round` of R109 that narrows an exact value. -/

namespace Sys2Proof.Machine

/-! ### Formats (R99 to R104) -/

/-- Lane width in bits of a format code (R99). -/
def fmtWidth (c : Nat) : Nat :=
  if c = 0 then 64 else if c = 1 ∨ c = 4 ∨ c = 5 then 32 else if c = 2 ∨ c = 3 ∨ c = 6 ∨ c = 7 then 16 else 8

/-- Lanes of a vector register (R45). -/
def fmtLanes (c : Nat) : Nat := 2048 / fmtWidth c

def fmtIsInt (c : Nat) : Bool := 4 ≤ c && c ≤ 9
def fmtSigned (c : Nat) : Bool := c == 4 || c == 6 || c == 8

/-- A floating format: precision with the hidden bit, exponent of the subnormal quantum, bias (for the parity of a code
of precision 1), codes of the largest finite value, NaN and +∞, its sign bit if it has one, and whether −0 exists. -/
structure FloatFmt where
  p      : Nat
  qmin   : Int
  bias   : Int
  maxfin : Nat
  nan    : Nat
  inf    : Option Nat
  sign   : Option Nat
  negZero : Bool
  deriving DecidableEq, Repr

/-- R103, R104: the binary8 format of precision p in variant 0 (s), 1 (f) or 2 (n). -/
def binary8 (p variant : Nat) : FloatFmt :=
  let b : Int := if variant = 2 then 2 ^ (8 - p) else 2 ^ (7 - p)
  { p := p, qmin := 2 - b - p, bias := b
    maxfin := if variant = 0 then 0x7E else if variant = 1 then 0x7F else 0xFE
    nan := if variant = 2 then 0xFF else 0x80
    inf := if variant = 0 then some 0x7F else none
    sign := if variant = 2 then none else some 7
    negZero := false }

/-- The floating formats by code (R99, R100, R103); none for integers and sc8. -/
def floatFmt (c : Nat) : Option FloatFmt :=
  if c = 0 then some ⟨53, -1074, 1023, 0x7FEFFFFFFFFFFFFF, 0x7FF8000000000000, some 0x7FF0000000000000, some 63, true⟩
  else if c = 1 then some ⟨24, -149, 127, 0x7F7FFFFF, 0x7FC00000, some 0x7F800000, some 31, true⟩
  else if c = 2 then some ⟨11, -24, 15, 0x7BFF, 0x7E00, some 0x7C00, some 15, true⟩
  else if c = 3 then some ⟨8, -133, 127, 0x7F7F, 0x7FC0, some 0x7F80, some 15, true⟩
  else if c < 11 ∨ c > 31 then none
  else some (binary8 ((c - 11) % 7 + 1) ((c - 11) / 7))

/-- The magnitude of a code without its sign, E and T fields split at precision p (R103); IEEE formats agree. -/
def FloatFmt.magNum (f : FloatFmt) (neg : Bool) (m : Nat) : Num :=
  let e := m / 2 ^ (f.p - 1)
  let t := m % 2 ^ (f.p - 1)
  if e = 0 then .fin neg t f.qmin else .fin neg (2 ^ (f.p - 1) + t) (f.qmin + e - 1)

/-- The value of a code of a floating format (R100, R103, R104). -/
def FloatFmt.decode (f : FloatFmt) (x : Nat) : Num :=
  let m := match f.sign with | some k => x % 2 ^ k | none => x
  let neg := match f.sign with | some k => x / 2 ^ k % 2 == 1 | none => false
  if f.negZero then
    match f.inf with
    | some i => if m = i then .inf neg else if m > i then .nan else f.magNum neg m
    | none => f.magNum neg m
  else if x = f.nan then .nan
  else if f.inf = some m then .inf neg
  else f.magNum neg m

/-- An integer lane's value (R101). -/
def intDecode (c x : Nat) : Int :=
  let w := fmtWidth c
  if fmtSigned c ∧ x / 2 ^ (w - 1) % 2 = 1 then (x % 2 ^ w : Nat) - 2 ^ w else (x % 2 ^ w : Nat)

def numOfInt (i : Int) : Num := .fin (i < 0) i.natAbs 0

/-- The exact value of a lane of any format (R99 to R104, R416). -/
def decodeNum (c x : Nat) : Num :=
  match floatFmt c with
  | some f => f.decode x
  | none =>
    if fmtIsInt c then numOfInt (intDecode c x)
    else if x % 256 = 255 then .nan else .fin false 1 ((x % 256 : Nat) - 127)

/-! ### Exact arithmetic on values (R6, R100) -/

/-- m × 2^e as an integer at exponent k ≤ e. -/
def scaleTo (neg : Bool) (m : Nat) (e k : Int) : Int :=
  let v : Int := (m * 2 ^ (e - k).toNat : Nat)
  if neg then -v else v

/-- Exact sum. The sign of an exact zero follows IEEE 754-2019 for the rounding mode (R100): −0 only when both are −0, or
under RDN (mode 2). -/
def Num.add (mode : Nat) (a b : Num) : Num :=
  match a, b with
  | .nan, _ => .nan
  | _, .nan => .nan
  | .inf x, .inf y => if x = y then .inf x else .nan
  | .inf x, .fin _ _ _ => .inf x
  | .fin _ _ _, .inf y => .inf y
  | .fin sa ma ea, .fin sb mb eb =>
    let k := min ea eb
    let v := scaleTo sa ma ea k + scaleTo sb mb eb k
    if v = 0 then
      if ma = 0 ∧ mb = 0 ∧ sa = sb then .fin sa 0 k else .fin (mode == 2) 0 k
    else .fin (v < 0) v.natAbs k

def Num.neg : Num → Num
  | .nan => .nan
  | .inf s => .inf (!s)
  | .fin s m e => .fin (!s) m e

/-- Exact product; 0 × ∞ is NaN (R100). -/
def Num.mul (a b : Num) : Num :=
  match a, b with
  | .nan, _ => .nan
  | _, .nan => .nan
  | .inf x, .inf y => .inf (x != y)
  | .inf x, .fin y m _ => if m = 0 then .nan else .inf (x != y)
  | .fin x m _, .inf y => if m = 0 then .nan else .inf (x != y)
  | .fin sa ma ea, .fin sb mb eb => .fin (sa != sb) (ma * mb) (ea + eb)

def Num.abs : Num → Num
  | .nan => .nan
  | .inf _ => .inf false
  | .fin _ m e => .fin false m e

/-- a < b by value; −0 = +0; false with a NaN (R414). -/
def Num.lt (a b : Num) : Bool :=
  match a, b with
  | .nan, _ => false
  | _, .nan => false
  | .inf x, .inf y => x && !y
  | .inf x, .fin _ _ _ => x
  | .fin _ _ _, .inf y => !y
  | .fin sa ma ea, .fin sb mb eb =>
    let k := min ea eb
    decide (scaleTo sa ma ea k < scaleTo sb mb eb k)

/-- a = b by value; −0 = +0; false with a NaN (R414). -/
def Num.eqv (a b : Num) : Bool :=
  match a, b with
  | .nan, _ => false
  | _, .nan => false
  | _, _ => !a.lt b && !b.lt a

def Num.isZero : Num → Bool
  | .fin _ 0 _ => true
  | _ => false

def Num.isNeg : Num → Bool
  | .nan => false
  | .inf s => s
  | .fin s _ _ => s

/-- R113: the order of max and min, with −0 below +0. -/
def Num.below (a b : Num) : Bool :=
  a.lt b || (a.isZero && b.isZero && a.isNeg && !b.isNeg)

/-- R113: the greater, NaN if either operand is NaN. -/
def Num.max (a b : Num) : Num :=
  match a, b with
  | .nan, _ => .nan
  | _, .nan => .nan
  | _, _ => if a.below b then b else a

def Num.min (a b : Num) : Num :=
  match a, b with
  | .nan, _ => .nan
  | _, .nan => .nan
  | _, _ => if b.below a then b else a

/-! ### Rounding (R108 to R112) -/

/-- The bits of a natural number up to its highest set bit. -/
def bitLen (n : Nat) : Nat := if n = 0 then 0 else Nat.log2 n + 1

/-- The trailing zeros of a number, at most `fuel`. -/
def trailZeros : Nat → Nat → Nat
  | 0, _ => 0
  | fuel + 1, n => if n % 2 = 1 then 0 else trailZeros fuel (n / 2) + 1

/-- R111: does stochastic rounding round the magnitude up? `r` of `2^shift` is the discarded part, `rw` the k-bit word. -/
def srUp (r shift k rw : Nat) : Bool :=
  if r = 0 then false
  else
    let d := shift - trailZeros shift r
    let j := min k d
    r * 2 ^ j / 2 ^ shift + rw % 2 ^ k / 2 ^ (k - j) ≥ 2 ^ j

/-- How a magnitude is rounded: a mode of R108 (0 to 5), or 8 for towards zero and 9 for away from zero, the two
neighbours that faithful rounding chooses between (R113). -/
def roundsUp (mode : Nat) (neg odd : Bool) (r shift : Nat) (sticky : Bool) (k rw : Nat) : Bool :=
  let half := 2 ^ (shift - 1)
  let inexact := r ≠ 0 || sticky
  if mode = 0 then decide (r > half) || (r == half && (sticky || odd))
  else if mode = 1 ∨ mode = 8 then false
  else if mode = 2 then neg && inexact
  else if mode = 3 then !neg && inexact
  else if mode = 4 then decide (r ≥ half)
  else if mode = 9 then inexact
  else srUp r shift k rw

/-- R109: a magnitude m × 2^e (and a little more, when sticky) rounded to precision p with quantum at least 2^qmin and
the exponent unbounded above: significand and exponent of the result. A tie breaks to the even code: the parity of the
significand, or of the exponent field when p = 1 (R102, R108). A sticky m must have p + 2 bits or more. -/
def roundMag (p : Nat) (qmin bias : Int) (mode : Nat) (neg : Bool) (m : Nat) (e : Int) (sticky : Bool) (k rw : Nat) :
    Nat × Int :=
  let q := max qmin (e + bitLen m - p)
  if q ≤ e then (m * 2 ^ (e - q).toNat, q)
  else
    let shift := (q - e).toNat
    let t := m / 2 ^ shift
    let r := m % 2 ^ shift
    let odd := if p = 1 then t ≠ 0 && (q + bias) % 2 != 0 else t % 2 == 1
    let t' := if roundsUp mode neg odd r shift sticky k rw then t + 1 else t
    if t' = 2 ^ p then (2 ^ (p - 1), q + 1) else (t', q)

/-- The code of a rounded magnitude that is in range (R100, R103). -/
def FloatFmt.magCode (f : FloatFmt) (t : Nat) (q : Int) : Nat :=
  if t < 2 ^ (f.p - 1) then t else (q - f.qmin + 1).toNat * 2 ^ (f.p - 1) + t % 2 ^ (f.p - 1)

def FloatFmt.withSign (f : FloatFmt) (neg : Bool) (m : Nat) : Nat :=
  match f.sign with
  | some k => if neg then m + 2 ^ k else m
  | none => m

/-- R110: the result of an overflow without saturate. -/
def FloatFmt.overflow (f : FloatFmt) (mode : Nat) (neg : Bool) : Nat :=
  let toInf := mode = 0 ∨ mode = 4 ∨ mode = 5 ∨ (mode = 2 ∧ neg) ∨ (mode = 3 ∧ ¬ neg)
  if toInf then (match f.inf with | some i => f.withSign neg i | none => f.nan) else f.withSign neg f.maxfin

/-- R109 for a floating target and a finite value (sticky: the value lies strictly above m × 2^e in magnitude, by less
than one unit). `how` is the rounding used; `mode` is the mode whose overflow row of R110 applies. -/
def FloatFmt.roundFin (f : FloatFmt) (how mode : Nat) (sat neg : Bool) (m : Nat) (e : Int) (sticky : Bool) (k rw : Nat) :
    Nat :=
  let top := f.magNum false f.maxfin
  let big := (Num.lt top (.fin false m e)) || (sticky && Num.eqv top (.fin false m e))
  if f.sign = none ∧ neg ∧ (m ≠ 0 ∨ sticky) then
    let (t, _) := roundMag f.p f.qmin f.bias how neg m e sticky k rw
    if t = 0 ∨ sat then 0 else f.nan
  else if sat ∧ big then f.withSign neg f.maxfin
  else
    let (t, q) := roundMag f.p f.qmin f.bias how neg m e sticky k rw
    if Num.lt top (.fin false t q) then f.overflow mode neg
    else if t = 0 then (if f.negZero then f.withSign neg 0 else 0)
    else f.withSign neg (f.magCode t q)

/-- R101: a value rounded under the mode to an integer and clamped. -/
def intClamp (c : Nat) (v : Int) : Int :=
  let w := fmtWidth c
  let lo : Int := if fmtSigned c then -(2 ^ (w - 1)) else 0
  let hi : Int := if fmtSigned c then 2 ^ (w - 1) - 1 else 2 ^ w - 1
  if v < lo then lo else if v > hi then hi else v

def intCode (c : Nat) (v : Int) : Nat := (v % 2 ^ fmtWidth c).toNat

def roundInt (c mode : Nat) (neg : Bool) (m : Nat) (e : Int) (sticky : Bool) (k rw : Nat) : Nat :=
  let t : Int :=
    if e ≥ 0 then (m * 2 ^ e.toNat : Nat)
    else
      let shift := (-e).toNat
      let t := m / 2 ^ shift
      if roundsUp mode neg (t % 2 == 1) (m % 2 ^ shift) shift sticky k rw then (t + 1 : Nat) else (t : Nat)
  intCode c (intClamp c (if neg then -t else t))

/-- R102: a conversion into sc8. -/
def roundSc8 (mode : Nat) (sat : Bool) (x : Num) (sticky : Bool) (k rw : Nat) : Nat :=
  match x with
  | .nan => 255
  | .inf neg => if neg then 255 else if sat then 254 else 255
  | .fin neg m e =>
    if m = 0 ∧ ¬ sticky then 0
    else if neg then 255
    else
      let (t, q) := roundMag 1 (-100000) 127 mode false m e sticky k rw
      if t = 0 ∨ q < -127 then 0 else if q > 127 then (if sat then 254 else 255) else (q + 127).toNat

/-- R109: round(x, fmt, mode) with the saturate bit and a k-bit random word; `how` as in FloatFmt.roundFin. -/
def roundWith (how c mode : Nat) (sat : Bool) (k rw : Nat) (x : Num) (sticky : Bool) : Nat :=
  match floatFmt c with
  | some f =>
    match x with
    | .nan => f.nan
    | .inf neg =>
      if f.sign = none ∧ neg then (if sat then 0 else f.nan)
      else if sat then f.withSign neg f.maxfin
      else (match f.inf with | some i => f.withSign neg i | none => f.nan)
    | .fin neg m e => f.roundFin how mode sat neg m e sticky k rw
  | none =>
    if fmtIsInt c then
      match x with
      | .nan => 0
      | .inf neg => intCode c (intClamp c (if neg then -(2 ^ 64) else 2 ^ 64))
      | .fin neg m e => roundInt c how neg m e sticky k rw
    else roundSc8 how sat x sticky k rw

def round (c mode : Nat) (sat : Bool) (k rw : Nat) (x : Num) : Nat := roundWith mode c mode sat k rw x false

/-- round_rne (R6). -/
def roundRne (c : Nat) (x : Num) : Nat := round c 0 false 0 0 x

/-- One RNE step on f32 bits: decode, combine exactly, round once. -/
def f32Num (x : Nat) : Num := decodeNum 1 (x % 2 ^ 32)

/-! ### Quotients, square roots and the elementary functions (R113, R173, R417, R418) -/

/-- Bitwise integer square root: the largest r < 2^fuel with r² ≤ n. -/
def isqrt (n : Nat) : Nat → Nat → Nat
  | 0, r => r
  | fuel + 1, r => if (r + 2 ^ fuel) * (r + 2 ^ fuel) ≤ n then isqrt n fuel (r + 2 ^ fuel) else isqrt n fuel r

/-- Quotient as a value and whether more lies below it (R173, R153: correctly rounded division). -/
def Num.div (a b : Num) : Num × Bool :=
  match a, b with
  | .nan, _ => (.nan, false)
  | _, .nan => (.nan, false)
  | .inf _, .inf _ => (.nan, false)
  | .inf x, .fin y _ _ => (.inf (x != y), false)
  | .fin x _ _, .inf y => (.fin (x != y) 0 0, false)
  | .fin sa ma ea, .fin sb mb eb =>
    if mb = 0 then (if ma = 0 then (.nan, false) else (.inf (sa != sb), false))
    else
      let s := bitLen mb + 70
      (.fin (sa != sb) (ma * 2 ^ s / mb) (ea - eb - s), ma * 2 ^ s % mb ≠ 0)

/-- Square root (R173): −0 gives −0, a negative value NaN. -/
def Num.sqrt (a : Num) : Num × Bool :=
  match a with
  | .nan => (.nan, false)
  | .inf neg => (if neg then .nan else .inf false, false)
  | .fin neg m e =>
    if m = 0 then (.fin neg 0 0, false)
    else if neg then (.nan, false)
    else
      let m1 := if e % 2 = 0 then m else 2 * m
      let e1 := if e % 2 = 0 then e else e - 1
      let n := m1 * 2 ^ 140
      let r := isqrt n (bitLen n / 2 + 1) 0
      (.fin false r (e1 / 2 - 70), r * r ≠ n)

/-- round_rne of a quotient and of a square root. -/
def rneDiv (c : Nat) (a b : Num) : Nat :=
  let (x, sticky) := a.div b
  roundWith 0 c 0 false 0 0 x sticky
def rneSqrt (c : Nat) (a : Num) : Nat :=
  let (x, sticky) := a.sqrt
  roundWith 0 c 0 false 0 0 x sticky

/-- Fraction bits of the fixed-point evaluation of exp and log; its error is far below the 2^32 units dropped (log 16). -/
def fixW : Nat := 320

/-- Σ z^(2j+1) / (2j+1) from the term `pow` = z^(2j+1) on, at fixW fraction bits. -/
def atanhSum (z2 : Int) : Nat → Int → Int → Int
  | 0, _, _ => 0
  | fuel + 1, pow, j => pow / j + atanhSum z2 fuel (pow * z2 / 2 ^ fixW) (j + 2)

def atanhFix (num den : Int) (terms : Nat) : Int :=
  let z := num * 2 ^ fixW / den
  atanhSum (z * z / 2 ^ fixW) terms z 1

/-- ln 2 = 2 atanh(1/3). -/
def ln2Fix : Int := 2 * atanhFix 1 3 110

/-- Σ r^j / j! from the term `t` = r^j / j! on. -/
def expSum (r : Int) : Nat → Int → Int → Int
  | 0, _, _ => 0
  | fuel + 1, t, j => t + expSum r fuel (t * r / 2 ^ fixW / j) (j + 1)

/-- e^x for finite x: an exact value, or a truncated one with more below it. -/
def expNum (neg : Bool) (m : Nat) (e : Int) : Num × Bool :=
  if m = 0 then (.fin false 1 0, false)
  else
    let top := e + bitLen m
    if top > 12 then (if neg then (.fin false (2 ^ 70) (-5000), true) else (.fin false (2 ^ 70) 5000, true))
    else if top < -60 then (if neg then (.fin false (2 ^ 130 - 1) (-130), true) else (.fin false (2 ^ 130) (-130), true))
    else
      let x := scaleTo neg (m * 2 ^ fixW) e (min e 0) / 2 ^ (-(min e 0)).toNat
      let n := x / ln2Fix
      let v := expSum (x - n * ln2Fix) 90 (2 ^ fixW) 1
      (.fin false (v / 2 ^ 32).toNat (n - fixW + 32), true)

/-- ln x for finite positive x. -/
def logNum (m : Nat) (e : Int) : Num × Bool :=
  let l := bitLen m
  let hi := decide (3 * m > 4 * 2 ^ (l - 1))
  let k : Int := e + l - 1 + (if hi then 1 else 0)
  let one : Int := if hi then (2 ^ l : Nat) else (2 ^ (l - 1) : Nat)
  let v := k * ln2Fix + 2 * atanhFix ((m : Int) - one) (m + one) 80
  if (m : Int) = one ∧ k = 0 then (.fin false 0 0, false)
  else (.fin (v < 0) (v.natAbs / 2 ^ 32) (32 - (fixW : Int)), true)

/-- 1/√x for finite positive x. -/
def rsqrtNum (m : Nat) (e : Int) : Num × Bool :=
  let m1 := if e % 2 = 0 then m else 2 * m
  let e1 := if e % 2 = 0 then e else e - 1
  let t := bitLen m1 + 80
  let r := isqrt (2 ^ (2 * t) / m1) (t + 1) 0
  (.fin false r (-(e1 / 2) - t), r * r * m1 ≠ 2 ^ (2 * t))

/-- The exact result of an elementary function, special values as R113 and R418 give: 0 exp, 1 log, 2 reciprocal,
3 reciprocal square root. -/
def elemNum (fn : Nat) (x : Num) : Num × Bool :=
  match fn, x with
  | _, .nan => (.nan, false)
  | 0, .inf neg => (if neg then .fin false 0 0 else .inf false, false)
  | 0, .fin neg m e => expNum neg m e
  | 1, .inf neg => (if neg then .nan else .inf false, false)
  | 1, .fin neg m e => if m = 0 then (.inf true, false) else if neg then (.nan, false) else logNum m e
  | 2, x => Num.div (.fin false 1 0) x
  | _, .inf neg => (if neg then .nan else .fin false 0 0, false)
  | _, .fin neg m e => if m = 0 then (.inf neg, false) else if neg then (.nan, false) else rsqrtNum m e

/-- R113: the faithfully rounded result: exact when representable, otherwise the neighbour that Config.elemUpper picks
for this function, format, input and mode; overflow follows R110 under the saturate bit. Under SR the group rounds as
under RNE (R418). -/
def elementary (fn c mode : Nat) (sat : Bool) (x : Nat) : Nat :=
  let mode' := if mode = 5 then 0 else mode
  let (y, sticky) := elemNum fn (decodeNum c x)
  let neg := y.isNeg
  let up := Config.elemUpper fn c x mode'
  roundWith (if up != neg then 9 else 8) c mode' sat 0 0 y sticky

/-! ### The drain path (R114) and the fused row value (R107) -/

def drainValue (a s : Num) (c mode : Nat) (sat : Bool) (rw : Nat) : Nat := round c mode sat 16 rw (a.mul s)

/-- R107: round_rne(scale × q + bias, f32). -/
def rowValue (scale bias : Nat) (q : Nat) : Nat :=
  roundRne 1 (Num.add 0 (Num.mul (decodeNum 2 scale) (.fin false q 0)) (decodeNum 2 bias))

end Sys2Proof.Machine
end

