-- ==== Sys2Proof/Machine/Operands.lean ====
section
/-! DEFINITION. Operand forms: the second operand of the S3, BF, CMP and MOVI forms, addresses of the SM and SA forms
(R72, R77, R296, R304), lanes and masks of vector registers (R45, R46, R408), and the rounding a V slot takes (R409). -/

namespace Sys2Proof.Machine

/-! ### Scalar operands -/

/-- LEND's bits above a field of the slot (R72). -/
def lent (ext : BitVec 23) (w : Nat) (x : BitVec w) : Nat := ext.toNat * 2 ^ w + x.toNat

/-- B of R296: a register, or the immediate, sign-extended, with LEND's bits above it. -/
def Core.opB (c : Core) (x : S3) : Word :=
  if x.i then
    match c.issue.ext with
    | some e => BitVec.ofInt 64 (sext 29 (lent e 6 x.b))
    | none => x.b.signExtend 64
  else c.src 1 x.b

/-- C of R304: a register, or the immediate, zero-extended. -/
def Core.opC (c : Core) (x : S3) : Word :=
  if x.i then
    match c.issue.ext with
    | some e => BitVec.ofNat 64 (lent e 6 x.b)
    | none => x.b.setWidth 64
  else c.src 1 x.b

/-- CMP's B (R329): a register, or with LEND an immediate. -/
def Core.opCmp (c : Core) (x : SCmp) : Word :=
  match c.issue.ext with
  | some e => BitVec.ofInt 64 (sext 29 (lent e 6 x.b))
  | none => c.src 1 x.b

/-- MOVI's immediate (R376). -/
def Core.opMovi (c : Core) (x : SMovi) : Word :=
  match c.issue.ext with
  | some e => BitVec.ofInt 64 (sext 36 (lent e 13 x.imm))
  | none => x.imm.signExtend 64

/-! ### Addresses of the SM and SA forms -/

def sizeBytes (size : BitVec 2) : Nat := 2 ^ size.toNat

/-- The byte offset: the offset field, sign-extended with LEND's bits, times the access size (R72, R77). -/
def Core.opOff (c : Core) (size : BitVec 2) (off : BitVec 4) : Word :=
  match c.issue.ext with
  | some e => BitVec.ofInt 64 (sext 27 (lent e 4 off) * sizeBytes size)
  | none => off.signExtend 64 * BitVec.ofNat 64 (sizeBytes size)

/-- s(base) + offset modulo 2^64 (R77). On a replay the effective address stands in the latch (R264). -/
def Core.address (c : Core) (x : SMem) : Word :=
  match c.issue.replay with
  | some l => l.ea
  | none => c.getS x.base + c.opOff x.size x.off

/-- With pi = 1, s(base) := s(base) + offset, for the next bundle (R77). -/
def Core.postInc (c : Core) (x : SMem) : Core :=
  if x.pi then c.send (.s x.base (c.src 0 x.base + c.opOff x.size x.off)) 1 c.issue.unit else c

/-! ### Lanes (R45, R46) -/

/-- Lane i of width w. -/
def lane (w i : Nat) (v : VReg) : Nat := v.toNat >>> (w * i) % 2 ^ w

def lanes (w : Nat) (v : VReg) : List Nat := (List.range (2048 / w)).map fun i => lane w i v

/-- The number whose fields of width w are the list, lane 0 first. -/
def packNat (w : Nat) : List Nat → Nat
  | [] => 0
  | x :: xs => x % 2 ^ w + 2 ^ w * packNat w xs

def pack (w : Nat) (xs : List Nat) : VReg := BitVec.ofNat 2048 (packNat w xs)

/-- The mask of a V slot, one bit per byte: m XOR neg (R69). -/
def Core.laneMask (c : Core) (m : LaneMask) : Mask := if m.neg then ~~~(c.getM m.m) else c.getM m.m

/-- Lane i of width w is governed by the bit of its lowest byte (R46). -/
def laneOn (mask : Mask) (w i : Nat) : Bool := mask.getLsbD (i * (w / 8))

/-- The bits of the active lanes of width w. -/
def laneKeep (mask : Mask) (w : Nat) : VReg :=
  pack w ((List.range (2048 / w)).map fun i => if laneOn mask w i then 2 ^ w - 1 else 0)

/-- One bit for each byte, from a mask. -/
def byteKeep (mask : Mask) : VReg := laneKeep mask 8

/-- The bytes of a vector register, and back (R45). -/
def vBytes (v : VReg) : List Byte := toBytes 256 v.toNat
def vOfBytes (bs : List Byte) : VReg := BitVec.ofNat 2048 (leVal bs)

/-! ### Rounding of a V slot (R409) -/

structure Rounding where
  mode : Nat
  sat  : Bool
  rvec : BitVec 5
  deriving DecidableEq, Repr

def vroundOf (x : Word) : Rounding := ⟨(x.extractLsb' 0 3).toNat, x.getLsbD 3, x.extractLsb' 4 5⟩

/-- LEND's mode, saturate bit and random-bits register, else ctl.vround's. -/
def Core.rounding (c : Core) : Rounding :=
  match c.issue.ext with
  | some e => ⟨(e.extractLsb' 20 3).toNat, e.getLsbD 19, e.extractLsb' 14 5⟩
  | none => vroundOf c.ctl.vround

/-- A V slot that does not round takes its saturate bit from ctl.vround (R409). -/
def Core.satDefault (c : Core) : Bool := c.ctl.vround.getLsbD 3

/-- Is a register in the lent bank (R60)? -/
def Core.isLent (c : Core) (r : BitVec 5) : Bool :=
  c.ctl.lend.getLsbD 2 && (c.ctl.lend.extractLsb' 0 2).toNat == r.toNat / 8

end Sys2Proof.Machine
end

