-- ==== Sys2Proof/Machine/Flags.lean ====
section
/-! DEFINITION. The conditions that set predicates and mask bits: CMP (R330), PLOG (R383) and VCMP (R414). -/

namespace Sys2Proof.Machine

/-- R330. -/
def cmpCond (cc : BitVec 3) (a b : Word) : Bool :=
  match cc.toNat with
  | 0 => a == b
  | 1 => a != b
  | 2 => a.slt b
  | 3 => a.sle b
  | 4 => a.ult b
  | 5 => a.ule b
  | _ => a &&& b != 0

/-- R383: bit 2·qa + qb of the table. -/
def plogTable (tt : BitVec 4) (a b : Bool) : Bool := tt.getLsbD ((if a then 2 else 0) + (if b then 1 else 0))

/-- R414: the four conditions of VCMP on two lanes of a format. A NaN makes eq, lt and le false and ne true. -/
def vcmpCond (cc : BitVec 2) (c a b : Nat) : Bool :=
  if fmtIsInt c then
    let x := intDecode c a
    let y := intDecode c b
    match cc.toNat with
    | 0 => decide (x = y)
    | 1 => decide (x ≠ y)
    | 2 => decide (x < y)
    | _ => decide (x ≤ y)
  else
    let x := decodeNum c a
    let y := decodeNum c b
    match cc.toNat with
    | 0 => x.eqv y
    | 1 => !x.eqv y
    | 2 => x.lt y
    | _ => x.lt y || x.eqv y

end Sys2Proof.Machine
end

