-- ==== Sys2Proof/Machine/Streams.lean ====
section
/-! DEFINITION. Stream registers (R55, R56, R352 to R354): the affine pattern, and the copy unit's fills and drains. -/

namespace Sys2Proof.Machine

/-- Elements of a pattern. -/
def StreamBind.total (b : StreamBind) : Nat := b.dims.foldl (fun n d => n * d.1) 1

/-- Σ i_k · t_k of element `pos`, i0 fastest (R55). -/
def strideSum : Nat → List (Nat × Int) → Int
  | _, [] => 0
  | p, (c, t) :: r => (p % c : Nat) * t + strideSum (p / c) r

/-- The address of an element (R55). -/
def StreamBind.addr (b : StreamBind) (pos : Nat) : Nat := wrapTo 64 ((b.base : Int) + strideSum pos b.dims)

/-- Index and count of the outermost dimension with a count above 1 (R353). -/
def outerIndex : Nat → List (Nat × Int) → Option (Nat × Nat)
  | _, [] => none
  | p, (c, _) :: r =>
    match outerIndex (p / c) r with
    | some x => some x
    | none => if c > 1 then some (p % c, c) else none

/-- R37, R353: the last `pad` index values of the outermost used dimension are padding. -/
def StreamBind.padded (b : StreamBind) (pos : Nat) : Bool :=
  b.bucket && (match outerIndex pos b.dims with | some (i, c) => decide (i + b.pad ≥ c) | none => decide (b.pad ≥ 1))

def Core.stream (c : Core) (w : BitVec 3) : Stream := c.copy.streams.get w.toFin
def Core.setStream (c : Core) (w : BitVec 3) (x : Stream) : Core :=
  { c with copy := { c.copy with streams := c.copy.streams.set w.toNat x w.isLt } }

/-- Vectors a FIFO holds (R48, R56). -/
def Core.fifoDepth (c : Core) : Nat := 8 * c.rf

/-- The copy unit places the next element of a read stream into its FIFO (R56, R354); a translation fault stops it. -/
def State.fillStream (s : State) (w : BitVec 3) (b : StreamBind) : State :=
  let x := s.core.stream w
  let a := b.addr x.moved
  let put (s : State) (d : VReg) (bad : Bool) : State :=
    s.onCore fun c => c.setStream w { x with moved := x.moved + 1, stop := none, fifo := x.fifo ++ [⟨a, b.sp, 0, d, bad, 0, 0, [], b.hint⟩] }
  if b.padded x.moved then put s 0 false
  else if b.sp then put s (vOfBytes (s.core.spRead a 256)) (poisonedIn s.core.poison (s.core.spBase + a) 256)
  else
    match s.pieces .deck false 257 a 256 with
    | (s, .error (.trans c va)) => s.onCore fun k => k.setStream w { x with stop := some (c, va) }
    | (s, .error (.fatal c)) => s.onCore fun k => k.fatal c
    | (s, .ok ps) =>
      match s.readPieces ps with
      | (s, .error (.trans c va)) => s.onCore fun k => k.setStream w { x with stop := some (c, va) }
      | (s, .error (.fatal c)) => s.onCore fun k => k.fatal c
      | (s, .ok bs) => put (s.hinted ps b.hint.toNat) (vOfBytes bs) (s.poisonedAt ps)

/-- Stores that a list of buffered ones counts as (R269): each as 16 bytes. -/
def bufferCost (buf : List BufStore) : Nat := buf.foldl (fun n b => n + b.cost) 0

/-- What a pushed element counts as: it is one store of the core (R354), and the buffer counts each store as 16 bytes (R269); none
when its mask lets nothing through (DEDUCED, log 80). -/
def StreamElem.cost (e : StreamElem) : Nat := if e.keep = 0 then 0 else 1

/-- The stores that the region buffer counts: those that it holds, and the pushes of the open regions (R269, R354). -/
def Core.buffered (c : Core) : Nat :=
  bufferCost c.regions.buf + (c.pushes.filter fun e => decide (e.depth > 0)).foldl (fun n e => n + e.cost) 0

/-- A store is performed: older pushes no longer store the bytes it covers (R199, R354). -/
def Core.supersede (c : Core) (num va len : Nat) : Core :=
  if c.pushes.isEmpty then c
  else
    let mask (e : StreamElem) : StreamElem :=
      let lo := Max.max va e.addr - e.addr
      let hi := min (va + len) (e.addr + 256) - e.addr
      if !e.sp && decide (e.num < num) && decide (lo < hi) then { e with keep := e.keep &&& ~~~(BitVec.ofNat 256 (2 ^ hi - 2 ^ lo)) }
      else e
    let upd (w : Stream) : Stream := { w with old := w.old.map mask, fifo := if w.isWrite then w.fifo.map mask else w.fifo }
    { c with copy := { c.copy with streams := c.copy.streams.map upd } }

/-- The pieces of one store as buffered stores; the first carries the cost. -/
def bufferParts (num depth : Nat) : List Piece → List Byte → Nat → List BufStore
  | [], _, _ => []
  | p :: r, bs, k => ⟨p.va, p.pa, bs.take p.len, k, num, depth⟩ :: bufferParts num depth r (bs.drop p.len) 0

/-- A store of a region is held in its buffer, whose room has been counted (R269). -/
def Core.holdStore (c : Core) (num depth : Nat) (ps : List Piece) (bs : List Byte) (cost : Nat) : Core :=
  { c with regions := { c.regions with buf := c.regions.buf ++ bufferParts num depth ps bs cost } }

/-- Perform a core store at its home. The core's own monitor watches for what comes after its MON (R213), so an older store leaves
it as it is. -/
def State.performStore (s : State) (num : Nat) (ps : List Piece) (bs : List Byte) : State :=
  let mon := s.core.sync.monitor
  let s := match s.writePieces false ps bs with
    | (s, some (.fatal c)) => s.onCore fun k => k.fatal c
    | (s, _) => s
  if mon.any fun m => decide (num < m.num) then s.onCore fun c => { c with sync := { c.sync with monitor := mon } } else s

/-- R299: the new value of an ATOM code at width w (32 or 64). -/
def atomNew (code w old op : Nat) : Nat :=
  let f := if w = 32 then 1 else 0
  let o := old % 2 ^ w
  let p := op % 2 ^ w
  match code with
  | 0 => p
  | 1 => (o + p) % 2 ^ w
  | 2 => o &&& p
  | 3 => o ||| p
  | 4 => o ^^^ p
  | 5 => if sext w o < sext w p then p else o
  | 6 => if sext w p < sext w o then p else o
  | 7 => if o < p then p else o
  | 8 => if p < o then p else o
  | 9 => roundRne f (Num.add 0 (decodeNum f o) (decodeNum f p))
  | 10 => roundRne f (Num.max (decodeNum f o) (decodeNum f p))
  | _ => roundRne f (Num.min (decodeNum f o) (decodeNum f p))

/-- One atomic step at a location's home (R210, R300): the old value, and whether it was poisoned; `new` gives what is written, if
anything. `own` says that a core performs it, which sees its own waiting stores; `dirty` that its operand is poisoned: the result then
is, and the Ferry does not send it (R281). -/
def State.atomicAt (s : State) (own : Bool) (ps : List Piece) (va n : Nat) (op : RemoteOp) (new : Nat → Option Nat) (dirty : Bool := false) :
    State × Except MemErr (Nat × Bool) :=
  match ps.map fun p => placeOf p.pa with
  | [.remote slot a] =>
    if dirty then (s, .error (.fatal cUncorrectable))
    else match s.remoteAtomic slot a n op with
    | (s, .error e) => (s, .error e)
    | (s, .ok old) => (s, .ok (old, false))
  | _ =>
    let bad := if own then s.poisonedOwn ps else s.poisonedAt ps
    match (if own then s.readOwn ps else s.readPieces ps) with
    | (s, .error e) => (s, .error e)
    | (s, .ok bs) =>
      match new (leVal bs) with
      | none => (s, .ok (leVal bs, bad))
      | some v =>
        match (if own then s.onCore fun c => c.supersede c.stamp va n else s).writePieces dirty ps (toBytes n v) with
        | (s, some e) => (s, .error e)
        | (s, none) => (s, .ok (leVal bs, bad))

/-- A system-atomic access to host memory (R211, R292): CXL.cache holds its line exclusive, at most 256 lines; while the host has
not enabled it, the access is logged. -/
def State.hostExclusive (s : State) (ps : List Piece) : State :=
  let lines := ps.map fun p => p.pa / 128
  if s.host.cxl then
    { s with host := { s.host with lines := (lines ++ s.host.lines.filter fun l => !lines.contains l).take 256 } }
  else { s with host := { s.host with logged := s.host.logged ++ ps.map (·.pa) } }

/-- The same for an atomic step on these pieces, where they are host pages with sa = 1. -/
def State.systemAtomic (s : State) (ps : List Piece) : State :=
  if ps.any fun p => placeOf p.pa == .host && p.x.sa then s.hostExclusive ps else s

/-! ### Stores of a slot -/

/-- A store of the slot being executed, its translation done: held in the region buffer, where one that does not fit raises OVERFLOW
(R268, R269); held behind a FENCE; or performed. `cost` is what the buffer counts it as. -/
def State.ownStore (s : State) (ps : List Piece) (bs : List Byte) (cost : Nat) : State :=
  if s.core.depth > 0 then
    if s.core.buffered + cost > 512 then s.onCore fun c => c.caught 4 0
    else s.onCore fun c => c.holdStore c.stamp c.depth ps bs cost
  else if s.core.fenceLeft.isEmpty then
    (ps.foldl (fun s p => s.onCore fun c => c.supersede c.stamp p.va p.len) s).performStore s.core.stamp ps bs
  else s.onCore fun c => c.holdAccess c.fenceLeft (.store (bufferParts c.stamp 0 ps bs cost))

/-- Runs of a byte mask as (first byte, bytes). -/
def keepRuns (keep : Mask) (d : VReg) : List (Nat × List Byte) :=
  let rec go : List Nat → Option (Nat × List Byte) → List (Nat × List Byte)
    | [], none => []
    | [], some r => [(r.1, r.2.reverse)]
    | i :: is, cur =>
      if keep.getLsbD i then
        match cur with
        | some r => go is (some (r.1, BitVec.ofNat 8 (lane 8 i d) :: r.2))
        | none => go is (some (i, [BitVec.ofNat 8 (lane 8 i d)]))
      else
        match cur with
        | some r => (r.1, r.2.reverse) :: go is none
        | none => go is none
  go (List.range 256) none

/-- Store the kept bytes of an element to memory, or to the buffer of its region; the transfer carries its binding's hint (R164). -/
def State.storeRuns (s : State) (hint : Nat) (e : StreamElem) : Nat → List (Nat × List Byte) → State × Option MemErr
  | _, [] => (s, none)
  | cost, (o, bs) :: r =>
    match s.pieces .deck true (bs.length + 1) (e.addr + o) bs.length with
    | (s, .error e) => (s, some e)
    | (s, .ok ps) =>
      let s := if e.depth > 0 then s.onCore fun c => c.holdStore e.num e.depth ps bs cost
        else (s.performStore e.num ps bs).hinted ps hint
      State.storeRuns s hint e 0 r

def Stream.dropPushed (x : Stream) : Stream :=
  if x.old.isEmpty then { x with fifo := x.fifo.drop 1, moved := x.moved + 1, stop := none }
  else { x with old := x.old.drop 1, stop := none }

/-- May the core still take a translation fault of its engines (R265)? -/
def Part.takesFaults (p : Part) : Bool := p.status == .running || p.status == .scanning

/-- The copy unit writes the oldest pushed element of a write stream (R56, R354). A translation fault stops it, and is fatal once the
core's part is over (R265, R402); BOND_WRITE is fatal for a copy unit (R233, R261). -/
def State.drainStream (s : State) (w : BitVec 3) : State :=
  match (s.core.stream w).pushed with
  | [] => s
  | e :: _ =>
    let (s, err) := s.storeRuns e.hint.toNat e e.cost (keepRuns e.keep e.data)
    match err with
    | none => s.onCore fun c => c.setStream w (c.stream w).dropPushed
    | some (.trans code va) =>
      if s.core.part.takesFaults && code != cBondWrite then s.onCore fun c => c.setStream w { c.stream w with stop := some (code, va) }
      else s.onCore fun c => (c.setStream w (c.stream w).dropPushed).fatal code
    | some (.fatal code) => s.onCore fun c => (c.setStream w (c.stream w).dropPushed).fatal code

/-- What is outstanding and may be ordered: commands whose work is not done, gathers, pushes, and the accesses that wait. -/
def Core.outstanding (c : Core) : List Nat :=
  (c.copy.cmds.filter (!·.sig)).map (·.id) ++ (c.copy.aq0 ++ c.copy.aq1).map (·.id) ++ c.unperformed

/-- What a KBAR has put before accesses of these classes. -/
def Core.fenced (c : Core) (cls : BitVec 3) : List Nat :=
  (c.copy.fences.filter fun f => f.1 &&& cls != 0).flatMap fun f => f.2.filter c.outstanding.contains

/-- Does a store that a FENCE holds back touch the bytes of an element? -/
def StreamElem.meetsStore (e : StreamElem) (b : BufStore) : Bool :=
  decide (e.addr < b.va + b.bytes.length) && decide (b.va < e.addr + 256)

def StreamElem.meets (a b : StreamElem) : Bool := decide (a.addr < b.addr + 256) && decide (b.addr < a.addr + 256)

/-- Does the stream hold a pushed element that the copy unit may write now: what a KBAR put before it is done (R207, R351), and no
older store to its bytes is left? -/
def Core.drainable (c : Core) (x : Stream) : Bool :=
  x.stop.isNone &&
    (match x.pushed with
    | [] => false
    | e :: _ => !(e.after.any c.outstanding.contains) && !(c.pushes.any fun f => decide (f.num < e.num) && f.meets e) &&
        !(c.fencedStores.any fun f => decide (f.num < e.num) && e.meetsStore f))

/-- The stream whose oldest push is the next that may be written, among those older than a store. -/
def Core.nextDrain (c : Core) (before : Nat) : Option (BitVec 3) :=
  let heads := (List.range 8).filterMap fun i =>
    let w := BitVec.ofNat 3 i
    match (c.stream w).pushed with
    | e :: _ => if c.drainable (c.stream w) && decide (e.num < before) then some (e.num, w) else none
    | [] => none
  (heads.foldl (fun b h => match b with | none => some h | some g => if h.1 < g.1 then some h else some g) none).map (·.2)

def State.drainBefore (s : State) (num : Nat) : Nat → State
  | 0 => s
  | n + 1 => match s.core.nextDrain num with | some w => State.drainBefore (s.drainStream w) num n | none => s

/-- Perform buffered stores (R269), each at its place among the core's stores. -/
def State.performBuffered (s : State) : List BufStore → State
  | [] => s
  | b :: r =>
    ((s.onCore fun c => c.supersede b.num b.va b.bytes.length).performStore b.num
      [⟨0, b.pa, b.bytes.length, ⟨0, 0, 1, 0, true, false, false⟩⟩] b.bytes).performBuffered r

/-- Change the first element that a test picks. -/
def onFirst {α : Type} (p : α → Bool) (f : α → α) : List α → List α
  | [] => []
  | x :: r => if p x then f x :: r else x :: onFirst p f r

/-- The access of a load that has waited for it is performed. -/
def Core.putLate (c : Core) (atomic : Bool) (d : BitVec 6) (f : Load → Load) : Core :=
  { c with loads := onFirst (fun l => l.late && l.atomic == atomic && l.dest == d) f c.loads }

/-- The core as an access of a place in its order sees it: without its later stores (R199). -/
def Core.asAt (c : Core) (num : Nat) : Core :=
  let keep (l : List StreamElem) : List StreamElem := l.filter fun e => decide (e.num < num)
  { c with
    regions := { c.regions with buf := c.regions.buf.filter fun b => decide (b.num < num) }
    copy := { c.copy with
      fenced := c.copy.fenced.filter fun f => decide (f.num < num)
      streams := c.copy.streams.map fun w => { w with old := keep w.old, fifo := if w.isWrite then keep w.fifo else w.fifo } } }

/-- Do something that reads, as an access of a place in the core's order. -/
def State.readingAt {α : Type} (s : State) (num : Nat) (f : State → State × α) : State × α :=
  let (copy, regions) := (s.core.copy, s.core.regions)
  let (t, x) := f (s.onCore fun c => c.asAt num)
  (t.onCore fun c => { c with copy := copy, regions := regions }, x)

/-- What an atomic step writes, from the old value (R299, R300, R322). -/
def atomicWrites (n : Nat) (op : RemoteOp) (old : Nat) : Option Nat :=
  match op with
  | .atom code _ v => some (atomNew code (8 * n) old v.toNat)
  | .cas _ new cmp => if old = cmp.toNat % 2 ^ (8 * n) then some (new.toNat % 2 ^ (8 * n)) else none
  | _ => none

/-- The atomic step of an ATOM or CAS whose translation is done (R210, R292): the old value, and whether it was poisoned. -/
def State.performAtomic (s : State) (va n : Nat) (op : RemoteOp) (ps : List Piece) : State × Except MemErr (Nat × Bool) :=
  (s.systemAtomic ps).atomicAt true ps va n op (atomicWrites n op)

/-- The monitor is armed on a line by the access of a place in the core's order; what is older leaves it as it is (R213). -/
def Core.arm (c : Core) (line : Nat) (nothing : Bool) (num : Nat) : Core :=
  { c with sync := { c.sync with monitor := some ⟨line, nothing, false, num⟩ } }

/-- The card of a LAUNCH is read, and goes to the Harbourmaster (R241). -/
def State.readCard (s : State) (queue va num : Nat) (ps : List Piece) : State :=
  let read (s : State) : State × Except MemErr (List Byte) × Bool := let (s, r) := s.readOwn ps; (s, r, s.poisonedOwn ps)
  match s.readingAt num read with
  | (s, .error e, _) => s.onCore fun c => c.lateFault e
  | (s, .ok bs, bad) =>
    if bad then s.onCore Core.uncorrectable
    else { s with hm := { s.hm with launches := s.hm.launches ++ [(queue, va, bs)] } }

/-- An access that has waited is performed. -/
def State.performFenced (s : State) (f : Fenced) : State :=
  let s := s.onCore fun c => { c with copy := { c.copy with fenced := c.copy.fenced.drop 1 } }
  match f.op with
  | .store parts => s.performBuffered parts
  | .load d =>
    match s.core.loads.find? fun l => l.late && !l.atomic && l.dest == d with
    | none => s
    | some l =>
      let (s, l) := s.readingAt f.num fun s => s.readLoad l
      s.onCore fun c => c.putLate false d fun _ => l
  | .atomic d va n op ps =>
    match s.readingAt f.num fun s => s.performAtomic va n op ps with
    | (s, .error e) => s.onCore fun c => (c.putLate true d fun l => { l with late := false }).lateFault e
    | (s, .ok (old, bad)) => s.onCore fun c =>
        (if (atomicWrites n op old).isSome then c.supersede f.num va n else c).putLate true d fun l =>
          { l with value := BitVec.ofNat 64 old, poison := bad, late := false }
  | .monitor line => s.onCore fun c => c.arm line false f.num
  | .launch queue va ps => s.readCard queue va f.num ps

/-- May the oldest access that a FENCE has held back be performed? -/
def Core.fencedReady (c : Core) : Bool :=
  match c.copy.fenced with
  | f :: _ => !f.after.any c.unperformed.contains
  | [] => false

/-- Perform what FENCEs have held back, in order, as far as what stands before it is performed. -/
def State.releaseFenced (s : State) : Nat → State
  | 0 => s
  | n + 1 =>
    match s.core.copy.fenced with
    | f :: _ => if s.core.fencedReady then State.releaseFenced (s.performFenced f) n else s
    | [] => s

def State.releaseAll (s : State) : State := s.releaseFenced s.core.copy.fenced.length

/-- Perform the pushes that are older than a place among the core's stores and may be written, and what stands behind them. Pushed elements are
stores of the core (R354), so they are performed before its later accesses. -/
def State.flushBefore (s : State) (num : Nat) : State :=
  (s.drainBefore num s.core.pushes.length).releaseAll

/-- Perform every push that may be written. -/
def State.flushStreams (s : State) : State :=
  s.flushBefore (s.core.pushes.foldl (fun n e => Max.max n (e.num + 1)) 0)

/-- The core's stores and other accesses that reads of its engines come after: all that stand outside its regions (R206, R269, R354). -/
def Core.pushesBefore (c : Core) : List Nat :=
  (c.pushes.filter fun e => e.depth == 0).map (·.num) ++ c.copy.fenced.map (·.num)

end Sys2Proof.Machine
end

