-- ==== Sys2Proof/Machine/Scalar.lean ====
section
/-! DEFINITION. The S class (R77, R83): ADD to XOR, with the scoreboarded accesses LD, ST, ATOM and CAS and with CHK. -/

namespace Sys2Proof.Machine

/-! ### Shared operations -/

/-- The twin of a .dup S result: the second unit computes the same value (R76). -/
def twinOf (dup : Bool) (x : Word) : Twin := if dup then .s x x else .none

/-- An S result for s(d) in class `cls` of R96, latency `lat` of R62. -/
def Core.sendS (c : Core) (dup : Bool) (d : BitVec 6) (x : Word) (cls lat : Nat) (div : Bool := false) : Core :=
  c.send (.s d x) (c.latency cls lat) c.issue.unit (twinOf dup x) div (cls == 1 && c.latency cls lat == 2)

/-- An S3-form slot: s(d) := f(s(a), B) (R296); a register that is the destination of a pending load stalls it (R31). `old` says
that it also reads s(d). -/
def State.execS3 (s : State) (x : S3) (on : Bool) (bad : Option Nat) (cls lat : Nat) (div : Bool)
    (f : Core → Word → Word → Word) (old : Bool := false) : Outcome :=
  let c := s.core
  .next (s.slot on bad (c.pending x.a || (!x.i && c.pending x.b) || c.pendingW x.d || (old && c.pending x.d)) fun s =>
    s.onCore fun c => c.sendS x.dup x.d (f c (c.src 0 x.a) (c.opB x)) cls lat div)

def State.execAlu (s : State) (x : S3) (f : Word → Word → Word) : Outcome :=
  s.execS3 x (s.core.active x.g) none 0 1 false fun _ => f

/-- R255: the SX unit (both units under .dup) already has a DIV or REM result in flight. -/
def Core.divBusy (c : Core) (dup : Bool) : Bool :=
  c.flight.any fun f => f.div && (dup || f.twin != .none || f.unit == c.issue.unit)

def State.execDivide (s : State) (x : S3) (f : Word → Word → Word) : Outcome :=
  s.execS3 x (s.core.active x.g) (firstBad [(s.core.divBusy x.dup, cDivBusy)]) 2 20 true fun _ => f

def State.execS2 (s : State) (x : S2) (f : Word → Word) : Outcome :=
  let c := s.core
  .next (s.slot (c.active x.g) none (c.pending x.a || c.pendingW x.d) fun s =>
    s.onCore fun c => c.sendS x.dup x.d (f (c.src 0 x.a)) 0 1)

/-- A predicate result (R329, R383); the twin latch then holds the two bits (R76). -/
def Core.sendQ (c : Core) (dup : Bool) (d : BitVec 4) (x : Bool) : Core :=
  c.send (.q d x) (c.latency 3 1) c.issue.unit (twinOf dup (if x then 1 else 0))

/-! ### Arithmetic and logic -/

def execAdd (x : S3) (s : State) : Outcome := s.execAlu x fun a b => a + b
def execAnd (x : S3) (s : State) : Outcome := s.execAlu x fun a b => a &&& b
def execAndn (x : S3) (s : State) : Outcome := s.execAlu x fun a b => a &&& ~~~b
def execMax (x : S3) (s : State) : Outcome := s.execAlu x fun a b => if a.slt b then b else a
def execMin (x : S3) (s : State) : Outcome := s.execAlu x fun a b => if b.slt a then b else a
def execOr (x : S3) (s : State) : Outcome := s.execAlu x fun a b => a ||| b
def execSar (x : S3) (s : State) : Outcome := s.execAlu x fun a b => a.sshiftRight (b.toNat % 64)
def execShl (x : S3) (s : State) : Outcome := s.execAlu x fun a b => a <<< (b.toNat % 64)
def execShr (x : S3) (s : State) : Outcome := s.execAlu x fun a b => a >>> (b.toNat % 64)
def execSub (x : S3) (s : State) : Outcome := s.execAlu x fun a b => a - b
def execXor (x : S3) (s : State) : Outcome := s.execAlu x fun a b => a ^^^ b

/-- R379. -/
def execMul (x : S3) (s : State) : Outcome := s.execS3 x (s.core.active x.g) none 1 3 false fun _ a b => a * b
def execMulh (x : S3) (s : State) : Outcome :=
  s.execS3 x (s.core.active x.g) none 1 3 false fun _ a b => BitVec.ofInt 64 (a.toInt * b.toInt / 2 ^ 64)

/-- R336: truncated towards zero; by zero all ones; −2^63 by −1 wraps. -/
def divWord (a b : Word) : Word := if b = 0 then BitVec.allOnes 64 else BitVec.ofInt 64 (a.toInt.tdiv b.toInt)
/-- R382: the sign of s(a); with B = 0, s(a). -/
def remWord (a b : Word) : Word := if b = 0 then a else BitVec.ofInt 64 (a.toInt.tmod b.toInt)

def execDiv (x : S3) (s : State) : Outcome := s.execDivide x divWord
def execRem (x : S3) (s : State) : Outcome := s.execDivide x remWord

/-- R396: never gated; the predicate field is the selector. -/
def execSel (x : S3) (s : State) : Outcome :=
  s.execS3 x (!s.core.issue.suppressed) none 0 1 false fun c a b => if c.getQ x.g.q != x.g.neg then a else b

/-- R305: `len` bits from `pos`, sign-extended when sx = 1. -/
def bfxWord (a ctl : Word) : Word :=
  let pos := (ctl.extractLsb' 0 6).toNat
  let len := (ctl.extractLsb' 6 6).toNat + 1
  let f := a.toNat / 2 ^ pos % 2 ^ len
  if ctl.getLsbD 12 ∧ len < 64 then BitVec.ofInt 64 (sext len f) else BitVec.ofNat 64 f

def bfiWord (d a ctl : Word) : Word :=
  let pos := (ctl.extractLsb' 0 6).toNat
  let len := (ctl.extractLsb' 6 6).toNat + 1
  let mask := BitVec.ofNat 64 ((2 ^ len - 1) * 2 ^ pos)
  (d &&& ~~~mask) ||| ((a <<< pos) &&& mask)

def execBfx (x : S3) (s : State) : Outcome :=
  s.execS3 x (s.core.active x.g) none 0 1 false fun c a _ => bfxWord a (c.opC x)
def execBfi (x : S3) (s : State) : Outcome :=
  s.execS3 x (s.core.active x.g) none 0 1 false (fun c a _ => bfiWord (c.src 2 x.d) a (c.opC x)) true

/-- Zero bits above the highest set bit, of the low n (R328). -/
def clzFrom : Nat → Word → Nat
  | 0, _ => 0
  | n + 1, x => if x.getLsbD n then 0 else clzFrom n x + 1

def popcFrom : Nat → Word → Nat
  | 0, _ => 0
  | n + 1, x => popcFrom n x + (if x.getLsbD n then 1 else 0)

def execClz (x : S2) (s : State) : Outcome := s.execS2 x fun a => BitVec.ofNat 64 (clzFrom 64 a)
def execPopc (x : S2) (s : State) : Outcome := s.execS2 x fun a => BitVec.ofNat 64 (popcFrom 64 a)

/-- R376. -/
def execMovi (x : SMovi) (s : State) : Outcome :=
  .next (s.slot (s.core.active x.g) none (s.core.pendingW x.d) fun s =>
    s.onCore fun c => c.sendS x.dup x.d (c.opMovi x) 0 1)

/-- R366. -/
def execLea (x : SLea) (s : State) : Outcome :=
  .next (s.slot (s.core.active x.g) none (s.core.pending x.base || s.core.pendingW x.d) fun s =>
    s.onCore fun c => c.sendS x.dup x.d (c.src 0 x.base + c.opOff x.size x.off) 0 1)

/-- R329. -/
def execCmp (x : SCmp) (s : State) : Outcome :=
  let c := s.core
  .next (s.slot (c.active x.g) none (c.pending x.a || (c.issue.ext.isNone && c.pending x.b)) fun s =>
    s.onCore fun c => c.sendQ x.dup x.qd (cmpCond x.cc (c.src 0 x.a) (c.opCmp x)))

/-- R383. -/
def execPlog (x : SPlog) (s : State) : Outcome :=
  .next (s.slot (s.core.active x.g) none false fun s =>
    s.onCore fun c => c.sendQ x.dup x.qd (plogTable x.tt (c.getQ x.qa) (c.getQ x.qb)))

/-- R326, R327: a mismatch is CHK_FAIL at the boundary after the bundle. -/
def execChk (x : SChk) (s : State) : Outcome :=
  .next (s.slot (s.core.active x.g) none false fun s => s.onCore fun c =>
    if x.pair = 0 then
      if c.twinS.valid then
        let d := { c with twinS := { c.twinS with valid := false } }
        if c.twinS.primary = c.twinS.twin then d else d.caught 2 cChkFail
      else c
    else if c.twinV.valid then
      let d := { c with twinV := { c.twinV with valid := false } }
      if c.twinV.primary = c.twinV.twin then d else d.caught 2 cChkFail
    else c)

/-! ### Loads and stores -/

/-- R192: a window access that passes the end of the share. -/
def Core.windowBad (c : Core) (va : Word) (n : Nat) : Bool :=
  inWindow va.toNat && !c.inShare (va.toNat - windowBase) n

def Core.addLoad (c : Core) (x : SMem) (va : Word) (atomic : Bool) (value : Nat) (fault : Option (Nat × Nat)) (poison : Bool)
    (late : Bool := false) : Core :=
  { c with loads := c.loads ++ [⟨x.d, atomic, va, x.size, BitVec.ofNat 64 value, fault, poison, c.fetch.pc / 16,
      c.fetch.ibank, c.issue.slot, c.issue.unit, late⟩] }

/-- LD (R365): the access is performed in the issue cycle, or behind a FENCE (R204), and its value returns by LOAD_RETURN; a translation fault is
found after issue (R263). -/
def execLd (x : SMem) (s : State) : Outcome :=
  let c := s.core
  let n := sizeBytes x.size
  .next (s.slot (c.active x.g) (known (c.pending x.base) (firstBad [(c.windowBad (c.address x) n, cSpadRange)]))
    (c.pending x.base || c.pendingW x.d || (x.d == 0 && (c.loads ++ c.handler.loads).any fun l => l.dest == 0)) fun s =>
      let va := s.core.address x
      if inWindow va.toNat then
        s.onCore fun c =>
          let off := va.toNat - windowBase
          (c.addLoad x va false (leVal (c.spRead off n)) none (poisonedIn c.poison (c.spBase + off) n)).postInc x
      else
        let s := s.flushStreams
        match s.pieces .deck false (n + 1) va.toNat n with
        | (s, .error (.trans code a)) => s.onCore fun c => (c.addLoad x va false 0 (some (code, a)) false).postInc x
        | (s, .error (.fatal code)) => s.onCore fun c => c.fatal code
        | (s, .ok ps) =>
          if !s.core.fenceLeft.isEmpty then s.onCore fun c =>
            ((c.addLoad x va false 0 none false true).holdAccess c.fenceLeft (.load x.d)).postInc x
          else match s.readOwn ps with
          | (s, .error (.trans code a)) => s.onCore fun c => (c.addLoad x va false 0 (some (code, a)) false).postInc x
          | (s, .error (.fatal code)) => s.onCore fun c => c.fatal code
          | (s, .ok bs) => s.onCore fun c => (c.addLoad x va false (leVal bs) none (s.poisonedOwn ps)).postInc x)

/-- ST (R398, R399): the low bytes of s(d). -/
def execSt (x : SMem) (s : State) : Outcome :=
  let c := s.core
  let n := sizeBytes x.size
  .next (s.slot (c.active x.g) (known (c.pending x.base) (firstBad [(c.windowBad (c.address x) n, cSpadRange)]))
    (c.pending x.base || c.pending x.d) fun s =>
      let va := s.core.address x
      let data := s.core.src 2 x.d
      let bs := toBytes n data.toNat
      if inWindow va.toNat then
        s.onCore fun c => (c.spStore [(va.toNat - windowBase, bs, fun _ => true)]).postInc x
      else
        let s := s.flushBefore s.core.stamp
        match s.pieces .deck true (n + 1) va.toNat n with
        | (s, .error e) => s.onCore fun c => c.memFault e ⟨c.issue.slot, c.src 0 x.base, 0, data, va⟩
        | (s, .ok ps) => (s.ownStore ps bs 1).onCore fun c => c.postInc x)

/-- ATOM and CAS (R298 to R301, R322): the step is performed at once at the location's home, or behind a FENCE (R204). -/
def State.execAtomic (s : State) (x : SMem) (badCode : Bool) (opnd1 opnd2 : Word) (op : RemoteOp) : Outcome :=
  let c := s.core
  let n := sizeBytes x.size
  let va := c.address x
  .next (s.slot (c.active x.g)
    (checks [(badCode && !c.pending (x.d + 1), cIllegalOperation)] (c.pending x.base || c.pending (x.d + 1))
      [(va.toNat % n != 0, cMisalign), (c.windowBad va n, cSpadRange), (!inWindow va.toNat && decide (c.depth > 0), cRegionOp)])
    (c.pending x.base || c.pending x.d || c.pending (x.d + 1)) fun s =>
      let put (c : Core) (old : Nat) (bad : Bool) : Core :=
        ((if x.d = 0 then c else c.addLoad x va true old none bad)).postInc x
      if inWindow va.toNat then
        (s.uncontain s.core.part.task).onCore fun c =>
          let off := va.toNat - windowBase
          let old := leVal (c.spRead off n)
          let bad := poisonedIn c.poison (c.spBase + off) n
          let new := atomicWrites n op old
          put (c.spStore [(off, toBytes n (new.getD old), fun _ => new.isSome)]) old bad
      else
        let fail (e : MemErr) (c : Core) : Core := c.memFault e ⟨c.issue.slot, c.src 0 x.base, opnd1, opnd2, va⟩
        let s := s.flushBefore s.core.stamp
        match s.pieces .deck true (n + 1) va.toNat n with
        | (s, .error e) => s.onCore (fail e)
        | (s, .ok ps) =>
          let s := s.uncontain s.core.part.task
          if s.core.fenceLeft.isEmpty then
            match s.performAtomic va.toNat n op ps with
            | (s, .error e) => s.onCore (fail e)
            | (s, .ok (old, bad)) => s.onCore fun c => put c old bad
          else s.onCore fun c =>
            ((if x.d = 0 then c else c.addLoad x va true 0 none false true).holdAccess c.fenceLeft (.atomic x.d va.toNat n op ps)).postInc x)

def execAtom (x : SMem) (s : State) : Outcome :=
  let code := (s.core.src 1 (x.d + 1)).toNat % 16
  let op := s.core.src 2 x.d
  s.execAtomic x (decide (code ≥ 12)) (s.core.src 1 (x.d + 1)) op (.atom code (x.size == 3) op)

def execCas (x : SMem) (s : State) : Outcome :=
  let new := s.core.src 1 (x.d + 1)
  let cmp := s.core.src 2 x.d
  s.execAtomic x false new cmp (.cas (x.size == 3) new cmp)

end Sys2Proof.Machine
end

