-- ==== Sys2Proof/Machine/Control.lean ====
section
/-! DEFINITION. Control flow: branches, loops, bucket selection, the ends of a task, and the instruction banks
(R311, R315, R320, R321, R345 to R348, R364, R368, R381, R390, R402, R431). -/

namespace Sys2Proof.Machine

/-! ### Branches (R82, R86) -/

/-- pc + 16 × offset. -/
def Core.relTarget (c : Core) (off : Int) : Nat := wrapTo 64 ((c.fetch.pc : Int) + 16 * off)

/-- Redirect after one delay bundle. -/
def Core.branchTo (c : Core) (t : Nat) (flip : Bool := false) : Core :=
  { c with fetch := { c.fetch with redirect := some ⟨t, flip⟩ } }

/-- The link of CALL: a result of latency 1 for s63, the address of the bundle after the delay bundle (R321). -/
def Core.link (c : Core) : Core := c.send (.s 63 (BitVec.ofNat 64 (c.fetch.pc + 32))) 1 0

/-- A branch to `t`, which `pend` says is not there yet; `stall` says that another register is waited for. -/
def State.execBranch (s : State) (g : Guard) (t : Nat) (pend stall : Bool) (f : Core → Core) : Outcome :=
  .next (s.slot (s.core.active g) (known pend (firstBad [(targetBad t, cIllegalOperation)])) (pend || stall) fun s =>
    s.onCore fun c => f (c.branchTo t))

def execBr (x : BrF) (s : State) : Outcome := s.execBranch x.g (s.core.relTarget x.off.toInt) false false id
def execJmp (x : JmpF) (s : State) : Outcome := s.execBranch x.g (s.core.relTarget x.off.toInt) false false id
def execJmpReg (x : GReg) (s : State) : Outcome :=
  s.execBranch x.g (s.core.src 0 x.a).toNat (s.core.pending x.a) false id
def execCall (x : JmpF) (s : State) : Outcome :=
  s.execBranch x.g (s.core.relTarget x.off.toInt) false (s.core.pendingW 63) Core.link
def execCallReg (x : GReg) (s : State) : Outcome :=
  s.execBranch x.g (s.core.src 0 x.a).toNat (s.core.pending x.a) (s.core.pendingW 63) Core.link
/-- R390. -/
def execRet (x : Guard) (s : State) : Outcome := s.execBranch x (s.core.src 0 63).toNat (s.core.pending 63) false id

/-- R345: the target stands in the other bank; refused while the idle-bank-written flag is set. -/
def execIbank (x : GReg) (s : State) : Outcome :=
  let t := (s.core.src 0 x.a).toNat
  .next (s.slot (s.core.active x.g) (checks [(s.core.fetch.written, cIllegalOperation)] (s.core.pending x.a) [(targetBad t, cIllegalOperation)])
    (s.core.pending x.a) fun s => s.onCore fun c => c.branchTo t true)

/-- R347: refused while a command that writes the idle bank is outstanding. -/
def execIfence (x : Guard) (s : State) : Outcome :=
  .next (s.slot (s.core.active x) (firstBad [(s.core.copy.cmds.any (·.bank), cIllegalOperation)]) false fun s =>
    s.onCore fun c => { c with fetch := { c.fetch with written := false } })

/-! ### BSEL (R314, R315) -/

def bselBucket (t i : Nat) : Nat := bitsOf t (32 * i + 63) (32 * i + 32)
def bselEntry (t j : Nat) : Nat := bitsOf t (16 * j + 303) (16 * j + 288)
def bselCount (t : Nat) : Nat := bitsOf t 3 0

/-- A bucket table that breaks R314. -/
def bselBad (t : Nat) : Bool :=
  let k := bselCount t
  k == 0 || decide (k > 8) || bitsOf t 31 4 != 0 || bitsOf t 511 432 != 0 ||
  decide (bselBucket t 0 < 1) || decide (bselBucket t 0 > 65536) ||
  (List.range 8).any (fun i =>
    if i + 1 < k then decide (bselBucket t (i + 1) ≤ bselBucket t i) || decide (bselBucket t (i + 1) - bselBucket t i > 65536)
    else i ≥ k && bselBucket t i != 0) ||
  (List.range 9).any (fun j => bselEntry t j % 16 != 0 || (decide (j > k) && bselEntry t j != 0))

/-- The entry and the padding count that x chooses (R36, R315). -/
def bselChoose (t : Nat) (x : Int) : Nat × Nat :=
  let k := bselCount t
  if 1 ≤ x then
    match (List.range k).find? fun i => decide (x ≤ bselBucket t i) with
    | some i => (bselEntry t i, bselBucket t i - x.toNat)
    | none => (bselEntry t k, 0)
  else (bselEntry t k, 0)

def execBsel (x : GReg2) (s : State) : Outcome :=
  let c := s.core
  let off := (c.src 1 x.b).toNat
  let t := leVal (c.spRead off 64)
  let (e, p) := bselChoose t (c.src 0 x.a).toInt
  .next (s.slot (c.active x.g)
    (known (c.pending x.a || c.pending x.b)
      (firstBad [(off % 64 != 0 || !c.inShare off 64, cSpadRange), (bselBad t, cIllegalOperation), (targetBad e, cIllegalOperation)]))
    (c.pending x.a || c.pending x.b) fun s => s.onCore fun c =>
      ({ c with ctl := { c.ctl with pad := BitVec.ofNat 64 (p % 65536) } }.branchTo e).consumed (c.blockBad off))

/-! ### Loops (R367, R368) -/

/-- The loop block's stride pairs. -/
def loopPairs (t : Nat) : List (Nat × Int) :=
  (List.range 6).map fun j => (bitsOf t (64 * j + 71) (64 * j + 64), sext 56 (bitsOf t (64 * j + 127) (64 * j + 72)))

def loopBlockBad (t : Nat) : Bool :=
  let np := bitsOf t 34 32
  decide (np > 6) || bitsOf t 63 35 != 0 || bitsOf t 511 448 != 0 ||
  (List.range 6).any fun j =>
    let r := bitsOf t (64 * j + 71) (64 * j + 64)
    if j < np then r == 0 || decide (r > 63) else r != 0

/-- The trip count of a new level: its pending count if set (R364). -/
def Core.tripFor (c : Core) (t : Nat) : Nat :=
  match c.pend.toList.getD c.loops.length none with
  | some n => n.toNat
  | none => bitsOf t 31 0

def execLoop (x : LoopF) (s : State) : Outcome :=
  let c := s.core
  let off := (c.src 0 x.a).toNat
  let t := leVal (c.spRead off 64)
  let start := c.fetch.pc + 16
  let stop := c.fetch.pc + 16 * (x.body.toNat + 1)
  let outer := match c.loops.getLast? with | some l => decide (stop > l.stop) | none => false
  .next (s.slot (c.active x.g)
    (checks [(c.loops.length == 6 || decide (stop > 0x7FF0) || outer, cIllegalOperation)] (c.pending x.a)
      [(off % 64 != 0 || !c.inShare off 64 || loopBlockBad t, cIllegalOperation)])
    (c.pending x.a) fun s => s.onCore fun c =>
      let n := c.tripFor t
      let lvl := c.loops.length
      let c := { c.consumed (c.blockBad off) with pend := Vector.ofFn fun i : Fin 6 => if i.val = lvl then none else c.pend.get i }
      if n = 0 then { c with fetch := { c.fetch with skip := some ((stop + 16) % 0x8000) } }
      else
        let strides := ((loopPairs t).take (bitsOf t 34 32)).map fun p => (BitVec.ofNat 6 p.1, p.2)
        { c with
          loops := c.loops ++ [⟨start, stop, n, n, strides⟩]
          fetch := { c.fetch with skip := some start } })

/-! ### NOP and the ends of a task -/

/-- R381. -/
def execNop (s : State) : Outcome := .next (s.flow .ran)

/-- R402: samples the abort line and ends the part at the boundary after its bundle. Pushed stream elements are stores of
the core and are written first (R354). -/
def execTend (x : Guard) (s : State) : Outcome :=
  .next (s.slot (s.core.active x) none false fun s => s.flushStreams.boundaryAct fun c => c.endPart c.part.abort)

/-- Cores of the focused core's task cluster (R25): same task, same cluster. -/
def Core.sameCluster (a b : Core) : Bool := a.part.task == b.part.task && a.id / 8 == b.id / 8

/-- What an abort by the core `me` does to a core of its task cluster: its line is set, and the code recorded when none is yet (R40). -/
def Core.lineSet (me : Core) (code : Nat) (c : Core) : Core :=
  if me.sameCluster c then
    { c with
      part := { c.part with abort := true }
      ctl := if me.ctl.abort.getLsbD 32 then c.ctl else { c.ctl with abort := BitVec.ofNat 64 (code + 2 ^ 32) } }
  else c

/-- The first abort code of a task (R42). -/
def Task.firstCode (code : Nat) (t : Task) : Task :=
  { t with acode := if t.acode.isSome then t.acode else some (BitVec.ofNat 32 code) }

/-- R40: set the abort line of the task cluster; record the code when none is yet, and make the event of the first
abort (R250). -/
def State.setAbortLine (s : State) (code : Nat) : State :=
  let me := s.core
  let s := s.mapCores (me.lineSet code)
  if !me.ctl.abort.getLsbD 32 then
    (s.mapTask me.part.task (Task.firstCode code)).emit ⟨3, s.taskQueue, me.ctl.task, BitVec.ofNat 64 code⟩
  else s

/-- R320: the issuing core ends its part ABORTED at the boundary after the bundle, as if it sampled the line there (R280). -/
def execCabort (x : Imm16F) (s : State) : Outcome :=
  .next (s.slot (s.core.active x.g) none false fun s => (s.setAbortLine x.imm.toNat).onCore Core.sampleHere)

/-- R431: it marks the boundary after its bundle; a core chosen as a victim stops at every boundary of this model, so
nothing else is left to do. -/
def execYield (x : Guard) (s : State) : Outcome := .next (s.slot (s.core.active x) none false id)

/-- Is the focused core's context under halt debug (R289)? -/
def State.haltDebug (s : State) : Bool :=
  s.pilot.halt && (s.pilot.security == .vendorReturn || s.pilot.debugQs.contains s.taskQueue)

/-- The trap of TRAP and BRKPT: the bundle has retired, ctl.epc holds the next bundle, imm16 stands in the latch. -/
def Core.softTrap (c : Core) (code slot imm : Nat) : Core :=
  c.takeTrap ⟨code, slot, 3, 0, none, false, 0, [⟨slot, BitVec.ofNat 64 imm, 0, 0, 0⟩]⟩ c.fetch.pc

/-- R313. -/
def execBrkpt (x : Imm16F) (s : State) : Outcome :=
  .next (s.slot (s.core.active x.g) none false fun s =>
    let slot := s.core.issue.slot
    let halt := s.haltDebug
    s.boundaryAct fun c =>
      if halt then { c with part := { c.part with halted := true } } else c.softTrap cBreakpoint slot x.imm.toNat)

/-- R404. -/
def execTrap (x : Imm16F) (s : State) : Outcome :=
  .next (s.slot (s.core.active x.g) none false fun s =>
    let slot := s.core.issue.slot
    s.boundaryAct fun c => c.softTrap cSwTrap slot x.imm.toNat)

/-- R405: legal in handler state only; it acts at the boundary after its bundle, and what walks then does so after the core's stores
(R438). -/
def execTret (x : Guard) (s : State) : Outcome :=
  .next (s.slot (s.core.active x) (firstBad [(!s.core.handler.active, cIllegalOperation)]) false fun s =>
    let s' := s.flushStreams.boundaryAct id false
    if s'.core.bound.rollback.isSome || !s.core.bound.faulted.isEmpty then s' else s'.trapReturn.flow .moved)

end Sys2Proof.Machine
end

