-- ==== Sys2Proof/Machine/SyncOps.lean ====
section
/-! DEFINITION. Sync objects, fences, monitors and barriers (R200 to R214, R295, R335, R364, R389). -/

namespace Sys2Proof.Machine

/-! ### Sync objects (R201, R203) -/

structure SyncObj where
  seq  : Nat
  aux  : Nat
  hcore : Nat
  hmod : Nat
  mode : Nat
  deriving DecidableEq, Repr

def syncOf (x : Nat) : SyncObj := ⟨bitsOf x 31 0, bitsOf x 63 32, bitsOf x 79 64, bitsOf x 95 80, bitsOf x 97 96⟩

/-- The first 12 bytes of an object, which its operations change. -/
def syncHead (o : SyncObj) : List Byte := toBytes 4 o.seq ++ toBytes 4 o.aux ++ toBytes 2 o.hcore ++ toBytes 2 o.hmod

/-- R203. -/
def SyncObj.ready (o : SyncObj) : Bool :=
  let d := (o.seq + 2 ^ 32 - o.aux) % 2 ^ 32
  match o.mode with
  | 0 => o.hcore == 0
  | 1 => decide (1 ≤ d) && decide (d < 2 ^ 31)
  | _ => decide (d < 2 ^ 31)

/-- R205: mode 3, or a LOCK with aux set. -/
def SyncObj.illegal (o : SyncObj) : Bool := o.mode == 3 || (o.mode == 0 && o.aux != 0)

def SyncObj.acquired (o : SyncObj) (core module : Nat) : SyncObj :=
  match o.mode with
  | 0 => { o with hcore := core + 1, hmod := module }
  | 1 => { o with aux := (o.aux + 1) % 2 ^ 32 }
  | _ => o

def SyncObj.raised (o : SyncObj) : SyncObj := { o with seq := (o.seq + 1) % 2 ^ 32 }

/-- R205: the operand checks of ACQ, REL and LCNT. -/
def syncBad (va : Word) : Bool := va.toNat % 64 != 0 || va == 0 || inWindow va.toNat

/-- Where the object lies: its piece, or what stops the operation (R205): host memory, bonded pages and remote memory at a
scope narrower than fabric are SYNC_PLACE. -/
def State.syncPiece (s : State) (va : Nat) (scope : Nat) : State × Except MemErr Piece :=
  match s.xlat .deck va with
  | (s, .error c) => (s, .error (xlatErr c va))
  | (s, .ok x) =>
    let p : Piece := ⟨va, x.pa + va % x.size, 64, x⟩
    if x.bond then (s, .error (.fatal cSyncPlace))
    else match placeOf p.pa with
      | .host => (s, .error (.fatal cSyncPlace))
      | .remote _ _ => if scope < 4 then (s, .error (.fatal cSyncPlace)) else (s, .ok p)
      | .hole => (s, .error (.fatal cPaHole))
      | _ => (s, .ok p)

/-- The object as it stands, which must not be poisoned (R281, log 69); another module's is what an access at this time finds (R203, R208). -/
def State.readSync (s : State) (p : Piece) : State × Except MemErr SyncObj :=
  match placeOf p.pa with
  | .remote slot _ =>
    if (s.moduleAt slot).isNone then (s, .error (.fatal cPaHole))
    else match Config.remoteSync p.pa s.clock with
      | none => (s, .error (.fatal cRemoteKey))
      | some x => (s, .ok (syncOf x.toNat))
  | _ =>
    match s.readPiece p with
    | (s, .error e) => (s, .error e)
    | (s, .ok bs) => (s, if s.poisonedAt [p] then .error (.fatal cUncorrectable) else .ok (syncOf (leVal bs)))

/-- One atomic step on an object leaves it as `o`; at another module's home the step is performed there, by one packet (R208,
R210). -/
def State.writeSync (s : State) (p : Piece) (o : SyncObj) (op : RemoteOp) : State × Option MemErr :=
  match placeOf p.pa with
  | .remote slot a =>
    match s.moduleAt slot with
    | none => (s, some (.fatal cPaHole))
    | some m => ((s.uncontain s.core.part.task).sendRemote m a op, none)
  | _ => s.writePiece p (syncHead o) false

/-- Does the core have an earlier store to the bytes of a piece that is not performed yet (log 81)? -/
def Core.storesTo (c : Core) (p : Piece) : Bool :=
  !(c.waiting.isEmpty && c.pushes.isEmpty) && (List.range p.len).any fun i => c.ownCovers (p.va + i) (p.pa + i)

/-- What an acquire finds: it must stop, wait, or may take the object. -/
inductive AcqResult where
  | err (e : MemErr)
  | wait
  | take (p : Piece) (o : SyncObj)
  deriving DecidableEq, Repr

/-- An acquisition comes after the core's own earlier stores to the object: it waits while one is not performed (R199, R200; log 81). -/
def State.acqProbe (s : State) (va scope : Nat) : State × AcqResult :=
  match s.syncPiece va scope with
  | (s, .error e) => (s, .err e)
  | (s, .ok p) =>
    if s.core.storesTo p then (s, .wait)
    else match s.readSync p with
    | (s, .error e) => (s, .err e)
    | (s, .ok o) =>
      if o.illegal then (s, .err (.fatal cSyncMode))
      else if o.mode ≠ 2 ∧ !p.x.w then (s, .err (.trans cTrProt va))
      else if o.ready then (s, .take p o)
      else (s, .wait)

/-- The atomic step of an acquisition (R203); an EPOCH object does not change, so nothing is written. -/
def State.acquire (s : State) (p : Piece) (o : SyncObj) : State × Option MemErr :=
  if o.mode = 2 then (s, none)
  else s.writeSync p (o.acquired s.core.id s.ferry.addr) (.acquire s.core.id s.ferry.addr)

def AcqResult.waits : AcqResult → Bool
  | .wait => true
  | _ => false

/-- R295. -/
def execAcq (x : SyncF) (s : State) : Outcome :=
  let va := s.core.srcAddr x.a
  let l : Latch := ⟨s.core.issue.slot, s.core.src 0 x.a, 0, 0, va⟩
  .next (s.slot (s.core.active x.g) (known (s.core.pending x.a) (firstBad [(syncBad va, cIllegalOperation)]))
    (s.core.pending x.a || (s.flushStreams.acqProbe va.toNat x.scope.toNat).2.waits) fun s =>
      match s.flushStreams.acqProbe va.toNat x.scope.toNat with
      | (s, .err e) => s.onCore fun c => c.memFault e l
      | (s, .wait) => s.flow .stalled
      | (s, .take p o) =>
        match s.acquire p o with
        | (s, none) => s
        | (s, some e) => s.onCore fun c => c.memFault e l)

/-- REL (R389): it translates at issue and then waits in the memory system; RELEASE_PERFORM performs it. -/
def execRel (x : SyncF) (s : State) : Outcome :=
  let va := s.core.srcAddr x.a
  let l : Latch := ⟨s.core.issue.slot, s.core.src 0 x.a, 0, 0, va⟩
  .next (s.slot (s.core.active x.g)
    (checks [(decide (s.core.depth > 0), cRegionOp)] (s.core.pending x.a) [(syncBad va, cIllegalOperation)])
    (s.core.pending x.a) fun s =>
      let s := s.flushStreams
      match s.syncPiece va.toNat x.scope.toNat with
      | (s, .error e) => s.onCore fun c => c.memFault e l
      | (s, .ok p) =>
        if !p.x.w then s.onCore fun c => c.memFault (.trans cTrProt va.toNat) l
        else
          (s.uncontain s.core.part.task).onCore fun c =>
            { c with sync := { c.sync with rels := c.sync.rels ++ [⟨va, p.pa, x.scope, [], false, c.pushesBefore, c.stamp⟩] } })

/-- Step 2 of R209: markers to every module the context has sent to, down every path it used. Answers the modules. -/
def State.sendMarkers (s : State) : State × List (Nat × BitVec 32) :=
  match s.task with
  | none => (s, [])
  | some t =>
    let mods := (t.paths.map (·.1)).eraseDups
    if mods.isEmpty then (s, [])
    else
      let epoch := t.epoch + 1
      let anchor := t.cores.foldl min 255
      let n (m : Nat) : BitVec 4 := BitVec.ofNat 4 ((t.paths.filter fun q => q.1 == m).length - 1)
      let marks := t.paths.zipIdx.map fun p => Sent.marker p.1.1 ⟨s.ferry.psn + p.2, t.key, s.ferry.addr, anchor, epoch, p.1.2, n p.1.1⟩
      let s := s.mapTask t.num fun t => { t with epoch := epoch, paths := [] }
      ({ s with ferry := { s.ferry with sent := s.ferry.sent ++ marks, psn := s.ferry.psn + t.paths.length } },
        mods.map fun m => (m, epoch))

/-- The acknowledgements that releases of the task wait for: a later release covers the same packets (R203, R209). -/
def State.openWaits (s : State) : List (Nat × BitVec 32) :=
  (s.cores.flatMap fun c =>
    if c.part.task = s.core.part.task then c.sync.rels.flatMap (·.waits) ++ c.copy.cmds.flatMap (·.waits) else []).eraseDups

/-- The release step itself (R203): a LOCK must be held by the releaser. -/
def State.releaseNow (s : State) (r : Release) : State :=
  let p : Piece := ⟨r.va.toNat, r.pa, 64, ⟨0, 0, 64, 0, true, false, false⟩⟩
  let stop (s : State) (e : MemErr) : State := s.onCore fun c => c.fatal (match e with | .trans code _ => code | .fatal code => code)
  match s.readSync p with
  | (s, .error e) => stop s e
  | (s, .ok o) =>
    if o.illegal then s.onCore fun c => c.fatal cSyncMode
    else if o.mode = 0 ∧ (o.hcore ≠ s.core.id + 1 ∨ o.hmod ≠ s.ferry.addr) then s.onCore fun c => c.fatal cSyncOwner
    else
      let o := if o.mode = 0 then { o with hcore := 0, hmod := 0 } else o
      match s.writeSync p o.raised (.release s.core.id s.ferry.addr) with
      | (s, none) => s
      | (s, some e) => stop s e

def dropAt {α : Type} (k : Nat) (l : List α) : List α := l.take k ++ l.drop (k + 1)

/-- RELEASE_PERFORM (R203, R209): the core's earlier releases and the pushes that it covers are performed first (R200, R354); at fabric
scope the markers go first; then every acknowledgement must be in. -/
def execReleasePerform (k : Nat) (s : State) : Outcome :=
  match s.core.sync.rels[k]? with
  | none => .refused (.notEnabled "RELEASE_PERFORM")
  | some r =>
    let drop (s : State) : State := s.onCore fun c => { c with sync := { c.sync with rels := dropAt k c.sync.rels } }
    if k ≠ 0 ∨ r.after.any s.core.unperformed.contains then .refused (.notEnabled "RELEASE_PERFORM")
    else if r.scope.toNat = 4 ∧ !r.sent then
      let open' := s.openWaits
      let (s, mods) := s.sendMarkers
      let mods := mods ++ open'
      if mods.isEmpty then .next ((drop s).releaseNow r)
      else .next (s.onCore fun c =>
        { c with sync := { c.sync with rels := c.sync.rels.set k { r with waits := mods, sent := true } } })
    else if r.waits.isEmpty then .next ((drop s).releaseNow r)
    else .refused (.notEnabled "RELEASE_PERFORM")

/-- The core's accesses that are not performed yet stand before its later ones. -/
def Core.fenceHere (c : Core) : Core := { c with copy := { c.copy with fence := c.unperformed } }

/-- FENCE (R204, R340): the accesses of this model are performed in their issue cycle, in order, save the pushes that wait (R354): those
that may be are written now, and the core's later accesses come after the others. -/
def execFence (x : FenceF) (s : State) : Outcome :=
  .next (s.slot (s.core.active x.g) (firstBad [(decide (s.core.depth > 0), cRegionOp)]) false
    fun s => s.flushStreams.onCore Core.fenceHere)

/-! ### LCNT (R39, R364) -/

def lcntBad (va : Word) : Bool := va.toNat % 32 != 0 || inWindow va.toNat

/-- Set the pending counts of levels lo to 5 from a block. -/
def Core.setCounts (c : Core) (lo block : Nat) : Core :=
  { c with pend := Vector.ofFn fun i : Fin 6 =>
      if lo ≤ i.val then some (BitVec.ofNat 32 (bitsOf block (32 * i.val + 31) (32 * i.val))) else c.pend.get i }

/-- The acquire at package scope, then the package-scope read of the block; both translate before either has effect. The latch's effective
address is the object's (DEDUCED, log 89). -/
def execLcnt (x : LcntF) (s : State) : Outcome :=
  let va := s.core.srcAddr x.a
  let vb := s.core.src 1 x.b
  let l : Latch := ⟨s.core.issue.slot, s.core.src 0 x.a, vb, 0, va⟩
  .next (s.slot (s.core.active x.g)
    (known (s.core.pending x.a || s.core.pending x.b)
      (firstBad [(syncBad va, cIllegalOperation), (lcntBad vb, cIllegalOperation)]))
    (s.core.pending x.a || s.core.pending x.b || (s.flushStreams.acqProbe va.toNat 3).2.waits) fun s =>
      match s.flushStreams.acqProbe va.toNat 3 with
      | (s, .err e) => s.onCore fun c => c.memFault e l
      | (s, .wait) => s.flow .stalled
      | (s, .take p o) =>
        match s.pieces .deck false 33 vb.toNat 32 with
        | (s, .error e) => s.onCore fun c => c.memFault e l
        | (s, .ok ps) =>
          match s.acquire p o with
          | (s, some e) => s.onCore fun c => c.memFault e l
          | (s, none) =>
          match s.readOwn ps with
          | (_, .error e) => s.onCore fun c => c.memFault e l
          | (s, .ok bs) =>
            let bad := s.poisonedOwn ps
            s.onCore fun c =>
              let c := c.setCounts x.lo.toNat (leVal bs)
              if bad then c.uncorrectable else c)

/-! ### Monitors (R213, R214) -/

/-- A MON takes the monitor over (R213): it arms nothing, or a line once the core's earlier accesses are performed, save stores that a region
holds, which leave its monitor as it is (log 81). -/
def Core.monitor (c : Core) (line : Nat) (nothing : Bool) : Core :=
  let c := c.dropHeld FencedOp.isMonitor
  if nothing || c.unperformed.isEmpty then c.arm line nothing c.stamp
  else { c with sync := { c.sync with monitor := none } }.holdAccess c.unperformed (.monitor line)

/-- MON: host and remote memory, views and the window arm nothing. -/
def execMon (x : GReg) (s : State) : Outcome :=
  let va := s.core.srcAddr x.a
  let arm (s : State) (line : Nat) (nothing : Bool) : State := s.onCore fun c => c.monitor line nothing
  .next (s.slot (s.core.active x.g) none (s.core.pending x.a) fun s =>
    if inWindow va.toNat then arm s 0 true
    else
      let s := s.flushStreams
      match s.xlat .deck va.toNat with
      | (s, .error c) => s.onCore fun k => k.memFault (xlatErr c va.toNat) ⟨k.issue.slot, k.src 0 x.a, 0, 0, va⟩
      | (s, .ok p) =>
        let pa := p.pa + va.toNat % p.size
        if p.bond then arm s 0 true
        else match placeOf pa with
          | .hole => s.onCore fun k => k.fatal cPaHole
          | .host => arm s 0 true
          | .remote slot _ => if (s.moduleAt slot).isNone then s.onCore fun k => k.fatal cPaHole else arm s 0 true
          | _ => arm s (pa / 128 * 128) false)

/-- The status MWAIT would return now; none while it waits (R214), for the write or for the arming that it waits for. -/
def Core.mwaitStatus (c : Core) : Option Nat :=
  if c.sync.restored then some 1
  else if c.heldMonitor.isSome then none
  else match c.sync.monitor with
    | none => some 2
    | some m => if m.nothing then some 2 else if m.hit then some 0 else none

/-- An instruction that samples the abort line at issue and while it stalls (R41): finding it set ends the part. -/
def State.sampling (s : State) (g : Guard) (k : Outcome) : Outcome :=
  if s.core.active g && s.core.part.abort && !s.core.issue.checked then
    .next ((s.flushStreams.onCore fun c => c.endPart true).flow .moved)
  else k

/-- R380. -/
def execMwait (x : GReg) (s : State) : Outcome :=
  s.sampling x.g (.next (s.slot (s.core.active x.g) none (s.core.pendingW x.a || s.core.mwaitStatus.isNone) fun s =>
    s.onCore fun c =>
      let st := c.mwaitStatus.getD 0
      { (c.dropHeld FencedOp.isMonitor) with sync := { c.sync with monitor := none, restored := if st = 1 then false else c.sync.restored } }.send
        (.s x.a (BitVec.ofNat 64 st)) 1 0))

/-! ### DBAR (R26, R27, R335, R446) -/

def domLo (d : Word) : Nat := bitsOf d.toNat 7 0
def domHi (d : Word) : Nat := bitsOf d.toNat 15 8
def domFab (d : Word) : Bool := d.getLsbD 16
def domGrp (d : Word) : Nat := bitsOf d.toNat 47 32
def Core.rank (c : Core) : Nat := bitsOf c.ctl.core.toNat 15 8
def inDom (d : Word) (rank : Nat) : Bool := domLo d ≤ rank && rank ≤ domHi d

/-- The member set a core carried at its k-th DBAR of a level, if it has issued that many. -/
def Core.arrivalAt (c : Core) (level k : Nat) : Option Word := ((c.sync.arrivals.toList.getD level []).reverse)[k - 1]?

/-- Has the core ended its part? It then counts as arrived everywhere (R335). -/
def Core.departed (c : Core) : Bool :=
  match c.part.status with
  | .ending _ => true
  | .ended _ => true
  | .none => true
  | _ => false

/-- Do two arrivals at one instance meet one barrier (R27)? -/
def meets (a b : Word) : Bool :=
  (domFab a && domFab b && domGrp a == domGrp b) || decide (max (domLo a) (domLo b) ≤ min (domHi a) (domHi b))

/-- Do two domain words name one member set (R26, R446)? grp counts only with fab. -/
def sameSet (a b : Word) : Bool :=
  domLo a == domLo b && domHi a == domHi b && domFab a == domFab b && (!domFab a || domGrp a == domGrp b)

/-- R27: an arrival that meets another of its task with a different member set. -/
def State.domMismatch (s : State) (level k : Nat) (d : Word) : Bool :=
  s.cores.any fun c => c.part.task == s.core.part.task &&
    (match c.arrivalAt level k with
    | some e => c.id != s.core.id && meets d e && !sameSet e d
    | none => false)

/-- The contexts, running or saved, of another task whose ctl.dom3 names the fabric group (R446). -/
def State.namesGroup (s : State) (group : Nat) : List Core :=
  s.allCores.filter fun c => c.part.task != s.core.part.task && c.part.status != .none && c.fabGroup == some group

/-- R446: at a level-3 arrival for a group that two tasks name, DOM_MISMATCH is raised in the later task: the one of the higher
number (log 66). -/
def State.groupClash (s : State) (level : Nat) (d : Word) : State :=
  if level = 3 ∧ domFab d then
    match s.namesGroup (domGrp d) with
    | [] => s
    | c :: _ =>
      if c.part.task < s.core.part.task then s.onCore fun k => k.fatal cDomMismatch
      else s.mapAllCores fun k => if k.id = c.id ∧ k.part.task = c.part.task then k.fatal cDomMismatch else k
  else s

/-- Every local member of the set has arrived at instance k or has ended. -/
def State.localArrived (s : State) (level k : Nat) (d : Word) : Bool :=
  s.cores.all fun c =>
    c.part.task != s.core.part.task || !inDom d c.rank || c.departed ||
      decide (k ≤ (c.sync.arrivals.toList.getD level []).length)

/-- The other modules of a fabric group's table (R446). -/
def State.otherModules (s : State) (group : Nat) : List Nat :=
  match s.ferry.groups.find? fun g => g.1 == group with
  | some g => (g.2.take 4096).filter (· != s.ferry.addr)
  | none => []

/-- Has this module joined an instance of a fabric group for the task? -/
def State.joinedAt (s : State) (group inst : Nat) : Bool := ((s.task.map (·.joins)).getD []).contains (group, inst)

/-- Is the fabric's part of an instance there: has this module joined it, and did every other module's joined arrival come? -/
def State.fabricMet (s : State) (k : Nat) (d : Word) : Bool :=
  s.joinedAt (domGrp d) k &&
    !s.ferry.opens.any fun o => o.group == domGrp d && o.inst == k && o.task == s.core.part.task

def State.complete (s : State) (level k : Nat) (d : Word) : Bool :=
  s.localArrived level k d && (!(level == 3 && domFab d) || s.fabricMet k d)

/-- The header of a packet to a module that the Ferry makes of itself (R179, log 83). -/
def Ferry.header (f : Ferry) (module : Nat) (key : BitVec 32) (src : Nat) (tag seq : BitVec 32) : ExtHeader :=
  ⟨key, f.pathFor module (Config.ferryPath (2 * (16 * f.psn) + 1)), src, tag, seq, f.psn⟩

/-- The joined arrival at an instance goes to other modules. -/
def Ferry.sendJoined (f : Ferry) (key : BitVec 32) (group inst : Nat) : List Nat → Ferry
  | [] => f
  | m :: r =>
    { f with psn := f.psn + 1, sent := f.sent ++ [Sent.barrier m (f.header m key 0 0 0) group inst] }.sendJoined key group inst r

/-- The Ferry carries this module's joined arrival at an instance once, when every local member has arrived. The others' arrivals that
came before are used up, and the instance stays open for the rest. -/
def State.joinFabric (s : State) (level k : Nat) (d : Word) : State :=
  if level = 3 ∧ domFab d ∧ s.localArrived level k d ∧ !s.joinedAt (domGrp d) k then
    let g := domGrp d
    let mods := s.otherModules g
    let came := mods.filter fun m => s.ferry.joined.contains (g, m, k)
    let missing := mods.filter fun m => !came.contains m
    let f := s.ferry.sendJoined ((s.task.map (·.key)).getD 0) g k mods
    ({ s with ferry := { f with
        joined := came.foldl (fun l m => l.erase (g, m, k)) f.joined
        opens := if missing.isEmpty then f.opens else f.opens ++ [(⟨g, k, s.core.part.task, missing⟩ : OpenJoin)] } }).mapTask
      s.core.part.task fun t => { t with joins := (g, k) :: t.joins }
  else s

/-- The instances of the fabric group that the task's cores, or other modules, have arrived at, with their member sets. -/
def State.fabricInstances (s : State) : List (Nat × Word) :=
  (s.cores.filter fun c => c.part.task == s.core.part.task).flatMap fun c =>
    let d := c.ctl.dom.get 3
    ((c.sync.arrivals.get 3).reverse.zipIdx.filter fun p => domFab p.1).map (fun p => (p.2 + 1, p.1)) ++
      (s.ferry.joined.filter fun j => domFab d && j.1 == domGrp d).map fun j => (j.2.2, d)

/-- A core of the task has ended its part, and so counts as arrived: the instances that this completes on this module are joined (R335,
R446). -/
def State.joinEnded (s : State) : State := s.fabricInstances.foldl (fun s p => s.joinFabric 3 p.1 p.2) s

/-- Record the core's arrival, once (R335): the instance it waits for, and its member set. -/
def State.arrive (s : State) (level : BitVec 2) : State × Nat × Word :=
  match s.core.sync.waiting.find? fun w => w.1 == level.toNat with
  | some (l, k) => (s, k, (s.core.arrivalAt l k).getD 0)
  | none =>
    let d := s.core.ctl.dom.get level.toFin
    let old := s.core.sync.arrivals.get level.toFin
    let k := old.length + 1
    let bad := s.domMismatch level.toNat k d
    let s := s.onCore fun c => { c with sync := { c.sync with
      arrivals := c.sync.arrivals.set level.toNat (d :: old) level.isLt
      waiting := (level.toNat, k) :: c.sync.waiting } }
    ((if bad then s.onCore fun c => c.fatal cDomMismatch else s).groupClash level.toNat d, k, d)

/-- DBAR: the arrival is recorded, and issue stalls until the instance completes; a stalled DBAR has arrived. -/
def execDbar (x : DbarF) (s : State) : Outcome :=
  s.sampling x.g (
    if s.core.active x.g then
      let (s, k, d) := s.arrive x.level
      let s := s.joinFabric x.level.toNat k d
      if s.complete x.level.toNat k d then
        .next ((s.onCore fun c =>
          { c with sync := { c.sync with waiting := c.sync.waiting.filter fun w => w.1 != x.level.toNat } }).flow .ran)
      else .next (s.flow .stalled)
    else .next (s.flow .ran))

end Sys2Proof.Machine
end

