-- ==== Sys2Proof/Machine/Tiles.lean ====
section
/-! DEFINITION. Tile entries and ring handles (R51 to R54), and the shared path of the command form (R80, R270, R294,
R448). -/

namespace Sys2Proof.Machine

/-! ### Tiles (R51, R52) -/

def Core.tile (c : Core) (t : BitVec 6) : Tile := c.tiles.get t.toFin
def Core.setTile (c : Core) (t : BitVec 6) (x : Tile) : Core := { c with tiles := c.tiles.set t.toNat x t.isLt }
def Core.tileAt (c : Core) (t : Nat) : Tile := c.tile (BitVec.ofNat 6 t)
def Core.setTileState (c : Core) (t : Nat) (x : TileState) : Core :=
  c.setTile (BitVec.ofNat 6 t) { c.tileAt t with state := x }

def Tile.bound (t : Tile) : Bool := t.size != 0
def Core.tileRef (c : Core) (t : Nat) : TileRef := ⟨t, (c.tileAt t).base.toNat, (c.tileAt t).size.toNat⟩

/-- Bytes of a tile, and its first byte in the pool. -/
def TileRef.bytes (r : TileRef) : Nat := 16384 * r.size
def TileRef.start (r : TileRef) : Nat := 16384 * r.base

/-- Does a tile entry lie in the accumulator share? Only micro-operations reach it (R130). -/
def Core.accTile (c : Core) (t : Nat) : Bool :=
  let x := c.tileAt t
  x.bound && decide (c.rf ≤ x.base.toNat) && decide (x.base.toNat + x.size.toNat ≤ c.rf + c.accGranules)

/-- A command or an item begins to fill tiles: a rollback empties those of an open region (R271), and no injection has spoiled them yet
(R337). -/
def Core.noteFills (c : Core) (ts : List Nat) : Core :=
  let c := if c.spoiled.isEmpty then c else { c with spoiled := c.spoiled.filter fun p => !ts.contains p.1 }
  if c.depth > 0 then { c with regions := { c.regions with filled := ts.map (fun t => (c.depth, t)) ++ c.regions.filled } } else c

def Core.tileRead (c : Core) (r : TileRef) (off n : Nat) : List Byte := c.poolRead (r.start + off) n
def Core.tilePoison (c : Core) (r : TileRef) (off n : Nat) : Bool := poisonedIn c.poison (r.start + off) n

/-- A write into a tile that a command fills; EINJ kind 3 poisons the first 32 bytes of the next one (R337). -/
def Core.tileWrite (c : Core) (r : TileRef) (off : Nat) (bs : List Byte) (bad : Bool := false) : Core :=
  let c := c.poolWrite (r.start + off) bs bad
  match c.inject.get 3 with
  | none => c
  | some _ =>
    if bs.isEmpty then c
    else
      let a := r.start + off
      let n := min 32 bs.length
      { c with inject := c.inject.set 3 none, poison := poisonAfter c.poison a n true, spoiled := c.spoiled ++ (granules a n).map fun g => (r.idx, g) }

/-- What an injection has poisoned in a tile stays so, whatever the fill has written there since (R337). -/
def Core.spoil (c : Core) (t : Nat) : Core :=
  if c.spoiled.isEmpty then c
  else
    { c with
      poison := (c.spoiled.filter fun p => p.1 == t).foldl (fun q p => poisonAfter q (32 * p.2) 1 true) c.poison
      spoiled := c.spoiled.filter fun p => p.1 != t }

/-- A filled tile becomes ready; poison in it is POISON (R271, R281). `inRegion` says that its command was issued in an
open region. -/
def Core.tileReady (c : Core) (inRegion : Bool) (r : TileRef) : Core :=
  let c := if (c.tileAt r.idx).state = .filling then c.setTileState r.idx .ready else c
  let c := c.spoil r.idx
  if c.tilePoison r 0 r.bytes then (if inRegion then c.unitCaught 3 cPoison else c.fatal cPoison) else c

/-- R51: a tile lies in the accumulator share, or in the scratchpad share without its last granule. -/
def Core.tileBad (c : Core) (base size : Nat) : Bool :=
  let inAcc := decide (c.rf ≤ base) && decide (base + size ≤ c.rf + c.accGranules)
  let inSp := decide (c.rf + c.accGranules ≤ base) && decide (base + size ≤ 95)
  size != 0 && !(inAcc || inSp)

/-- TLSET (R403): the entry's state is checked at once, the binding once s(a) is known. -/
def execTlset (x : TlSetF) (s : State) : Outcome :=
  let c := s.core
  let v := (c.src 0 x.a).toNat
  let busy := (c.tile x.t).state == .filling || (c.tile x.t).state == .draining
  .next (s.slot (c.active x.g)
    (firstBad [(!c.pending x.a && c.tileBad (bitsOf v 6 0) (bitsOf v 13 7), cIllegalOperation), (busy, cTileBusy)])
    (c.pending x.a) fun s => s.onCore fun c =>
      let size := BitVec.ofNat 7 (bitsOf v 13 7)
      c.setTile x.t ⟨BitVec.ofNat 7 v, size, if size != 0 && x.st then .ready else .empty⟩)

/-! ### Ring handles (R53, R54, R323 to R325) -/

def Core.ring (c : Core) (h : BitVec 4) : Ring := c.rings.get h.toFin
def Core.setRing (c : Core) (h : BitVec 4) (r : Ring) : Core := { c with rings := c.rings.set h.toNat r h.isLt }

def Ring.count (r : Ring) : Nat := (r.prod - r.cons).toNat
/-- The tile entry of slot k (R53). -/
def Ring.slotTile (r : Ring) (k : Nat) : Nat := r.first.toNat + (if r.n = 0 then 0 else k % r.n.toNat)

def execCbadvProd (x : CbAdvF) (s : State) : Outcome :=
  let r := s.core.ring x.h
  let k := x.k.toNat + 1
  .next (s.slot (s.core.active x.g)
    (firstBad [(r.n == 0 || decide (r.count + k > r.n.toNat), cIllegalOperation)]) false fun s => s.onCore fun c =>
      c.setRing x.h { c.ring x.h with prod := (c.ring x.h).prod + BitVec.ofNat 16 k })

/-- The tiles that k steps of cons pass. -/
def Ring.passed (r : Ring) (k : Nat) : List Nat := (List.range k).map fun i => r.slotTile ((r.cons + BitVec.ofNat 16 i).toNat)

def execCbadvCons (x : CbAdvF) (s : State) : Outcome :=
  let r := s.core.ring x.h
  let k := x.k.toNat + 1
  .next (s.slot (s.core.active x.g)
    (firstBad [(r.n == 0 || decide (k > r.count), cIllegalOperation),
      ((r.passed k).any (fun t => (s.core.tileAt t).state == .filling), cIllegalOperation)]) false fun s => s.onCore fun c =>
      let r := c.ring x.h
      let c := (r.passed k).foldl (fun c t => if (c.tileAt t).state = .ready then c.setTileState t .empty else c) c
      c.setRing x.h { r with cons := r.cons + BitVec.ofNat 16 k })

def execCbwait (x : CbWaitF) (s : State) : Outcome :=
  let r := s.core.ring x.h
  let have' := if x.free then r.n.toNat - r.count else r.count
  let run : Outcome := .next (s.slot (s.core.active x.g)
    (firstBad [(r.n == 0 || decide (x.count.toNat > r.n.toNat), cIllegalOperation)]) (decide (have' < x.count.toNat)) id)
  if s.core.active x.g && s.core.part.abort && !s.core.issue.checked then
    .next ((s.flushStreams.onCore fun c => c.endPart true).flow .moved)
  else run

/-! ### KBAR (R207, R351) -/

/-- The access classes of a K command of a core: 1 scratchpad read, 2 scratchpad write, 4 memory (R207). A KPEER writes outside its core, or
into its own scratchpad when it is its own receiver (R360). -/
def kClasses (core : Nat) (op : Instr) (block : Nat) : BitVec 3 :=
  match op with
  | .kcopy _ =>
    (if bitsOf block 129 128 = 0 then 4#3 else 1#3) |||
      (if bitsOf block 131 130 = 0 then 4#3 else if bitsOf block 131 130 = 3 then 0#3 else 2#3)
  | .kpeer _ => if bitsOf block 15 8 = core then 3#3 else 5#3
  | _ => 0#3

/-- Elements read ahead but not popped count as accepted after the KBAR: they are read again (R351). -/
def Stream.refetch (x : Stream) (cls : BitVec 3) : Stream :=
  match x.bind with
  | some b => if !b.write && (cls &&& (if b.sp then 1#3 else 4#3)) != 0 then { x with moved := x.pos, fifo := [], stop := none } else x
  | none => x

def execKbar (x : KBarF) (s : State) : Outcome :=
  .next (s.slot (s.core.active x.g) none false fun s => s.flushStreams.onCore fun c =>
    let ids := (c.copy.cmds.filter fun k => kClasses c.id k.op k.block.toNat &&& x.cls != 0).map (·.id) ++
      (if x.cls.getLsbD 2 then (c.copy.aq0 ++ c.copy.aq1).map (·.id) ++ c.pushes.map (·.num) else [])
    let live := c.copy.fences.filter fun f => f.2.any c.outstanding.contains
    { c with copy := { c.copy with fences := live ++ [(x.cls, ids)], streams := c.copy.streams.map (·.refetch x.cls) } })

/-! ### The command form (R80, R270, R294) -/

/-- What a command names: tiles it reads, those it consumes, those it fills. -/
structure Named where
  srcs : List Nat
  cons : List Nat
  dsts : List Nat
  deriving DecidableEq, Repr

def Core.blockAt (c : Core) (off : Nat) : Nat := leVal (c.spRead off 64)

def Core.unitQueue (c : Core) (u : Nat) : Nat := (c.copy.cmds.filter fun k => k.unit == u).length

def soBad (so : Word) : Bool := so != 0 && (so.toNat % 64 != 0 || inWindow so.toNat)

/-- The path of every command: its checks (that no tile it names is an accumulator tile among them, log 30), its stalls, and its acceptance. `inRegion` says that R270 lets it stand in a region
with this block, `bad` are its own checks of the block, `unc` that it makes a contained node uncontained (R274), `bank` that
it writes the idle instruction bank. A poisoned block is consumed (R281). -/
def State.command (s : State) (x : Cmd) (op : Instr) (inRegion : Nat → Bool) (bad : Core → Nat → List (Bool × Nat))
    (named : Nat → Named) (unc : Bool) (bank : Nat → Bool) : Outcome :=
  let c := s.core
  let pend := c.pending x.cb || c.pending x.so
  let off := (c.src 0 x.cb).toNat
  let so := c.src 1 x.so
  let b := c.blockAt off
  let n := named b
  let all := n.srcs ++ n.cons ++ n.dsts
  .next (s.slot (c.active x.g)
    (known pend (firstBad ([(off % 64 != 0 || !c.belowFrame off 64 || !c.inShare off 64, cSpadRange), (soBad so, cIllegalOperation),
      (decide (c.depth > 0) && (!inRegion b || x.rel || so != 0), cRegionOp)] ++ bad c b ++
      [(all.any (fun t => !(c.tileAt t).bound || c.accTile t), cIllegalOperation),
       (n.dsts.any (fun t => (c.tileAt t).state != .empty), cTileBusy)])))
    (pend || (n.srcs ++ n.cons).any (fun t => (c.tileAt t).state != .ready) || decide (c.unitQueue c.issue.unit ≥ 16))
    fun s =>
      let s := s.flushStreams
      let s := if unc then s.uncontain s.core.part.task else s
      let id := s.hm.nextNum
      let s := { s with hm := { s.hm with nextNum := id + 1 } }
      s.onCore fun c =>
        let cmd : Command := {
          id := id, op := op, block := BitVec.ofNat 512 b, cb := off, so := so, acq := x.acq, rel := x.rel, scope := x.scope
          unit := c.issue.unit, pad := c.ctl.pad.toNat, srcs := (n.srcs ++ n.cons).map c.tileRef, dsts := n.dsts.map c.tileRef
          cons := n.cons, depth := c.depth, prog := 0, acc := [], fx := none, stop := none, told := false, bank := bank b
          after := c.fenced (kClasses c.id op b) ++ c.pushesBefore, sig := false, sent := false, waits := []
          rels := if x.rel then c.sync.rels.map (·.num) else [] }
        let c := (n.dsts.foldl (fun c t => c.setTileState t .filling) c).noteFills n.dsts
        let c := n.cons.foldl (fun c t => c.setTileState t .draining) c
        { c with
          copy := { c.copy with cmds := c.copy.cmds ++ [cmd] }
          fetch := { c.fetch with written := c.fetch.written || bank b } }.consumed (c.blockBad off))

end Sys2Proof.Machine
end

