-- ==== Sys2Proof/Machine/Commands.lean ====
section
/-! DEFINITION. The life of a command after its acceptance: its work, its stops, its completion signal (R52, R206, R265,
R294), and what the engines share for reading and writing memory. -/

namespace Sys2Proof.Machine

/-! ### Commands of the focused core -/

def State.cmd (s : State) (id : Nat) : Option Command := s.core.copy.cmds.find? fun k => k.id == id

def Core.mapCmd (c : Core) (id : Nat) (f : Command → Command) : Core :=
  { c with copy := { c.copy with cmds := c.copy.cmds.map fun k => if k.id = id then f k else k } }

def Core.dropCmd (c : Core) (id : Nat) : Core :=
  { c with copy := { c.copy with cmds := c.copy.cmds.filter fun k => k.id != id } }

/-- Write WO fields back into the block: (byte offset, bytes) (R294). -/
def Core.writeBack (c : Core) (k : Command) (fields : List (Nat × List Byte)) : Core :=
  fields.foldl (fun c f => c.spWrite (k.cb + f.1) f.2) c

/-- The tiles of a command that is cancelled or faults fatally (R52). -/
def Core.releaseTiles (c : Core) (k : Command) : Core :=
  let c := k.dsts.foldl (fun c r => if (c.tileAt r.idx).state = .filling then c.setTileState r.idx .empty else c) c
  k.cons.foldl (fun c t => if (c.tileAt t).state = .draining then c.setTileState t .empty else c) c

/-- A command ends with a fatal fault of its context. -/
def State.failCmd (s : State) (k : Command) (code : Nat) : State :=
  s.onCore fun c => ((c.releaseTiles k).dropCmd k.id).fatal code

/-- A translation fault stops the command at its unit (R265); with its core's part over it is fatal. -/
def State.stopCmd (s : State) (k : Command) (code va : Nat) : State :=
  if s.core.part.takesFaults then
    s.onCore fun c => c.mapCmd k.id fun x => { x with stop := some (code, va) }
  else s.failCmd k code

/-- What a memory error does to a command: BOND_WRITE is fatal for an engine (R233). -/
def State.memStop (s : State) (k : Command) : MemErr → State
  | .trans code va => if code = cBondWrite then s.failCmd k code else s.stopCmd k code va
  | .fatal code => s.failCmd k code

/-! ### Completion (R52, R206, R294) -/

/-- A signal on a sync object: seq rises by 1 in every mode. -/
def State.signalObj (s : State) (va scope : Nat) : State × Option MemErr :=
  match s.syncPiece va scope with
  | (s, .error e) => (s, some e)
  | (s, .ok p) =>
    if !p.x.w then (s, some (.trans cTrProt va))
    else match s.readSync p with
      | (s, .error e) => (s, some e)
      | (s, .ok o) => if o.illegal then (s, some (.fatal cSyncMode)) else s.writeSync p o.raised .signal

/-- The end of a command: draining sources empty, filled tiles ready. -/
def Core.endCmd (c : Core) (k : Command) : Core :=
  let c := k.cons.foldl (fun c t => if (c.tileAt t).state = .draining then c.setTileState t .empty else c) c
  let c := c.dropCmd k.id
  k.dsts.foldl (fun c r => c.tileReady (k.depth > 0 && c.depth > 0) r) c

/-- The signal and end of a command whose work is done. A release comes after the releases that its core issued before the command
(R206); one at fabric scope first sends its markers and waits for their acknowledgements (R186, R209); a release wider than core makes a contained node uncontained (R274). -/
def State.completeCmd (s : State) (k : Command) : Outcome :=
  let s := s.onCore fun c => c.mapCmd k.id fun x => { x with sig := true }
  let flush := k.rel && k.scope == 4 && k.so != 0
  if k.so != 0 && s.core.sync.rels.any (fun r => k.rels.contains r.num) then .refused (.notEnabled "COMMAND_COMPLETE")
  else if flush && !k.sent then
    let open' := s.openWaits
    let (s, mods) := s.sendMarkers
    let mods := mods ++ open'
    let s := s.onCore fun c => c.mapCmd k.id fun x => { x with sent := true, waits := mods }
    if mods.isEmpty then go s else .next s
  else if !k.waits.isEmpty then .refused (.notEnabled "COMMAND_COMPLETE")
  else go s
where
  go (s : State) : Outcome :=
    if k.so = 0 then .next (s.onCore fun c => c.endCmd k)
    else
      let s := if k.rel && k.scope != 0 then s.uncontain s.core.part.task else s
      match s.signalObj k.so.toNat (if k.rel then k.scope.toNat else 0) with
      | (s, some e) => .next (s.memStop k e)
      | (s, none) => .next (s.onCore fun c => c.endCmd k)

/-! ### Engine reads and writes -/

/-- Read memory by a transfer that carries a hint (R164), with whether any of it is poisoned. -/
def State.readHinted (s : State) (via : Via) (va n hint : Nat) : State × Except MemErr (List Byte × Bool) :=
  match s.pieces via false (n + 1) va n with
  | (s, .error e) => (s, .error e)
  | (s, .ok ps) =>
    let bad := s.poisonedAt ps
    match s.readPieces ps with
    | (s, .error e) => (s, .error e)
    | (s, .ok bs) => (s.hinted ps hint, .ok (bs, bad))

/-- The same without a hint. -/
def State.readChecked (s : State) (via : Via) (va n : Nat) : State × Except MemErr (List Byte × Bool) := s.readHinted via va n 0

/-- Go on with what a memory operation answers. -/
def chain {α β : Type} (r : State × Except MemErr α) (f : State → α → State × Except MemErr β) : State × Except MemErr β :=
  match r with
  | (s, .error e) => (s, .error e)
  | (s, .ok x) => f s x

/-- The units of a command's work from number `i` on, `n` of them (R276, R277): what stopped it, and at which unit. -/
def State.runUnits (s : State) (f : State → Nat → State × Option MemErr) : Nat → Nat → State × Option (Nat × MemErr)
  | 0, _ => (s, none)
  | n + 1, i =>
    match f s i with
    | (s, some e) => (s, some (i, e))
    | (s, none) => State.runUnits s f n (i + 1)

/-- A command of `total` units runs those it has not done, then `done`. -/
def State.workUnits (s : State) (k : Command) (total : Nat) (f : State → Nat → State × Option MemErr) (done : State → Outcome) :
    Outcome :=
  match s.runUnits f (total - k.prog) k.prog with
  | (s, some (i, e)) => .next ((s.onCore fun c => c.mapCmd k.id fun x => { x with prog := i }).memStop k e)
  | (s, none) => done s

/-- An engine's atomic step on a virtual address (R210). -/
def State.atomicStep (s : State) (va n : Nat) (op : RemoteOp) (new : Nat → Option Nat) (dirty : Bool := false) :
    State × Except MemErr (Nat × Bool) :=
  match s.pieces .deck true (n + 1) va n with
  | (s, .error e) => (s, .error e)
  | (s, .ok ps) =>
    let away := ps.any fun p => match placeOf p.pa with | .remote _ _ => true | _ => false
    ((if away then s.uncontain s.core.part.task else s).systemAtomic ps).atomicAt false ps va n op new dirty

/-- An engine's atomic read of a virtual address, with whether it is poisoned (R210, R211). -/
def State.atomicRead (s : State) (va n : Nat) : State × Except MemErr (List Byte × Bool) :=
  chain (s.pieces .deck false (n + 1) va n) fun s ps =>
    let bad := s.poisonedAt ps
    chain ((s.systemAtomic ps).readPieces ps) fun s bs => (s, .ok (bs, bad))

/-- Little-endian 32-bit elements of a tile. -/
def Core.tileN32 (c : Core) (r : TileRef) (i : Nat) : Nat := leVal (c.tileRead r (4 * i) 4)

/-- The padding rows among n, when bucket-shaped (R37). -/
def paddedRows (bucket : Bool) (pad n : Nat) : Nat := if bucket then n - pad else n

end Sys2Proof.Machine
end

