-- ==== Sys2Proof/Machine/CopyOps.lean ====
section
/-! DEFINITION. The K-class operations (R349 to R360): gathers, stream bindings, copies, and the copy units' own steps. -/

namespace Sys2Proof.Machine

/-! ### Gather queues (R57, R163, R349, R358) -/

def hintBad (h : Nat) : Bool := decide (1 ≤ h) && decide (h ≤ 3)

def execKaq (x : KaqF) (s : State) : Outcome :=
  let c := s.core
  let ctl := (c.src 1 (x.b + 1)).toNat
  let n := bitsOf ctl 5 0 + 1
  let shift := bitsOf ctl 11 6
  let room := decide ((if x.aq then c.copy.aq1 else c.copy.aq0).length + n ≤ 64)
  let pend := c.pending x.b || c.pending (x.b + 1)
  .next (s.slot (c.active x.g)
    (checks [(c.isLent x.a, cIllegalOperation)] pend
      [(decide (shift > 47) || ctl / 2 ^ 23 != 0 || hintBad (bitsOf ctl 22 20), cIllegalOperation)]) (pend || (!x.nb && !room)) fun s =>
      let s := s.flushStreams
      let id := s.hm.nextNum
      let s := { s with hm := { s.hm with nextNum := id + n } }
      s.onCore fun c =>
        let base := (c.src 0 x.b).toNat
        let after := c.fenced 4 ++ c.pushesBefore
        let new := (List.range n).map fun i =>
          (⟨id + i, after, (base + lane 32 i (c.getV x.a) * 2 ^ shift) % 2 ^ 64, bitsOf ctl 19 12 + 1, BitVec.ofNat 3 (bitsOf ctl 22 20)⟩ :
            GatherAddr)
        let c := if x.nb then c.send (.q x.qn room) 1 c.issue.unit else c
        if !room then c
        else if x.aq then { c with copy := { c.copy with aq1 := c.copy.aq1 ++ new } }
        else { c with copy := { c.copy with aq0 := c.copy.aq0 ++ new } })

/-- Fetch one row: its bytes, or a row marked as faulted, at its own address (R358). -/
def State.fetchRow (s : State) (g : GatherAddr) : State × GatherRow :=
  match s.readHinted .deck g.addr g.len g.hint.toNat with
  | (s, .error (.trans c _)) => (s, ⟨g, [], some (c, g.addr), false⟩)
  | (s, .error (.fatal c)) => (s.onCore fun k => k.fatal c, ⟨g, [], none, false⟩)
  | (s, .ok (bs, bad)) => (s, ⟨g, bs, none, bad⟩)

/-- GATHER_ROW_ARRIVAL (R57): the oldest address's row enters the data queue. -/
def execGatherRowArrival (q : Bool) (s : State) : Outcome :=
  let c := s.core
  match (if q then c.copy.aq1 else c.copy.aq0) with
  | [] => .refused (.notEnabled "GATHER_ROW_ARRIVAL")
  | g :: r =>
    if (if q then c.copy.dq1 else c.copy.dq0).length ≥ 64 ∨ g.after.any c.outstanding.contains then
      .refused (.notEnabled "GATHER_ROW_ARRIVAL")
    else
      let (s, row) := s.fetchRow g
      .next (s.onCore fun c => { c with copy :=
        if q then { c.copy with aq1 := r, dq1 := c.copy.dq1 ++ [row] } else { c.copy with aq0 := r, dq0 := c.copy.dq0 ++ [row] } })

/-- On a replay the copy unit fetches a faulted row again (R358). -/
def State.refetchRows (s : State) : List GatherRow → State × List GatherRow
  | [] => (s, [])
  | r :: rest =>
    let (s, r) := if r.fault.isSome && s.core.issue.replay.isSome then s.fetchRow r.src else (s, r)
    let (s, rest) := State.refetchRows s rest
    (s, r :: rest)

def Core.setDq (c : Core) (q : Bool) (l : List GatherRow) : Core :=
  { c with copy := if q then { c.copy with dq1 := l } else { c.copy with dq0 := l } }

def execKdq (x : KdqF) (s : State) : Outcome :=
  let c := s.core
  let n := x.cnt.toNat + 1
  let regs := (List.range n).map fun j => BitVec.ofNat 5 (x.d.toNat + j)
  let q := if x.dq then c.copy.dq1 else c.copy.dq0
  .next (s.slot (c.active x.g)
    (firstBad [(c.handler.active, cNestedTrap), (regs.any c.isLent, cIllegalOperation)]) (decide (q.length < n)) fun s =>
      let (s, rows) := s.refetchRows (q.take n)
      match rows.findSome? fun r => r.fault with
      | some (code, va) => s.onCore fun c =>
          (c.setDq x.dq (rows ++ q.drop n)).slotFault code va ⟨c.issue.slot, 0, 0, 0, BitVec.ofNat 64 va⟩
      | none => s.onCore fun c =>
          (c.setDq x.dq (q.drop n)).send (.rows x.d (rows.map fun r => vOfBytes r.data) (rows.any (·.poison))) 2 (5 + c.issue.unit))

/-! ### Stream bindings (R352, R353) -/

def bindDims (b : Nat) : List (Nat × Int) :=
  (List.range 4).map fun k => (bitsOf b (64 * k + 127) (64 * k + 96), sext 32 (bitsOf b (64 * k + 159) (64 * k + 128)))

/-- Lowest and highest element byte of a pattern. -/
def spanOf (base : Int) (dims : List (Nat × Int)) : Int × Int :=
  dims.foldl (fun p d => (p.1 + min 0 (((d.1 : Int) - 1) * d.2), p.2 + Max.max 0 (((d.1 : Int) - 1) * d.2))) (base, base + 255)

def Core.bindBad (c : Core) (off b : Nat) : List (Bool × Nat) :=
  let dims := bindDims b
  let esize := bitsOf b 80 72
  let span := spanOf (bitsOf b 56 0) dims
  [(off % 64 != 0 || !c.inShare off 64, cSpadRange),
   (bitsOf b 63 57 != 0 || bitsOf b 71 70 != 0 || bitsOf b 95 81 != 0 || b / 2 ^ 352 != 0 || (esize != 0 && esize != 256) ||
      hintBad (bitsOf b 69 67) || dims.any (fun d => d.1 == 0), cIllegalOperation),
   (bitsOf b 65 65 == 1 && (decide (span.1 < 0) || decide (span.2 ≥ c.frameOff)), cSpadRange)]

def execKbind (x : KBindF) (s : State) : Outcome :=
  let c := s.core
  let off := (c.src 0 x.a).toNat
  let b := c.blockAt off
  .next (s.slot (c.active x.g) (known (c.pending x.a) (firstBad (c.bindBad off b))) (c.pending x.a) fun s =>
    s.flushStreams.onCore fun c =>
      let w := c.stream x.w
      let bind : Option StreamBind :=
        if bitsOf b 80 72 = 0 then none
        else some ⟨bitsOf b 64 64 == 1, bitsOf b 65 65 == 1, bitsOf b 56 0, bindDims b, bitsOf b 66 66 == 1,
          bitsOf c.ctl.pad.toNat 15 0, BitVec.ofNat 3 (bitsOf b 69 67)⟩
      (c.setStream x.w ⟨bind, 0, 0, [], w.pushed, if w.pushed.isEmpty then none else w.stop, !w.pushed.isEmpty && w.told, c.issue.unit,
        c.pushesBefore⟩).consumed (c.blockBad off))

/-- STREAM_FILL (R56): room in the FIFO, elements left, no stop, and no KBAR still before it. -/
def execStreamFill (w : BitVec 3) (s : State) : Outcome :=
  let x := s.core.stream w
  match x.bind with
  | some b =>
    if b.write || x.stop.isSome || decide (256 * (x.fifo.length + 1) > 2048 * s.core.rf) || decide (x.moved ≥ b.total) ||
        !(s.core.fenced (if b.sp then 1 else 4)).isEmpty || (!b.sp && x.after.any s.core.outstanding.contains) then .refused (.notEnabled "STREAM_FILL")
    else .next (s.fillStream w b)
  | none => .refused (.notEnabled "STREAM_FILL")

/-- STREAM_DRAIN (R56): with the push, what stood behind it at a FENCE is performed (R204). -/
def execStreamDrain (w : BitVec 3) (s : State) : Outcome :=
  if s.core.drainable (s.core.stream w) then .next (s.drainStream w).releaseAll
  else if s.core.fencedReady then .next s.releaseAll
  else .refused (.notEnabled "STREAM_DRAIN")

/-! ### KCOPY (R355 to R357) -/

structure CopyBlock where
  src    : Nat
  dst    : Nat
  skind  : Nat
  dkind  : Nat
  stile  : Nat
  dtile  : Nat
  bucket : Bool
  cons   : Bool
  len    : Nat
  rows   : Nat
  sstr   : Int
  dstr   : Int
  hint   : Nat
  deriving DecidableEq, Repr

def copyBlock (b : Nat) : CopyBlock :=
  ⟨bitsOf b 56 0, bitsOf b 120 64, bitsOf b 129 128, bitsOf b 131 130, bitsOf b 137 132, bitsOf b 143 138, bitsOf b 147 147 == 1,
    bitsOf b 148 148 == 1, bitsOf b 191 160, bitsOf b 215 192 + 1, sext 48 (bitsOf b 271 224), sext 48 (bitsOf b 319 272), bitsOf b 146 144⟩

/-- Lowest byte and the byte past the highest of a strided area. -/
def areaOf (base : Nat) (stride : Int) (rows len : Nat) : Int × Int :=
  if rows = 0 then (0, 0) else
  let far := ((rows : Int) - 1) * stride
  ((base : Int) + min 0 far, (base : Int) + Max.max 0 far + len)

/-- Does an area leave [0, limit)? -/
def areaBad (a : Int × Int) (limit : Nat) : Bool := decide (a.1 < 0) || decide (a.2 > limit)

/-- Padding rows are neither read nor written, so their bytes are not checked (R37, R356). -/
def Core.kcopyBad (c : Core) (b : Nat) : List (Bool × Nat) :=
  let k := copyBlock b
  let rows := paddedRows k.bucket (bitsOf c.ctl.pad.toNat 15 0) k.rows
  let sa := areaOf k.src k.sstr rows k.len
  let da := areaOf k.dst k.dstr rows k.len
  [(bitsOf b 63 57 != 0 || bitsOf b 127 121 != 0 || bitsOf b 159 149 != 0 || bitsOf b 223 216 != 0 || b / 2 ^ 320 != 0 ||
      k.skind == 3 || hintBad (bitsOf b 146 144) || k.len == 0, cIllegalOperation),
   (k.dkind == 3 && (k.skind == 2 || k.rows != 1 || k.dst % 16 != 0), cIllegalOperation),
   (k.skind == 1 && areaBad sa c.frameOff, cSpadRange), (k.dkind == 1 && areaBad da c.frameOff, cSpadRange),
   (k.skind == 2 && areaBad sa (c.tileRef k.stile).bytes, cIllegalOperation),
   (k.dkind == 2 && areaBad da (c.tileRef k.dtile).bytes, cIllegalOperation)]

def kcopyNamed (b : Nat) : Named :=
  let k := copyBlock b
  ⟨if k.skind = 2 ∧ !k.cons then [k.stile] else [], if k.skind = 2 ∧ k.cons then [k.stile] else [],
    if k.dkind = 2 then [k.dtile] else []⟩

def execKcopy (x : Cmd) (s : State) : Outcome :=
  s.command x (.kcopy x) (fun b => bitsOf b 131 130 == 2) Core.kcopyBad kcopyNamed false (fun b => bitsOf b 131 130 == 3)

/-- Read n source bytes of a copy at a byte position. -/
def State.copyRead (s : State) (k : Command) (cb : CopyBlock) (pos : Int) (n : Nat) : State × Except MemErr (List Byte × Bool) :=
  if cb.skind = 0 then s.readHinted .deck (wrapTo 64 pos) n cb.hint
  else
    let c := s.core
    let off := pos.toNat
    if cb.skind = 1 then (s, .ok (c.spRead off n, poisonedIn c.poison (c.spBase + off) n))
    else match k.srcs with
      | r :: _ => (s, .ok (c.tileRead r off n, c.tilePoison r off n))
      | [] => (s, .ok (zeros n, false))

def State.copyWrite (s : State) (k : Command) (cb : CopyBlock) (pos : Int) (bs : List Byte) (bad : Bool) : State × Option MemErr :=
  if cb.dkind = 0 then s.writeVa .deck (wrapTo 64 pos) bs bad
  else if cb.dkind = 1 then (s.onCore fun c => c.spWrite pos.toNat bs bad, none)
  else match k.dsts with
    | r :: _ => (s.onCore fun c => c.tileWrite r pos.toNat bs bad, none)
    | [] => (s, none)

/-- An area from byte `a` on, cut at the 32-byte granules that carry poison (R281): (offset, bytes). -/
def granuleCuts (a n : Nat) : List (Nat × Nat) :=
  let b := a % 32
  (List.range ((b + n + 31) / 32)).map fun j => (Max.max (32 * j) b - b, min (32 * j + 32) (b + n) - Max.max (32 * j) b)

/-- Write a chunk granule by granule, each with its own poison: (offset, bytes, poisoned). -/
def State.copyCuts (s : State) (k : Command) (cb : CopyBlock) (pos : Int) (bs : List Byte) :
    List (Nat × Nat × Bool) → State × Option MemErr
  | [] => (s, none)
  | (o, n, bad) :: r =>
    match s.copyWrite k cb (pos + o) ((bs.drop o).take n) bad with
    | (s, some e) => (s, some e)
    | (s, none) => State.copyCuts s k cb pos bs r

/-- Write a chunk; `bad` says that some of its bytes, read from `src`, are poisoned. The whole chunk translates first. -/
def State.copyPut (s : State) (k : Command) (cb : CopyBlock) (src pos : Int) (bs : List Byte) (bad : Bool) : State × Option MemErr :=
  if !bad then s.copyWrite k cb pos bs false
  else
    let cuts := (granuleCuts (wrapTo 5 pos) bs.length).map fun c =>
      (c.1, c.2, match (s.copyRead k cb (src + c.1) c.2).2 with | .ok x => x.2 | .error _ => false)
    match (if cb.dkind = 0 then s.pieces .deck true (bs.length + 1) (wrapTo 64 pos) bs.length else (s, .ok [])) with
    | (s, .error e) => (s, some e)
    | (s, .ok _) => s.copyCuts k cb pos bs cuts

/-- The 4 KiB chunks of a copy from chunk number `prog` on (R277): what is left, or what stopped it and where. -/
def State.copyChunks (s : State) (k : Command) (cb : CopyBlock) : Nat → Nat → State × Option (Nat × MemErr)
  | 0, _ => (s, none)
  | fuel + 1, i =>
    let per := (cb.len + 4095) / 4096
    let row := i / per
    let part := i % per
    let n := min 4096 (cb.len - 4096 * part)
    if row ≥ paddedRows cb.bucket k.pad cb.rows then (s, none)
    else
      match s.copyRead k cb ((cb.src : Int) + row * cb.sstr + 4096 * part) n with
      | (s, .error e) => (s, some (i, e))
      | (s, .ok (bs, bad)) =>
        match s.copyPut k cb ((cb.src : Int) + row * cb.sstr + 4096 * part) ((cb.dst : Int) + row * cb.dstr + 4096 * part) bs bad with
        | (s, some e) => (s, some (i, e))
        | (s, none) => State.copyChunks s k cb fuel (i + 1)

/-- Write an expansion into the idle bank (R88, R357): the bank that is idle as the command completes (DESIGN CHOICE, log 89: R88 is silent on a
flip between the command's issue and its completion). -/
def Core.writeIdle (c : Core) (off : Nat) (bs : List Byte) : Core :=
  { c with fetch := if c.fetch.ibank then { c.fetch with bank0 := c.fetch.bank0.write off bs }
    else { c.fetch with bank1 := c.fetch.bank1.write off bs } }

/-- KCOPY's work. An image that is a padding row is neither read nor written (R37, R356). -/
def State.workKcopy (s : State) (k : Command) : Outcome :=
  let cb := copyBlock k.block.toNat
  if cb.dkind = 3 ∧ paddedRows cb.bucket k.pad cb.rows = 0 then s.completeCmd k
  else if cb.dkind = 3 then
    match s.copyRead k cb cb.src cb.len with
    | (s, .error e) => .next (s.memStop k e)
    | (s, .ok (bs, bad)) =>
      if bad then .next (s.failCmd k cUncorrectable)
      else match expandImage bs false with
        | none => .next (s.failCmd k 0x140)
        | some im =>
          if bankFits cb.dst im.bytes.length then (s.onCore fun c => c.writeIdle cb.dst im.bytes).completeCmd k
          else .next (s.failCmd k 0x140)
  else
    let total := cb.rows * ((cb.len + 4095) / 4096)
    match s.copyChunks k cb (total - k.prog) k.prog with
    | (s, some (i, e)) => .next ((s.onCore fun c => c.mapCmd k.id fun x => { x with prog := i }).memStop k e)
    | (s, none) => s.completeCmd k

/-! ### KPEER (R54, R359, R360) -/

/-- A core of the focused core's task, by logical number. -/
def State.inBerth (s : State) (core : Nat) : Bool :=
  (s.core.id == core || s.rest.any fun c => c.id == core && c.part.task == s.core.part.task) && s.core.part.status != .none

def Core.kpeerBad (inBerth : Nat → Bool) (c : Core) (b : Nat) : List (Bool × Nat) :=
  let len := bitsOf b 52 32
  [(bitsOf b 7 7 != 0 || bitsOf b 31 20 != 0 || bitsOf b 63 53 != 0 || b / 2 ^ 85 != 0 || len == 0, cIllegalOperation),
   (decide (bitsOf b 84 64 + len > (c.tileRef (bitsOf b 5 0)).bytes) || !inBerth (bitsOf b 15 8), cIllegalOperation)]

def kpeerNamed (b : Nat) : Named :=
  ⟨if bitsOf b 6 6 = 0 then [bitsOf b 5 0] else [], if bitsOf b 6 6 = 1 then [bitsOf b 5 0] else [], []⟩

def execKpeer (x : Cmd) (s : State) : Outcome :=
  s.command x (.kpeer x) (fun _ => false) (Core.kpeerBad s.inBerth) kpeerNamed false fun _ => false

/-- May a copy of n bytes land in the next slot of the ring now? Never in one of the accumulator share, which only micro-operations reach
(R130). -/
def Core.ringTakes (c : Core) (h : BitVec 4) (n : Nat) : Bool :=
  let r := c.ring h
  let t := c.tileAt (r.slotTile r.prod.toNat)
  r.n != 0 && t.state == .empty && decide (n ≤ 16384 * t.size.toNat) && !c.accTile (r.slotTile r.prod.toNat)

/-- A copy lands: the bytes, then the tile becomes ready, then prod and kbar rise (R54). `bad` lists the poisoned granules of
the slot. -/
def Core.landPeer (c : Core) (h : BitVec 4) (bs : List Byte) (bad : List Nat) : Core :=
  let r := c.ring h
  let t := r.slotTile r.prod.toNat
  let a := (c.tileRef t).start
  let c := c.poolWrite a bs
  let c := { c with poison := bad.foldl (fun p j => poisonAfter p (a + 32 * j) 1 true) c.poison }
  let c := c.setTileState t .ready
  let c := c.setRing h { r with prod := r.prod + 1, kbar := r.kbar + 1 }
  if bad.isEmpty then c else c.fatal cPoison

/-- KPEER_ARRIVAL: the focused core's copy lands at its receiver. -/
def execKpeerArrival (id : Nat) (s : State) : Outcome :=
  match s.cmd id with
  | none => .refused (.notEnabled "KPEER_ARRIVAL")
  | some k =>
    let isPeer := match k.op with | .kpeer _ => true | _ => false
    let b := k.block.toNat
    let dst := bitsOf b 15 8
    let h := BitVec.ofNat 4 (bitsOf b 19 16)
    let n := bitsOf b 52 32
    let takes := match s.coreOf dst with | some r => r.ringTakes h n | none => false
    if !isPeer || k.sig || k.stop.isSome || k.after.any s.core.outstanding.contains || !takes then
      .refused (.notEnabled "KPEER_ARRIVAL")
    else
      match k.srcs with
      | [] => .refused (.notEnabled "KPEER_ARRIVAL")
      | r :: _ =>
        let bs := s.core.tileRead r (bitsOf b 84 64) n
        let bad := (List.range ((n + 31) / 32)).filter fun j =>
          s.core.tilePoison r (bitsOf b 84 64 + 32 * j) (min 32 (n - 32 * j)) || (j == 0 && (s.core.inject.get 3).isSome)
        let s := s.onCore fun c => { c with inject := c.inject.set 3 none }
        let s := s.mapCores fun c => if c.id = dst then c.landPeer h bs bad else c
        .next (s.onCore fun c => c.mapCmd id fun x => { x with sig := true })

end Sys2Proof.Machine
end

