-- ==== Sys2Proof/Machine/Harbour.lean ====
section
/-! DEFINITION. The Harbourmaster's operations (chapter 11): its accesses to memory, consuming a card and its dependences,
placement and launch, the end of tasks and cards; and LAUNCH (R241, R363). -/

namespace Sys2Proof.Machine

/-! ### Status and subcodes (R240) -/

def stDone : Nat := 1
def stAborted : Nat := 2
def stFaulted : Nat := 3
def stExpired : Nat := 4
def subBadImage : Nat := 1
def subBadPart : Nat := 2
def subBadCard : Nat := 6
def subUnplaceable : Nat := 7
def subPredFailed : Nat := 8
def subQueueFull : Nat := 9
def subHostRetired : Nat := 10
def subRaggedBad : Nat := 11

/-! ### Card fields (R239) -/

def Card.bclass (c : Card) : Nat := c.bits 275 272
def Card.berth (c : Card) : Nat := c.bits 271 264 + 1
def Card.deadline (c : Card) : Nat := c.bits 383 320
def Card.noDeadline (c : Card) : Bool := c.deadline == 2 ^ 64 - 1
def Card.late (c : Card) : Bool := c.bits 258 258 == 1
def Card.cpl (c : Card) : Nat := c.bits 568 512
def Card.cso (c : Card) : Nat := c.bits 632 576
def Card.rgl (c : Card) : Nat := c.bits 504 448
def Card.partWord (c : Card) : Nat := c.bits 308 288
def Card.group (c : Card) : Option Nat := if c.bits 416 416 = 1 then some (c.bits 415 400) else none
def Card.preds (c : Card) : List Nat := ((List.range 4).map fun k => c.bits (64 * k + 696) (64 * k + 640)).filter (· != 0)

/-- R244: ctl.task of the card's task of an index. -/
def Card.taskId (c : Card) (index : Nat) : Word :=
  BitVec.ofNat 64 (c.stamp.toNat + index % 2 ^ 26 * 2 ^ 32 + c.queue % 64 * 2 ^ 58)

/-- R240's BAD_CARD: a nonzero reserved field or a misaligned pointer. -/
def Card.badFields (c : Card) : Bool :=
  [(263, 259), (287, 276), (319, 309), (447, 417), (511, 505), (575, 569), (639, 633), (703, 697), (767, 761), (831, 825),
    (895, 889), (991, 896)].any (fun r => c.bits r.1 r.2 != 0) ||
  (if c.bits 256 256 = 0 then c.bits 255 57 != 0 else c.bits 142 142 != 1 || c.bits 143 143 != 0) ||
  c.cpl % 32 != 0 || c.cso % 64 != 0 || c.rgl % 8 != 0 || c.preds.any (fun p => p % 32 != 0)

/-- R48: a partition word that no card may carry. -/
def partBad (w : Nat) : Bool :=
  let rf := bitsOf w 6 0
  let sp := bitsOf w 13 7
  let acc := bitsOf w 20 14
  rf + acc + sp != 96 || rf == 0 || decide (rf > 16) || decide (acc > 64) || sp == 0

/-- The bandwidth class of a task: its card's (R18). -/
def State.classOf (s : State) (t : Task) : Nat := ((s.cardOf t.card).map Card.bclass).getD 0

/-- The bandwidth class of the focused core's task. -/
def State.taskClass (s : State) : Nat := (s.task.map s.classOf).getD 0

def State.queue (s : State) (q : Nat) : Queue := s.hm.queues.toList.getD q ⟨QueueConfig.reset, 0, 0, 0, []⟩
def State.setQueue (s : State) (q : Nat) (x : Queue) : State :=
  if h : q < 64 then { s with hm := { s.hm with queues := s.hm.queues.set q x h } } else s

/-! ### The Harbourmaster's accesses (R246, R444) -/

/-- The module that a remote-window address names for a fabric group. -/
def State.groupModule (s : State) (group : Option Nat) (slot : Nat) : Option Nat :=
  match group with
  | some g => s.ferry.moduleOf g slot
  | none => none

/-- For whom the Harbourmaster reaches memory: page tables, partition key and fabric group (R444). -/
structure HmCtx where
  root  : Nat
  key   : BitVec 32
  group : Option Nat
  deriving DecidableEq, Repr

/-- Its accesses for a card: under the launch queue's page tables and key, and the group that the card names. -/
def State.hmFor (s : State) (c : Card) : HmCtx := ⟨(s.queue c.queue).cfg.ptroot.toNat, (s.queue c.queue).cfg.key, c.group⟩

def State.hmSend (s : State) (x : HmCtx) (module addr : Nat) (op : RemoteOp) : State :=
  { s with ferry := (s.ferry.postAll module (x.group.getD 0) x.key (packetsOf op addr)).1 }

/-- A poisoned read answers no data (R281, log 69). -/
def State.hmReadPieces (s : State) (x : HmCtx) : List Piece → State × Except MemErr (List Byte)
  | [] => (s, .ok [])
  | p :: ps =>
    let one : State × Except MemErr (List Byte) :=
      if p.x.bond then
        let s := s.touch p.x.pa 40
        (if (granules p.x.pa 40).any s.poison.contains then (s, .error (.fatal cUncorrectable)) else (s, s.readView none [] p))
      else match placeOf p.pa with
        | .hole => (s, .error (.fatal cPaHole))
        | .remote slot a =>
          match s.groupModule x.group slot with
          | none => (s, .error (.fatal cPaHole))
          | some m =>
            let bs := (List.range p.len).map fun i => Config.remoteByte (s.fresh + i)
            (({ s with fresh := s.fresh + p.len + 1 }).hmSend x m a (.read p.len), s.remoteAnswer bs)
        | _ => (s.touch p.pa p.len, if poisonedIn s.poison p.pa p.len then .error (.fatal cUncorrectable) else .ok (s.mem.read p.pa p.len))
    match one with
    | (s, .error e) => (s, .error e)
    | (s, .ok bs) =>
      match State.hmReadPieces s x ps with
      | (s, .error e) => (s, .error e)
      | (s, .ok r) => (s, .ok (bs ++ r))

/-- Read under a queue's page tables. -/
def State.hmRead (s : State) (x : HmCtx) (va len : Nat) : State × Except MemErr (List Byte) :=
  match s.pieces (.hm x.root) false (len + 1) va len with
  | (s, .error e) => (s, .error e)
  | (s, .ok ps) => s.hmReadPieces x ps

def State.hmWritePieces (s : State) (x : HmCtx) : List Piece → List Byte → State × Option MemErr
  | [], _ => (s, none)
  | p :: ps, bs =>
    let one : State × Option MemErr :=
      match placeOf p.pa with
      | .hole => (s, some (.fatal cPaHole))
      | .remote slot a =>
        match s.groupModule x.group slot with
        | none => (s, some (.fatal cPaHole))
        | some m => (({ s with fresh := s.fresh + 1 }).hmSend x m a (.write (bs.take p.len)), s.remoteWritten)
      | _ => (s.store p.pa (bs.take p.len), none)
    match one with
    | (s, some e) => (s, some e)
    | (s, none) => State.hmWritePieces s x ps (bs.drop p.len)

def State.hmWrite (s : State) (x : HmCtx) (va : Nat) (bs : List Byte) : State × Option MemErr :=
  match s.pieces (.hm x.root) true (bs.length + 1) va bs.length with
  | (s, .error e) => (s, some e)
  | (s, .ok ps) => s.hmWritePieces x ps bs

/-- A signal by the Harbourmaster or by a released window: the object's seq rises by 1 in every mode (R206). -/
def State.hmSignal (s : State) (x : HmCtx) (va : Nat) : State × Option MemErr :=
  match s.pieces (.hm x.root) true 2 va 64 with
  | (s, .error e) => (s, some e)
  | (s, .ok ps) =>
    match ps.map fun p => (p.pa, placeOf p.pa) with
    | [(pa, .remote slot a)] =>
      match s.groupModule x.group slot with
      | none => (s, some (.fatal cPaHole))
      | some m =>
        match Config.remoteSync pa s.clock with
        | none => (s.hmSend x m a .signal, some (.fatal cRemoteKey))
        | some w => (s.hmSend x m a .signal, if (syncOf w.toNat).illegal then some (.fatal cSyncMode) else none)
    | ls =>
      if ls.any (fun l => l.2 == .host) then (s, some (.fatal cSyncPlace))
      else match s.hmReadPieces x ps with
        | (s, .error e) => (s, some e)
        | (s, .ok bs) =>
          let o := syncOf (leVal bs)
          if o.illegal then (s, some (.fatal cSyncMode)) else s.hmWritePieces x ps (syncHead o.raised)

/-! ### Cards and tasks -/

def State.mapCard (s : State) (n : Nat) (f : Card → Card) : State :=
  { s with hm := { s.hm with cards := s.hm.cards.map fun c => if c.num = n then f c else c } }

/-- Does a task wait in the pool? -/
def Task.inPool (t : Task) : Bool := t.phase == .pooled || t.phase == .requeue || t.phase == .preempted

/-- Cards in the card pool (R242). -/
def State.poolCards (s : State) : Nat := (s.hm.cards.filter fun c => s.hm.tasks.any fun t => t.card == c.num && t.inPool).length
def State.poolFull (s : State) : Bool := decide (s.poolCards ≥ 4096)

/-- Close a card whose tasks have all ended: its completion waits to be written. -/
def Card.settle (c : Card) : Card :=
  if c.todo = 0 then { c with closed := true, status := if c.status = 0 then stDone else c.status } else c

/-- The first task to end with a status other than DONE gives the card's (R245). -/
def Card.note (c : Card) (status sub cause : Nat) (acode : BitVec 32) : Card :=
  if c.status = 0 ∧ status ≠ stDone then { c with status := status, sub := sub, cause := cause, acode := acode } else c

/-- Take the tasks of a card that wait in the pool, and have never run, out of it with a status. -/
def State.dropPooled (s : State) (n status sub : Nat) (which : Task → Bool) : State :=
  let gone := s.hm.tasks.filter fun t => t.card == n && which t
  let s := { s with hm := { s.hm with tasks := s.hm.tasks.filter fun t => !(t.card == n && which t) } }
  s.mapCard n fun c => ({ c with todo := c.todo - gone.length }.note status sub 0 0).settle

/-- Retire a card FAULTED (R240): its pooled tasks never run. -/
def State.retireCard (s : State) (n sub : Nat) : State := s.dropPooled n stFaulted sub Task.inPool

/-! ### Consuming a card (R239, R240, R245, R246) -/

/-- R38: the tasks of a group of c rows: first row and padding. -/
def splitGroup : Nat → Nat → Nat → List (Nat × Nat)
  | 0, _, _ => []
  | fuel + 1, c, first =>
    if c = 0 then []
    else if c ≥ 128 then (first, 0) :: splitGroup fuel (c - 128) (first + 128)
    else
      let shape := if c ≤ 16 then 16 else if c ≤ 32 then 32 else if c ≤ 64 then 64 else 128
      [(first, shape - c)]

/-- R245: group, first row and padding of each task; none for a bad list, or one in the remote window, which the
Harbourmaster reaches only for records and signals (R444). -/
def State.raggedList (s : State) (c : Card) : State × Option (List (Nat × Nat × Nat)) :=
  let x := { s.hmFor c with group := none }
  match s.hmRead x c.rgl 8 with
  | (s, .error _) => (s, none)
  | (s, .ok head) =>
    let g := leVal (head.take 4)
    if g = 0 ∨ g > 65536 ∨ leVal (head.drop 4) ≠ 0 then (s, none)
    else
      match s.hmRead x (c.rgl + 8) (4 * g) with
      | (s, .error _) => (s, none)
      | (s, .ok bs) =>
        let rows := (List.range g).map fun i => leVal ((bs.drop (4 * i)).take 4)
        if rows.foldl (fun n r => n + (r + 127) / 128) 0 > 2 ^ 26 then (s, none)
        else (s, some ((numbered 0 rows).flatMap fun p => (splitGroup (p.2 / 128 + 1) p.2 0).map fun x => (p.1, x.1, x.2)))

def newTask (c : Card) (cfg : QueueConfig) (num index grp row0 pad : Nat) : Task where
  num := num
  card := c.num
  index := index
  grp := BitVec.ofNat 32 grp
  row0 := BitVec.ofNat 32 row0
  pad := pad
  tid := c.taskId index
  phase := .pooled
  cores := []
  status := 0
  cause := 0
  acode := none
  root := cfg.ptroot.toNat
  key := cfg.key
  group := c.group
  saved := []
  staged := []
  stagedBad := []
  stagedRows := []
  lines := []
  unc := false
  epoch := 0
  paths := []
  acks := []
  joins := []

/-- R246: read each predecessor's record: done ones are dropped, pending ones watched by physical address. -/
def State.readPreds (s : State) (x : HmCtx) : List Nat → State × Except Nat (List Nat)
  | [] => (s, .ok [])
  | p :: r =>
    match s.pieces (.hm x.root) false 33 p 32 with
    | (s, .error _) => (s, .error subBadCard)
    | (s, .ok ps) =>
      match s.hmReadPieces x ps with
      | (s, .error _) => (s, .error subBadCard)
      | (s, .ok bs) =>
        let st := (bs.getD 0 0).toNat
        if st = stDone then State.readPreds s x r
        else if st ≠ 0 then (s, .error subPredFailed)
        else
          match State.readPreds s x r with
          | (s, .error e) => (s, .error e)
          | (s, .ok l) => (s, .ok ((match ps with | y :: _ => y.pa | [] => 0) :: l))

/-- A card's tasks enter the pool: group, first row and padding of each. -/
def State.addTasks (s : State) (c : Card) (cfg : QueueConfig) (l : List (Nat × Nat × Nat)) : State :=
  let first := s.hm.nextNum
  let tasks := (numbered 0 l).map fun p => newTask c cfg (first + p.1) p.1 p.2.1 p.2.2.1 p.2.2.2
  ({ s with hm := { s.hm with nextNum := first + l.length, tasks := s.hm.tasks ++ tasks } }).mapCard c.num fun c =>
    { c with todo := l.length }

/-- A card with the task it stands for, or a ragged card with one that stands for its list until dispatch, enters the pool,
or is retired by the first of its checks that fails (R240, R244 to R246). -/
def State.admitCard (s : State) (c : Card) (full : Bool) : State :=
  let cfg := (s.queue c.queue).cfg
  if c.cpl = 0 then s.emit ⟨1, c.queue, 0, 0⟩
  else
    let c := { c with cplPa := match (s.pieces (.hm cfg.ptroot.toNat) false 33 c.cpl 32).2 with | .ok (p :: _) => some p.pa | _ => none }
    let s := { s with hm := { s.hm with cards := s.hm.cards ++ [c] } }
    let live := (s.maps.core.toList.filter Option.isSome).length
    if full then s.retireCard c.num subQueueFull
    else if c.badFields then s.retireCard c.num subBadCard
    else if partBad c.partWord then s.retireCard c.num subBadPart
    else if c.berth > live then s.retireCard c.num subUnplaceable
    else
      let s := s.addTasks c cfg [(0, 0, 0)]
      match s.readPreds (s.hmFor c) c.preds with
      | (s, .error sub) => s.retireCard c.num sub
      | (s, .ok deps) => s.mapCard c.num fun c => { c with deps := deps }

/-- R245, at dispatch: the task that stands for a ragged card gives way to those of its list. A list that emits none completes
DONE, and a bad one retires the card. -/
def State.expandCard (s : State) (c : Card) : State :=
  match s.raggedList c with
  | (s, none) => s.retireCard c.num subRaggedBad
  | (s, some l) =>
    let s := { s with hm := { s.hm with tasks := s.hm.tasks.filter fun t => t.card != c.num } }
    (s.addTasks c (s.queue c.queue).cfg l).mapCard c.num fun c => { c with ragged := false }.settle

/-- The next record of a queue is consumed: seq rises by 1 (R236). -/
def State.consume (s : State) (q : Nat) (raw : List Byte) (addr : Option Nat) : State :=
  let x := s.queue q
  let num := s.hm.nextNum
  let full := s.poolFull
  let addr := match addr with | some a => a | none => (Config.cardCopy num).toNat
  let c : Card := ⟨num, BitVec.ofNat 1024 (leVal raw), q, addr, x.cfg.seq, [], 0, 0, 0, 0, 0, 0, false, false, false, none⟩
  let c := { c with ragged := c.rgl != 0 }
  let s := { s with hm := { s.hm with nextNum := num + 1 } }
  (s.setQueue q { x with cfg := { x.cfg with seq := x.cfg.seq + 1 }, consumed := x.consumed + 1, rereads := 0 }).admitCard c full

/-! ### LAUNCH (R241, R363) -/

/-- The Harbourmaster takes a LAUNCH's card, unless the backlog is full: it consumes no launch record then (R252). -/
def State.launchCard (s : State) (q addr : Nat) (raw : List Byte) : State :=
  if s.canNumber && s.hm.launches.isEmpty then s.consume q raw (some addr)
  else { s with hm := { s.hm with launches := s.hm.launches ++ [(q, addr, raw)] } }

/-- The card is read as the core's own loads would find it, at once or, while earlier accesses of the core are not performed, when they are
(log 81); a poisoned one is UNCORRECTABLE and runs nothing (R281, log 69). A replayed LAUNCH reads where its latch says (R406). -/
def execLaunch (x : LaunchF) (s : State) : Outcome :=
  let c := s.core
  let va := c.srcAddr x.a
  let cfg := (s.queue x.queue.toNat).cfg
  let key := (s.task.map (·.key)).getD 0
  .next (s.slot (c.active x.g)
    (checks [(decide (c.depth > 0), cRegionOp), (cfg.src != 3 || cfg.key != key, cIllegalOperation)] (c.pending x.a)
      [(va.toNat % 128 != 0 || inWindow va.toNat, cIllegalOperation)]) (c.pending x.a) fun s =>
      let s := s.flushStreams
      match s.pieces .deck false 129 va.toNat 128 with
      | (s, .error e) => s.onCore fun c => c.memFault e ⟨c.issue.slot, c.src 0 x.a, 0, 0, va⟩
      | (s, .ok ps) =>
        let s := s.uncontain s.core.part.task
        if s.core.unperformed.isEmpty then
          match s.readOwn ps with
          | (s, .error e) => s.onCore fun c => c.memFault e ⟨c.issue.slot, c.src 0 x.a, 0, 0, va⟩
          | (s, .ok raw) =>
            if s.poisonedOwn ps then s.onCore Core.uncorrectable
            else s.launchCard x.queue.toNat (va.toNat % 2 ^ 57) raw
        else s.onCore fun c => c.holdAccess c.unperformed (.launch x.queue.toNat (va.toNat % 2 ^ 57) ps))

/-! ### Placement (R243, R244) -/

/-- Free cores that are not retired, by logical number (R66, R244). -/
def State.freeCores (s : State) : List Nat :=
  (List.range 224).filter fun n =>
    ((s.maps.core.toList.getD n none).isSome) &&
      (match s.coreOf n with | some c => c.part.status == .none && c.part.clean | none => false) &&
      !(s.hm.tasks.any fun t => t.phase == .loading && t.cores.contains n)

/-- The berth of n cores among the free ones: a cluster, then a deck, then the package; lowest instance, lowest cores. -/
def placeBerth (n : Nat) (free : List Nat) : Option (List Nat) :=
  let at' (size : Nat) : Option (List Nat) :=
    if n > size then none
    else (List.range (224 / size)).findSome? fun i =>
      let cand := free.filter fun c => c / size == i
      if cand.length ≥ n then some (cand.take n) else none
  match at' 8 with
  | some l => some l
  | none => match at' 112 with
    | some l => some l
    | none => at' 224

/-! ### Launch state (R23, R26, R66) -/

/-- A member set of berth ranks. -/
def domWord (lo hi : Nat) (group : Option Nat) : Word :=
  BitVec.ofNat 64 (lo + hi * 2 ^ 8 + (match group with | some g => 2 ^ 16 + g % 2 ^ 16 * 2 ^ 32 | none => 0))

/-- Lowest and highest rank among the berth's cores that satisfy a condition. -/
def rankRange (cores : List Nat) (p : Nat → Bool) : Nat × Nat :=
  let rs := ((numbered 0 cores).filter fun x => p x.2).map (·.1)
  (rs.foldl min 255, rs.foldl Nat.max 0)

def launchCtl (k : Card) (t : Task) (wbud : Word) (id rank : Nat) : Ctl :=
  let n := t.cores.length
  let cl := rankRange t.cores fun c => c / 8 == id / 8
  let dk := rankRange t.cores fun c => c / 112 == id / 112
  { Ctl.reset with
    frame := BitVec.ofNat 64 (bitsOf k.partWord 13 7 * 16384 - 4096)
    part := BitVec.ofNat 64 k.partWord
    core := BitVec.ofNat 64 (id + rank * 2 ^ 8 + (n - 1) * 2 ^ 16 + id / 8 * 2 ^ 24 + (if onDeckB id then 2 ^ 29 else 0))
    task := t.tid
    wbudget := if wbud = 0 then BitVec.allOnes 64 else wbud
    dom := #v[domWord cl.1 cl.2 none, domWord dk.1 dk.2 none, domWord 0 (n - 1) none, domWord 0 (n - 1) t.group]
    pad := BitVec.ofNat 64 t.pad
    grp := BitVec.ofNat 64 (t.grp.toNat + t.row0.toNat * 2 ^ 32)
    card := BitVec.ofNat 64 k.addr }

/-- Does halt mode cover the contexts of a queue (R289)? -/
def Pilot.halts (p : Pilot) (queue : Nat) : Bool := p.halt && (p.security == .vendorReturn || p.debugQs.contains queue)

/-- A core as the launch finds it: the launch fills bank 0 with the image, and what follows it, and bank 1, are zeros (log 4). -/
def launchCore (k : Card) (t : Task) (wbud : Word) (im : CodeImage) (entry id rank : Nat) (halted : Bool) : Core :=
  let c := Core.reset id
  { c with
    ctl := launchCtl k t wbud id rank
    fetch := { c.fetch with bank0 := Mem.write [] 0 im.bytes, pc := 16 * entry }
    part := { c.part with status := .running, task := t.num, lat := im.lat, budget := wbud != 0, halted := halted } }

/-- One release broadcast starts every core of the berth (R23). -/
def State.launchTask (s : State) (k : Card) (t : Task) (im : CodeImage) (entry : Nat) : State :=
  let wbud := (s.queue k.queue).cfg.wbud
  let s := s.mapTask t.num fun t => { t with phase := .running }
  s.mapCores fun c =>
    match t.cores.findIdx? (· == c.id) with
    | some rank => launchCore k t wbud im entry c.id rank (s.pilot.halts k.queue)
    | none => c

/-- The entry bundle of a launch: the header's, or the card's, which must lie below the image's length (R239, R240). -/
def launchEntry (k : Card) (raw : List Byte) (im : CodeImage) : Option Nat :=
  let e := k.bits 399 384
  if e = 0xFFFF then some im.entry
  else match imageHead raw with
    | some h =>
      if e ≥ h.length then none
      else if h.kind = 3 then some (Config.translatedEntry ((raw.drop 64).take h.body) e) else some e
    | none => none

/-! ### The end of tasks (R24, R42, R240, R245, R247) -/

/-- Has the part come to its own end, so that its pool's clearing is under way (R66)? -/
def Part.isEnded (p : Part) : Bool := match p.status with | .ended _ => true | _ => false

/-- A core that has come to its part's end leaves its task: its registers, tiles and banks stay until the next launch (R66), its
streams and translations go. Of a context that was stopped nothing is left but the pool, still to be cleared. -/
def Core.leave (c : Core) : Core :=
  let part := { (Core.reset c.id).part with clean := c.part.clean && c.part.isEnded }
  if c.part.isEnded then { c with copy := (Core.reset c.id).copy, tlb := [], part := part }
  else { Core.reset c.id with pool := c.pool, poison := c.poison, part := part }

/-- Free the cores of a task. Their pools are still to be cleared (R66). -/
def State.freeBerth (s : State) (n : Nat) : State :=
  s.mapCores fun c => if c.part.task = n ∧ c.part.status ≠ .none then c.leave else c

/-- What a task has staged is dropped (R247). -/
def Task.unstaged (t : Task) : Task := { t with staged := [], stagedBad := [], stagedRows := [], lines := [] }

/-- Every core of a task has ended its part: its status goes to its card. The berth of the card's last task is freed with its
completion record. -/
def State.endTask (s : State) (t : Task) (status : Nat) : State :=
  let s := if status = stFaulted then s else s.commit t.num
  let s := s.mapTask t.num fun t => { t.unstaged with phase := .over, status := status, saved := [] }
  let s := s.mapCard t.card fun c =>
    ({ c with todo := c.todo - 1, unc := c.unc || t.unc }.note status (if t.cause ≥ 2 ^ 16 then t.cause / 2 ^ 16 else 0)
      (t.cause % 2 ^ 16) (t.acode.getD 0)).settle
  match s.cardOf t.card with
  | some c => if c.closed then s else s.freeBerth t.num
  | none => s.freeBerth t.num

/-- The status with which a task ends once all its parts are over (R42). -/
def State.taskStatus (s : State) (t : Task) : Nat :=
  if t.status ≠ 0 then t.status
  else if s.cores.any (fun c => c.part.task == t.num && c.part.status == .ended true) then stAborted else stDone

/-- Is every core of the task at the end of its part? -/
def State.allEnded (s : State) (n : Nat) : Bool :=
  s.cores.all fun c => c.part.task != n || (match c.part.status with | .ended _ => true | .none => true | _ => false)

/-! ### Pre-emption (R243, R278) -/

/-- Signal every core of a task. -/
def State.preemptTask (s : State) (n : Nat) : State :=
  let s := s.mapTask n fun t => { t with phase := .stopping }
  s.mapCores fun c => if c.part.task = n then { c with bound := { c.bound with preempt := true } } else c

end Sys2Proof.Machine
end

