-- ==== Sys2Proof/Machine/LookupOps.lean ====
section
/-! DEFINITION. The lookup path (chapter 07): table descriptors, pooling and gathers, the hot-row cache and its promotions,
sketches, HRCTL, pinned windows; and L2OP (R361, R362). -/

namespace Sys2Proof.Machine

def cLkDesc : Nat := 0x110
def cLkDest : Nat := 0x111
def cLkBag : Nat := 0x112
def cLkIndex : Nat := 0x113
def cLkPlace : Nat := 0x114

/-! ### Table descriptors (R148 to R150) -/

structure TableDesc where
  base  : Nat
  qspan : Nat
  rows  : Nat
  dim   : Nat
  fmt   : Nat
  rstr  : Nat
  table : Nat
  group : Nat
  pin   : Bool
  pinq  : Nat
  hc    : Bool
  pri   : Nat
  s1    : Nat
  s2    : Nat
  sstr  : Nat
  bonded : Bool               -- its base lies in a view (R234)
  deriving DecidableEq, Repr

def tableDesc (x : Nat) : TableDesc :=
  ⟨bitsOf x 56 0, bitsOf x 120 64, bitsOf x 167 128, bitsOf x 186 176, bitsOf x 191 187, bitsOf x 223 192, bitsOf x 247 224,
    bitsOf x 251 248, bitsOf x 252 252 == 1, bitsOf x 255 253, bitsOf x 256 256 == 1, bitsOf x 258 257, bitsOf x 376 320,
    bitsOf x 440 384, bitsOf x 479 448, false⟩

/-- R150. -/
def TableDesc.rowSize (d : TableDesc) : Nat :=
  match d.fmt with
  | 1 => 4 * d.dim
  | 2 => 2 * d.dim
  | 3 => 2 * d.dim
  | 4 => 4 + d.dim
  | 5 => 4 + (d.dim + 1) / 2
  | _ => d.dim

/-- A field that R148 makes illegal. -/
def TableDesc.bad (d : TableDesc) : Bool :=
  d.rows == 0 || d.dim == 0 || decide (d.dim > 1024) || d.fmt == 0 || (decide (d.fmt > 5) && decide (d.fmt < 11)) ||
    decide (d.rstr < d.rowSize) || (!d.pin && d.qspan % 65536 != 0)

def TableDesc.key (d : TableDesc) (r : Nat) : Nat := d.table * 2 ^ 40 + r
def TableDesc.quay (d : TableDesc) (r : Nat) : Nat := if d.pin then d.pinq else r % 8

/-- Address of row r of a base with a stride, laid out as the table is (R149, R170); modulo 2^64 (log 70). -/
def TableDesc.at' (d : TableDesc) (base stride r : Nat) : Nat :=
  (if d.pin then base + r * stride else base + r % 8 * d.qspan + r / 8 * stride) % 2 ^ 64

def TableDesc.addr (d : TableDesc) (r : Nat) : Nat := d.at' d.base d.rstr r

/-- The f32 values of a row's elements (R107, R150). -/
def TableDesc.values (d : TableDesc) (bs : List Byte) : List Num :=
  let b (i : Nat) : Nat := (bs.getD i 0).toNat
  let le (w i : Nat) : Nat := leVal ((bs.drop (w * i)).take w)
  let scale := le 2 0
  let bias := le 2 1
  (List.range d.dim).map fun j =>
    match d.fmt with
    | 4 => decodeNum 1 (rowValue scale bias (b (4 + j)))
    | 5 => decodeNum 1 (rowValue scale bias (b (4 + j / 2) / (if j % 2 = 0 then 1 else 16) % 16))
    | f => decodeNum f (le (fmtWidth f / 8) j)

/-- Read the descriptor that a block names. -/
def State.readTableDesc (s : State) (via : Via) (va : Nat) (bad : TableDesc → Bool) : State × Except MemErr TableDesc :=
  chain (s.readVa via va 64) fun s bs =>
    let d := tableDesc (leVal bs)
    if d.bad || bad d then (s, .error (.fatal cLkDesc))
    else match s.xlat via d.base with
      | (s, .ok x) => (s, .ok { d with bonded := x.bond })
      | (s, .error _) => (s, .ok d)

/-! ### The hot-row cache (R156, R157) -/

def HotRows.sets (h : HotRows) : Nat := if h.c = 0 then 0 else 2 ^ h.c / (16 * h.slot)
def HotRows.setOf (h : HotRows) (key : Nat) : Nat := key * 0xC6A4A7935BD1E995 % 2 ^ 64 / 2 ^ (64 - Nat.log2 h.sets)
def HotRows.find (h : HotRows) (key : Nat) : Option Way := h.ways.find? fun w => w.key == key
def HotRows.eligible (h : HotRows) (d : TableDesc) : Bool := h.c != 0 && d.hc && decide (d.rowSize ≤ h.slot)

/-- A write-back arrives at its Quay. -/
def State.landBack (s : State) (w : Way) : State :=
  let s := s.storeRow w.home w.data w.bad
  { s with hot := { s.hot with backs := s.hot.backs.filter fun x => x.key != w.key } }

/-- A cold read of a row waits until its write-back has arrived (R158). -/
def State.settleBack (s : State) (key : Nat) : State :=
  match s.hot.backs.find? fun w => w.key == key with
  | some w => s.landBack w
  | none => s

/-! ### Sketches (R160) -/

def sketchConst (i : Nat) : Nat :=
  match i with
  | 0 => 0xA24BAED4963EE407
  | 1 => 0x9FB21C651E98DF25
  | 2 => 0xD1B54A32D192ED03
  | _ => 0xE7037ED1A0B428DB

def sketchHash (i key : Nat) : Nat := key * sketchConst i % 2 ^ 64 / 2 ^ 48 % 2 ^ 16

def Sketch.get (k : Sketch) (i h : Nat) : Nat := ((k.cnt.find? fun p => p.1 == (i, h)).map (·.2)).getD 0
def Sketch.put (k : Sketch) (i h v : Nat) : Sketch :=
  { k with cnt := (if v = 0 then [] else [((i, h), v)]) ++ k.cnt.filter fun p => p.1 != (i, h) }
def Sketch.est (k : Sketch) (key : Nat) : Nat :=
  (List.range 4).foldl (fun m i => min m (k.get i (sketchHash i key))) 0xFFFF

def Sketch.bump (k : Sketch) (key : Nat) : Sketch :=
  let e := k.est key
  (List.range 4).foldl (fun k i =>
    let h := sketchHash i key
    k.put i h (Nat.max (k.get i h) (min (e + 1) 0xFFFF))) { k with count := k.count + 1 }

/-- The halving that an update triggers, last (R160). -/
def Sketch.decayed (k : Sketch) : Sketch :=
  if k.decay ≠ 0 ∧ k.count ≥ k.decay then
    { k with count := 0, cnt := (k.cnt.map fun p => (p.1, p.2 / 2)).filter fun p => p.2 != 0 }
  else k

def State.sketch (s : State) (q g : Nat) : Sketch := ((s.quays.toList.getD q ⟨Vector.replicate 16 ⟨0, 0, 0, []⟩, [], 0, false, [], []⟩).groups.toList).getD g ⟨0, 0, 0, []⟩

def State.setSketch (s : State) (q g : Nat) (k : Sketch) : State :=
  s.mapQuay q fun x => if h : g < 16 then { x with groups := x.groups.set g k h } else x

/-! ### Promotion (R158, R447) -/

/-- The victim way of a set for a candidate estimate: the lowest invalid way, else the way of the lowest estimate, if that is
below the candidate's. Ways that a promotion is filling are not chosen. -/
def State.victim (s : State) (set cand : Nat) : Option (Nat × Option Way) :=
  let busy (w : Nat) : Bool := s.hot.promos.any fun p => p.set == set && p.way == w
  let at' (w : Nat) : Option Way := s.hot.ways.find? fun x => x.set == set && x.way == w
  let ways := (List.range 16).filter fun w => !busy w
  match ways.find? fun w => (at' w).isNone with
  | some w => some (w, none)
  | none =>
    let ests := ways.filterMap fun w => (at' w).map fun x => ((s.sketch x.quay x.group).est x.key, w, x)
    match ests.foldl (fun m e => match m with | none => some e | some b => if e.1 < b.1 then some e else some b) none with
    | some (e, w, x) => if e < cand then some (w, some x) else none
    | none => none

/-- Start a promotion: the victim is evicted, and the candidate's bytes are read at its Quay, from the addresses that the
lookup's translation gave: a row that crosses pages has one range in each (log 70). A bonded row comes from its view, and has no
home, since nothing writes it (R234). -/
def State.promote (s : State) (d : TableDesc) (r cand : Nat) (home : List (Nat × Nat)) (view : Option (List Byte)) : State :=
  let key := d.key r
  if !s.hot.eligible d || (s.hot.find key).isSome || s.hot.promos.any (fun p => p.key == key) then s
  else
    let s := s.settleBack key
    let set := s.hot.setOf key
    match s.victim set cand with
    | none => s
    | some (way, old) =>
      let s := match old with
        | none => s
        | some w => { s with hot := { s.hot with
            ways := s.hot.ways.filter fun x => x.key != w.key
            backs := if w.dirty then s.hot.backs ++ [w] else s.hot.backs } }
      let s := home.foldl (fun s x => (s.touch x.1 x.2).cached x.1 x.2 (some d.pri)) s
      let data := match view with | some bs => bs | none => home.flatMap fun x => s.mem.read x.1 x.2
      let bad := (List.range (rowGranules home).length).filter fun i => s.poison.contains ((rowGranules home).getD i 0)
      { s with hot := { s.hot with promos := s.hot.promos ++ [⟨set, way, key, home, d.quay r, d.group, data, bad, false⟩] } }

/-- A row whose lookup is counted (R160): the update, the promotion check, then the halving. -/
def State.countRow (s : State) (d : TableDesc) (x : Nat × List (Nat × Nat) × Option (List Byte)) : State :=
  let (r, home, view) := x
  let q := d.quay r
  let k := (s.sketch q d.group).bump (d.key r)
  let s := s.setSketch q d.group k
  let e := k.est (d.key r)
  let s := if k.thr ≠ 0 ∧ e ≥ k.thr then s.promote d r e home view else s
  s.setSketch q d.group (s.sketch q d.group).decayed

/-! ### Rows (R149, R153, R155, R234) -/

/-- What a lookup read: its location (8 for hot, else its home Quay), the row's bytes, whether they are poisoned, and what a
promotion would record. -/
structure RowRead where
  loc   : Nat
  bytes : List Byte
  bad   : Bool
  home  : List (Nat × Nat)
  view  : Option (List Byte)
  deriving DecidableEq, Repr

/-- Is a row behind its home Quay (R149)? A bonded table has no placement (R234). -/
def TableDesc.placed (d : TableDesc) (r : Nat) (ps : List Piece) : Bool :=
  d.bonded || ps.all fun p => !p.x.bond && placeOf p.pa == .tier (d.quay r)

/-- A row that the task finds in the hot-row cache, as it has staged it there if it has (R159, R274): its home, its bytes, and whether
they are poisoned. -/
def State.hotRow (s : State) (d : TableDesc) (r : Nat) : Option (List (Nat × Nat) × List Byte × Bool) :=
  if !s.hot.eligible d then none
  else match s.hot.find (d.key r), stagedRow s.task (d.key r) with
    | some w, some x => some (w.home, x.data, x.bad)
    | some w, none => some (w.home, w.data, !w.bad.isEmpty)
    | none, _ => none

/-- A row that the task has staged in the cache and that has been evicted since: its lookups are cold (R153), and what the task has
staged is what it sees at the row's home Quay. -/
def State.evictedRow (s : State) (d : TableDesc) (r : Nat) : Option StagedRow :=
  if s.hot.eligible d && (s.hot.find (d.key r)).isNone then (stagedRow s.task (d.key r)).filter (·.hot) else none

/-- The bytes of a row at its home Quay as the task sees them. -/
def State.readHome (s : State) (d : TableDesc) (r : Nat) (ps : List Piece) : State × Except MemErr (List Byte × Bool) :=
  match s.evictedRow d r with
  | some x => (s, .ok (x.data, x.bad))
  | none =>
    let bad := s.poisonedAt ps
    chain (s.readPieces ps) fun s bs => (s, .ok (bs, bad))

/-- Check a row against the directory and read it. -/
def State.readRow (s : State) (d : TableDesc) (r : Nat) : State × Except MemErr RowRead :=
  match s.hotRow d r with
  | some (home, bs, bad) => (s, .ok ⟨8, bs, bad, home, if home.isEmpty then some bs else none⟩)
  | none =>
    let s := s.settleBack (d.key r)
    chain (s.pieces .pier false (d.rowSize + 1) (d.addr r) d.rowSize) fun s ps =>
      if !d.placed r ps then (s, .error (.fatal cLkPlace))
      else
        let view := ps.any (·.x.bond)
        chain (s.readHome d r ps) fun s x =>
          (s.hinted ps (4 + d.pri), .ok ⟨d.quay r, x.1, x.2, if view then [] else ps.map fun p => (p.pa, p.len), if view then some x.1 else none⟩)

/-! ### The QPOOL block (R151, R152, R161) -/

structure LookBlock where
  tdesc : Nat
  itile : Nat
  iw    : Bool
  otile : Nat
  wtile : Nat
  dtile : Nat
  n     : Nat
  mode  : Nat
  bucket : Bool
  skip  : Bool
  deriving DecidableEq, Repr

def lookBlock (b : Nat) : LookBlock :=
  ⟨bitsOf b 56 0, bitsOf b 69 64, bitsOf b 70 70 == 1, bitsOf b 77 72, bitsOf b 85 80, bitsOf b 93 88, bitsOf b 111 96 + 1,
    bitsOf b 114 112, bitsOf b 115 115 == 1, bitsOf b 116 116 == 1⟩

/-- Reserved fields of the block, and tdesc's alignment (R155). -/
def lookReserved (b : Nat) : Bool :=
  bitsOf b 63 57 != 0 || bitsOf b 71 71 != 0 || bitsOf b 79 78 != 0 || bitsOf b 87 86 != 0 || bitsOf b 95 94 != 0 ||
    b / 2 ^ 117 != 0 || bitsOf b 56 0 % 64 != 0

/-- An index of an index tile; LK_BAG outside the tile. -/
def Core.indexAt (c : Core) (t : TileRef) (iw : Bool) (j : Nat) : Except MemErr Nat :=
  let w := if iw then 8 else 4
  if w * (j + 1) > t.bytes then .error (.fatal cLkBag) else .ok (leVal (c.tileRead t (w * j) w))

/-- The index of a lookup, inside its tile (R155); a poisoned one is consumed by the engine (R274, R281). -/
def Core.lookupIndex (c : Core) (t : TileRef) (iw : Bool) (j : Nat) : Except MemErr Nat :=
  match c.indexAt t iw j with
  | .error e => .error e
  | .ok x =>
    let w := if iw then 8 else 4
    if c.tilePoison t (w * j) w then .error (.fatal cUncorrectable) else .ok x

/-- A row number: none for a lookup that skip drops; LK_INDEX otherwise at or beyond rows (R155), and for an index beyond 40 bits, skip or
not (DESIGN CHOICE, log 87: R171 drops an index at or above rows, R175 gives LK_INDEX to bits [63:40]). -/
def rowOf (d : TableDesc) (skip : Bool) (x : Nat) : Except MemErr (Option Nat) :=
  if x / 2 ^ 40 ≠ 0 then .error (.fatal cLkIndex)
  else if x < d.rows then .ok (some x)
  else if skip then .ok none else .error (.fatal cLkIndex)

def srcAt (k : Command) (i : Nat) : TileRef := k.srcs.getD i ⟨0, 0, 0⟩
def dstAt (k : Command) (i : Nat) : TileRef := k.dsts.getD i ⟨0, 0, 0⟩

/-- Bytes rounded up to whole vector registers (R153, R154). -/
def strideOf (n : Nat) : Nat := (n + 255) / 256 * 256

def padTo (n : Nat) (bs : List Byte) : List Byte := bs ++ zeros (n - bs.length)

def f32Bytes (xs : List Num) : List Byte := (xs.map fun x => toBytes 4 (roundRne 1 x)).flatten

/-! ### QPOOL (R153, R386, R387) -/

/-- The state of a bag: lookups that contributed, partial sums by location, the greatest terms so far, poison, and what the
sketches will count. -/
structure Bag where
  n     : Nat
  parts : List (Nat × List Num)
  top   : Option (List Num)
  bad   : Bool
  rows  : List (Nat × List (Nat × Nat) × Option (List Byte))
  deriving DecidableEq, Repr

def roundF32 (x : Num) : Num := decodeNum 1 (roundRne 1 x)

/-- Add the terms of a lookup at a location: the first is rounded, a later one added with one rounding. -/
def addTerms (parts : List (Nat × List Num)) (loc : Nat) (ts : List Num) : List (Nat × List Num) :=
  match parts.find? fun p => p.1 == loc with
  | none => parts ++ [(loc, ts.map roundF32)]
  | some p =>
    parts.map fun x => if x.1 = loc then (loc, (List.zip p.2 ts).map fun y => roundF32 (Num.add 0 y.1 y.2)) else x

/-- The partial sums combined: Quay 0 to 7, then hot. -/
def combineParts (parts : List (Nat × List Num)) : Option (List Num) :=
  (List.range 9).foldl (fun acc loc =>
    match parts.find? fun p => p.1 == loc with
    | none => acc
    | some p => match acc with
      | none => some p.2
      | some a => some ((List.zip a p.2).map fun y => roundF32 (Num.add 0 y.1 y.2))) none

/-- A bag's result (R153). -/
def Bag.result (g : Bag) (mode dim : Nat) : List Num :=
  match (if mode = 3 then g.top else combineParts g.parts) with
  | none => List.replicate dim (.fin false 0 0)
  | some xs =>
    if mode = 1 ∧ g.n > 0 then xs.map fun x => decodeNum 1 (rneDiv 1 x (.fin false g.n 0)) else xs

/-- One lookup of a bag. -/
def State.poolOne (s : State) (k : Command) (b : LookBlock) (d : TableDesc) (ordered : Bool) (g : Bag) (j : Nat) :
    State × Except MemErr Bag :=
  match s.core.lookupIndex (srcAt k 0) b.iw j with
  | .error e => (s, .error e)
  | .ok x =>
    match rowOf d b.skip x with
    | .error e => (s, .error e)
    | .ok none => (s, .ok g)
    | .ok (some r) =>
      chain (s.readRow d r) fun s rd =>
        let vs := d.values rd.bytes
        let wt := srcAt k 2
        if b.mode = 2 ∧ 4 * (j + 1) > wt.bytes then (s, .error (.fatal cLkBag))
        else
          let w := decodeNum 1 (s.core.tileN32 wt j)
          let ts := if b.mode = 2 then vs.map (Num.mul w) else vs
          (s, .ok ⟨g.n + 1, addTerms g.parts (if ordered then 0 else rd.loc) ts,
            some (match g.top with | none => ts | some t => (List.zip t ts).map fun y => Num.max y.1 y.2),
            g.bad || rd.bad || (b.mode == 2 && s.core.tilePoison wt (4 * j) 4), g.rows ++ [(r, rd.home, rd.view)]⟩)

def State.poolAll (s : State) (k : Command) (b : LookBlock) (d : TableDesc) (ordered : Bool) :
    Nat → Nat → Bag → State × Except MemErr Bag
  | 0, _, g => (s, .ok g)
  | n + 1, j, g => chain (s.poolOne k b d ordered g j) fun s g => State.poolAll s k b d ordered n (j + 1) g

/-- One bag: its unit of work (R155). Its lookups are counted once its result is written, so that those of a bag that ends in a fatal fault
are not (DESIGN CHOICE, log 87: R160 is silent on them). -/
def State.poolBag (s : State) (k : Command) (b : LookBlock) (d : TableDesc) (ordered : Bool) (i : Nat) : State × Option MemErr :=
  let ot := srcAt k 1
  if 4 * (i + 2) > ot.bytes then (s, some (.fatal cLkBag))
  else if s.core.tilePoison ot (4 * i) 8 then (s, some (.fatal cUncorrectable))
  else
    let o0 := s.core.tileN32 ot i
    let o1 := s.core.tileN32 ot (i + 1)
    if o1 < o0 then (s, some (.fatal cLkBag))
    else
      match s.poolAll k b d ordered (o1 - o0) o0 ⟨0, [], none, false, []⟩ with
      | (s, .error e) => (s, some e)
      | (s, .ok g) =>
        let stride := strideOf (4 * d.dim)
        let s := s.onCore fun c => c.tileWrite (dstAt k 0) (i * stride) (padTo stride (f32Bytes (g.result b.mode d.dim))) g.bad
        (g.rows.foldl (fun s r => s.countRow d r) s, none)

/-- QPOOL's work. The table descriptor is read and checked at each start, a resumption's too (DESIGN CHOICE, log 87: R148 and R155 are
silent on a resumption). -/
def State.workQpool (s : State) (k : Command) (ordered : Bool) : Outcome :=
  let b := lookBlock k.block.toNat
  match s.readTableDesc .pier b.tdesc fun _ => false with
  | (s, .error e) => .next (s.memStop k e)
  | (s, .ok d) =>
    if b.n * strideOf (4 * d.dim) > (dstAt k 0).bytes then .next (s.failCmd k cLkDest)
    else s.workUnits k (paddedRows b.bucket k.pad b.n) (fun s i => s.poolBag k b d ordered i) fun s => s.completeCmd k

def qpoolNamed (b : Nat) : Named :=
  let k := lookBlock b
  ⟨[k.itile, k.otile] ++ (if k.mode = 2 then [k.wtile] else []), [], [k.dtile]⟩

def qpoolBad (_ : Core) (b : Nat) : List (Bool × Nat) := [(lookReserved b || decide ((lookBlock b).mode > 3), cIllegalOperation)]

def execQpoolSplit (x : Cmd) (s : State) : Outcome :=
  s.command x (.qpoolSplit x) (fun _ => true) qpoolBad qpoolNamed false fun _ => false

def execQpoolOrdered (x : Cmd) (s : State) : Outcome :=
  s.command x (.qpoolOrdered x) (fun _ => true) qpoolBad qpoolNamed false fun _ => false

/-! ### QGATH (R154, R385) -/

/-- One lookup: its unit of work. -/
def State.gatherOne (s : State) (k : Command) (b : LookBlock) (d : TableDesc) (stride j : Nat) : State × Option MemErr :=
  let put (s : State) (bs : List Byte) (bad : Bool) : State :=
    s.onCore fun c => c.tileWrite (dstAt k 0) (j * stride) (padTo stride bs) bad
  match s.core.lookupIndex (srcAt k 0) b.iw j with
  | .error e => (s, some e)
  | .ok x =>
    match rowOf d b.skip x with
    | .error e => (s, some e)
    | .ok none => (put s [] false, none)
    | .ok (some r) =>
      match s.readRow d r with
      | (s, .error e) => (s, some e)
      | (s, .ok rd) =>
        ((put s (if b.mode = 1 then f32Bytes (d.values rd.bytes) else rd.bytes) rd.bad).countRow d (r, rd.home, rd.view), none)

def State.workQgath (s : State) (k : Command) : Outcome :=
  let b := lookBlock k.block.toNat
  match s.readTableDesc .pier b.tdesc fun _ => false with
  | (s, .error e) => .next (s.memStop k e)
  | (s, .ok d) =>
    let stride := strideOf (if b.mode = 1 then 4 * d.dim else d.rowSize)
    if b.n * stride > (dstAt k 0).bytes then .next (s.failCmd k cLkDest)
    else s.workUnits k (paddedRows b.bucket k.pad b.n) (fun s j => s.gatherOne k b d stride j) fun s => s.completeCmd k

def oneSource (b : Nat) : Named := ⟨[(lookBlock b).itile], [], [(lookBlock b).dtile]⟩

def qgathBad (_ : Core) (b : Nat) : List (Bool × Nat) :=
  let k := lookBlock b
  [(lookReserved b || k.otile != 0 || k.wtile != 0 || decide (k.mode > 1), cIllegalOperation)]

def execQgath (x : Cmd) (s : State) : Outcome :=
  s.command x (.qgath x) (fun _ => true) qgathBad oneSource false fun _ => false

/-! ### SKRD (R161, R397) -/

def State.skrdOne (s : State) (k : Command) (b : LookBlock) (d : TableDesc) (j : Nat) : State × Option MemErr :=
  match s.core.lookupIndex (srcAt k 0) b.iw j with
  | .error e => (s, some e)
  | .ok x =>
    match rowOf d false x with
    | .error e => (s, some e)
    | .ok none => (s, none)
    | .ok (some r) =>
      match s.pieces .pier false (d.rowSize + 1) (d.addr r) d.rowSize with
      | (s, .error e) => (s, some e)
      | (s, .ok ps) =>
        if !d.placed r ps then (s, some (.fatal cLkPlace))
        else (s.onCore fun c => c.tileWrite (dstAt k 0) (2 * j) (toBytes 2 ((s.sketch (d.quay r) d.group).est (d.key r))), none)

def State.workSkrd (s : State) (k : Command) : Outcome :=
  let b := lookBlock k.block.toNat
  match s.readTableDesc .pier b.tdesc fun _ => false with
  | (s, .error e) => .next (s.memStop k e)
  | (s, .ok d) => s.workUnits k b.n (fun s j => s.skrdOne k b d j) fun s => s.completeCmd k

def skrdBad (c : Core) (b : Nat) : List (Bool × Nat) :=
  let k := lookBlock b
  [(lookReserved b || k.otile != 0 || k.wtile != 0 || k.mode != 0 || k.bucket || k.skip, cIllegalOperation),
   (decide ((c.tileRef k.dtile).bytes < 2 * k.n), cIllegalOperation)]

def execSkrd (x : Cmd) (s : State) : Outcome :=
  s.command x (.skrd x) (fun _ => true) skrdBad oneSource false fun _ => false

/-! ### HRCTL (R162, R343) -/

def hrctlBad (_ : Core) (b : Nat) : List (Bool × Nat) :=
  [(bitsOf b 7 4 != 0 || bitsOf b 31 24 != 0 || b / 2 ^ 88 != 0, cIllegalOperation)]

def noTiles (_ : Nat) : Named := ⟨[], [], []⟩

def State.execHrctl (s : State) (x : Cmd) (op : Instr) : Outcome :=
  s.command x op (fun _ => false) hrctlBad noTiles false fun _ => false

def execHrctlSetGroup (x : Cmd) (s : State) : Outcome := s.execHrctl x (.hrctlSetGroup x)
def execHrctlInvalidateTable (x : Cmd) (s : State) : Outcome := s.execHrctl x (.hrctlInvalidateTable x)
def execHrctlWriteBack (x : Cmd) (s : State) : Outcome := s.execHrctl x (.hrctlWriteBack x)
def execHrctlClearSketch (x : Cmd) (s : State) : Outcome := s.execHrctl x (.hrctlClearSketch x)

/-- Write ways back and let every earlier write-back of theirs arrive. -/
def State.writeWays (s : State) (which : Way → Bool) : State :=
  let s := (s.hot.backs.filter which).foldl State.landBack s
  (s.hot.ways.filter fun w => which w && w.dirty).foldl (fun s w => s.storeRow w.home w.data w.bad) s

def State.mapGroups (s : State) (g : Nat) (f : Sketch → Sketch) : State :=
  (List.range 8).foldl (fun s q => s.setSketch q g (f (s.sketch q g))) s

/-- HRCTL's work, by variant. Variant 1 invalidates valid ways; a promotion in progress goes on (DESIGN CHOICE, log 87). -/
def State.workHrctl (s : State) (k : Command) (variant : Nat) : Outcome :=
  let b := k.block.toNat
  let g := bitsOf b 3 0
  let ofTable (w : Way) : Bool := w.key / 2 ^ 40 == bitsOf b 87 64
  let s := match variant with
    | 0 => s.mapGroups g fun x => { x with thr := bitsOf b 23 8, decay := bitsOf b 63 32, count := 0 }
    | 1 =>
      let s := s.writeWays ofTable
      { s with hot := { s.hot with ways := s.hot.ways.filter fun w => !ofTable w } }
    | 2 =>
      let s := s.writeWays fun _ => true
      { s with hot := { s.hot with ways := s.hot.ways.map fun (w : Way) => { w with dirty := false } } }
    | _ => s.mapGroups g fun x => { x with cnt := [] }
  s.completeCmd k

/-! ### Pinned windows (R165 to R167, R428) -/

def wpinBad (pin : Bool) (_ : Core) (b : Nat) : List (Bool × Nat) :=
  [(bitsOf b 63 57 != 0 || bitsOf b 127 121 != 0 || bitsOf b 191 150 != 0 || bitsOf b 383 249 != 0 || b / 2 ^ 398 != 0,
      cIllegalOperation),
   (pin && (bitsOf b 56 0 % 65536 != 0 || bitsOf b 120 64 % 65536 != 0 || bitsOf b 120 64 == 0 || bitsOf b 143 128 == 0),
      cIllegalOperation)]

def execWpin (x : Cmd) (s : State) : Outcome :=
  s.command x (.wpin x) (fun _ => false) (wpinBad true) noTiles false fun _ => false

def execWpinLoad (x : Cmd) (s : State) : Outcome :=
  s.command x (.wpinLoad x) (fun _ => false) (wpinBad true) noTiles false fun _ => false

def execWunpin (x : Cmd) (s : State) : Outcome :=
  s.command x (.wunpin x) (fun _ => false) (wpinBad false) noTiles false fun _ => false

/-- Bytes of physical ranges behind a Quay. -/
def behind (q : Nat) (span : List (Nat × Nat)) : Nat :=
  span.foldl (fun n r => if placeOf r.1 = .tier q then n + r.2 else n) 0

/-- The bytes pinned at a Quay (R166). Those that lie in two windows count once for each (DESIGN CHOICE, log 87: R166 is silent on an
overlap). -/
def State.pinnedAt (s : State) (q : Nat) : Nat := s.windows.foldl (fun n w => n + behind q w.span) 0

/-- A released window's signal (R167, R206, R444); rso 0 names no object. It is translated under the page tables of the task that pinned the
window, and a signal whose translation fails is dropped (DESIGN CHOICE, log 87). -/
def State.signalRso (s : State) (w : Window) : State :=
  if w.rso = 0 then s
  else match s.hmSignal ⟨w.root, 0, none⟩ w.rso with
    | (s, none) => s
    | (s, some (.fatal code)) =>
      if code = cPaHole ∨ code = cRemoteKey then s.emit ⟨6, 0, 0, 0⟩ else s.emit ⟨2, 0, 0, BitVec.ofNat 64 code⟩
    | (s, some (.trans _ _)) => s

/-- What a pin or its release makes of the lines that a window covers (R164, R167). -/
def State.mapLines (s : State) (w : Window) (f : CacheLine → CacheLine) : State :=
  { s with quays := s.quays.map fun q => { q with cache := q.cache.map fun l => if w.covers (128 * l.line) 128 then f l else l } }

/-- A line that a window covers, once that is released: it stays cached, at priority 0; or it lies in another window that is pinned. -/
def freedLine (others : List Window) (l : CacheLine) : CacheLine :=
  match others.find? fun x => x.covers (128 * l.line) 128 with
  | some x => { l with win := some x.num }
  | none => { l with prio := 0, win := none }

def State.releaseWindow (s : State) (w : Window) : State :=
  let others := s.windows.filter fun x => x.num != w.num
  ({ s.mapLines w (freedLine others) with windows := others }).signalRso w

/-- A tick of 1 ms ends (R167): the windows that were hit start afresh, the others fade. -/
def State.fadeTick (s : State) : State :=
  let s := { s with fades := s.fades + 1
                    windows := s.windows.map fun (w : Window) => { w with count := if w.hit then w.fade else w.count - 1, hit := false } }
  (s.windows.filter fun w => w.count == 0).foldl State.releaseWindow s

/-- The end of a WPIN or WUNPIN: its status, and the window number of a WPIN. -/
def State.finishWindow (s : State) (k : Command) (status : Nat) (wout : Option Nat) : Outcome :=
  (s.onCore fun c => c.writeBack k ((48, toBytes 1 status) :: (match wout with | some w => [(49, toBytes 1 w)] | none => []))).completeCmd k

/-- WPIN: `load` brings every line of the window in before completion. Of failures that hold together, no free number (1) is reported before
a bad range (5), and that before a full Quay (2) (DESIGN CHOICE, log 87). -/
def State.workWpin (s : State) (k : Command) (load : Bool) : Outcome :=
  let b := k.block.toNat
  let len := bitsOf b 120 64
  match (List.range 64).find? fun n => !(s.windows.any fun w => w.num == n) with
  | none => s.finishWindow k 1 none
  | some num =>
    match s.pieces .pier false (len / 65536 + 1) (bitsOf b 56 0) len with
    | (s, .error _) => s.finishWindow k 5 none
    | (s, .ok ps) =>
      let span := ps.map fun p => (p.pa, p.len)
      if ps.any (fun p => p.x.bond || (match placeOf p.pa with | .tier _ => false | _ => true)) then s.finishWindow k 5 none
      else if (List.range 8).any fun q => decide (behind q span > 0) && decide (s.pinnedAt q + behind q span > 288 * 2 ^ 20) then
        s.finishWindow k 2 none
      else
        let w : Window := ⟨num, span, bitsOf b 143 128, bitsOf b 143 128, s.taskClass, bitsOf b 248 192, s.root, false⟩
        let s := { s.mapLines w fun l => { l with win := some num } with windows := s.windows ++ [w] }
        (if load then span.foldl (fun s r => s.cached r.1 r.2 none) s else s).finishWindow k 0 (some num)

def State.workWunpin (s : State) (k : Command) : Outcome :=
  match s.windows.find? fun w => w.num == bitsOf k.block.toNat 149 144 with
  | none => s.finishWindow k 4 none
  | some w => if w.cls ≠ s.taskClass then s.finishWindow k 3 none else (s.releaseWindow w).finishWindow k 0 none

/-! ### L2OP (R361, R362) -/

def l2opBad (update : Bool) (c : Core) (b : Nat) : List (Bool × Nat) :=
  let n := bitsOf b 47 32 + 1
  let w := if bitsOf b 12 12 = 1 then 8 else 4
  [(bitsOf b 15 13 != 0 || bitsOf b 31 20 != 0 || b / 2 ^ 48 != 0 || (update && decide (bitsOf b 19 16 > 11)), cIllegalOperation),
   (decide ((c.tileRef (bitsOf b 5 0)).bytes < 8 * n) || decide ((c.tileRef (bitsOf b 11 6)).bytes < w * n), cIllegalOperation)]

def execL2opUpdate (x : Cmd) (s : State) : Outcome :=
  s.command x (.l2opUpdate x) (fun _ => false) (l2opBad true) (fun b => ⟨[bitsOf b 5 0, bitsOf b 11 6], [], []⟩) false fun _ => false

def execL2opGather (x : Cmd) (s : State) : Outcome :=
  s.command x (.l2opGather x) (fun _ => false) (l2opBad false) (fun b => ⟨[bitsOf b 5 0], [], [bitsOf b 11 6]⟩) false fun _ => false

/-- One element: its step at its address's home, as ATOM performs it (R210, R292, R362). A contained node stages its writes (R274, log
32); a poisoned address is consumed, and a poisoned operand leaves a poisoned result (R281). -/
def State.l2opOne (s : State) (k : Command) (update : Bool) (j : Nat) : State × Option MemErr :=
  let b := k.block.toNat
  let w := if bitsOf b 12 12 = 1 then 8 else 4
  let va := leVal (s.core.tileRead (srcAt k 0) (8 * j) 8) / w * w
  if s.core.tilePoison (srcAt k 0) (8 * j) 8 then (s, some (.fatal cUncorrectable))
  else if update then
    let v := leVal (s.core.tileRead (srcAt k 1) (w * j) w)
    let op : RemoteOp := .atom (bitsOf b 19 16) (w == 8) (BitVec.ofNat 64 v)
    match s.atomicStep va w op (atomicWrites w op) (s.core.tilePoison (srcAt k 1) (w * j) w) with
    | (s, .error e) => (s, some e)
    | (s, .ok _) => (s, none)
  else
    match s.atomicRead va w with
    | (s, .error e) => (s, some e)
    | (s, .ok (bs, bad)) => (s.onCore fun c => c.tileWrite (dstAt k 0) (w * j) bs bad, none)

def State.workL2op (s : State) (k : Command) (update : Bool) : Outcome :=
  s.workUnits k (bitsOf k.block.toNat 47 32 + 1) (fun s j => s.l2opOne k update j) fun s => s.completeCmd k

end Sys2Proof.Machine
end

