-- ==== Sys2Proof/Machine/BondOps.lean ====
section
/-! DEFINITION. The bond store (chapter 10): marks, reference counts and reclaim, and the commands BLOOK, BHOLD, BDROP,
BWALK, BREAD, BCOPY and BSWAP. -/

namespace Sys2Proof.Machine

def cBondRegion : Nat := 0x138

/-! ### Status (R225) -/

def bsFull : Nat := 1
def bsCollide : Nat := 2
def bsVerify : Nat := 3
def bsDangle : Nat := 4
def bsShape : Nat := 5
def bsStale : Nat := 6
def bsImage : Nat := 7

/-! ### Regions and marks (R217 to R219) -/

def State.region (s : State) (r : Nat) : RegionEntry := s.bond.regions.toList.getD r ⟨0, false, 0, 0⟩

/-- mark_of (R218): D byte i stands in mark byte 15 − i, for i = 0 to 14. -/
def markOf (key : BitVec 256) (line : List Byte) : Nat :=
  leVal (0 :: ((sha512 (toBytes 32 key.toNat ++ line)).take 15).reverse)

def zeroLine (bs : List Byte) : Bool := bs.all (· == 0)

/-- The home Quay of a mark (R218). -/
def markQuay (mark : Nat) : Nat := bitsOf mark 10 8

/-- Children of an interior line (R221). -/
def childrenOf (bs : List Byte) : List Nat := (List.range 8).map fun c => leVal ((bs.drop (16 * c)).take 16)

/-- R222. -/
def RootRec.shaped (r : RootRec) : Bool :=
  (match (List.range 15).find? fun d => decide (128 * 8 ^ d ≥ r.length) with | some d => r.depth == d | none => false) &&
    (r.length != 0 || r.mark == 0)

/-! ### Counts (R223, R224) -/

def Line.immortal (l : Line) : Bool := l.count == 0xFFFFFF

def State.mapLine (s : State) (region mark : Nat) (f : Line → Line) : State :=
  { s with bond := { s.bond with lines := s.bond.lines.map fun l => if l.region = region ∧ l.mark.toNat = mark then f l else l } }

/-- Is the mark a live line's? -/
def State.liveLine (s : State) (region mark : Nat) : Bool :=
  match s.line region mark with
  | some l => !l.dying
  | none => false

/-- Add 1 to a count, saturating; the zero mark has none. -/
def State.addCount (s : State) (region mark : Nat) : State :=
  s.mapLine region mark fun l => { l with count := min (l.count + 1) 0xFFFFFF }

/-- Subtract 1; from 1 to 0 the line dies. -/
def State.dropCount (s : State) (region mark : Nat) : State :=
  s.mapLine region mark fun l =>
    if l.dying || l.immortal then l
    else if l.count ≤ 1 then { l with count := 0, dying := true, since := s.hm.nextNum }
    else { l with count := l.count - 1 }

/-- Queue a decrement at a mark's home Quay. -/
def State.queueDrop (s : State) (region mark : Nat) : State :=
  if mark = 0 then s
  else s.mapQuay (markQuay mark) fun q => { q with queue := q.queue ++ [(region, BitVec.ofNat 128 mark)] }

/-- RECLAIM_DECREMENT (R223): a Quay's walker performs its oldest queued decrement. -/
def execReclaimDecrement (quay : Nat) (s : State) : Outcome :=
  match s.quays.toList[quay]? with
  | some q =>
    match q.queue with
    | (region, mark) :: r => .next ((s.mapQuay quay fun q => { q with queue := r }).dropCount region mark.toNat)
    | [] => .refused (.notEnabled "RECLAIM_DECREMENT")
  | none => .refused (.notEnabled "RECLAIM_DECREMENT")

def isBondOp (i : Instr) : Bool :=
  match i with
  | .bcopy _ | .bcopyVerify _ | .bdrop _ | .bholdList _ | .bholdRoot _ | .blookLeaf _ | .blookInterior _ | .bread _
  | .breadVerify _ | .bswap _ | .bwalkLeaf _ | .bwalkElement _ => true
  | _ => false

/-- LINE_FREE (R224): once every bond command accepted before the line died has ended, those of pre-empted contexts
included. -/
def execLineFree (region : Nat) (mark : BitVec 128) (s : State) : Outcome :=
  match s.line region mark.toNat with
  | none => .refused (.notEnabled "LINE_FREE")
  | some l =>
    if !l.dying || s.allCores.any (fun c =>
        c.copy.cmds.any fun k => isBondOp k.op && decide (k.id < l.since)) then
      .refused (.notEnabled "LINE_FREE")
    else
      let s := { s with bond := { s.bond with
        lines := s.bond.lines.filter fun x => !(x.region == region && x.mark == mark) } }
      .next (if l.interior then (childrenOf l.data).foldl (fun s c => s.queueDrop region c) s else s)

/-! ### Lines and trees (R221, R228 to R230) -/

/-- How the work of a bond command ends early: a status, or what an access met. -/
inductive BondEnd where
  | status (n : Nat)
  | mem (e : MemErr)
  deriving DecidableEq, Repr

/-- Read a line, live or dying, by its mark. -/
def State.bondLine (s : State) (region mark : Nat) (verify : Bool) : Except Nat (List Byte) :=
  match s.lineBytes region mark with
  | none => .error bsDangle
  | some bs =>
    if verify && mark != 0 && markOf (s.region region).key bs / 256 != mark / 256 then .error bsVerify else .ok bs

/-- The mark of leaf i, reading the interior lines on its path. -/
def State.bondLeaf (s : State) (region : Nat) (verify : Bool) : Nat → Nat → Nat → Except Nat Nat
  | 0, mark, _ => .ok mark
  | d + 1, mark, i =>
    if mark = 0 then .ok 0
    else match s.bondLine region mark verify with
      | .error e => .error e
      | .ok bs => State.bondLeaf s region verify d (leVal ((bs.drop (16 * (i / 8 ^ d % 8))).take 16)) i

/-- Leaf line i of a root record. -/
def State.bondRead (s : State) (r : RootRec) (verify : Bool) (i : Nat) : Except Nat (List Byte) :=
  match s.bondLeaf r.region verify r.depth r.mark i with
  | .error e => .error e
  | .ok m => s.bondLine r.region m verify

/-- Leaf lines from i on, n of them, in order (R432): those read, and what stopped the reading. -/
def State.bondLeaves (s : State) (r : RootRec) (verify : Bool) : Nat → Nat → List (List Byte) × Option Nat
  | 0, _ => ([], none)
  | n + 1, i =>
    match s.bondRead r verify i with
    | .error e => ([], some e)
    | .ok bs =>
      let (rest, e) := State.bondLeaves s r verify n (i + 1)
      (bs :: rest, e)

/-! ### Root slots (R222, R231, R317) -/

/-- Where a root slot lies, or BOND_PLACE. -/
def State.slotPiece (s : State) (va : Nat) (write : Bool) : State × Except MemErr Piece :=
  if va % 32 ≠ 0 ∨ inWindow va then (s, .error (.fatal cBondPlace))
  else match s.xlat .pier va with
    | (s, .error c) => (s, .error (xlatErr c va))
    | (s, .ok x) =>
      let pa := x.pa + va % x.size
      if x.bond then (s, .error (.fatal cBondPlace))
      else match placeOf pa with
        | .host => (s, .error (.fatal cBondPlace))
        | .remote _ _ => (s, .error (.fatal cBondPlace))
        | .hole => (s, .error (.fatal cPaHole))
        | _ => if write && !x.w then (s, .error (.trans cTrProt va)) else (s, .ok ⟨va, pa, 32, x⟩)

/-- A root slot's record; a poisoned one is consumed by the engine (R281). -/
def State.readSlot (s : State) (va : Nat) : State × Except MemErr Nat :=
  chain (s.slotPiece va false) fun s p =>
    let bad := s.poisonedAt [p]
    chain (s.readPiece p) fun s bs => (s, if bad then .error (.fatal cUncorrectable) else .ok (leVal bs))

/-- The root a BWALK or BCOPY walks: the block's, or the slot's, read once; a command that resumes keeps it. -/
def State.bondRoot (s : State) (k : Command) (via : Bool) : State × Except MemErr Nat :=
  let b := k.block.toNat
  match k.acc with
  | r :: _ => (s, .ok r)
  | [] => if via then (s, .ok (bitsOf b 255 0)) else s.readSlot (bitsOf b 312 256)

/-- A root in a region that is not valid takes BOND_REGION (R225). -/
def State.rootRegionBad (s : State) (r : RootRec) : Bool := !(s.region r.region).valid

/-! ### Ends of commands -/

/-- Write a command's status and complete it. -/
def State.bondDone (s : State) (k : Command) (fields : List (Nat × List Byte)) : Outcome :=
  (s.onCore fun c => c.writeBack k fields).completeCmd k

/-! ### BLOOK (R226, R309) -/

/-- The live line of a region with these bytes and this kind (R220). -/
def State.findLine (s : State) (region : Nat) (bs : List Byte) (interior : Bool) : Option Line :=
  s.bond.lines.find? fun l => l.region == region && l.data == bs && l.interior == interior && !l.dying

/-- Frames in use at a Quay for a region, and those it has (R217). -/
def State.framesUsed (s : State) (region quay : Nat) : Nat :=
  (s.bond.lines.filter fun l => l.region == region && markQuay l.mark.toNat == quay).length
def State.framesOf (s : State) (region : Nat) : Nat := (s.region region).span.toNat / 160

/-- One line of BLOOK: its mark, or the status that stops the command. -/
def State.lookLine (s : State) (region : Nat) (bs : List Byte) (interior : Bool) : State × Except Nat Nat :=
  if zeroLine bs then (s, .ok 0)
  else match s.findLine region bs interior with
    | some l => (s.addCount region l.mark.toNat, .ok l.mark.toNat)
    | none =>
      let kids := if interior then (childrenOf bs).filter (· != 0) else []
      if kids.any fun c => !s.liveLine region c then (s, .error bsDangle)
      else
        let h := markOf (s.region region).key bs / 256
        let free := (List.range 256).find? fun o => !(h == 0 && o == 0) && (s.line region (h * 256 + o)).isNone
        match free with
        | none => (s, .error bsCollide)
        | some o =>
          let m := h * 256 + o
          if s.framesUsed region (markQuay m) ≥ s.framesOf region then (s, .error bsFull)
          else
            let s := { s with bond := { s.bond with
              lines := ⟨region, BitVec.ofNat 128 m, interior, bs, 1, false, 0⟩ :: s.bond.lines } }
            (kids.foldl (fun s c => s.addCount region c) s, .ok m)

/-- Lines from j on: how many are done, and the status. -/
def State.lookLines (s : State) (k : Command) (region : Nat) (interior : Bool) : Nat → Nat → State × Nat × Nat
  | 0, j => (s, j, 0)
  | n + 1, j =>
    match s.lookLine region (s.core.tileRead (srcAt k 0) (128 * j) 128) interior with
    | (s, .error st) => (s, j, st)
    | (s, .ok m) => State.lookLines (s.onCore fun c => c.tileWrite (dstAt k 0) (16 * j) (toBytes 16 m)) k region interior n (j + 1)

def State.workBlook (s : State) (k : Command) (interior : Bool) : Outcome :=
  let b := k.block.toNat
  let region := bitsOf b 17 12
  if !(s.region region).valid then .next (s.failCmd k cBondRegion)
  else if s.core.tilePoison (srcAt k 0) 0 (128 * (bitsOf b 44 32 + 1)) then .next (s.failCmd k cUncorrectable)
  else
    let (s, done, st) := s.lookLines k region interior (bitsOf b 44 32 + 1) 0
    s.bondDone k [(8, toBytes 1 st), (9, toBytes 2 done)]

def blookBad (c : Core) (b : Nat) : List (Bool × Nat) :=
  let n := bitsOf b 44 32 + 1
  [(bitsOf b 31 18 != 0 || bitsOf b 63 45 != 0 || b / 2 ^ 86 != 0, cIllegalOperation),
   (decide ((c.tileRef (bitsOf b 5 0)).bytes < 128 * n) || decide ((c.tileRef (bitsOf b 11 6)).bytes < 16 * n), cIllegalOperation)]

def blookNamed (b : Nat) : Named := ⟨[bitsOf b 5 0], [], [bitsOf b 11 6]⟩

def execBlookLeaf (x : Cmd) (s : State) : Outcome :=
  s.command x (.blookLeaf x) (fun _ => false) blookBad blookNamed true fun _ => false
def execBlookInterior (x : Cmd) (s : State) : Outcome :=
  s.command x (.blookInterior x) (fun _ => false) blookBad blookNamed true fun _ => false

/-! ### BHOLD and BDROP (R227, R303, R306) -/

def listBad (c : Core) (b : Nat) : List (Bool × Nat) :=
  [(bitsOf b 7 6 != 0 || bitsOf b 15 14 != 0 || bitsOf b 63 29 != 0 || bitsOf b 127 121 != 0 || bitsOf b 255 150 != 0,
      cIllegalOperation),
   (decide ((c.tileRef (bitsOf b 5 0)).bytes < 16 * (bitsOf b 28 16 + 1)), cIllegalOperation)]

def slotBad (_ : Core) (b : Nat) : List (Bool × Nat) :=
  [(bitsOf b 7 6 != 0 || bitsOf b 15 14 != 0 || bitsOf b 63 29 != 0 || bitsOf b 127 121 != 0 || bitsOf b 255 150 != 0,
      cIllegalOperation)]

def markList (b : Nat) : Named := ⟨[bitsOf b 5 0], [], []⟩

def execBdrop (x : Cmd) (s : State) : Outcome :=
  s.command x (.bdrop x) (fun _ => false) listBad markList true fun _ => false
def execBholdList (x : Cmd) (s : State) : Outcome :=
  s.command x (.bholdList x) (fun _ => false) listBad markList true fun _ => false
def execBholdRoot (x : Cmd) (s : State) : Outcome :=
  s.command x (.bholdRoot x) (fun _ => false) slotBad noTiles true fun _ => false

/-- Marks from j on: how many are done, and the status. -/
def State.countMarks (s : State) (k : Command) (region : Nat) (up : Bool) : Nat → Nat → State × Nat × Nat
  | 0, j => (s, j, 0)
  | n + 1, j =>
    let m := leVal (s.core.tileRead (srcAt k 0) (16 * j) 16)
    if m = 0 then State.countMarks s k region up n (j + 1)
    else if !s.liveLine region m then (s, j, bsDangle)
    else State.countMarks (if up then s.addCount region m else s.dropCount region m) k region up n (j + 1)

def State.workMarks (s : State) (k : Command) (up : Bool) : Outcome :=
  let b := k.block.toNat
  let region := bitsOf b 13 8
  if !(s.region region).valid then .next (s.failCmd k cBondRegion)
  else if s.core.tilePoison (srcAt k 0) 0 (16 * (bitsOf b 28 16 + 1)) then .next (s.failCmd k cUncorrectable)
  else
    let (s, done, st) := s.countMarks k region up (bitsOf b 28 16 + 1) 0
    s.bondDone k [(16, toBytes 1 st), (17, toBytes 2 done)]

/-- BHOLD variant 1: while the slot names a dying line, the slot is read again. -/
def State.workBholdRoot (s : State) (k : Command) : Outcome :=
  match s.readSlot (bitsOf k.block.toNat 120 64) with
  | (s, .error e) => .next (s.memStop k e)
  | (s, .ok x) =>
    let r := rootOf x
    if s.rootRegionBad r then .next (s.failCmd k cBondRegion)
    else match s.line r.region r.mark with
      | some l =>
        if r.mark ≠ 0 ∧ l.dying then .refused (.notEnabled "COMMAND_COMPLETE")
        else (s.addCount r.region r.mark).bondDone k [(16, [0]), (17, toBytes 2 1), (32, toBytes 32 x)]
      | none =>
        if r.mark = 0 then s.bondDone k [(16, [0]), (17, toBytes 2 1), (32, toBytes 32 x)]
        else s.bondDone k [(16, toBytes 1 bsDangle), (17, toBytes 2 0)]

/-! ### BWALK (R228, R319) -/

def bwalkBad (_ : Core) (b : Nat) : List (Bool × Nat) :=
  [(bitsOf b 143 143 != 0 || bitsOf b 319 313 != 0 || bitsOf b 375 372 != 0 || decide (bitsOf b 370 368 > 4), cIllegalOperation)]

def execBwalkLeaf (x : Cmd) (s : State) : Outcome :=
  s.command x (.bwalkLeaf x) (fun _ => true) bwalkBad noTiles false fun _ => false
def execBwalkElement (x : Cmd) (s : State) : Outcome :=
  s.command x (.bwalkElement x) (fun _ => true) bwalkBad noTiles false fun _ => false

def State.workBwalk (s : State) (k : Command) (element : Bool) : Outcome :=
  let b := k.block.toNat
  match s.bondRoot k (bitsOf b 371 371 == 1) with
  | (s, .error e) => .next (s.memStop k e)
  | (s, .ok x) =>
    let r := rootOf x
    let i := if element then bitsOf b 367 320 * 2 ^ bitsOf b 370 368 / 128 else bitsOf b 367 320
    if s.rootRegionBad r then .next (s.failCmd k cBondRegion)
    else if !r.shaped || decide (128 * i ≥ r.length) then s.bondDone k [(47, toBytes 1 bsShape)]
    else match s.bondLeaf r.region false r.depth r.mark i with
      | .error st => s.bondDone k [(47, toBytes 1 st)]
      | .ok m => s.bondDone k [(47, [0]), (48, toBytes 16 m)]

/-! ### BREAD (R229, R312) -/

def breadBad (c : Core) (b : Nat) : List (Bool × Nat) :=
  [(bitsOf b 135 134 != 0 || bitsOf b 143 142 != 0 || bitsOf b 375 160 != 0 || b / 2 ^ 384 != 0, cIllegalOperation),
   (bitsOf b 159 144 % 128 != 0 || decide (bitsOf b 159 144 + 128 > (c.tileRef (bitsOf b 141 136)).bytes), cIllegalOperation)]

def breadNamed (b : Nat) : Named := ⟨[], [], [bitsOf b 141 136]⟩

def execBread (x : Cmd) (s : State) : Outcome :=
  s.command x (.bread x) (fun _ => true) breadBad breadNamed false fun _ => false
def execBreadVerify (x : Cmd) (s : State) : Outcome :=
  s.command x (.breadVerify x) (fun _ => true) breadBad breadNamed false fun _ => false

def State.workBread (s : State) (k : Command) (verify : Bool) : Outcome :=
  let b := k.block.toNat
  let region := bitsOf b 133 128
  let mark := bitsOf b 127 0
  if !(s.region region).valid then .next (s.failCmd k cBondRegion)
  else match s.lineBytes region mark with
    | none => s.bondDone k [(47, toBytes 1 bsDangle)]
    | some bs =>
      let st := match s.bondLine region mark verify with | .error st => st | .ok _ => 0
      (s.onCore fun c => c.tileWrite (dstAt k 0) (bitsOf b 159 144) bs).bondDone k [(47, toBytes 1 st)]

/-! ### BCOPY (R230, R302, R432) -/

def bcopyBad (c : Core) (b : Nat) : List (Bool × Nat) :=
  let dkind := bitsOf b 370 369
  let dst := bitsOf b 440 384
  let count := bitsOf b 495 448
  [(bitsOf b 143 143 != 0 || bitsOf b 319 313 != 0 || bitsOf b 375 371 != 0 || bitsOf b 447 447 != 0 || bitsOf b 511 496 != 0 || dkind == 3 ||
      count == 0 || (dkind == 2 && dst % 16 != 0), cIllegalOperation),
   (dkind == 1 && decide (dst + count > (c.tileRef (bitsOf b 446 441)).bytes), cIllegalOperation)]

def bcopyNamed (b : Nat) : Named := ⟨[], [], if bitsOf b 370 369 = 1 then [bitsOf b 446 441] else []⟩

def State.execBcopyAs (s : State) (x : Cmd) (op : Instr) : Outcome :=
  s.command x op (fun b => bitsOf b 370 369 == 1) bcopyBad bcopyNamed false fun b => bitsOf b 370 369 == 2

def execBcopy (x : Cmd) (s : State) : Outcome := s.execBcopyAs x (.bcopy x)
def execBcopyVerify (x : Cmd) (s : State) : Outcome := s.execBcopyAs x (.bcopyVerify x)

/-- The bytes of leaf i that lie in [first, first + count), and the position of the first of them. -/
def cutLeaf (first count i : Nat) (bs : List Byte) : Nat × List Byte :=
  let a := Nat.max first (128 * i)
  let e := min (first + count) (128 * i + 128)
  (a, (bs.drop (a - 128 * i)).take (e - a))

/-- Copy one leaf's bytes to memory or to the tile: a unit of work. -/
def State.copyLeaf (s : State) (k : Command) (r : RootRec) (verify : Bool) (i : Nat) : State × Option BondEnd :=
  let b := k.block.toNat
  match s.bondRead r verify i with
  | .error st => (s, some (.status st))
  | .ok bs =>
    let first := bitsOf b 367 320
    let (a, cut) := cutLeaf first (bitsOf b 495 448) i bs
    if bitsOf b 370 369 = 1 then (s.onCore fun c => c.tileWrite (dstAt k 0) (bitsOf b 440 384 + (a - first)) cut, none)
    else match s.writeVa .pier ((bitsOf b 440 384 + (a - first)) % 2 ^ 64) cut with
      | (s, some e) => (s, some (.mem e))
      | (s, none) => (s, none)

def State.copyLeaves (s : State) (k : Command) (r : RootRec) (verify : Bool) : Nat → Nat → State × Option (Nat × BondEnd)
  | 0, _ => (s, none)
  | n + 1, i =>
    match s.copyLeaf k r verify i with
    | (s, some e) => (s, some (i, e))
    | (s, none) => State.copyLeaves s k r verify n (i + 1)

/-- dkind 2: the image is expanded, or what of it lies in the leaves handled before the failing line. -/
def State.copyBank (s : State) (k : Command) (r : RootRec) (verify : Bool) : Outcome :=
  let dst := bitsOf k.block.toNat 440 384
  let (leaves, stop) := s.bondLeaves r verify ((r.length + 127) / 128) 0
  let bs := leaves.flatten.take r.length
  match stop with
  | none =>
    match expandImage bs false with
    | none => s.bondDone k [(47, toBytes 1 bsImage)]
    | some im =>
      if bankFits dst im.bytes.length then (s.onCore fun c => c.writeIdle dst im.bytes).bondDone k [(47, [0])]
      else s.bondDone k [(47, toBytes 1 bsImage)]
  | some st =>
    let fits := match imageHead bs with | some h => bankFits dst (16 * h.length) | none => false
    (if fits then s.onCore fun c => c.writeIdle dst (expandPrefix bs bs.length) else s).bondDone k [(47, toBytes 1 st)]

def State.workBcopy (s : State) (k : Command) (verify : Bool) : Outcome :=
  let b := k.block.toNat
  let first := bitsOf b 367 320
  let count := bitsOf b 495 448
  match s.bondRoot k (bitsOf b 368 368 == 1) with
  | (s, .error e) => .next (s.memStop k e)
  | (s, .ok x) =>
    let r := rootOf x
    if s.rootRegionBad r then .next (s.failCmd k cBondRegion)
    else if !r.shaped || decide (first + count > r.length) || (bitsOf b 370 369 == 2 && (first != 0 || count != r.length)) then
      s.bondDone k [(47, toBytes 1 bsShape)]
    else if bitsOf b 370 369 = 2 then s.copyBank k r verify
    else
      let start := if k.acc.isEmpty then first / 128 else k.prog
      match s.copyLeaves k r verify ((first + count + 127) / 128 - start) start with
      | (s, none) => s.bondDone k [(47, [0])]
      | (s, some (_, .status st)) => s.bondDone k [(47, toBytes 1 st)]
      | (s, some (i, .mem e)) => .next ((s.onCore fun c => c.mapCmd k.id fun y => { y with prog := i, acc := [x] }).memStop k e)

/-! ### BSWAP (R231, R317, R318) -/

def bswapBad (_ : Core) (b : Nat) : List (Bool × Nat) := [(bitsOf b 63 61 != 0 || bitsOf b 399 399 != 0, cIllegalOperation)]

def execBswap (x : Cmd) (s : State) : Outcome :=
  s.command x (.bswap x) (fun _ => false) bswapBad noTiles true fun _ => false

/-- status stands in bits 60 to 57, beside the slot's top bit. -/
def swapStatus (b st : Nat) : Nat × List Byte := (7, toBytes 1 (bitsOf b 56 56 + 2 * st))

def State.workBswap (s : State) (k : Command) : Outcome :=
  let b := k.block.toNat
  match s.slotPiece (bitsOf b 56 0) true with
  | (s, .error e) => .next (s.memStop k e)
  | (s, .ok p) =>
    let new := rootOf (bitsOf b 511 256)
    if new.mark ≠ 0 ∧ s.rootRegionBad new then .next (s.failCmd k cBondRegion)
    else if !new.shaped then s.bondDone k [swapStatus b bsShape]
    else match s.readPiece p with
      | (s, .error e) => .next (s.memStop k e)
      | (s, .ok bs) =>
        let old := rootOf (leVal bs)
        if s.poisonedAt [p] then .next (s.failCmd k cUncorrectable)
        else if old.mark ≠ bitsOf b 191 64 ∨ old.version ≠ bitsOf b 255 192 then
          s.bondDone k [swapStatus b bsStale, (8, toBytes 16 old.mark), (24, toBytes 8 old.version)]
        else if new.mark ≠ 0 ∧ !s.liveLine new.region new.mark then s.bondDone k [swapStatus b bsDangle]
        else
          let s := if new.mark ≠ 0 then s.addCount new.region new.mark else s
          match s.writePiece p (toBytes 32 (bitsOf b 511 256)) false with
          | (s, some e) => .next (s.memStop k e)
          | (s, none) => (s.queueDrop old.region old.mark).bondDone k [swapStatus b 0]

/-! ### Code-image loads (R235) -/

/-- The bytes of a tree, every line verified, or the status. -/
def State.readTree (s : State) (r : RootRec) : Except Nat (List Byte) :=
  if !r.shaped then .error bsShape
  else match s.bondLeaves r true ((r.length + 127) / 128) 0 with
    | (_, some st) => .error st
    | (leaves, none) => .ok (leaves.flatten.take r.length)

end Sys2Proof.Machine
end

