-- ==== Sys2Proof/Machine/FerryOps.lean ====
section
/-! DEFINITION. The Ferry's exchanges (chapter 08, R179 to R190, R341, R342, R441, R442): FXCH and FRED, and the delivery of
their messages. -/

namespace Sys2Proof.Machine

def cFxKey : Nat := 0x120
def cFxMatch : Nat := 0x121
def cFxBounds : Nat := 0x122
def cFxFenced : Nat := 0x123

/-! ### Blocks (R182, R189) -/

structure FxBlock where
  ptab : Nat
  n    : Nat
  self : Nat
  tag  : BitVec 32
  deriving DecidableEq, Repr

/-- FXCH's tag. -/
def fxchBlock (b : Nat) : FxBlock := ⟨bitsOf b 56 0, bitsOf b 75 64 + 1, bitsOf b 91 80, BitVec.ofNat 32 (bitsOf b 175 144)⟩
/-- FRED's. -/
def fredBlock (b : Nat) : FxBlock := ⟨bitsOf b 56 0, bitsOf b 75 64 + 1, bitsOf b 91 80, BitVec.ofNat 32 (bitsOf b 191 160)⟩

def fxCommonBad (b : Nat) : Bool :=
  bitsOf b 63 57 != 0 || bitsOf b 79 76 != 0 || bitsOf b 95 92 != 0 || decide (bitsOf b 91 80 > bitsOf b 75 64) ||
    bitsOf b 56 0 % 8 != 0

/-- FXCH's block checks (R187): ovf's alignment and place are checked nowhere, and entries go wherever it translates (DESIGN CHOICE, log
85). -/
def fxchBad (_ : Core) (b : Nat) : List (Bool × Nat) :=
  [(fxCommonBad b || bitsOf b 127 126 != 0 || bitsOf b 143 138 != 0 || bitsOf b 191 176 != 0 || bitsOf b 255 249 != 0 ||
      b / 2 ^ 352 != 0, cIllegalOperation)]

def fredBad (_ : Core) (b : Nat) : List (Bool × Nat) :=
  [(fxCommonBad b || bitsOf b 111 108 != 0 || bitsOf b 127 124 != 0 || bitsOf b 159 148 != 0 || b / 2 ^ 192 != 0,
      cIllegalOperation)]

def fxchNamed (payloadOnly : Bool) (b : Nat) : Named :=
  let r := bitsOf b 125 120
  ⟨[bitsOf b 101 96, bitsOf b 107 102, bitsOf b 113 108] ++ (if payloadOnly then [r] else []), [],
    bitsOf b 119 114 :: (if payloadOnly then [] else [r])⟩

/-- Does this position receive the sum? -/
def fredReceives (toRoot : Bool) (b : Nat) : Bool := !toRoot || bitsOf b 91 80 == bitsOf b 123 112

def fredNamed (toRoot : Bool) (b : Nat) : Named :=
  ⟨[bitsOf b 101 96], [], if fredReceives toRoot b then [bitsOf b 107 102] else []⟩

def execFxch (x : Cmd) (s : State) : Outcome :=
  s.command x (.fxch x) (fun _ => false) fxchBad (fxchNamed false) true fun _ => false
def execFxchPayload (x : Cmd) (s : State) : Outcome :=
  s.command x (.fxchPayload x) (fun _ => false) fxchBad (fxchNamed true) true fun _ => false
def execFredAll (x : Cmd) (s : State) : Outcome :=
  s.command x (.fredAll x) (fun _ => false) fredBad (fredNamed false) true fun _ => false
def execFredRoot (x : Cmd) (s : State) : Outcome :=
  s.command x (.fredRoot x) (fun _ => false) fredBad (fredNamed true) true fun _ => false

/-! ### Finding an exchange -/

/-- Run at another core and come back. -/
def State.atCore {α : Type} (s : State) (c : Nat) (f : State → State × α) : State × α :=
  let here := s.core.id
  let (s, x) := f (s.focus c)
  (s.focus here, x)

/-- Is the command the one a message is for: one of its tag under the sender's key, which then stands in the command's peer table
(R442, log 84)? -/
def Command.takes (k : Command) (p : XPkt) : Bool :=
  match k.fx with
  | some x => x.tag == p.tag && x.self == p.dest && x.table.any fun e => e.2.2 == p.key
  | none => false

/-- Is the message's key the one of the receiver's peer table at its source, which the table must have (R180)? -/
def Exchange.admits (x : Exchange) (p : XPkt) : Bool := decide (p.src < x.table.length) && (x.table.getD p.src (0, 0, 0)).2.2 == p.key

/-- Does the core hold the context of a running task (R188)? -/
def Core.resident (c : Core) : Bool := c.part.status != .none && c.part.status != .saved

def State.takers (s : State) (p : XPkt) : List Nat :=
  match s.coreOf p.core with
  | some c => if c.resident then (c.copy.cmds.filter (·.takes p)).map (·.id) else []
  | none => []

/-- The command a message is for; of several with one tag, any (R442). -/
def State.taker (s : State) (p : XPkt) : State × Option Nat :=
  match s.takers p with
  | [] => (s, none)
  | [id] => (s, some id)
  | l => ({ s with fresh := s.fresh + 1 }, l[Config.matchPick s.fresh % l.length]?)

def Exchange.peer (x : Exchange) (i : Nat) : Nat × Nat × BitVec 32 := x.table.getD i (0, 0, 0)

/-- A packet that is dropped: counted and reported (R180, R181). -/
def State.keyError (s : State) (queue src : Nat) : State :=
  ({ s with ferry := { s.ferry with keyErrors := s.ferry.keyErrors + 1 } }).emit ⟨6, queue, 0, BitVec.ofNat 64 src⟩

/-- Is the message one of an exchange of a core of this module? -/
def Exchange.sends (x : Exchange) (addr core : Nat) (p : XPkt) : Bool :=
  p.module == addr && p.sender == core && p.tag == x.tag && p.src == x.self && p.key == (x.peer x.self).2.2

/-- Is a message of an exchange of a core held (R185)? -/
def Ferry.holds (f : Ferry) (core : Nat) (x : Exchange) : Bool := f.held.any (x.sends f.addr core)

def State.dropReport (s : State) (core : Nat) (tag : BitVec 32) : State :=
  { s with ferry := { s.ferry with reports := s.ferry.reports.filter fun r => !(r.core == core && r.tag == tag) } }

/-- A message has been delivered: with the last one that is held, its sender in this module is held no more, and the report of it goes. -/
def State.ackLocal (s : State) (p : XPkt) : State :=
  if p.module = s.ferry.addr ∧ !(s.ferry.held.any fun q => q.module == p.module && q.sender == p.sender && q.tag == p.tag) then
    s.dropReport p.sender p.tag
  else s

/-- A packet of another module is received: a duplicate, known by the sender's packet number, is discarded (R179). In recovery the Ferry
takes and answers nothing (R287). -/
def State.receive (s : State) (module psn : Nat) (f : State → State) : State :=
  if s.pilot.recovery || s.ferry.seen.contains (module, psn) then s
  else f { s with ferry := { s.ferry with seen := (module, psn) :: s.ferry.seen } }

/-! ### Receiving (R183 to R185, R188) -/

/-- What became of a message: it is done with, or is held with what its receiver reports (R185). -/
inductive Delivery where
  | done
  | held (x : Option Exchange)
  deriving DecidableEq, Repr

def Exchange.total (x : Exchange) : Option Nat :=
  x.counts.foldl (fun t c => match t, c with | some t, some n => some (t + n) | _, _ => none) (some 0)

def Exchange.offOf (x : Exchange) (src : Nat) : Nat := (x.counts.take src).foldl (fun t c => t + c.getD 0) 0
def Exchange.capo (x : Exchange) : Nat := if x.esz = 0 then 0 else x.ovbytes / x.esz
def Exchange.placed (x : Exchange) : Nat := x.got.foldl (fun n g => n + g.2.2) 0
def Exchange.disagrees (x : Exchange) (p : XPkt) : Bool := p.npeer != x.table.length || p.esz != x.esz || p.var != x.var
def Exchange.setCount (x : Exchange) (src n : Nat) : Exchange := { x with counts := x.counts.set src (some n) }

def Core.setFx (c : Core) (id : Nat) (x : Exchange) : Core := c.mapCmd id fun k => { k with fx := some x }

/-- A count at the focused core's command. A second count of one source takes FX_MATCH, as counts that disagree do (DESIGN CHOICE, log
85). -/
def State.takeCount (s : State) (k : Command) (x : Exchange) (p : XPkt) : State :=
  if !x.admits p then s.keyError s.taskQueue p.src
  else if x.disagrees p || x.red || (x.counts.getD p.src none).isSome then s.failCmd k cFxMatch
  else
    let n := leVal (p.entries.getD 0 [])
    let y := x.setCount p.src n
    let s := s.onCore fun c => (c.tileWrite (dstAt k 1) (4 * p.src) (toBytes 4 n)).setFx k.id y
    match y.total with
    | some t => if t > 2 ^ 24 then s.failCmd k cFxMatch else s
    | none => s

/-- Write entries to their receive positions from `pos` on. -/
def State.putEntries (s : State) (k : Command) (x : Exchange) : Nat → List (List Byte) → State × Option MemErr
  | _, [] => (s, none)
  | pos, e :: es =>
    let bs := (padTo x.esz e).take x.esz
    if pos < x.capw then State.putEntries (s.onCore fun c => c.tileWrite (dstAt k 0) (pos * x.esz) bs) k x (pos + 1) es
    else match s.writeVa .pier (x.ovf + (pos - x.capw) * x.esz) bs with
      | (s, none) => State.putEntries s k x (pos + 1) es
      | (s, some e) => (s, some e)

/-- The entries placed from a source. -/
def Exchange.gotFrom (x : Exchange) (src : Nat) : Nat := x.got.foldl (fun n g => if g.1 = src then n + g.2.2 else n) 0

/-- A payload message at the focused core's FXCH: placed whole, held until the counts are there, or refused. One that raises
FX_MATCH stays held at its sender (R187). -/
def State.takePayload (s : State) (k : Command) (x : Exchange) (p : XPkt) : State × Delivery :=
  let n := p.entries.length
  let cnt := (x.counts.getD p.src none).getD 0
  if x.total.isNone || k.stop.isSome then (s, .held (some x))
  else if p.seq + n > cnt ∨ x.gotFrom p.src + n > cnt ∨ (p.last ∧ p.seq + n ≠ cnt) then (s.failCmd k cFxMatch, .held (some x))
  else
    let first := x.offOf p.src + p.seq
    if n > 0 ∧ first + n > x.capw + x.capo then (s, .held (some x))
    else
      let past := first + n - Nat.max first x.capw
      match (if first + n > x.capw ∧ n > 0 then
          s.pieces .pier true (past * x.esz + 1) (x.ovf + (Nat.max first x.capw - x.capw) * x.esz) (past * x.esz) else (s, .ok [])) with
      | (s, .error e) => (s.memStop k e, .held (some x))
      | (s, .ok _) =>
        match s.putEntries k x first p.entries with
        | (s, some e) => (s.memStop k e, .held (some x))
        | (s, none) =>
          let y := { x with got := (p.src, p.seq, n) :: x.got, spill := x.spill + (if n = 0 then 0 else past) }
          ((s.onCore fun c => c.setFx k.id y).ackLocal p, .done)

/-- A contribution at the focused core's FRED; a second one of a source's position takes FX_MATCH (R190, R442). -/
def State.takePart (s : State) (k : Command) (x : Exchange) (p : XPkt) : State × Delivery :=
  let n := p.entries.length
  if x.parts.any (fun q => q.1 == p.src && q.2.1 == p.seq) then (s.failCmd k cFxMatch, .held (some x))
  else if p.seq + n > x.esz ∨ (p.last ∧ p.seq + n ≠ x.esz) then (s.failCmd k cFxMatch, .held (some x))
  else
    let y := { x with parts := (p.src, p.seq, p.entries) :: x.parts }
    ((s.onCore fun c => c.setFx k.id y).ackLocal p, .done)

/-- The contexts that are saved, or stand ready to be. -/
def State.savedContexts (s : State) : List Core := (s.cores.filter fun c => c.part.status == .saved) ++ s.hm.tasks.flatMap (·.saved)

/-- The saved command a message is for (R188). -/
def State.savedTaker (s : State) (p : XPkt) : Option Exchange :=
  s.savedContexts.findSome? fun c => if c.id = p.core then (c.copy.cmds.find? (·.takes p)).bind (·.fx) else none

/-- Counts known for a saved receiver: its own and those kept. -/
def State.withKept (s : State) (x : Exchange) (core : Nat) : Exchange :=
  s.ferry.keptCount.foldl (fun x p =>
    if p.core = core ∧ p.tag = x.tag ∧ p.dest = x.self ∧ x.admits p then x.setCount p.src (leVal (p.entries.getD 0 [])) else x) x

/-- A message for a receiver that is not resident is kept when all its positions lie in the overflow region, as those of an empty
message do; else it is refused (R188). -/
def State.keepPayload (s : State) (p : XPkt) : State × Delivery :=
  match s.savedTaker p with
  | none => (s, .held none)
  | some x =>
    let x := s.withKept x p.core
    let first := x.offOf p.src + p.seq
    let n := p.entries.length
    if !x.admits p then (s.keyError 0 p.src, .done)
    else if x.red || x.total.isNone || x.disagrees p then (s, .held (some x))
    else if n > 0 ∧ (first < x.capw ∨ first + n > x.capw + x.capo) then (s, .held (some x))
    else (({ s with ferry := { s.ferry with keptData := s.ferry.keptData ++ [p] } }).ackLocal p, .done)

/-- Try to deliver a payload message (R180, R184, R185). -/
def State.tryPayload (s : State) (p : XPkt) : State × Delivery :=
  if s.ferry.revoked.contains p.key then (s.keyError 0 p.src, .done)
  else match s.taker p with
    | (s, none) => s.keepPayload p
    | (s, some id) =>
      s.atCore p.core fun s =>
        match s.cmd id with
        | none => (s, .held none)
        | some k =>
          match k.fx with
          | none => (s, .held none)
          | some x =>
            if !x.admits p then (s.keyError s.taskQueue p.src, .done)
            else if x.disagrees p then (s.failCmd k cFxMatch, .held (some x))
            else if x.red then s.takePart k x p
            else s.takePayload k x p

/-- What a receiver says of a refused message. One that has no command of its tag reports zeros (DESIGN CHOICE, log 85). -/
def refusalOf (p : XPkt) (x : Option Exchange) : RefusalRpt :=
  let at' (f : Exchange → Nat) : Nat := (x.map f).getD 0
  ⟨p.tag, p.sender, p.dest, at' fun x => x.total.getD 0, at' Exchange.capw, at' Exchange.capo, at' Exchange.placed⟩

/-- The report of a refusal goes to its sender (R185). -/
def State.report (s : State) (p : XPkt) (x : Option Exchange) : State :=
  let r := refusalOf p x
  if p.module = s.ferry.addr then
    { s with ferry := { s.ferry with
      reports := r :: s.ferry.reports.filter fun y => !(y.core == r.core && y.tag == r.tag) } }
  else
    let key := match x with | some x => (x.peer x.self).2.2 | none => p.key
    let h := s.ferry.header p.module key p.dest p.tag (BitVec.ofNat 32 p.seq)
    { s with ferry := { s.ferry with psn := s.ferry.psn + 1, sent := s.ferry.sent ++ [Sent.refusal p.module h r] } }

/-- The report of a message that is refused again: where it says something new. -/
def State.reportAgain (s : State) (p : XPkt) (x : Option Exchange) : State :=
  let last := s.ferry.sent.reverse.findSome? fun y => match y with
    | .refusal m _ r => if m = p.module ∧ r.tag = p.tag ∧ r.core = p.sender ∧ r.pos = p.dest then some r else none
    | _ => none
  if p.module ≠ s.ferry.addr ∧ last = some (refusalOf p x) then s else s.report p x

def State.holdMessage (s : State) (p : XPkt) : State := { s with ferry := { s.ferry with held := s.ferry.held ++ [p] } }

/-- A payload message arrives. -/
def State.arrivePayload (s : State) (p : XPkt) : State :=
  match s.tryPayload p with
  | (s, .done) => s
  | (s, .held x) => (s.holdMessage p).report p x

/-- Is a message that is held one that a context of this list sends? -/
def State.sentBy (s : State) (p : XPkt) (l : List Core) : Bool :=
  l.any fun c => c.copy.cmds.any fun k => match k.fx with | some x => x.sends s.ferry.addr c.id p | none => false

/-- Is the message's sender a context of this module that is saved? What it had held is withdrawn until its restore (R188,
R277). -/
def State.withdrawn (s : State) (p : XPkt) : Bool := s.sentBy p s.savedContexts

/-- Has the message's sender in this module ended its exchange, retired or killed? The message had not begun, and never does (R188,
R277). -/
def State.orphaned (s : State) (p : XPkt) : Bool :=
  p.module == s.ferry.addr && !s.sentBy p (s.cores.filter Core.resident) && !s.withdrawn p

/-- Held messages proceed once their positions can be placed; those that are refused anew stay held, and are reported (R185). -/
def State.retryList (s : State) : List XPkt → State
  | [] => s
  | p :: r =>
    if s.withdrawn p then State.retryList s r
    else
      match ({ s with ferry := { s.ferry with held := s.ferry.held.erase p } }).tryPayload p with
      | (s, .done) => State.retryList s r
      | (s, .held x) => State.retryList ((s.holdMessage p).reportAgain p x) r

def sameFlush (m n : MarkerPkt) : Bool :=
  m.key == n.key && m.module == n.module && m.anchor == n.anchor && m.epoch == n.epoch

/-- Is a flush complete: are all its markers there, and is every payload performed that its module sent before them (R209)? -/
def Ferry.flushed (f : Ferry) (m : MarkerPkt) : Bool :=
  let got := f.markers.filter (sameFlush m)
  decide (got.length > m.paths.toNat) && !(f.held.any fun p => p.module == m.module && p.key == m.key && decide (p.psn < m.psn))

def Ferry.sendAcks (f : Ferry) : List (Nat × BitVec 32 × BitVec 32) → Ferry
  | [] => f
  | (m, key, epoch) :: r =>
    { f with psn := f.psn + 1, sent := f.sent ++ [Sent.ack m (f.header m key 0 epoch 0) epoch] }.sendAcks r

/-- Acknowledge the flushes that are complete. -/
def Ferry.ackFlushes (f : Ferry) : Ferry :=
  let done := f.markers.filter f.flushed
  { f with markers := f.markers.filter fun n => !f.flushed n }.sendAcks (done.map fun (m : MarkerPkt) => (m.module, m.key, m.epoch)).eraseDups

/-- A message held for an exchange that its sender has ended is dropped. -/
def State.dropOrphans (s : State) : State :=
  { s with ferry := { s.ferry with held := s.ferry.held.filter fun p => !s.orphaned p } }

def State.retryHeld (s : State) : State :=
  let s := s.dropOrphans
  let s := s.retryList s.ferry.held
  { s with ferry := s.ferry.ackFlushes }

/-- Deliver a count; none when no command of its tag is outstanding at a resident context. -/
def State.tryCount (s : State) (p : XPkt) : Option State :=
  if s.ferry.revoked.contains p.key then some (s.keyError 0 p.src)
  else match s.taker p with
    | (_, none) => none
    | (s, some id) =>
      some (s.atCore p.core fun s =>
        match s.cmd id with
        | none => (s, ())
        | some k => match k.fx with
          | some x => (s.takeCount k x p, ())
          | none => (s, ())).1

/-- A count message arrives: matched, or kept (R183, R442). -/
def State.arriveCount (s : State) (p : XPkt) : State :=
  match s.tryCount p with
  | some s => s.retryHeld
  | none => { s with ferry := { s.ferry with keptCount := s.ferry.keptCount ++ [p] } }

/-- Messages kept for an exchange are delivered once it can take them; what was kept for an exchange that has ended goes with it. -/
def State.absorbKept (s : State) : State :=
  let counts := s.ferry.keptCount
  let s := counts.foldl State.arriveCount { s with ferry := { s.ferry with keptCount := [] } }
  let data := s.ferry.keptData
  let s := { s with ferry := { s.ferry with keptData := [] } }
  let s := data.foldl (fun s p =>
    if (s.takers p).isEmpty && (s.savedTaker p).isNone then s
    else match s.tryPayload p with
      | (s, .done) => s
      | (s, _) => { s with ferry := { s.ferry with keptData := s.ferry.keptData ++ [p] } }) s
  s.retryHeld

/-! ### Sending (R180, R184) -/

/-- The peer table, its keys checked: the position's own (R180) and the revoked ones (R181). -/
def State.peerTable (s : State) (f : FxBlock) : State × Except MemErr (List (Nat × Nat × BitVec 32)) :=
  chain (s.readVa .pier f.ptab (8 * f.n)) fun s bs =>
    let tab := (List.range f.n).map fun i =>
      let e := leVal ((bs.drop (8 * i)).take 8)
      (bitsOf e 15 0, bitsOf e 23 16, BitVec.ofNat 32 (bitsOf e 63 32))
    let key := (s.task.map (·.key)).getD 0
    if (tab.getD f.self (0, 0, 0)).2.2 ≠ key then (s, .error (.fatal cFxKey))
    else if tab.any fun e => s.ferry.revoked.contains e.2.2 then (s, .error (.fatal cFxFenced))
    else (s, .ok tab)

/-- The packet of a core's message to position d. -/
def Ferry.fxPacket (f : Ferry) (core : Nat) (paths : List (BitVec 4)) (x : Exchange) (d seq : Nat) (last : Bool) (entries : List (List Byte)) : XPkt :=
  ⟨f.addr, f.psn, paths, (x.peer x.self).2.2, x.self, core, (x.peer d).2.1, d, x.tag, seq, last, x.table.length, x.esz, x.var, entries⟩

/-- The paths the Ferry sprays a message over: any set of 1 to 16 (R184). -/
def State.sprayPaths (s : State) (m : Nat) : State × List (BitVec 4) :=
  let ps := ((List.range 16).map fun i => s.ferry.pathFor m (Config.ferryPath (2 * (16 * s.fresh + i) + 1))).eraseDups
  (({ s with fresh := s.fresh + 1 }).mapTask s.core.part.task fun t =>
    { t with paths := ps.foldl (fun l p => if l.contains (m, p) then l else (m, p) :: l) t.paths }, ps)

def Ferry.nextPsn (f : Ferry) : Ferry := { f with psn := f.psn + 1 }

/-- Send one message of the focused core's command: it is delivered in this module, or travels. -/
def State.sendMessage (s : State) (id : Nat) (x : Exchange) (d seq : Nat) (last : Bool) (entries : List (List Byte)) : State :=
  let m := (x.peer d).1
  if m = s.ferry.addr then
    let p := s.ferry.fxPacket s.core.id [] x d seq last entries
    ({ s with ferry := s.ferry.nextPsn }).arrivePayload p
  else
    let s := s.onCore fun c => c.mapCmd id fun k => { k with fx := k.fx.map fun y => { y with unacked := y.unacked + 1 } }
    let (s, ps) := s.sprayPaths m
    { s with ferry := { s.ferry with psn := s.ferry.psn + 1, sent := s.ferry.sent ++ [Sent.payload id m (s.ferry.fxPacket s.core.id ps x d seq last entries)] } }

/-- Send entries to a position in messages of at most `per` entries, the last one marked (R183, R184). Every message but the last is filled
(DESIGN CHOICE, log 85: R184 gives only the limit). -/
def State.sendAll (s : State) (id : Nat) (x : Exchange) (d per : Nat) : Nat → Nat → List (List Byte) → State
  | 0, _, _ => s
  | fuel + 1, seq, es =>
    if es.length ≤ per then s.sendMessage id x d seq true es
    else State.sendAll (s.sendMessage id x d seq false (es.take per)) id x d per fuel (seq + per) (es.drop per)

/-! ### FXCH (R182 to R186) -/

def n32s (bs : List Byte) (n : Nat) : List Nat := (List.range n).map fun i => leVal ((bs.drop (4 * i)).take 4)

/-- The send side's checks and entries: send counts and, in send order, the entries; R187's bounds. -/
def Core.sendPlan (c : Core) (k : Command) (n esz : Nat) (rct : TileRef) : Except Nat (List Nat × List (List Byte)) :=
  let st := srcAt k 0
  let pt := srcAt k 1
  let ct := srcAt k 2
  if ct.bytes < 4 * n ∨ rct.bytes < 4 * n then .error cFxBounds
  else
    let counts := n32s (c.tileRead ct 0 (4 * n)) n
    let total := counts.foldl (· + ·) 0
    if total > 65536 ∨ pt.bytes < 4 * total then .error cFxBounds
    else
      let order := n32s (c.tileRead pt 0 (4 * total)) total
      if order.any fun i => decide (i ≥ st.bytes / esz) then .error cFxBounds
      else if c.tilePoison ct 0 (4 * n) || c.tilePoison pt 0 (4 * total) || order.any (fun i => c.tilePoison st (i * esz) esz) then
        .error cUncorrectable
      else .ok (counts, order.map fun i => c.tileRead st (i * esz) esz)

/-- FXCH begins: counts to every position, then every message, each but the last filled to the limit of R184 (DESIGN CHOICE, unsafe: log
85). -/
def State.startFxch (s : State) (k : Command) (var : Nat) : Outcome :=
  let b := k.block.toNat
  let f := fxchBlock b
  let esz := 4 * (bitsOf b 137 128 + 1)
  let rct := if var = 0 then dstAt k 1 else srcAt k 3
  match s.peerTable f with
  | (s, .error e) => .next (s.memStop k e)
  | (s, .ok tab) =>
    match s.core.sendPlan k f.n esz rct with
    | .error code => .next (s.failCmd k code)
    | .ok (counts, entries) =>
      let recv := if var = 0 then List.replicate f.n none else (n32s (s.core.tileRead rct 0 (4 * f.n)) f.n).map some
      let x : Exchange := ⟨false, f.tag, f.self, tab, esz, var, 0, recv, (dstAt k 0).bytes / esz, bitsOf b 248 192,
        k.acc.headD (bitsOf b 287 256), [], 0, [], 0⟩
      if (x.total.getD 0) > 2 ^ 24 then .next (s.failCmd k cFxMatch)
      else
        let s := s.dropOrphans.onCore fun c => c.setFx k.id x
        let count (s : State) (d : Nat) : State :=
          let m := (x.peer d).1
          let es := [toBytes 4 (counts.getD d 0)]
          if m = s.ferry.addr then ({ s with ferry := s.ferry.nextPsn }).arriveCount (s.ferry.fxPacket s.core.id [] x d 0 false es)
          else
            let path := s.ferry.pathFor m (Config.ferryPath (2 * (16 * s.fresh) + 1))
            { s with fresh := s.fresh + 1, ferry := { s.ferry with psn := s.ferry.psn + 1, sent := s.ferry.sent ++ [Sent.count m (s.ferry.fxPacket s.core.id [path] x d 0 false es)] } }
        let s := if var = 0 then (List.range f.n).foldl count s else s
        let send (a : State × List (List Byte)) (d : Nat) : State × List (List Byte) :=
          let n := counts.getD d 0
          (a.1.sendAll k.id x d (Nat.max 1 (16384 / esz)) (n + 1) 0 (a.2.take n), a.2.drop n)
        .next ((List.range f.n).foldl send (s, entries)).1.absorbKept

/-- Does the table hold a revoked key? -/
def State.fenced (s : State) (x : Exchange) : Bool := x.table.any fun e => s.ferry.revoked.contains e.2.2

/-- FXCH's work: it begins; then it completes once every message is acknowledged and all T entries are placed. -/
def State.workFxch (s : State) (k : Command) (var : Nat) : Outcome :=
  match k.fx with
  | none => s.startFxch k var
  | some x =>
    if s.fenced x then .next (s.failCmd k cFxFenced)
    else
      let t := s.absorbKept
      match (t.cmd k.id).bind (·.fx) with
      | none => .next t
      | some y =>
        if y.unacked = 0 ∧ !t.ferry.holds t.core.id y ∧ y.total = some y.placed then
          (t.onCore fun c => c.writeBack k [(36, toBytes 4 y.placed), (40, toBytes 4 y.spill)]).completeCmd k
        else if t.ferry.held.length < s.ferry.held.length ∨ t.ferry.keptCount.length < s.ferry.keptCount.length ∨
            t.ferry.keptData.length < s.ferry.keptData.length ∨ ((t.cmd k.id).bind (·.stop)).isSome then .next t
        else .refused (.notEnabled "COMMAND_COMPLETE")

/-! ### FRED (R189, R190, R341) -/

/-- The order that picks make of what remains. -/
def permute (run : Nat) : Nat → Nat → List Nat → List Nat
  | 0, _, _ => []
  | n + 1, i, l =>
    let j := Config.fredPick run i % l.length
    l.getD j 0 :: permute run n (i + 1) (l.eraseIdx j)

/-- Element e of source i. -/
def Exchange.elem (x : Exchange) (i e : Nat) : List Byte :=
  match x.parts.find? fun p => p.1 == i && decide (p.2.1 ≤ e) && decide (e < p.2.1 + p.2.2.length) with
  | some p => p.2.2.getD (e - p.2.1) []
  | none => []

/-- R190: the sum of an element; the order it is drawn in is free. -/
def Exchange.sum (x : Exchange) (e : Nat) : List Byte :=
  match permute (x.run * 2 ^ 20 + e) x.table.length 0 (List.range x.table.length) with
  | [] => []
  | [i] => x.elem i e
  | i :: r =>
    let v (i : Nat) : Num := decodeNum 1 (leVal (x.elem i e))
    toBytes 4 (roundRne 1 (r.foldl (fun a j => roundF32 (Num.add 0 a (v j))) (v i)))

def Exchange.partsOf (x : Exchange) (i : Nat) : Nat := x.parts.foldl (fun n p => if p.1 = i then n + p.2.2.length else n) 0

/-- FRED begins: its contribution goes to every position, or to the root. A root beyond the table names no position, and nothing is sent
(DESIGN CHOICE, log 85). -/
def State.startFred (s : State) (k : Command) (toRoot : Bool) : Outcome :=
  let b := k.block.toNat
  let f := fredBlock b
  let n := bitsOf b 147 128 + 1
  let receives := fredReceives toRoot b
  match s.peerTable f with
  | (s, .error e) => .next (s.memStop k e)
  | (s, .ok tab) =>
    if (srcAt k 0).bytes < 4 * n ∨ (receives ∧ (dstAt k 0).bytes < 4 * n) then .next (s.failCmd k cFxBounds)
    else if s.core.tilePoison (srcAt k 0) 0 (4 * n) then .next (s.failCmd k cUncorrectable)
    else
      let others := s.allCores.flatMap fun c => c.copy.cmds.filterMap fun j => j.fx
      let s := { s with fresh := s.fresh + 1 }
      let run := match others.find? fun y => y.red && y.tag == f.tag && y.table == tab with
        | some y => y.run
        | none => s.fresh
      let x : Exchange := ⟨true, f.tag, f.self, tab, n, if toRoot then 3 else 2, 0, [], 0, 0, 0, [], 0, [], run⟩
      let s := s.dropOrphans.onCore fun c => c.setFx k.id x
      let bs := s.core.tileRead (srcAt k 0) 0 (4 * n)
      let es := (List.range n).map fun e => (bs.drop (4 * e)).take 4
      let dests := (List.range f.n).filter fun d => !toRoot || d == bitsOf b 123 112
      .next (dests.foldl (fun s d => s.sendAll k.id x d 4096 (n + 1) 0 es) s).absorbKept

def State.workFred (s : State) (k : Command) (toRoot : Bool) : Outcome :=
  let b := k.block.toNat
  match k.fx with
  | none => s.startFred k toRoot
  | some x =>
    if s.fenced x then .next (s.failCmd k cFxFenced)
    else
      let t := s.absorbKept
      match (t.cmd k.id).bind (·.fx) with
      | none => .next t
      | some y =>
        let receives := fredReceives toRoot b
        let all := (List.range y.table.length).all fun i => y.partsOf i == y.esz
        if y.unacked = 0 ∧ !t.ferry.holds t.core.id y ∧ (!receives || all) then
          (if receives then t.onCore fun c => c.tileWrite (dstAt k 0) 0 ((List.range y.esz).map y.sum).flatten else t).completeCmd k
        else if t.ferry.held.length < s.ferry.held.length then .next t
        else .refused (.notEnabled "COMMAND_COMPLETE")

end Sys2Proof.Machine
end

