-- ==== Sys2Proof/Machine/UpdateOps.lean ====
section
/-! DEFINITION. The Crane's CUPD (R168 to R175, R332) and FBKT (R176 to R178, R339). -/

namespace Sys2Proof.Machine

/-! ### The block (R169) -/

structure CupdBlock where
  tdesc  : Nat
  iw     : Bool
  n      : Nat
  skip   : Bool
  bucket : Bool
  lr     : Num
  eps    : Num
  beta1  : Num
  beta2  : Num
  bc1    : Num
  bc2    : Num
  deriving DecidableEq, Repr

def cupdBlock (b : Nat) : CupdBlock :=
  let f (lo : Nat) : Num := decodeNum 1 (bitsOf b (lo + 31) lo)
  ⟨bitsOf b 56 0, bitsOf b 70 70 == 1, bitsOf b 95 80 + 1, bitsOf b 96 96 == 1, bitsOf b 97 97 == 1, f 128, f 160, f 192, f 224,
    f 256, f 288⟩

def cupdBad (_ : Core) (b : Nat) : List (Bool × Nat) :=
  [(bitsOf b 63 57 != 0 || bitsOf b 71 71 != 0 || bitsOf b 79 78 != 0 || bitsOf b 127 98 != 0 || b / 2 ^ 352 != 0 ||
      bitsOf b 56 0 % 64 != 0, cIllegalOperation)]

def cupdNamed (b : Nat) : Named := ⟨[bitsOf b 69 64, bitsOf b 77 72], [], []⟩

def State.execCupd (s : State) (x : Cmd) (op : Instr) : Outcome :=
  s.command x op (fun _ => false) cupdBad cupdNamed false fun _ => false

def execCupdSgd (x : Cmd) (s : State) : Outcome := s.execCupd x (.cupdSgd x)
def execCupdAdagrad (x : Cmd) (s : State) : Outcome := s.execCupd x (.cupdAdagrad x)
def execCupdRowwiseAdagrad (x : Cmd) (s : State) : Outcome := s.execCupd x (.cupdRowwiseAdagrad x)
def execCupdAdam (x : Cmd) (s : State) : Outcome := s.execCupd x (.cupdAdam x)

/-! ### Coalescing (R171) -/

/-- A distinct row of U: its number, its summed gradient, and whether any of it is poisoned. -/
structure Grad where
  row : Nat
  g   : List Num
  bad : Bool
  deriving DecidableEq, Repr

def f32s (bs : List Byte) (n : Nat) : List Num := (List.range n).map fun i => decodeNum 1 (leVal ((bs.drop (4 * i)).take 4))

def addGrad (u : List Grad) (x : Grad) : List Grad :=
  if u.any fun y => y.row == x.row then
    u.map fun y => if y.row = x.row then
      { y with g := (List.zip y.g x.g).map fun p => roundF32 (Num.add 0 p.1 p.2), bad := y.bad || x.bad } else y
  else u ++ [x]

/-- U over n gradient rows from row j on. -/
def Core.coalesce (c : Core) (k : Command) (b : CupdBlock) (d : TableDesc) : Nat → Nat → List Grad → Except MemErr (List Grad)
  | 0, _, u => .ok u
  | n + 1, j, u =>
    match c.lookupIndex (srcAt k 0) b.iw j with
    | .error e => .error e
    | .ok x =>
      match rowOf d b.skip x with
      | .error e => .error e
      | .ok none => Core.coalesce c k b d n (j + 1) u
      | .ok (some r) =>
        let gt := srcAt k 1
        let off := j * strideOf (4 * d.dim)
        if off + 4 * d.dim > gt.bytes then .error (.fatal cLkBag)
        else
          Core.coalesce c k b d n (j + 1)
            (addGrad u ⟨r, f32s (c.tileRead gt off (4 * d.dim)) d.dim, c.tilePoison gt off (4 * d.dim)⟩)

/-! ### The step (R173) -/

/-- A row's values: weights and side values. -/
structure RowVals where
  w : List Num
  a : List Num
  b : List Num
  deriving DecidableEq, Repr

def mulN (x y : Num) : Num := Num.mul x y
def subR (x y : Num) : Num := roundF32 (Num.add 0 x y.neg)
def addR (x y : Num) : Num := roundF32 (Num.add 0 x y)
def divR (x y : Num) : Num := decodeNum 1 (rneDiv 1 x y)
def sqrtR (x : Num) : Num := decodeNum 1 (rneSqrt 1 x)
def one32 : Num := .fin false 1 0

/-- w − (lr·g) / (√G + eps), each line rounded once. -/
def adaStep (b : CupdBlock) (w lg gg : Num) : Num := subR w (divR lg (addR (sqrtR gg) b.eps))

def zip3 (x y z : List Num) : List (Num × Num × Num) := List.zip x (List.zip y z)

/-- The step of a variant on a row. -/
def stepRow (variant : Nat) (b : CupdBlock) (v : RowVals) (g : List Num) : RowVals :=
  match variant with
  | 0 => { v with w := (List.zip v.w g).map fun p => subR p.1 (mulN b.lr p.2) }
  | 1 =>
    let gs := (List.zip v.a g).map fun p => addR p.1 (mulN p.2 p.2)
    { v with a := gs, w := (zip3 v.w g gs).map fun p => adaStep b p.1 (roundF32 (mulN b.lr p.2.1)) p.2.2 }
  | 2 =>
    let sum := g.foldl (fun s x => addR s (mulN x x)) (.fin false 0 0)
    let gg := addR (v.a.getD 0 (.fin false 0 0)) (divR sum (.fin false g.length 0))
    { v with a := [gg], w := (List.zip v.w g).map fun p => adaStep b p.1 (roundF32 (mulN b.lr p.2)) gg }
  | _ =>
    let a1 := subR one32 b.beta1
    let a2 := subR one32 b.beta2
    let m := (List.zip v.a g).map fun p => addR (roundF32 (mulN b.beta1 p.1)) (mulN a1 p.2)
    let u := (List.zip v.b g).map fun p => addR (roundF32 (mulN b.beta2 p.1)) (mulN (mulN a2 p.2) p.2)
    { a := m, b := u
      w := (zip3 v.w m u).map fun p => adaStep b p.1 (roundF32 (mulN b.lr (divR p.2.1 b.bc1))) (divR p.2.2 b.bc2) }

/-- Bytes of a side row of table 1 or 2 under a variant (R168). -/
def sideBytes (variant dim which : Nat) : Nat :=
  match variant, which with
  | 1, 1 => 4 * dim
  | 2, 1 => 4
  | 3, _ => 4 * dim
  | _, _ => 0

/-! ### CUPD's work -/

/-- The pieces of a row's bytes for writing, behind its home Quay. -/
def State.rowPieces (s : State) (d : TableDesc) (r base stride n : Nat) : State × Except MemErr (List Piece) :=
  chain (s.pieces .deck true (n + 1) (d.at' base stride r) n) fun s ps =>
    if d.placed r ps then (s, .ok ps) else (s, .error (.fatal cLkPlace))

/-- A row that a CUPD has written: performed, or staged while the node is contained, at the cost of its lines (R159, R274). -/
def State.writeRow (s : State) (r : StagedRow) : State :=
  match s.task with
  | none => s.performRow r
  | some t =>
    if s.contained t then
      let lines := r.home.foldl (fun l x => addLines l x.1 x.2) t.lines
      if lines.length * 128 > 16 * 2 ^ 20 then (s.uncontain t.num).performRow r
      else s.mapTask t.num fun t => { t with stagedRows := r :: t.stagedRows.filter fun x => x.key != r.key, lines := lines }
    else s.performRow r

/-- One row of U: its unit of work (R172, R175). Everything is translated before anything is written. -/
def State.cupdOne (s : State) (k : Command) (variant : Nat) (b : CupdBlock) (d : TableDesc) (x : Grad) : State × Option MemErr :=
  let n1 := sideBytes variant d.dim 1
  let n2 := sideBytes variant d.dim 2
  let hot := s.hotRow d x.row
  let s := if hot.isSome then s else s.settleBack (d.key x.row)
  let plan := chain (if hot.isSome then (s, .ok []) else s.rowPieces d x.row d.base d.rstr d.rowSize) fun s pw =>
    chain (s.rowPieces d x.row d.s1 d.sstr n1) fun s p1 =>
      chain (s.rowPieces d x.row d.s2 d.sstr n2) fun s p2 =>
        let side := s.poisonedAt (p1 ++ p2) || x.bad
        chain (match hot with | some h => (s, .ok (h.2.1, h.2.2)) | none => s.readHome d x.row pw) fun s row =>
          let (bw, bad) := (row.1, row.2 || side)
          chain (s.readPieces p1) fun s b1 =>
            chain (s.readPieces p2) fun s b2 => (s, .ok (pw, p1, p2, bad, RowVals.mk (f32s bw d.dim) (f32s b1 (n1 / 4)) (f32s b2 (n2 / 4))))
  match plan with
  | (s, .error e) => (s, some e)
  | (s, .ok (pw, p1, p2, bad, v)) =>
    let v := stepRow variant b v x.g
    let s := match hot with
      | some (home, _, _) => s.writeRow ⟨d.key x.row, home, f32Bytes v.w, bad, true⟩
      | none =>
        let s := (s.writePieces bad pw (f32Bytes v.w)).1
        (s.hinted pw (4 + d.pri)).writeRow ⟨d.key x.row, pw.map fun (p : Piece) => (p.pa, p.len), f32Bytes v.w, bad, false⟩
    let s := (s.writePieces bad p1 (f32Bytes v.a)).1
    let s := (s.writePieces bad p2 (f32Bytes v.b)).1
    (s.onCore fun c => c.mapCmd k.id fun y => { y with prog := y.prog + 1 }, none)

def cupdDescBad (variant : Nat) (d : TableDesc) : Bool :=
  d.fmt != 1 || (variant != 0 && d.s1 == 0) || (variant == 3 && d.s2 == 0)

def State.workCupd (s : State) (k : Command) (variant : Nat) : Outcome :=
  let b := cupdBlock k.block.toNat
  match chain (s.readTableDesc .deck b.tdesc (cupdDescBad variant)) (fun s d =>
      if d.bonded then (s, .error (.fatal cLkDesc)) else (s, .ok d)) with
  | (s, .error e) => .next (s.memStop k e)
  | (s, .ok d) =>
    match s.core.coalesce k b d (paddedRows b.bucket k.pad b.n) 0 [] with
    | .error e => .next (s.memStop k e)
    | .ok u =>
      s.workUnits k u.length (fun s i => s.cupdOne k variant b d (u.getD i ⟨0, [], false⟩)) fun s =>
        (s.onCore fun c => c.writeBack k [(40, toBytes 4 u.length)]).completeCmd k

/-! ### FBKT (R176 to R178, R339) -/

def cFbTable : Nat := 0x118
def cFbIndex : Nat := 0x119

def fbktBad (variant : Nat) (_ : Core) (b : Nat) : List (Bool × Nat) :=
  [(bitsOf b 63 57 != 0 || bitsOf b 95 90 != 0 || bitsOf b 127 124 != 0 || b / 2 ^ 152 != 0 ||
      (variant == 1 && bitsOf b 56 0 % 8 != 0), cIllegalOperation)]

def fbktNamed (b : Nat) : Named :=
  ⟨[bitsOf b 69 64], [], [bitsOf b 77 72, bitsOf b 83 78] ++ (if bitsOf b 71 71 = 1 then [bitsOf b 89 84] else [])⟩

def State.execFbkt (s : State) (x : Cmd) (variant : Nat) (op : Instr) : Outcome :=
  s.command x op (fun _ => true) (fbktBad variant) fbktNamed false fun _ => false

def execFbktMod (x : Cmd) (s : State) : Outcome := s.execFbkt x 0 (.fbktMod x)
def execFbktRange (x : Cmd) (s : State) : Outcome := s.execFbkt x 1 (.fbktRange x)
def execFbktHash (x : Cmd) (s : State) : Outcome := s.execFbkt x 2 (.fbktHash x)

/-- All indices of a tile. -/
def Core.indices (c : Core) (t : TileRef) (iw : Bool) : Nat → Nat → Except MemErr (List Nat)
  | 0, _ => .ok []
  | n + 1, j =>
    match c.indexAt t iw j with
    | .error e => .error e
    | .ok x =>
      match Core.indices c t iw n (j + 1) with
      | .error e => .error e
      | .ok r => .ok (x :: r)

def ascending : List Nat → Bool
  | a :: b :: r => decide (a < b) && ascending (b :: r)
  | _ => true

/-- Position of the last boundary at or below x. -/
def lastBelow (tab : List Nat) (x : Nat) : Nat := (tab.filter (· ≤ x)).length - 1

/-- R177: destination and local index. -/
def fbktMap (variant table npeer : Nat) (tab : List Nat) (x : Nat) : Nat × Nat :=
  match variant with
  | 0 => (x % npeer, x / npeer)
  | 1 => let c := lastBelow tab x; (c, x - tab.getD c 0)
  | _ => (sketchHash 0 (table * 2 ^ 40 + x) % npeer, x)

def State.workFbkt (s : State) (k : Command) (variant : Nat) : Outcome :=
  let b := k.block.toNat
  let iw := bitsOf b 70 70 == 1
  let n := bitsOf b 111 96 + 1
  let npeer := bitsOf b 123 112 + 1
  let w := if iw then 8 else 4
  match (if variant = 1 then s.readVa .deck (bitsOf b 56 0) (8 * npeer) else (s, .ok [])) with
  | (s, .error e) => .next (s.memStop k e)
  | (s, .ok bs) =>
    let tab := if variant = 1 then (List.range npeer).map fun i => leVal ((bs.drop (8 * i)).take 8) else []
    if variant = 1 ∧ (tab.getD 0 0 ≠ 0 ∨ !ascending tab) then .next (s.failCmd k cFbTable)
    else match s.core.indices (srcAt k 0) iw n 0 with
      | .error e => .next (s.memStop k e)
      | .ok xs =>
        if variant = 2 ∧ xs.any (fun x => x / 2 ^ 40 != 0) then .next (s.failCmd k cFbIndex)
        else if 4 * n > (dstAt k 0).bytes ∨ 4 * npeer > (dstAt k 1).bytes ∨ (bitsOf b 71 71 = 1 ∧ w * n > (dstAt k 2).bytes) then
          .next (s.failCmd k cLkBag)
        else
          let ms := xs.map (fbktMap variant (bitsOf b 151 128) npeer tab)
          let perm := (List.range npeer).flatMap fun d => ((numbered 0 ms).filter fun p => p.2.1 == d).map (·.1)
          let counts := (List.range npeer).map fun d => (ms.filter fun m => m.1 == d).length
          let bad := s.core.tilePoison (srcAt k 0) 0 (w * n)
          let s := s.onCore fun c =>
            let c := c.tileWrite (dstAt k 0) 0 (perm.map (toBytes 4)).flatten bad
            let c := c.tileWrite (dstAt k 1) 0 (counts.map (toBytes 4)).flatten bad
            if bitsOf b 71 71 = 1 then
              c.tileWrite (dstAt k 2) 0 (perm.map fun j => toBytes w ((ms.getD j (0, 0)).2)).flatten bad
            else c
          s.completeCmd k

end Sys2Proof.Machine
end

