-- ==== Sys2Proof/Machine/Engines.lean ====
section
/-! DEFINITION. COMMAND_COMPLETE: the work of a command that a copy unit holds, and its completion (R206, R294, R448). -/

namespace Sys2Proof.Machine

/-- The work of each command row. -/
def State.work (s : State) (k : Command) : Outcome :=
  match k.op with
  | .kcopy _ => s.workKcopy k
  | .bcopy _ => s.workBcopy k false
  | .bcopyVerify _ => s.workBcopy k true
  | .bdrop _ => s.workMarks k false
  | .bholdList _ => s.workMarks k true
  | .bholdRoot _ => s.workBholdRoot k
  | .blookLeaf _ => s.workBlook k false
  | .blookInterior _ => s.workBlook k true
  | .bread _ => s.workBread k false
  | .breadVerify _ => s.workBread k true
  | .bswap _ => s.workBswap k
  | .bwalkLeaf _ => s.workBwalk k false
  | .bwalkElement _ => s.workBwalk k true
  | .cupdSgd _ => s.workCupd k 0
  | .cupdAdagrad _ => s.workCupd k 1
  | .cupdRowwiseAdagrad _ => s.workCupd k 2
  | .cupdAdam _ => s.workCupd k 3
  | .fbktMod _ => s.workFbkt k 0
  | .fbktRange _ => s.workFbkt k 1
  | .fbktHash _ => s.workFbkt k 2
  | .fredAll _ => s.workFred k false
  | .fredRoot _ => s.workFred k true
  | .fxch _ => s.workFxch k 0
  | .fxchPayload _ => s.workFxch k 1
  | .hrctlSetGroup _ => s.workHrctl k 0
  | .hrctlInvalidateTable _ => s.workHrctl k 1
  | .hrctlWriteBack _ => s.workHrctl k 2
  | .hrctlClearSketch _ => s.workHrctl k 3
  | .l2opUpdate _ => s.workL2op k true
  | .l2opGather _ => s.workL2op k false
  | .qgath _ => s.workQgath k
  | .qpoolSplit _ => s.workQpool k false
  | .qpoolOrdered _ => s.workQpool k true
  | .skrd _ => s.workSkrd k
  | .wpin _ => s.workWpin k false
  | .wpinLoad _ => s.workWpin k true
  | .wunpin _ => s.workWunpin k
  | _ => .refused (.notEnabled "COMMAND_COMPLETE")

/-- Does the command end before a pre-emption of its core completes: a release that has sent its markers (R209, R389), or one that runs to
completion (R277)? -/
def Command.runsOut (k : Command) : Bool :=
  k.sent ||
    match k.op with
    | .hrctlSetGroup _ | .hrctlInvalidateTable _ | .hrctlWriteBack _ | .hrctlClearSketch _ | .wpin _ | .wpinLoad _ | .wunpin _ => true
    | _ => false

/-- May the command work: does nothing stop it, and is what was ordered before it done? -/
def Core.commandReady (c : Core) (k : Command) : Bool := k.stop.isNone && !k.after.any c.outstanding.contains

/-- COMMAND_COMPLETE: a command of the focused core that nothing stops works and completes; one whose work is done only
signals. A KPEER's work is its arrival. Of a core that is saved only what runs out goes on. -/
def execCommandComplete (id : Nat) (s : State) : Outcome :=
  match s.cmd id with
  | none => .refused (.notEnabled "COMMAND_COMPLETE")
  | some k =>
    if !s.core.commandReady k || s.core.part.status == .none || (s.core.part.status == .saved && !k.runsOut) then
      .refused (.notEnabled "COMMAND_COMPLETE")
    else
      match (if k.sig then s.completeCmd k else s.work k) with
      | .next t => .next t.scanStart
      | o => o

end Sys2Proof.Machine
end

