-- ==== Sys2Proof/Machine/System.lean ====
section
/-! DEFINITION. Recovery regions (R267 to R269, R388, R391, R392), error injection (R337), the self test (R284), control
registers (R64, R65, R331, R333) and XINV (R198, R429). -/

namespace Sys2Proof.Machine

/-! ### Recovery regions -/

def Core.setDepth (c : Core) (d : Nat) : Core :=
  { c with ctl := { c.ctl with rgn := BitVec.ofNat 64 (c.ctl.rgn.toNat / 8 * 8 + d % 8) } }

/-- R267: the log operand of an outermost region breaks its rules. -/
def Core.logBad (c : Core) (l : Nat) : Bool :=
  let off := l % 2 ^ 32
  let len := l / 2 ^ 32
  off == 0 || len == 0 || off % 64 != 0 || len % 64 != 0 || decide (off + len + 4096 > c.spBytes)

/-- ROPEN (R392): handler state is NESTED_TRAP; pushed stream elements belong outside the region
(R354). An error that a sibling slot has caught rolls back the enclosing region, and the new one with it (R271). -/
def execRopen (x : GReg2) (s : State) : Outcome :=
  let c := s.core
  let l := (c.src 0 x.a).toNat
  let t := (c.src 1 x.b).toNat
  let pend := c.pending x.a || c.pending x.b
  .next (s.slot (c.active x.g)
    (checks [(c.handler.active, cNestedTrap), (c.depth == 4, cRegionOp)] pend
      [(if c.depth = 0 then c.logBad l else l != 0, cRegionOp), (targetBad t, cRegionOp)]) pend fun s =>
      if s.core.bound.rollback.isSome then s else s.flushStreams.onCore fun c =>
        let c := if c.depth = 0 then
            { c with regions := ⟨[], l % 2 ^ 32, l % 2 ^ 32 + l / 2 ^ 32, l % 2 ^ 32, [], []⟩ } else c
        let c := { c with regions := { c.regions with
          stack := ⟨t, c.regions.logPos, c.buffered⟩ :: c.regions.stack } }
        c.setDepth c.depth)

/-- The checkpoint records of RKEEP (R391): named s registers ascending, then named banks. -/
def Core.keepRecords (c : Core) (mask : Word) (vb : BitVec 4) : List (Nat × Nat × List Byte) :=
  ((List.range 64).filter fun i => i != 0 && mask.getLsbD i).map (fun i =>
      (1, i, toBytes 8 (c.getS (BitVec.ofNat 6 i)).toNat)) ++
  ((List.range 4).filter fun k => vb.getLsbD k).map fun k =>
      (2, k, ((List.range 8).map fun j => vBytes (c.getV (BitVec.ofNat 5 (8 * k + j)))).flatten)

def Core.bankLent (c : Core) (k : Nat) : Bool :=
  c.ctl.lend.getLsbD 2 && (c.ctl.lend.extractLsb' 0 2).toNat == k

def execRkeep (x : RkeepF) (s : State) : Outcome :=
  let c := s.core
  let mask := c.src 0 x.a
  let named := (List.range 64).any fun i => i != 0 && mask.getLsbD i && c.pending (BitVec.ofNat 6 i)
  .next (s.slot (c.active x.g)
    (firstBad [(c.handler.active, cNestedTrap), (c.depth == 0, cRegionOp),
      ((List.range 4).any (fun k => x.vb.getLsbD k && c.bankLent k), cIllegalOperation)])
    (c.pending x.a || named) fun s => s.onCore fun c => (c.logAll (c.keepRecords mask x.vb)).1)

/-- Buffered stores by their place among the core's stores. -/
def insertStore (b : BufStore) : List BufStore → List BufStore
  | [] => [b]
  | x :: r => if b.num < x.num then b :: x :: r else x :: insertStore b r

def inProgramOrder (l : List BufStore) : List BufStore := l.foldl (fun acc b => insertStore b acc) []

/-- Commands, matrix items and stores of a closed region belong to the enclosing one (R388). -/
def MxItem.clamp (d : Nat) : MxItem → MxItem
  | .call c => .call { c with depth := min c.depth d }
  | .mload r ws k => .mload r ws (min k d)
  | .mswap k => .mswap (min k d)
  | .mcomp a b n f k => .mcomp a b n f (min k d)
  | .reload t d o a => .reload t d o a

def StreamElem.clamp (d : Nat) (e : StreamElem) : StreamElem := { e with depth := min e.depth d }

def Core.joinRegion (c : Core) : Core :=
  { c with
    copy := { c.copy with
      cmds := c.copy.cmds.map fun k => { k with depth := min k.depth c.depth }
      streams := c.copy.streams.map fun w => { w with old := w.old.map (StreamElem.clamp c.depth), fifo := w.fifo.map (StreamElem.clamp c.depth) } }
    regions := { c.regions with
      buf := c.regions.buf.map fun b => { b with depth := min b.depth c.depth }
      filled := if c.depth = 0 then [] else c.regions.filled.map fun p => (min p.1 c.depth, p.2) }
    mx := { c.mx with
      queue := c.mx.queue.map (MxItem.clamp c.depth)
      run := c.mx.run.map fun r => { r with call := { r.call with depth := min r.call.depth c.depth } } } }

/-- The outermost RCLOSE performs the region's stores, or leaves them behind a FENCE that the core issued before the region (R204). -/
def State.commitStores (s : State) (buf : List BufStore) : State :=
  if s.core.fenceLeft.isEmpty then s.performBuffered buf
  else s.onCore fun c => { c with copy := { c.copy with fenced := c.copy.fenced ++ buf.map fun b => ⟨b.num, c.fenceLeft, .store [b]⟩ } }

/-- RCLOSE (R388). An error that a sibling slot has caught rolls back the region, which the bundle still belongs to (R271). -/
def execRclose (x : Guard) (s : State) : Outcome :=
  .next (s.slot (s.core.active x) (firstBad [(s.core.handler.active, cNestedTrap), (s.core.depth == 0, cRegionOp)]) false
    fun s => if s.core.bound.rollback.isSome then s else
      let s := s.flushStreams
      let s :=
        if s.core.depth > 1 then s.onCore fun c => { c with regions := { c.regions with stack := c.regions.stack.drop 1 } }
        else
          let buf := s.core.regions.buf
          (s.onCore fun c => { c with regions := { c.regions with stack := [], buf := [], logPos := c.regions.logBase } }).commitStores (inProgramOrder buf)
      s.onCore fun c => (c.setDepth c.depth).joinRegion)

/-! ### EINJ and STEST -/

/-- R337. -/
def execEinj (x : EinjF) (s : State) : Outcome :=
  .next (s.slot (s.core.active x.g) none (s.core.pending x.a) fun s => s.onCore fun c =>
    { c with inject := Vector.ofFn fun i : Fin 4 => if i.val = x.kind.toNat then some (c.src 0 x.a) else c.inject.get i })

/-- STEST (R284): the core stops at the boundary after its bundle and waits for its engine commands and the pattern
(STEST_PATTERN_END, STEST_DRAIN_TIMEOUT). It writes s63, and stalls as CALL does. -/
def execStest (x : Guard) (s : State) : Outcome :=
  let c := s.core
  .next (s.slot (c.active x)
    (firstBad [(decide (c.depth > 0) || c.handler.active || c.ctl.lend.getLsbD 2, cIllegalOperation)])
    (c.pendingW 63) fun s =>
      (s.flushStreams.boundaryAct fun c =>
        let c := c.settleLoads
        { c with part := { c.part with status := .scanning, scan := 1, scanAt := s.time } }).scanStart)

/-! ### Control registers (R64, R65) -/

/-- A tile entry as CRD reads it (R51). -/
def tileWord (t : Tile) : Nat :=
  t.base.toNat + t.size.toNat * 2 ^ 7 +
    (match t.state with | .empty => 0 | .filling => 1 | .ready => 2 | .draining => 3) * 2 ^ 14

/-- A control register's value; none for a number R64 does not list. -/
def Core.readCtl (c : Core) (time n : Nat) : Option Word :=
  if n = 0x00 then some c.ctl.cause
  else if n = 0x01 then some c.ctl.epc
  else if n = 0x02 then some c.ctl.frame
  else if n = 0x03 then some c.ctl.part
  else if n = 0x04 then some c.ctl.core
  else if n = 0x05 then some c.ctl.task
  else if n = 0x06 then some (BitVec.ofNat 64 time)
  else if n = 0x07 then some c.ctl.wbudget
  else if n = 0x08 then some c.ctl.rgn
  else if n = 0x09 then some c.ctl.tdt
  else if n = 0x0A then some c.ctl.vround
  else if n = 0x0B then some c.ctl.abort
  else if n < 0x10 then some (c.ctl.dom.toList.getD (n - 0x0C) 0)
  else if n = 0x10 then some c.ctl.hist
  else if n = 0x11 then some c.ctl.fault
  else if n = 0x12 then some c.ctl.pad
  else if n = 0x13 then some c.ctl.grp
  else if n = 0x14 then some c.ctl.card
  else if n = 0x15 then some c.ctl.tvec
  else if n = 0x16 then some (if c.fetch.ibank then 1 else 0)
  else if n = 0x17 then some c.ctl.lend
  else if 0x40 ≤ n ∧ n < 0x48 then some (c.regs.p.toList.getD (n - 0x40) 0)
  else if 0x50 ≤ n ∧ n < 0x60 then some (BitVec.ofNat 64 ((c.rings.toList.map ringWord).getD (n - 0x50) 0))
  else if 0x80 ≤ n ∧ n < 0xC0 then some (BitVec.ofNat 64 ((c.tiles.toList.map tileWord).getD (n - 0x80) 0))
  else none

/-- The control number: its low bits in the slot, bits 11 and 10 lent (R72). -/
def Core.ctlNumber (c : Core) (x : CtlF) : Nat :=
  match c.issue.ext with
  | some e => e.toNat % 4 * 1024 + x.ctl.toNat
  | none => x.ctl.toNat

/-- R331. -/
def execCrd (x : CtlF) (s : State) : Outcome :=
  let n := s.core.ctlNumber x
  .next (s.slot (s.core.active x.g) (firstBad [((s.core.readCtl 0 n).isNone, cIllegalOperation)]) (s.core.pendingW x.r) fun s =>
    let t := s.time
    s.onCore fun c => c.send (.s x.r ((c.readCtl t n).getD 0)) 1 0)

/-- A ring handle from a written word, its kbar kept (R53, R333). -/
def ringOf (w : Nat) (kbar : BitVec 16) : Ring :=
  ⟨BitVec.ofNat 6 w, BitVec.ofNat 7 (bitsOf w 12 6), BitVec.ofNat 16 (bitsOf w 31 16), BitVec.ofNat 16 (bitsOf w 47 32), kbar⟩

def Ring.filled (h : Ring) : Nat := (h.prod - h.cons).toNat

/-- R53: a binding that runs past tl63, overlaps another bound ring, or is overfull. -/
def Core.ringBad (c : Core) (k w : Nat) : Bool :=
  let h := ringOf w 0
  h.n != 0 && (decide (h.first.toNat + h.n.toNat > 64) || decide (h.filled > h.n.toNat) ||
    (numbered 0 c.rings.toList).any fun p => p.1 != k && p.2.n != 0 &&
      decide (h.first.toNat < p.2.first.toNat + p.2.n.toNat) && decide (p.2.first.toNat < h.first.toNat + h.n.toNat))

/-- R26, R65, R446: nesting, fab outside level 3, or an outstanding DBAR of the level. -/
def Core.domBad (c : Core) (l : Nat) (d : Word) : Bool :=
  let at' (i : Nat) : Word := c.ctl.dom.toList.getD i 0
  let inside (a b : Word) : Bool := decide (domLo b ≤ domLo a) && decide (domHi a ≤ domHi b)
  (domFab d && l != 3) || (l != 0 && !inside (at' (l - 1)) d) || (l != 3 && !inside d (at' (l + 1))) ||
    (c.sync.waiting ++ c.handler.waits).any (fun w => w.1 == l)

def Core.cwrBad (c : Core) (n : Nat) (v : Word) : Bool :=
  (n == 0x0A && decide (v.toNat % 8 > 5)) ||
  (decide (0x0C ≤ n) && decide (n < 0x10) && c.domBad (n - 0x0C) v) ||
  (decide (0x50 ≤ n) && decide (n < 0x60) && c.ringBad (n - 0x50) v.toNat)

/-- The bits of a word that a register keeps. -/
def keepBits (v : Word) (mask : Nat) : Word := v &&& BitVec.ofNat 64 mask

/-- R333; a register whose access is RO is left unchanged. -/
def Core.writeCtl (c : Core) (n : Nat) (v : Word) : Core :=
  if n = 0x01 then { c with ctl := { c.ctl with epc := keepBits v 0x7FF0 } }
  else if n = 0x08 then
    (if v.getLsbD 10 then { c with ctl := { c.ctl with rgn := keepBits c.ctl.rgn 0x3FF } } else c)
  else if n = 0x09 then
    let w := keepBits v (0xFF + (2 ^ 57 - 2 ^ 12))
    { c with ctl := { c.ctl with tdt := w }, mx := { c.mx with queue := c.mx.queue ++ [.reload w none [] c.pushesBefore] } }
  else if n = 0x0A then { c with ctl := { c.ctl with vround := keepBits v 0x1FF } }
  else if h : 0x0C ≤ n ∧ n < 0x10 then
    { c with ctl := { c.ctl with dom := c.ctl.dom.set (n - 0x0C) (keepBits v (0x1FFFF + 0xFFFF * 2 ^ 32)) (by omega) } }
  else if n = 0x10 then { c with ctl := { c.ctl with hist := keepBits v 0x1FF } }
  else if n = 0x12 then { c with ctl := { c.ctl with pad := keepBits v 0xFFFF } }
  else if n = 0x15 then { c with ctl := { c.ctl with tvec := keepBits v 0x7FF0 } }
  else if h : 0x40 ≤ n ∧ n < 0x48 then { c with regs := { c.regs with p := c.regs.p.set (n - 0x40) v (by omega) } }
  else if h : 0x50 ≤ n ∧ n < 0x60 then
    { c with rings := c.rings.set (n - 0x50) (ringOf v.toNat (c.rings[n - 0x50]'(by omega)).kbar) (by omega) }
  else c

/-- The descriptors 0 to count of a table (R124). -/
def State.readTable (s : State) (tdt : Word) : State × Except MemErr (Vector (BitVec 512) 256) :=
  let n := bitsOf tdt.toNat 7 0 + 1
  match s.readVa .deck (tdt.toNat / 4096 * 4096) (64 * n) with
  | (s, .error e) => (s, .error e)
  | (s, .ok bs) => (s, .ok (Vector.ofFn fun i : Fin 256 => BitVec.ofNat 512 (leVal ((bs.drop (64 * i.val)).take 64))))

/-- The last reload item has read its table. -/
def Core.lastReload (c : Core) (t : Vector (BitVec 512) 256) : Core :=
  let rec put : List MxItem → List MxItem
    | [] => []
    | .reload w none o a :: r => .reload w (some t) o a :: r
    | i :: r => i :: put r
  { c with mx := { c.mx with queue := (put c.mx.queue.reverse).reverse } }

/-- CWR (R333, R334). A reload's reads are performed at once where they can be: the core's earlier accesses are performed, and no
translation faults. Else its item performs them in its turn, and stops there on a translation fault. -/
def execCwr (x : CtlF) (s : State) : Outcome :=
  let c := s.core
  let n := c.ctlNumber x
  let v := c.src 0 x.r
  .next (s.slot (c.active x.g) (checks [((c.readCtl 0 n).isNone, cIllegalOperation)] (c.pending x.r) [(c.cwrBad n v, cIllegalOperation)])
    (c.pending x.r || (n == 0x09 && decide (c.mx.queue.length ≥ 8))) fun s =>
      if n = 0x09 then
        let s := s.flushStreams
        if !s.core.pushesBefore.isEmpty then s.onCore fun c => c.writeCtl n v
        else match s.readTable (keepBits v (0xFF + (2 ^ 57 - 2 ^ 12))) with
        | (s, .ok t) => s.onCore fun c => (c.writeCtl n v).lastReload t
        | (s, .error _) => s.onCore fun c => c.writeCtl n v
      else s.onCore fun c => c.writeCtl n v)

/-! ### XINV (R198, R429) -/

/-- Drop translations from the core, its deck's walker and the Pier's. -/
def State.dropXlat (s : State) (gone : Xlat → Bool) : State :=
  let keep (l : List Xlat) : List Xlat := l.filter fun x => !gone x
  let b := onDeckB s.core.id
  let s := s.onCore fun c => { c with tlb := keep c.tlb }
  { s with walkA := if b then s.walkA else keep s.walkA, walkB := if b then keep s.walkB else s.walkB, walkP := keep s.walkP }

def execXinvPage (x : GReg) (s : State) : Outcome :=
  .next (s.slot (s.core.active x.g) none (s.core.pending x.a) fun s =>
    let va := (s.core.src 0 x.a).toNat
    let root := s.root
    if inWindow va then s else s.flushStreams.dropXlat fun t => t.root == root && t.page == va / t.size)

/-- R429, kind 1: every translation of the context; `a` is ignored, and no load into it is waited for. -/
def execXinvAll (x : GReg) (s : State) : Outcome :=
  .next (s.slot (s.core.active x.g) none false fun s =>
    let root := s.root
    s.flushStreams.dropXlat fun t => t.root == root)

end Sys2Proof.Machine
end

