-- ==== Sys2Proof/Machine/MatrixOps.lean ====
section
/-! DEFINITION. The M class as the core issues it (R60, R123 to R127, R135, R138, R143, R144, R307, R344, R371 to R378,
R394, R401). -/

namespace Sys2Proof.Machine

/-! ### Lent banks (R60, R307) -/

/-- The vector registers an in-flight result writes. -/
def Result.vregs : Result → List Nat
  | .v d _ _ => [d.toNat]
  | .vv d _ _ => [d.toNat, d.toNat + 1]
  | .rows d xs _ => (List.range xs.length).map fun j => d.toNat + j
  | _ => []

def Core.lending (c : Core) : Bool := c.ctl.lend.getLsbD 2

/-- Another bank must not be lent; the same one may be lent again. -/
def execBklend (x : MBank) (s : State) : Outcome :=
  let c := s.core
  let busy := c.flight.any fun f => f.res.vregs.any fun v => v / 8 == x.bank.toNat
  let other := c.lending && !c.bankLent x.bank.toNat
  .next (s.slot (c.active x.g) (firstBad [(c.handler.active, cNestedTrap), (busy || other, cIllegalOperation)]) false fun s =>
    s.onCore fun c => { c with ctl := { c.ctl with lend := BitVec.ofNat 64 (x.bank.toNat + 4) } })

/-- Is a call outstanding that was issued while the bank was lent (R138, R372)? -/
def Core.callHolds (c : Core) (bank : Nat) : Bool :=
  let holds (k : Call) : Bool := k.lend.getLsbD 2 && (k.lend.extractLsb' 0 2).toNat == bank
  c.mx.queue.any fun i => match i with | .call k => holds k | _ => false

def execBklendRet (x : MBank) (s : State) : Outcome :=
  let c := s.core
  .next (s.slot (c.active x.g) (firstBad [(c.handler.active, cNestedTrap),
      (!c.bankLent x.bank.toNat || c.callHolds x.bank.toNat, cIllegalOperation)]) false fun s =>
    s.onCore fun c => { c with ctl := { c.ctl with lend := BitVec.ofNat 64 x.bank.toNat } })

/-! ### The histogram (R127, R344) -/

def execHstrd (x : GReg) (s : State) : Outcome :=
  let c := s.core
  let off := (c.src 0 x.a).toNat
  .next (s.slot (c.active x.g)
    (known (c.pending x.a) (firstBad [(off % 8 != 0 || !c.inShare off 136, cIllegalOperation)])) (c.pending x.a) fun s =>
      s.onCore fun c =>
        let bs := (c.mx.hist.toList.map fun n => toBytes 4 n.toNat).flatten ++ zeros 4
        { c.spStore [(off, bs, fun _ => true)] with mx := { c.mx with hist := Vector.replicate 33 0 } })

/-! ### Tensor descriptors (R123, R124, R401) -/

structure Desc where
  base : Nat
  rows : Nat
  cols : Nat
  rstr : Int
  fmt  : Nat
  bscale : Bool
  e0   : Int
  ver  : Nat
  sptr : Nat
  deriving DecidableEq, Repr

def descOf (x : Nat) : Desc :=
  ⟨bitsOf x 56 0, bitsOf x 95 64, bitsOf x 127 96, sext 48 (bitsOf x 175 128), bitsOf x 180 176, bitsOf x 181 181 == 1,
    sext 8 (bitsOf x 191 184), bitsOf x 207 192, bitsOf x 312 256⟩

def Core.tdtCount (c : Core) : Nat := bitsOf c.ctl.tdt.toNat 7 0

def overlayDescs (t : Vector (BitVec 512) 256) (o : List (Nat × BitVec 512)) : Vector (BitVec 512) 256 :=
  o.foldl (fun t p => if h : p.1 < 256 then t.set p.1 p.2 h else t) t

/-- The last reload item that is outstanding. -/
def Matrix.lastReload (m : Matrix) : Option (Option (Vector (BitVec 512) 256) × List (Nat × BitVec 512)) :=
  (m.queue.reverse.findSome? fun i => match i with | .reload _ t o _ => some (t, o) | _ => none)

/-- The descriptor copy as instructions issued now act on it (R334); the entries of a table that could not be read yet are free (log 37). -/
def Core.descView (c : Core) : Vector (BitVec 512) 256 :=
  match c.mx.lastReload with
  | some (some t, o) => overlayDescs t o
  | some (none, o) => overlayDescs (Vector.ofFn fun i : Fin 256 => Config.unreadDesc c.ctl.tdt i.val) o
  | none => c.mx.descs

/-- An instruction that acts on the new copy has the table read, if it can be, before the item's turn comes (R334). -/
def State.readReload (s : State) : State :=
  match s.core.mx.lastReload with
  | some (none, _) =>
    if !s.core.pushesBefore.isEmpty then s else match s.readTable s.core.ctl.tdt with
    | (t, .ok d) => t.onCore fun c => c.lastReload d
    | _ => s
  | _ => s

def Core.descAt (c : Core) (d : Nat) : Desc := descOf ((c.descView.toList.getD d 0).toNat)

/-- Write an entry of the copy; an outstanding reload comes first (R401). -/
def Core.setDesc (c : Core) (d : BitVec 8) (x : BitVec 512) : Core :=
  { c with mx := { c.mx with
    descs := c.mx.descs.set d.toNat x d.isLt
    queue := c.mx.queue.map fun i => match i with | .reload w t o a => .reload w t (o ++ [(d.toNat, x)]) a | i => i } }

/-- TDSET (R124, R401); a replayed one stores to its latch's effective address (R406). -/
def execTdset (x : TdsetF) (s : State) : Outcome :=
  let c := s.core
  let off := (c.src 0 x.a).toNat
  let img := c.blockAt off
  let k := descOf img
  let ea := match c.issue.replay with
    | some l => l.ea.toNat
    | none => c.ctl.tdt.toNat / 4096 * 4096 + 64 * x.desc.toNat
  .next (s.slot (c.active x.g)
    (checks [(decide (x.desc.toNat > c.tdtCount), cIllegalOperation)] (c.pending x.a)
      [(off % 64 != 0 || !c.inShare off 64, cSpadRange), (k.fmt == 10 || (k.bscale && k.sptr % 128 != 0), cIllegalOperation)])
    (c.pending x.a) fun s =>
      let s := s.onCore fun c => c.consumed (c.blockBad off)
      let s := s.flushStreams
      match s.pieces .deck true 65 ea 64 with
      | (s, .error e) => s.onCore fun c => c.memFault e ⟨c.issue.slot, c.src 0 x.a, 0, 0, BitVec.ofNat 64 ea⟩
      | (s, .ok ps) => (s.ownStore ps (toBytes 64 img) 4).onCore fun c => c.setDesc x.desc (BitVec.ofNat 512 img))

/-! ### Scales (R116, R125, R394) -/

def Desc.scaleBytes (d : Desc) : Nat := ((d.rows + 31) / 32) * ((d.cols + 31) / 32)

/-- The scale tile that SCLD names by its descriptor, not yet read (R125, R394). -/
def Desc.scaleTile (d : Desc) (n : BitVec 8) : ScaleTile := ⟨n, BitVec.ofNat 16 d.ver, d.sptr, d.rows, d.cols, none⟩

/-- The scales of a tile: one byte for each block of 32 × 32 (R116). -/
def ScaleTile.count (t : ScaleTile) : Nat := ((t.rows + 31) / 32) * ((t.cols + 31) / 32)

/-- Read a scale tile: its bytes, or the fault the tile fetch meets. -/
def State.readScales (s : State) (t : ScaleTile) : State × Except MemErr (List Byte) := s.readVa .deck t.base t.count

/-- The scales of a load that was not read at its issue have come: wherever the tile stands, it has them. -/
def ScaleTile.fill (t : ScaleTile) (bs : List Byte) (x : ScaleTile) : ScaleTile := if x = t then { t with scales := some bs } else x

def Flight.fillScales (t : ScaleTile) (bs : List Byte) (f : Flight) : Flight :=
  match f.res with
  | .scale side x => { f with res := .scale side (t.fill bs x) }
  | _ => f

def Call.fillScales (t : ScaleTile) (bs : List Byte) (k : Call) : Call :=
  { k with scaleL := k.scaleL.map (t.fill bs), scaleR := k.scaleR.map (t.fill bs) }

def MxItem.fillScales (t : ScaleTile) (bs : List Byte) : MxItem → MxItem
  | .call k => .call (k.fillScales t bs)
  | i => i

def Core.putScales (c : Core) (t : ScaleTile) (bs : List Byte) : Core :=
  { c with
    flight := c.flight.map (Flight.fillScales t bs)
    handler := { c.handler with frozen := c.handler.frozen.map fun p => (p.1, p.2.fillScales t bs) }
    mx := { c.mx with
      scaleL := c.mx.scaleL.map (t.fill bs), scaleR := c.mx.scaleR.map (t.fill bs)
      queue := c.mx.queue.map (MxItem.fillScales t bs)
      run := c.mx.run.map fun r => { r with call := r.call.fillScales t bs }
      pend := c.mx.pend.filter fun p => p.1 != t } }

/-- Does a call see a scale tile, or may one that issues now? -/
def Matrix.holdsScales (m : Matrix) (t : ScaleTile) : Bool :=
  let sees (k : Call) : Bool := k.scaleL == some t || k.scaleR == some t
  m.scaleL == some t || m.scaleR == some t || m.run.any (fun r => sees r.call) ||
    m.queue.any fun i => match i with | .call k => sees k | _ => false

/-- SCLD (R394): its reads are performed at once where they can be; else the matrix unit performs them, after the core's earlier accesses, or
once TRET has resumed what a translation fault has stopped. -/
def execScld (x : ScldF) (s : State) : Outcome :=
  let on := s.core.active x.g
  let s := if on then s.readReload else s
  let c := s.core
  let d := c.descAt x.desc.toNat
  let held := c.handler.active && c.handler.frozen.any fun p => match p.2.res with | .scale side _ => side == x.side | _ => false
  .next (s.slot on (firstBad [(held, cNestedTrap),
      (decide (x.desc.toNat > c.tdtCount) || !d.bscale || decide (d.scaleBytes > 65536), cIllegalOperation)]) false fun s =>
    let t := d.scaleTile x.desc
    let put (s : State) (t : ScaleTile) : State := s.onCore fun c => c.send (.scale x.side t) (c.latency 12 16) 4
    let later (s : State) : State := (put s t).onCore fun c => { c with mx := { c.mx with pend := c.mx.pend ++ [(t, c.pushesBefore)] } }
    let s := s.flushStreams
    if !s.core.pushesBefore.isEmpty then later s
    else match s.readScales t with
    | (s, .ok bs) => put s { t with scales := some bs }
    | (s, .error (.trans code va)) =>
      later (s.onCore fun c => { c with mx := { c.mx with stop := if c.mx.stop.isNone then some (code, va) else c.mx.stop } })
    | (s, .error (.fatal code)) => (put s t).onCore fun c => c.unitFatal code)

def Core.scaleTile (c : Core) (side : Bool) : Option ScaleTile := if side then c.mx.scaleR else c.mx.scaleL

/-- Does the loaded pair of a side fit a descriptor (R125)? -/
def Core.scaleFits (c : Core) (side : Bool) (desc : Nat) (d : Desc) : Bool :=
  match c.scaleTile side with
  | some t => t.desc.toNat == desc && t.ver.toNat == d.ver
  | none => false

/-- R125: an operand of an MCALL with scl whose scales are stale. -/
def Core.scaleStale (c : Core) (side : Bool) (ref : Word) : Bool :=
  let n := bitsOf ref.toNat 7 0
  let d := c.descAt n
  d.bscale && !c.scaleFits side n d

/-! ### The call queue (R135, R136, R138) -/

/-- The tiles an item fills, and those it consumes. -/
def MxItem.fills : MxItem → List Nat
  | .call k => if k.flags.getLsbD 0 then [k.tile.idx] else []
  | .mcomp _ dst _ _ _ => [dst.idx]
  | _ => []

def MxItem.drains : MxItem → List Nat
  | .call k => if k.flags.getLsbD 1 then [k.tile.idx] else []
  | _ => []

/-- The queue is given up: the tiles that its items fill or consume become empty (R52). -/
def Core.dropItems (c : Core) : Core :=
  let ts := c.mx.queue.flatMap fun i => i.fills ++ i.drains
  let c := { c with mx := { c.mx with queue := [] } }
  ts.foldl (fun c t => if (c.tileAt t).state = .filling ∨ (c.tileAt t).state = .draining then c.setTileState t .empty else c) c

def Core.mxFull (c : Core) : Bool := decide (c.mx.queue.length ≥ 8)
def Core.mxPush (c : Core) (i : MxItem) : Core := { c with mx := { c.mx with queue := c.mx.queue ++ [i] } }

/-- A routine whose store entry is valid (R135, R142). -/
def Core.routineValid (c : Core) (r : Nat) : Bool :=
  decide (r < 10) || (decide (r ≥ 64) && c.mx.store.any fun p => p.1 == r) ||
    c.mx.queue.any fun i => match i with | .mload k _ _ => k == r | _ => false

def Core.newCall (c : Core) (x : MCallF) : Call where
  routine := x.routine.toNat
  tile := c.tileRef x.tile.toNat
  flags := x.flags
  p := c.regs.p
  vround := c.ctl.vround
  pad := bitsOf c.ctl.pad.toNat 15 0
  hist := c.ctl.hist
  descs := c.descView
  late := match c.mx.lastReload with | some (none, o) => some o | _ => none
  count := c.tdtCount
  lend := c.ctl.lend
  tiles := c.tiles
  scaleL := c.mx.scaleL
  scaleR := c.mx.scaleR
  depth := c.depth
  after := c.pushesBefore

def execMcall (x : MCallF) (s : State) : Outcome :=
  let on := s.core.active x.g
  let s := if on then s.readReload else s
  let c := s.core
  let t := c.tile x.tile
  let fill := x.flags.getLsbD 0
  .next (s.slot on
    (firstBad [(!c.routineValid x.routine.toNat, cIllegalOperation), (!t.bound, cIllegalOperation),
      (fill && t.state != .empty, cTileBusy)])
    (c.mxFull || (!fill && t.state != .ready)) fun s =>
      let s := s.flushStreams
      let c := s.core
      if x.flags.getLsbD 3 && (c.scaleStale false (c.regs.p.get 0) || c.scaleStale true (c.regs.p.get 1)) then
        s.onCore fun c => c.slotFault cScaleStale 0 ⟨c.issue.slot, 0, 0, 0, 0⟩
      else s.onCore fun c =>
        let c := c.mxPush (.call (c.newCall x))
        if fill then (c.setTileState x.tile.toNat .filling).noteFills [x.tile.toNat]
        else if x.flags.getLsbD 1 then c.setTileState x.tile.toNat .draining else c)

/-- The 64 micro-operation words of a tile (R138). -/
def Core.routineWords (c : Core) (t : BitVec 6) : List (BitVec 64) :=
  let bs := c.tileRead (c.tileRef t.toNat) 0 512
  (List.range 64).map fun i => BitVec.ofNat 64 (leVal ((bs.drop (8 * i)).take 8))

def wordBad (w : BitVec 64) : Bool := match decodeMicro w with | .ok _ => false | .error _ => true

def execMload (x : MLoadF) (s : State) : Outcome :=
  let c := s.core
  let t := c.tile x.tile
  let ready := t.state == .ready
  .next (s.slot (c.active x.g)
    (firstBad [(!t.bound || c.accTile x.tile.toNat, cIllegalOperation), (ready && (c.routineWords x.tile).any wordBad, cRoutineBad)])
    (c.mxFull || !ready) fun s => s.onCore fun c =>
      let bad := c.tilePoison (c.tileRef x.tile.toNat) 0 512
      let c := c.mxPush (.mload x.routine.toNat (c.routineWords x.tile) c.depth)
      if bad then c.unitUncorrectable else c)

def execMswap (x : Guard) (s : State) : Outcome :=
  .next (s.slot (s.core.active x) none s.core.mxFull fun s => s.onCore fun c => c.mxPush (.mswap c.depth))

def execMsync (x : Guard) (s : State) : Outcome :=
  .next (s.slot (s.core.active x) none (!s.core.mx.queue.isEmpty) id)

/-! ### MCOMP (R144, R373) -/

/-- N and M of a ratio code. -/
def ratioOf (nm : BitVec 2) : Nat × Nat := match nm.toNat with | 0 => (1, 4) | 1 => (2, 4) | _ => (4, 8)

def mcompBytes (size : Nat) (nm : BitVec 2) : Nat :=
  let (n, m) := ratioOf nm
  64 * size * (256 * n / m + 64)

def execMcomp (x : MCompF) (s : State) : Outcome :=
  let c := s.core
  let td := c.tile x.td
  let ts := c.tile x.ts
  .next (s.slot (c.active x.g)
    (firstBad [(!td.bound || !ts.bound || c.accTile x.td.toNat || c.accTile x.ts.toNat, cIllegalOperation),
      (decide (16384 * td.size.toNat < mcompBytes ts.size.toNat x.nm), cIllegalOperation), (td.state != .empty, cTileBusy)])
    (c.mxFull || ts.state != .ready) fun s => s.onCore fun c =>
      (c.mxPush (.mcomp (c.tileRef x.ts.toNat) (c.tileRef x.td.toNat) x.nm x.fmt c.depth)).setTileState x.td.toNat .filling |>.noteFills [x.td.toNat])

end Sys2Proof.Machine
end

