-- ==== Sys2Proof/Machine/MatrixRun.lean ====
section
/-! DEFINITION. The matrix unit's own steps: reference words and elements (R131, R132), the micro-operations (R139, R140,
R145 to R147), the library routines (R142), and the items of the call queue (R129, R136 to R138, R143, R144, R334). -/

namespace Sys2Proof.Machine

def cMxOperand : Nat := 0x102
def cMxRunaway : Nat := 0x103
def cMxScale : Nat := 0x104

/-! ### The running call -/

/-- What a micro-operation does: it goes on at an index, is suspended by a translation fault, fails, or waits. -/
inductive Micro where
  | go (s : State) (r : Run) (pc : Nat)
  | stop (s : State) (code va : Nat)
  | fail (s : State) (code : Nat)
  | wait (s : State)
  deriving DecidableEq, Repr

/-- A run-time error is fatal to the context (R137); nothing further of the queue runs, and its items leave their tiles
(R52). -/
def Core.mxFail (c : Core) (code : Nat) : Core :=
  let c := c.dropItems.fatal code
  { c with mx := { c.mx with run := none } }

/-- A translation fault stops the unit at the micro-operation's boundary (R133, R265); with its core's part over it is
fatal. -/
def Core.mxStop (c : Core) (code va : Nat) : Core :=
  if c.part.status = .running ∨ c.part.status = .scanning then { c with mx := { c.mx with stop := some (code, va) } }
  else c.mxFail code

/-- Run one micro-operation of the running call, count it, and move its index (R137, R139, R140). -/
def State.micro (s : State) (name : String) (f : State → Run → Micro) : Outcome :=
  match s.core.mx.run with
  | none => .refused (.notEnabled name)
  | some r =>
    if r.done || s.core.mx.stop.isSome then .refused (.notEnabled name)
    else match f s r with
      | .go s r pc =>
        let done := r.done || decide (pc ≥ r.prog.length)
        let steps := r.steps + 1
        if !done && steps ≥ 2 ^ 24 then .next (s.onCore fun c => c.mxFail cMxRunaway)
        else .next (s.onCore fun c => { c with mx := { c.mx with run := some { r with pc := pc, steps := steps, done := done } } })
      | .stop s code va => .next (s.onCore fun c => c.mxStop code va)
      | .fail s code => .next (s.onCore fun c => c.mxFail code)
      | .wait s => .next s

/-- A micro-operation without further effect goes on in sequence. -/
def Run.on (r : Run) (s : State) : Micro := .go s r (r.pc + 1)

def Run.getX (r : Run) (i : BitVec 4) : Word := r.x.get i.toFin
def Run.setX (r : Run) (i : BitVec 4) (v : Word) : Run := { r with x := r.x.set i.toNat v i.isLt }

/-! ### Reference words (R131) -/

structure MRef where
  desc  : Nat
  tile  : Nat
  kind  : Nat
  t     : Bool
  prim  : Bool
  acc64 : Bool
  row0  : Nat
  col0  : Nat
  deriving DecidableEq, Repr

def mrefOf (w : Word) : MRef :=
  let x := w.toNat
  ⟨bitsOf x 7 0, bitsOf x 13 8, bitsOf x 15 14, bitsOf x 16 16 == 1, bitsOf x 17 17 == 1, bitsOf x 18 18 == 1, bitsOf x 41 20,
    bitsOf x 63 42⟩

/-- The tile entry a reference names: the call's primary tile under prim. -/
def Call.refTile (k : Call) (m : MRef) : TileRef :=
  if m.prim then k.tile
  else
    let t := k.tiles.toList.getD m.tile ⟨0, 0, .empty⟩
    ⟨m.tile, t.base.toNat, t.size.toNat⟩

def MRef.width (m : MRef) : Nat := if m.acc64 then 8 else 4

/-- An accumulator of n rows (R130, R131): the pool offset of its first row; none is an operand error. -/
def Core.accAt (c : Core) (k : Call) (m : MRef) (n : Nat) : Option Nat :=
  let t := k.refTile m
  if m.kind ≠ 1 ∨ t.size = 0 ∨ t.base < c.rf ∨ t.base + t.size > c.rf + c.accGranules ∨ m.row0 + n > 64 ∨ (m.acc64 ∧ t.size ≠ 2) then
    none
  else some (t.start + 64 * m.width * m.row0)

/-- Is the accumulator's format the one needed, f64 or f32? -/
def MRef.accIs (m : MRef) (f64 : Bool) : Bool := m.acc64 == f64

def MRef.accFmt (m : MRef) : Nat := if m.acc64 then 0 else 1

/-- One accumulator row's values, and writing one. -/
def Core.accRow (c : Core) (m : MRef) (at' : Nat) : List Num :=
  let bs := c.poolRead at' (64 * m.width)
  (List.range 64).map fun j => decodeNum m.accFmt (leVal ((bs.drop (m.width * j)).take m.width))

/-- A call's write into a tile, by pool offset: into the primary tile that it fills, as a command that fills a tile writes
(R337). -/
def Core.callWrite (c : Core) (k : Call) (t : TileRef) (a : Nat) (bs : List Byte) : Core :=
  if k.flags.getLsbD 0 ∧ t.idx = k.tile.idx then c.tileWrite t (a - t.start) bs else c.poolWrite a bs

def Core.putAccRow (c : Core) (k : Call) (m : MRef) (at' : Nat) (vals : List Num) : Core :=
  c.callWrite k (k.refTile m) at' (vals.map fun x => toBytes m.width (roundRne m.accFmt x)).flatten

/-! ### Operands (R131, R132) -/

/-- An operand reference with its descriptor; none is an operand error. -/
structure Operand where
  ref  : MRef
  desc : Desc
  tile : TileRef
  bank : Nat
  deriving DecidableEq, Repr

def Core.operand (c : Core) (k : Call) (w : Word) : Option Operand :=
  let m := mrefOf w
  let t := k.refTile m
  if m.kind = 3 ∨ m.acc64 ∨ m.desc > k.count ∨ (m.kind = 2 ∧ !c.lending) then none
  else some ⟨m, descOf ((k.descs.toList.getD m.desc 0).toNat), t, (c.ctl.lend.extractLsb' 0 2).toNat⟩

def Operand.esize (o : Operand) : Nat := fmtWidth o.desc.fmt / 8

/-- The bytes of a stored element: its value's code and whether it is poisoned. -/
inductive Elem where
  | ok (code : Nat) (bad : Bool)
  | err (e : MemErr)
  deriving DecidableEq, Repr

/-- The element stored at (a, b), which lies in range (R132). -/
def State.elemAt (s : State) (o : Operand) (a b : Nat) : State × Elem :=
  let es := o.esize
  let off : Int := a * o.desc.rstr + b * es
  if o.ref.kind = 0 then
    match s.readChecked .deck (wrapTo 64 (o.desc.base + off)) es with
    | (s, .error e) => (s, .err e)
    | (s, .ok (bs, bad)) => (s, .ok (leVal bs) bad)
  else if o.ref.kind = 1 then
    if off < 0 ∨ off + es > o.tile.bytes then (s, .err (.fatal cMxOperand))
    else (s, .ok (leVal (s.core.tileRead o.tile off.toNat es)) (s.core.tilePoison o.tile off.toNat es))
  else if a > 7 ∨ (b + 1) * es > 256 then (s, .err (.fatal cMxOperand))
  else (s, .ok (lane (8 * es) b (s.core.getV (BitVec.ofNat 5 (8 * o.bank + a)))) false)

/-- The scales an operand is read with: the loaded tile's, with its rows and columns; empty without block scales. -/
structure Scales where
  rows  : Nat
  cols  : Nat
  bytes : List Byte
  deriving DecidableEq, Repr

def Scales.none : Scales := ⟨0, 0, []⟩

/-- The scale of element (a, b): its block's, NaN for 0xFF (R116); a block outside the loaded tile has no stated scale (log
67). -/
def scaleNum (sc : Scales) (a b : Nat) : Num :=
  let v := (if a < sc.rows ∧ b < sc.cols then sc.bytes.getD (a / 32 * ((sc.cols + 31) / 32) + b / 32) 0
    else Config.unloadedScale (a / 32) (b / 32)).toNat
  if v = 255 then .nan else .fin false 1 ((v : Int) - 127)

/-- elem(ref, i, j) (R132): zero outside the stored tensor. -/
def State.elem (s : State) (o : Operand) (scales : Scales) (i j : Nat) : State × Except MemErr Num :=
  let a := if o.ref.t then j else i
  let b := if o.ref.t then i else j
  if a ≥ o.desc.rows ∨ b ≥ o.desc.cols then (s, .ok (.fin false 0 0))
  else
    match s.elemAt o a b with
    | (s, .err e) => (s, .error e)
    | (s, .ok code bad) =>
      let x := decodeNum o.desc.fmt code
      let s := if bad then s.onCore Core.unitUncorrectable else s
      (s, .ok (if o.desc.bscale then x.mul (scaleNum scales a b) else x))

/-- n elements of a logical row from column j on. -/
def State.elemRow (s : State) (o : Operand) (scales : Scales) (i : Nat) : Nat → Nat → State × Except MemErr (List Num)
  | 0, _ => (s, .ok [])
  | n + 1, j =>
    match s.elem o scales i j with
    | (s, .error e) => (s, .error e)
    | (s, .ok x) =>
      match State.elemRow s o scales i n (j + 1) with
      | (s, .error e) => (s, .error e)
      | (s, .ok r) => (s, .ok (x :: r))

/-- Several rows; a row in `skip` is not read. -/
def State.elemRows (s : State) (o : Operand) (scales : Scales) (skip : Nat → Bool) (width j : Nat) :
    Nat → Nat → State × Except MemErr (List (List Num))
  | 0, _ => (s, .ok [])
  | n + 1, i =>
    match (if skip i then (s, .ok []) else s.elemRow o scales i width j) with
    | (s, .error e) => (s, .error e)
    | (s, .ok r) =>
      match State.elemRows s o scales skip width j n (i + 1) with
      | (s, .error e) => (s, .error e)
      | (s, .ok rs) => (s, .ok (r :: rs))

/-- The scale tile of a side as the call sees it: what was loaded when it issued (R125); its scales are there if they had been
read then, or have been since. -/
def Core.callScales (c : Core) (k : Call) (side : Bool) : Option ScaleTile :=
  let t := if side then k.scaleR else k.scaleL
  let now := c.scaleTile side
  match t, now with
  | some t, some n => if t.scales.isNone ∧ { n with scales := none } = t then some n else some t
  | t, _ => t

/-- The scales of a block-scaled operand (R125, R132): its side's pair must fit and its first k lie on a block. Scales whose
load stopped on a translation fault are read now (R394). A first k off the block takes MX_OPERAND (DESIGN CHOICE, log 88: R132 names no
cause). -/
def State.scalesFor (s : State) (k : Call) (side : Bool) (o : Operand) (firstK : Nat) : State × Except MemErr Scales :=
  if !o.desc.bscale then (s, .ok .none)
  else match s.core.callScales k side with
    | none => (s, .error (.fatal cMxScale))
    | some t =>
      if t.desc.toNat ≠ o.ref.desc ∨ t.ver.toNat ≠ o.desc.ver then (s, .error (.fatal cMxScale))
      else if firstK % 32 ≠ 0 then (s, .error (.fatal cMxOperand))
      else match t.scales with
        | some bs => (s, .ok ⟨t.rows, t.cols, bs⟩)
        | none =>
          match s.readScales t with
          | (s, .error e) => (s, .error e)
          | (s, .ok bs) => (s.onCore fun c => c.putScales t bs, .ok ⟨t.rows, t.cols, bs⟩)

def microErr (s : State) : MemErr → Micro
  | .trans code va => .stop s code va
  | .fatal code => .fail s code

/-! ### Control micro-operations (R140) -/

def execMxEnd (s : State) : Outcome := s.micro "END" fun s r => .go s { r with done := true } r.pc
def execMxNop (s : State) : Outcome := s.micro "MNOP" fun s r => r.on s

def execSets (xs : BitVec 4) (s : State) : Outcome :=
  s.micro "SETS" fun s r => { r with scale := (r.getX xs).setWidth 32 }.on s

/-- SETR: modes 6 and 7 are an operand error (R137, R142). -/
def execSetr (mode : BitVec 3) (sat : Bool) (xr : BitVec 4) (s : State) : Outcome :=
  s.micro "SETR" fun s r =>
    if mode.toNat ≥ 6 then .fail s cMxOperand else { r with mode := mode, sat := sat, seed := r.getX xr }.on s

def execSetx (xd : BitVec 4) (imm : BitVec 55) (s : State) : Outcome :=
  s.micro "SETX" fun s r => (r.setX xd (imm.signExtend 64)).on s

def execMovx (xd xa : BitVec 4) (s : State) : Outcome := s.micro "MOVX" fun s r => (r.setX xd (r.getX xa)).on s

/-- ADDX of a field: the whole register, row0 or col0. -/
def addField (fld : BitVec 2) (x : Word) (imm : BitVec 32) : Word :=
  let put (lo : Nat) : Word :=
    let f := (x.extractLsb' lo 22) + (imm.signExtend 64).setWidth 22
    (x &&& ~~~((0x3FFFFF : Word) <<< lo)) ||| (f.setWidth 64 <<< lo)
  match fld.toNat with
  | 0 => x + imm.signExtend 64
  | 1 => put 20
  | _ => put 42

def execAddx (xd : BitVec 4) (fld : BitVec 2) (imm : BitVec 32) (s : State) : Outcome :=
  s.micro "ADDX" fun s r => (r.setX xd (addField fld (r.getX xd) imm)).on s

def execLoopx (xc : BitVec 4) (target : BitVec 6) (s : State) : Outcome :=
  s.micro "LOOPX" fun s r =>
    let v := r.getX xc
    if v = 0 then r.on s
    else if v - 1 = 0 then (r.setX xc 0).on s
    else .go s (r.setX xc (v - 1)) target.toNat

/-! ### Accumulators (R130, R140) -/

def execZacc (xc : BitVec 4) (n : BitVec 6) (s : State) : Outcome :=
  s.micro "ZACC" fun s r =>
    let m := mrefOf (r.getX xc)
    let n := n.toNat + 1
    match s.core.accAt r.call m n with
    | none => .fail s cMxOperand
    | some a => r.on (s.onCore fun c => c.callWrite r.call (r.call.refTile m) a (zeros (64 * m.width * n)))

/-- Write accumulator rows from `at'` on; an empty row is left alone. -/
def Core.putAccRows (c : Core) (k : Call) (m : MRef) : Nat → List (List Num) → Core
  | _, [] => c
  | a, r :: rs => Core.putAccRows (if r.isEmpty then c else c.putAccRow k m a r) k m (a + 64 * m.width) rs

def execLdacc (xc xa : BitVec 4) (n : BitVec 6) (s : State) : Outcome :=
  s.micro "LDACC" fun s r =>
    let m := mrefOf (r.getX xc)
    let n := n.toNat + 1
    match s.core.operand r.call (r.getX xa), s.core.accAt r.call m n with
    | some o, some a =>
      if o.desc.fmt > 1 ∨ !m.accIs (o.desc.fmt == 0) then .fail s cMxOperand
      else match s.scalesFor r.call false o o.ref.col0 with
        | (s, .error e) => microErr s e
        | (s, .ok sc) =>
          match s.elemRows o sc (fun _ => false) 64 o.ref.col0 n o.ref.row0 with
          | (s, .error e) => microErr s e
          | (s, .ok rows) => r.on (s.onCore fun c => c.putAccRows r.call m a rows)
    | _, _ => .fail s cMxOperand

/-! ### Weight banks (R129, R145) -/

def Matrix.bank (m : Matrix) (b : Bool) : WBank := if b then m.bankB else m.bankA
def Matrix.setBank (m : Matrix) (b : Bool) (w : WBank) : Matrix := if b then { m with bankB := w } else { m with bankA := w }

/-- The load bank: the one that is not active, A when none is. -/
def Matrix.loadBank (m : Matrix) : Bool := match m.active with | some b => !b | none => false

/-- A swap of an idle load bank, which becomes active; the old one drains while rows tagged with it remain (R129). -/
def Matrix.swap (m : Matrix) : Matrix :=
  let l := m.loadBank
  let m' := match m.active with
    | some b => m.setBank b { m.bank b with state := if (m.bank b).rows then .draining else .idle }
    | none => m
  { m'.setBank l { m'.bank l with state := .active } with active := some l }

/-- The last tagged row leaves a draining bank. -/
def Matrix.drained (m : Matrix) (b : Bool) : Matrix :=
  if (m.bank b).state = .draining then m.setBank b { m.bank b with state := .idle, rows := false } else m

/-- While the load bank drains the swap waits, as an LDW does, and the unit's turn lets the last row leave (log 68). -/
def execMxSwap (s : State) : Outcome :=
  s.micro "SWAP" fun s r =>
    let m := s.core.mx
    if (m.bank m.loadBank).state = .draining then .wait (s.onCore fun c => { c with mx := c.mx.drained m.loadBank })
    else r.on (s.onCore fun c => { c with mx := c.mx.swap })

/-- Load the load bank; while it drains the LDW waits, and the unit's turn lets the last row leave. -/
def Run.loadBank (r : Run) (s : State) (fmt : Nat) (read : State → State × Except MemErr (List (List Num))) : Micro :=
  let b := s.core.mx.loadBank
  if (s.core.mx.bank b).state = .draining then .wait (s.onCore fun c => { c with mx := c.mx.drained b })
  else match read s with
    | (s, .error e) => microErr s e
    | (s, .ok w) => r.on (s.onCore fun c => { c with mx := c.mx.setBank b ⟨.idle, true, BitVec.ofNat 5 fmt, w, false⟩ })

def execLdw (xw : BitVec 4) (s : State) : Outcome :=
  s.micro "LDW" fun s r =>
    match s.core.operand r.call (r.getX xw) with
    | none => .fail s cMxOperand
    | some o => r.loadBank s o.desc.fmt fun s =>
      match s.scalesFor r.call true o o.ref.row0 with
      | (s, .error e) => (s, .error e)
      | (s, .ok sc) => s.elemRows o sc (fun _ => false) 64 o.ref.col0 64 o.ref.row0

/-- The code of the element kept at a position of a compressed row (R144, R145). -/
def sparseAt (nm : BitVec 2) (vals meta' : List Byte) (pos : Nat) : Option Nat :=
  let (n, m) := ratioOf nm
  let b := if m = 4 then 2 else 3
  let bits := leVal meta'
  match (List.range n).find? fun p => bits / 2 ^ ((pos / m * n + p) * b) % 2 ^ b == pos % m with
  | some p => some (vals.getD (pos / m * n + p) 0).toNat
  | none => none

/-- Bank column n of a compressed block: 128 logical k (R145). -/
def State.sparseColumn (s : State) (o : Operand) (nm : BitVec 2) (scales : Scales) (row : Nat) : State × Except MemErr (List Num) :=
  let (n, m) := ratioOf nm
  let width := 256 * n / m
  let nr := o.desc.rows
  if row ≥ nr then (s, .ok (List.replicate 128 (.fin false 0 0)))
  else if nr * width + 64 * (row + 1) > o.tile.bytes then (s, .error (.fatal cMxOperand))
  else
    let vals := s.core.tileRead o.tile (row * width) width
    let meta' := s.core.tileRead o.tile (nr * width + 64 * row) 64
    let bad := s.core.tilePoison o.tile (row * width) width || s.core.tilePoison o.tile (nr * width + 64 * row) 64
    let s := if bad then s.onCore Core.unitUncorrectable else s
    (s, .ok ((List.range 128).map fun k =>
      match sparseAt nm vals meta' (o.ref.col0 + k) with
      | none => .fin false 0 0
      | some code =>
        let x := decodeNum o.desc.fmt code
        if o.desc.bscale then x.mul (scaleNum scales row (o.ref.col0 + k)) else x))

def State.sparseColumns (s : State) (o : Operand) (nm : BitVec 2) (scales : Scales) : Nat → Nat →
    State × Except MemErr (List (List Num))
  | 0, _ => (s, .ok [])
  | n + 1, row =>
    match s.sparseColumn o nm scales row with
    | (s, .error e) => (s, .error e)
    | (s, .ok c) =>
      match State.sparseColumns s o nm scales n (row + 1) with
      | (s, .error e) => (s, .error e)
      | (s, .ok cs) => (s, .ok (c :: cs))

/-- Rows from columns. -/
def rowsOf (n : Nat) (cols : List (List Num)) : List (List Num) := (List.range n).map fun k => cols.map fun c => c.getD k (.fin false 0 0)

/-- LDW.sp (R142, R143): a ratio code of 3, which names no ratio, takes MX_OPERAND as the operation runs (DESIGN CHOICE, log 88). -/
def execLdwSparse (xw : BitVec 4) (nm : BitVec 2) (s : State) : Outcome :=
  s.micro "LDW_SPARSE" fun s r =>
    match s.core.operand r.call (r.getX xw) with
    | none => .fail s cMxOperand
    | some o =>
      if nm = 3 ∨ o.ref.kind ≠ 1 ∨ o.ref.t ∨ o.desc.fmt < 11 ∨ (o.ref.col0 ≠ 0 ∧ o.ref.col0 ≠ 128) then .fail s cMxOperand
      else r.loadBank s o.desc.fmt fun s =>
        match s.scalesFor r.call true o o.ref.col0 with
        | (s, .error e) => (s, .error e)
        | (s, .ok sc) =>
          match s.sparseColumns o nm sc 64 o.ref.row0 with
          | (s, .error e) => (s, .error e)
          | (s, .ok cs) => (s, .ok (rowsOf 128 cs))

/-! ### STRM (R115, R128) -/

/-- The group of R128 that a format belongs to: 11 stands for every binary8 format. -/
def mxGroup (fmt : Nat) : Option Nat := if fmt ≥ 11 then some 11 else if fmt ≤ 3 then some fmt else none

/-- Products summed exactly over one group of k (R115). -/
def groupSum : List Num → List Num → Option Num
  | x :: xs, w :: ws =>
    match groupSum xs ws with
    | some g => some (Num.add 0 (x.mul w) g)
    | none => some (x.mul w)
  | _, _ => none

/-- The accumulator after one row against one column: groups of 32 for narrow operands, one k at a time for f32 and f64. -/
def accumulate (narrow : Bool) (fmt : Nat) : Nat → Num → List Num → List Num → Num
  | 0, acc, _, _ => acc
  | fuel + 1, acc, xs, ws =>
    let step := if narrow then 32 else 1
    match (if xs.isEmpty then none else groupSum (xs.take step) (ws.take step)) with
    | none => acc
    | some g => accumulate narrow fmt fuel (decodeNum fmt (roundRne fmt (Num.add 0 acc g))) (xs.drop step) (ws.drop step)

/-- Rows x of the left operand against the bank's columns; an empty row is padding and leaves its accumulator alone. -/
def Core.streamRows (c : Core) (k : Call) (m : MRef) (narrow : Bool) (cols : List (List Num)) : Nat → List (List Num) → Core
  | _, [] => c
  | a, x :: xs =>
    let c := if x.isEmpty then c
      else c.putAccRow k m a ((List.zip (c.accRow m a) cols).map fun p => accumulate narrow m.accFmt 128 p.1 x p.2)
    Core.streamRows c k m narrow cols (a + 64 * m.width) xs

def columnsOf (w : List (List Num)) : List (List Num) := (List.range 64).map fun n => w.map fun r => r.getD n (.fin false 0 0)

/-- Padding rows of a reference under the bucket flag (R132, R146): logical rows at or beyond rows − p. -/
def Operand.padRow (o : Operand) (k : Call) (i : Nat) : Bool :=
  k.flags.getLsbD 2 && decide (i + k.pad ≥ (if o.ref.t then o.desc.cols else o.desc.rows))

/-- STRM (R129, R137): without an active bank it takes MX_OPERAND, as with one that holds no valid weights (DESIGN CHOICE, log 88). -/
def execStrm (xa xc : BitVec 4) (n : BitVec 6) (s : State) : Outcome :=
  s.micro "STRM" fun s r =>
    let m := mrefOf (r.getX xc)
    let n := n.toNat + 1
    match s.core.mx.active, s.core.operand r.call (r.getX xa), s.core.accAt r.call m n with
    | some b, some o, some a =>
      let w := s.core.mx.bank b
      let g := mxGroup o.desc.fmt
      if !w.valid || g.isNone || g != mxGroup w.fmt.toNat || !m.accIs (g == some 0) then .fail s cMxOperand
      else match s.scalesFor r.call false o o.ref.col0 with
        | (s, .error e) => microErr s e
        | (s, .ok sc) =>
          match s.elemRows o sc (o.padRow r.call) w.w.length o.ref.col0 n o.ref.row0 with
          | (s, .error e) => microErr s e
          | (s, .ok rows) => r.on (s.onCore fun c =>
              let c := c.streamRows r.call m (g != some 0 && g != some 1) (columnsOf w.w) a rows
              { c with mx := c.mx.setBank b { w with rows := true } })
    | _, _, _ => .fail s cMxOperand

/-! ### DRAIN (R114, R126, R146, R147) -/

/-- The bin of a drained value (R126). -/
def histBin (x : Num) (e0 : Int) : Nat :=
  match x with
  | .nan => 32
  | .inf _ => 31
  | .fin _ m e =>
    if m = 0 then 0
    else
      let k := e + bitLen m - 1
      if k < e0 then 0 else if k > e0 + 29 then 31 else (k - e0 + 1).toNat

def Core.countHist (c : Core) (x : Num) (e0 : Int) : Core :=
  let b := histBin x e0
  let h := c.mx.hist
  if hb : b < 33 then
    let n := h.get ⟨b, hb⟩
    { c with mx := { c.mx with hist := h.set b (if n = BitVec.allOnes 32 then n else n + 1) hb } }
  else c

/-- The random word of an element (R146). -/
def drainWord (seed : Word) (i j : Nat) : Nat :=
  (seed.toNat + i * 2 ^ 32 + j) * 0x9E3779B97F4A7C15 % 2 ^ 64 / 2 ^ 48

/-- Write one destination element; none is an operand error. The primary tile that the call fills takes an armed poison
(R337). -/
def Core.putDest (c : Core) (k : Call) (o : Operand) (i j code : Nat) : Option Core :=
  let es := o.esize
  let a := if o.ref.t then j else i
  let b := if o.ref.t then i else j
  let off : Int := a * o.desc.rstr + b * es
  if o.ref.kind = 1 then
    if off < 0 ∨ off + es > o.tile.bytes then none
    else some (c.callWrite k o.tile (o.tile.start + off.toNat) (toBytes es code))
  else if a > 7 ∨ (b + 1) * es > 256 then none
  else
    let v := BitVec.ofNat 5 (8 * o.bank + a)
    let keep : VReg := BitVec.ofNat 2048 ((2 ^ (8 * es) - 1) * 2 ^ (8 * es * b))
    some (c.setV v ((c.getV v &&& ~~~keep) ||| BitVec.ofNat 2048 (code * 2 ^ (8 * es * b))))

/-- One element of the drain: outside the destination nothing is written or counted. -/
def Core.drainOne (c : Core) (r : Run) (o : Operand) (i j : Nat) (x : Num) : Option Core :=
  let li := o.ref.row0 + i
  let lj := o.ref.col0 + j
  let a := if o.ref.t then lj else li
  let b := if o.ref.t then li else lj
  if a ≥ o.desc.rows ∨ b ≥ o.desc.cols then some c
  else
    let code := drainValue x (f32Num r.scale.toNat) o.desc.fmt r.mode.toNat r.sat (drainWord r.seed i j)
    match c.putDest r.call o li lj code with
    | none => none
    | some c =>
      let h := r.call.hist.toNat
      some (if bitsOf h 8 8 = 1 ∧ bitsOf h 7 0 = o.ref.desc then c.countHist (decodeNum o.desc.fmt code) o.desc.e0 else c)

def Core.drainCols (c : Core) (r : Run) (o : Operand) (i : Nat) : Nat → List Num → Option Core
  | _, [] => some c
  | j, x :: xs =>
    match c.drainOne r o i j x with
    | none => none
    | some c => Core.drainCols c r o i (j + 1) xs

/-- The rows of a drain, one after another: a row whose accumulators the rows before it have overwritten reads what they left (DESIGN CHOICE,
log 30: R146 is silent on a destination that overlaps its own accumulators). -/
def Core.drainRows (c : Core) (r : Run) (m : MRef) (o : Operand) (a : Nat) : Nat → Nat → Option Core
  | 0, _ => some c
  | n + 1, i =>
    if o.padRow r.call (o.ref.row0 + i) then Core.drainRows c r m o a n (i + 1)
    else
      let at' := a + 64 * m.width * i
      let c := if poisonedIn c.poison at' (64 * m.width) then c.unitUncorrectable else c
      match c.drainCols r o i 0 (c.accRow m at') with
      | none => none
      | some c => Core.drainRows c r m o a n (i + 1)

def execDrain (xc xd : BitVec 4) (n : BitVec 6) (s : State) : Outcome :=
  s.micro "DRAIN" fun s r =>
    let m := mrefOf (r.getX xc)
    let n := n.toNat + 1
    match s.core.operand r.call (r.getX xd), s.core.accAt r.call m n with
    | some o, some a =>
      if o.ref.kind = 0 ∨ (mxGroup o.desc.fmt).isNone ∨ !m.accIs (o.desc.fmt == 0) then .fail s cMxOperand
      else match s.core.drainRows r m o a n 0 with
        | none => .fail s cMxOperand
        | some c => r.on (s.onCore fun _ => c)
    | _, _ => .fail s cMxOperand

/-! ### Library routines (R142) -/

/-- The block loop of routines 0, 1, 3 and 7, which count their blocks in x8: no block, no iteration. -/
def blockLoop (k : Call) (m : Nat) (sparse : Bool) : List Instr :=
  let first := if k.routine = 0 ∨ k.routine = 7 then 1 else 2
  if bitsOf (k.p.get 3).toNat 31 16 = 0 then []
  else
    [Instr.setx 8 (BitVec.ofNat 55 (bitsOf (k.p.get 3).toNat 31 16)), (if sparse then Instr.ldwSparse 1 ((k.p.get 4).setWidth 2) else Instr.ldw 1), Instr.mxSwap, Instr.strm 0 2 (BitVec.ofNat 6 (m - 1)),
      (if sparse then Instr.addx 1 2 128 else Instr.addx 1 1 64), Instr.addx 0 2 (if sparse then 128 else 64),
      Instr.loopx 8 (BitVec.ofNat 6 first)]

/-- A library routine as micro-operations over x0 to x8; none when it needs 1 to 64 rows and has others (R137). -/
def libraryProg (k : Call) : Option (List Instr) :=
  let rows (w : Word) : Option Nat := if 1 ≤ w.toNat % 128 ∧ w.toNat % 128 ≤ 64 then some (w.toNat % 128) else none
  let n6 (m : Nat) : BitVec 6 := BitVec.ofNat 6 (m - 1)
  let p (i : Fin 8) : Word := k.p.get i
  match k.routine with
  | 0 => (rows (p 3)).map fun m => blockLoop k m false ++ [.mxEnd]
  | 1 => (rows (p 3)).map fun m => [.zacc 2 (n6 m)] ++ blockLoop k m false ++ [.mxEnd]
  | 2 => (rows (p 3)).map fun m =>
      [.sets 2, .setr ((p 3).extractLsb' 8 3) ((p 3).getLsbD 11) 4, .drain 0 1 (n6 m), .mxEnd]
  | 3 => (rows (p 3)).map fun m => [.zacc 2 (n6 m)] ++ blockLoop k m false ++
      [.sets 5, .setr ((p 5).extractLsb' 32 3) ((p 5).getLsbD 35) 6, .drain 2 4 (n6 m), .mxEnd]
  | 4 => some [.ldw 0, .mxEnd]
  | 5 => some [.ldwSparse 0 ((p 1).setWidth 2), .mxEnd]
  | 6 => (rows (p 2)).map fun m => [.strm 0 1 (n6 m), .mxEnd]
  | 7 => (rows (p 3)).map fun m => blockLoop k m true ++ [.mxEnd]
  | 8 => (rows (p 2)).map fun m => [.ldacc 0 1 (n6 m), .mxEnd]
  | 9 => (rows (p 1)).map fun m => [.zacc 0 (n6 m), .mxEnd]
  | _ => none

/-- A routine that MLOAD installed; its words have been validated. -/
def storedProg (words : List (BitVec 64)) : List Instr :=
  words.map fun w => match decodeMicro w with | .ok i => i | .error _ => .mxEnd

/-! ### Items of the call queue -/

/-- The routine state at the start of a call (R139). -/
def Call.start (k : Call) (prog : List Instr) : Run where
  call := k
  prog := prog
  pc := 0
  x := Vector.ofFn fun i : Fin 16 => if h : i.val < 8 then k.p.get ⟨i.val, h⟩
    else 0
  scale := 0x3F800000
  mode := k.vround.setWidth 3
  sat := k.vround.getLsbD 3
  seed := 0
  steps := 0
  done := prog.isEmpty

/-- The oldest item, a call, begins. -/
def State.startCall (s : State) (k : Call) : State :=
  let prog := if k.routine < 10 then libraryProg k
    else (s.core.mx.store.find? fun p => p.1 == k.routine).map fun p => storedProg p.2
  match prog with
  | none => s.onCore fun c => c.mxFail cMxOperand
  | some p => s.onCore fun c => { c with mx := { c.mx with run := some (k.start p) } }

def Core.popItem (c : Core) : Core := { c with mx := { c.mx with queue := c.mx.queue.drop 1, run := none } }

/-- A call completes: its primary tile is updated (R52, R135). -/
def Core.endCall (c : Core) (k : Call) : Core :=
  let c := c.popItem
  if k.flags.getLsbD 0 then c.tileReady (k.depth > 0 && c.depth > 0) k.tile
  else if k.flags.getLsbD 1 then c.setTileState k.tile.idx .empty else c

/-! ### MCOMP (R121, R144) -/

/-- Does element (i, x) rank above (j, y)? -/
def outranks (i : Nat) (x : Num) (j : Nat) (y : Num) : Bool :=
  match x, y with
  | .nan, .nan => decide (i < j)
  | .nan, _ => true
  | _, .nan => false
  | _, _ => y.abs.lt x.abs || (!x.abs.lt y.abs && decide (i < j))

/-- Positions of a group's N kept elements, ascending. -/
def keptOf (n : Nat) (xs : List Num) : List Nat :=
  let ps := numbered 0 xs
  (ps.filter fun p => decide ((ps.filter fun q => outranks q.1 q.2 p.1 p.2).length < n)).map (·.1)

/-- One row compressed: kept values, then its 64 bytes of metadata. -/
def compressRow (nm : BitVec 2) (fmt : Nat) (row : List Byte) : List Byte × List Byte :=
  let (n, m) := ratioOf nm
  let es := fmtWidth fmt / 8
  let b := if m = 4 then 2 else 3
  let code (i : Nat) : List Byte := (row.drop (es * i)).take es
  let groups := (List.range (256 / es / m)).map fun g =>
    (keptOf n ((List.range m).map fun i => decodeNum fmt (leVal (code (g * m + i))))).map fun p => (g * m + p, p)
  let kept := groups.flatten
  ((kept.map fun p => code p.1).flatten,
    toBytes 64 ((numbered 0 kept).foldl (fun acc p => acc + p.2.2 * 2 ^ (p.1 * b)) 0))

def State.runMcomp (s : State) (src dst : TileRef) (nm : BitVec 2) (fmt : BitVec 5) : State :=
  let nr := src.size * 64
  let rows := (List.range nr).map fun r => compressRow nm fmt.toNat (s.core.tileRead src (256 * r) 256)
  s.onCore fun c =>
    let bad := c.tilePoison src 0 src.bytes
    let c := c.tileWrite dst 0 ((rows.map (·.1)).flatten ++ (rows.map (·.2)).flatten)
    if bad then c.unitUncorrectable else c

/-- The oldest scale load that is still to be read is read, once the accesses before it are performed (R394); a translation fault stops the unit
(R265). -/
def State.readPending (s : State) : Option State :=
  match s.core.mx.pend with
  | [] => none
  | (t, after) :: r =>
    if s.core.mx.stop.isSome || after.any s.core.unperformed.contains then none
    else match s.readScales t with
      | (s, .ok bs) => some (s.onCore fun c => c.putScales t bs)
      | (s, .error (.trans code va)) => some (s.onCore fun c => c.mxStop code va)
      | (s, .error (.fatal code)) => some (s.onCore fun c => { c with mx := { c.mx with pend := r } }.unitFatal code)

/-! ### The events of the unit -/

/-- The oldest item of the queue completes (R136): a call whose last micro-operation is done, or an item that is one unit of
work. -/
def State.completeItem (s : State) : Outcome :=
  let c := s.core
  let no : Outcome := .refused (.notEnabled "MATRIX_CALL_COMPLETE")
  if c.mx.stop.isSome then no
  else match c.mx.queue with
    | .call k :: _ => if (c.mx.run.map (·.done)).getD false then .next (s.onCore fun c => c.endCall k) else no
    | .mload r ws _ :: _ => .next (s.onCore fun c =>
        { c.popItem with mx := { c.popItem.mx with store := (r, ws) :: c.mx.store.filter fun p => p.1 != r } })
    | .mswap _ :: _ =>
      if (c.mx.bank c.mx.loadBank).state = .draining then .next (s.onCore fun c => { c with mx := c.mx.drained c.mx.loadBank })
      else .next (s.onCore fun c => { c.popItem with mx := c.popItem.mx.swap })
    | .mcomp src dst nm fmt depth :: _ =>
      .next ((s.runMcomp src dst nm fmt).onCore fun c => c.popItem.tileReady (depth > 0 && c.depth > 0) dst)
    | _ => no

/-- MATRIX_CALL_COMPLETE (R136). -/
def execMatrixCallComplete (s : State) : Outcome :=
  match s.completeItem with
  | .next t => .next t.scanStart
  | o => o

/-- BANK_DRAINED (R129). -/
def execBankDrained (s : State) : Outcome :=
  let m := s.core.mx
  if m.bankA.state = .draining then .next (s.onCore fun c => { c with mx := c.mx.drained false })
  else if m.bankB.state = .draining then .next (s.onCore fun c => { c with mx := c.mx.drained true })
  else .refused (.notEnabled "BANK_DRAINED")

/-- Calls issued after a reload whose table was not read yet take it now, up to the next reload (R334). -/
def patchLate (t : Vector (BitVec 512) 256) : List MxItem → List MxItem
  | [] => []
  | .call k :: r =>
    (match k.late with
      | some o => .call { k with descs := overlayDescs t o, late := none }
      | none => .call k) :: patchLate t r
  | .reload w x o a :: r => .reload w x o a :: r
  | i :: r => i :: patchLate t r

/-- The table replaces the copy, and the item leaves the queue; a call that a restore has put it before goes on. -/
def Core.endReload (c : Core) (t : Vector (BitVec 512) 256) (o : List (Nat × BitVec 512)) : Core :=
  let c := { c with mx := { c.mx with queue := c.mx.queue.drop 1 } }
  { c with mx := { c.mx with descs := overlayDescs t o, queue := patchLate t c.mx.queue } }

/-- DESCRIPTOR_RELOAD (R334): its reads come after the core's earlier accesses; a translation fault of theirs is an engine fault of the unit, at a
restore too (R279). -/
def execDescriptorReload (s : State) : Outcome :=
  let no : Outcome := .refused (.notEnabled "DESCRIPTOR_RELOAD")
  if s.core.mx.stop.isSome then no
  else match s.core.mx.queue with
    | .reload _ (some t) o _ :: _ => .next (s.onCore fun c => c.endReload t o)
    | .reload w none o after :: _ =>
      if after.any s.core.unperformed.contains then no
      else match s.readTable w with
      | (s, .error (.trans code va)) => .next (s.onCore fun c => c.mxStop code va)
      | (s, .error (.fatal code)) => .next (s.onCore fun c => c.mxFail code)
      | (s, .ok t) => .next (s.onCore fun c => c.endReload t o)
    | _ => no

end Sys2Proof.Machine
end

