-- ==== Sys2Proof/Machine/CoreEvents.lean ====
section
/-! DEFINITION. The events of a core: results and loads that arrive, engine fault reports (R265), imprecise faults (R266),
rollbacks (R271, R272), the ends of parts (R24, R66), caught errors of contained nodes (R274, R275), stops for pre-emption
(R277, R278) and STEST (R284). -/

namespace Sys2Proof.Machine

/-! ### Arrivals -/

/-- RESULT_LAND (R44); what lands in the next bundle's cycle waits for a bundle that TRET replays (R405). -/
def execResultLand (s : State) : Outcome :=
  if s.core.fetch.replay.isNone && s.core.flight.any fun f => decide (f.land ≤ s.core.fetch.cycle) then .next (s.onCore Core.landDue)
  else .refused (.notEnabled "RESULT_LAND")

/-- LOAD_RETURN (R365): a load that met no fault, and whose access has been performed (R204). -/
def execLoadReturn (k : Nat) (s : State) : Outcome :=
  match s.core.loads[k]? with
  | some l =>
    if l.fault.isSome || l.late then .refused (.notEnabled "LOAD_RETURN")
    else .next (s.onCore fun c => { c with loads := dropAt k c.loads }.returnLoad l)
  | none => .refused (.notEnabled "LOAD_RETURN")

/-! ### Engine fault reports (R257, R265) -/

/-- The eng code of a command (R257). -/
def engineOf (k : Command) : Nat :=
  match k.op with
  | .qpoolSplit _ | .qpoolOrdered _ | .qgath _ | .skrd _ | .hrctlSetGroup _ | .hrctlInvalidateTable _ | .hrctlWriteBack _
  | .hrctlClearSketch _ | .wpin _ | .wpinLoad _ | .wunpin _ => 3
  | .cupdSgd _ | .cupdAdagrad _ | .cupdRowwiseAdagrad _ | .cupdAdam _ | .fbktMod _ | .fbktRange _ | .fbktHash _ => 4
  | .fxch _ | .fxchPayload _ | .fredAll _ | .fredRoot _ => 5
  | .bcopy _ | .bcopyVerify _ | .bdrop _ | .bholdList _ | .bholdRoot _ | .blookLeaf _ | .blookInterior _ | .bread _
  | .breadVerify _ | .bswap _ | .bwalkLeaf _ | .bwalkElement _ => 6
  | _ => k.unit

/-- The matrix unit's stop, if it has not been reported. -/
def Core.matrixReport (c : Core) : Option (Nat × Nat × Nat × Core) :=
  if c.mx.told then none else c.mx.stop.map fun p => (2, p.1, p.2, { c with mx := { c.mx with told := true } })

/-- The first stop that has not been reported: the engine, its cause and address, and the core that has reported it. -/
def Core.unreported (c : Core) : Option (Nat × Nat × Nat × Core) :=
  match c.copy.cmds.find? fun k => k.stop.isSome && !k.told with
  | some k => k.stop.map fun p => (engineOf k, p.1, p.2, c.mapCmd k.id fun x => { x with told := true })
  | none =>
    c.matrixReport.or <|
      (List.range 8).findSome? fun i =>
        let w := BitVec.ofNat 3 i
        let x := c.stream w
        if x.told then none else x.stop.map fun p => (x.unit, p.1, p.2, c.setStream w { x with told := true })

def MxItem.depth : MxItem → Nat
  | .call k => k.depth
  | .mload _ _ d => d
  | .mswap d => d
  | .mcomp _ _ _ _ d => d
  | .reload _ _ _ _ => 0

/-- Are matrix items of the innermost region still queued? A rollback waits for them (R271). -/
def Core.regionItems (c : Core) : Bool := c.mx.queue.any fun i => decide (i.depth ≥ c.depth)

/-- The stop that may be reported: while a rollback waits, only the matrix unit's that keeps the region's items from completing (R280,
log 60). -/
def Core.reportDue (c : Core) : Option (Nat × Nat × Nat × Core) :=
  if c.bound.rollback.isNone then c.unreported else if c.regionItems then c.matrixReport else none

/-- ENGINE_FAULT_REPORT: at a boundary outside handler state the core takes the trap; its bundle stream is not replayed. -/
def execEngineFaultReport (s : State) : Outcome :=
  if s.core.part.halted || s.core.handler.active || s.core.part.status != .running then .refused (.notEnabled "ENGINE_FAULT_REPORT")
  else match s.core.reportDue with
    | none => .refused (.notEnabled "ENGINE_FAULT_REPORT")
    | some (eng, code, va, c) =>
      .next (s.onCore fun _ => c.takeTrap ⟨code, 0, 2, eng, some va, false, 0, []⟩ c.fetch.pc)

/-! ### Stopping a task's cores (R266, R275) -/

/-- A core whose task ends: issue stops, and its commands are cancelled at their units and signal nothing. -/
def Core.kill (c : Core) : Core :=
  let st := match c.part.status with
    | .ended a => PartStatus.ended a
    | .ending a => .ending a
    | .none => .none
    | _ => .ending false
  let c := (c.copy.cmds.foldl Core.releaseTiles c).dropItems
  let c := c.endPart false
  { c with
    copy := { c.copy with streams := c.copy.streams.map fun _ => ⟨none, 0, 0, [], [], none, false, 0, []⟩
                          aq0 := [], aq1 := [], dq0 := [], dq1 := [], cmds := [], fences := [], fence := [], fenced := [] }
    mx := { c.mx with run := none, stop := none, told := false }
    bound := ⟨none, false, [], [], false, false⟩
    part := { c.part with status := st, scan := 0, halted := false, step := .none } }

/-- Stop every core of a task. `flush` says that the stores that its cores have issued are performed first; a contained node's are
discarded (R247, R275). -/
def State.killTask (s : State) (n : Nat) (flush : Bool := true) : State :=
  let ids := (s.cores.filter fun c => c.part.task == n && c.part.status != .none).map (·.id)
  let s := if flush then ids.foldl (fun s c => (s.atCore c fun s => (s.flushStreams, ())).1) s else s
  let s := s.mapCores fun c => if c.part.task = n ∧ c.part.status ≠ .none then c.kill else c
  { s with ferry := { s.ferry with reports := s.ferry.reports.filter fun r => !ids.contains r.core } }

/-- Codes that a contained node catches outside every region (R274). -/
def caughtCode (code : Nat) : Bool := code == cUncorrectable || code == cChkFail || code == cPoison

/-- The task ends FAULTED with a cause once its cores' parts are over; a fatal-fault event is made (R250, R266). What a contained node
has not performed yet is discarded with what it has staged (R247). -/
def State.faultTask (s : State) (t : Task) (code : Nat) : State :=
  let s := s.killTask t.num (!s.contained t)
  let s := s.mapTask t.num fun t => { t.unstaged with status := stFaulted, cause := code }
  s.emit ⟨2, s.queueOf t, t.tid, BitVec.ofNat 64 code⟩

/-- The pending fatal fault of the focused core and its task. -/
def State.pendingFatal (s : State) : Option (Nat × Option Task) := s.core.bound.fatal.head?.map fun code => (code, s.task)

/-- The one that may be taken: a fault that a halted core's command meets waits for the resume (R291). -/
def State.dueFatal (s : State) : Option (Nat × Option Task) :=
  if s.core.part.halted && s.core.part.status == .running then none else s.pendingFatal

/-- IMPRECISE_FAULT (R266). -/
def execImpreciseFault (s : State) : Outcome :=
  match s.dueFatal with
  | none => .refused (.notEnabled "IMPRECISE_FAULT")
  | some (_, none) => .next (s.onCore fun c => { c with bound := { c.bound with fatal := [] } })
  | some (code, some t) =>
    if t.status ≠ 0 ∨ t.phase = .over ∨ s.core.part.status = .none then .next (s.onCore fun c => { c with bound := { c.bound with fatal := [] } })
    else if caughtCode code && s.contained t then .refused (.notEnabled "IMPRECISE_FAULT")
    else .next (s.faultTask t code)

/-- CONTAINED_REQUEUE (R247, R275): the node's staged writes are discarded and its card re-enters the pool, unless it would
exceed its queue's maxrq. A snapshot that waited for it is none of the new run's. -/
def execContainedRequeue (s : State) : Outcome :=
  match s.dueFatal with
  | some (code, some t) =>
    if t.status ≠ 0 || t.phase == .over || !caughtCode code || !s.contained t then .refused (.notEnabled "CONTAINED_REQUEUE")
    else match s.cardOf t.card with
      | none => .refused (.notEnabled "CONTAINED_REQUEUE")
      | some c =>
        if c.nrq + 1 > (s.queue c.queue).cfg.maxrq.toNat then .next (s.faultTask t code)
        else
          let s := (s.killTask t.num false).freeBerth t.num
          let s := s.mapCard c.num fun c => { c with nrq := c.nrq + 1 }
          let s := { s with hm := { s.hm with snapWait := s.hm.snapWait.filter fun x => x.1 != t.num } }
          .next (s.mapTask t.num fun t =>
            { t.unstaged with phase := .requeue, cores := [], saved := [], epoch := 0, paths := [], acks := [], joins := [] })
  | _ => .refused (.notEnabled "CONTAINED_REQUEUE")

/-! ### Rollback (R271, R272) -/

/-- The records of the log from a position to its end: kind, where, old bytes; the last first. -/
def Core.logRecords (c : Core) : Nat → Nat → List (Nat × Nat × List Byte) → List (Nat × Nat × List Byte)
  | 0, _, acc => acc
  | fuel + 1, p, acc =>
    if p ≥ c.regions.logPos then acc
    else
      let h := leVal (c.spRead p 8)
      let n := bitsOf h 43 32
      Core.logRecords c fuel (p + 8 + padTo8 n) ((bitsOf h 25 24, bitsOf h 20 0, c.spRead (p + 8) n) :: acc)

/-- Undo one record. -/
def Core.undo (c : Core) (r : Nat × Nat × List Byte) : Core :=
  let (kind, at', bs) := r
  if kind = 0 then c.spWrite at' bs
  else if kind = 1 then c.setS (BitVec.ofNat 6 at') (BitVec.ofNat 64 (leVal bs))
  else c.setRows (8 * at') ((List.range 8).map fun i => BitVec.ofNat 2048 (leVal ((bs.drop (256 * i)).take 256)))

/-- The scale tiles of the SCLDs in flight, or frozen in the units, that no call can see: a rollback discards them (R395). -/
def Core.looseScales (c : Core) : List ScaleTile :=
  (c.flight ++ c.handler.frozen.map (·.2)).filterMap fun f =>
    match f.res with
    | .scale _ t => if c.mx.holdsScales t then none else some t
    | _ => none

/-- Does the address lie among a tile's scales? -/
def ScaleTile.covers (t : ScaleTile) (va : Nat) : Bool := decide (t.base ≤ va) && decide (va < t.base + t.count)

/-- The matrix unit after a rollback: what stopped it goes to the handler again, save on the reads of a load that is discarded (R271,
R395). -/
def Core.mxRolledBack (c : Core) : Matrix :=
  let gone := c.looseScales
  { c.mx with
    told := false
    pend := c.mx.pend.filter fun p => !gone.contains p.1
    stop := if c.mx.stop.any fun p => gone.any fun t => t.scales.isNone && t.covers p.2 then none else c.mx.stop }

/-- The loops of the context: in handler state, those that the trap interrupted. -/
def Core.contextLoops (c : Core) : List LoopLevel := if c.handler.active then c.handler.loops else c.loops

/-- The innermost region rolls back; its matrix items are done, and the tiles that it has filled become empty. -/
def Core.rollBack (c : Core) (why : Nat) (r : Region) : Core :=
  let d := c.depth
  let gone := c.copy.cmds.filter fun k => decide (k.depth ≥ d)
  let c := gone.foldl (fun c k => (c.releaseTiles k).dropCmd k.id) c
  let c := (c.regions.filled.filter fun f => decide (f.1 ≥ d)).foldl (fun c f => c.setTileState f.2 .empty) c
  let c := (c.logRecords (c.regions.logPos / 8 + 1) r.logMark []).foldl Core.undo c
  let loops := keepLevels r.target c.contextLoops
  { c with
    flight := [], loads := []
    handler := Handler.reset
    regions := { c.regions with stack := c.regions.stack.drop 1, logPos := r.logMark, buf := c.regions.buf.filter fun b => decide (b.depth < d),
                                filled := c.regions.filled.filter fun f => decide (f.1 < d) }
    copy := { c.copy with aq0 := [], aq1 := [], dq0 := [], dq1 := []
                          cmds := c.copy.cmds.map fun k => { k with told := false }
                          streams := c.copy.streams.map fun w => { w.dropRegion d with told := false } }
    mx := c.mxRolledBack
    twinS := ⟨0, 0, false⟩, twinV := ⟨0, 0, false⟩
    ctl := { c.ctl with rgn := BitVec.ofNat 64 ((d - 1) + d * 2 ^ 3 + why * 2 ^ 6 + 2 ^ 10) }
    loops := loops
    pend := Vector.ofFn fun i : Fin 6 => if loops.length ≤ i.val ∧ i.val < c.contextLoops.length then none else c.pend.get i
    fetch := { c.fetch with pc := r.target, redirect := none, skip := none, replay := none, after := false }
    sync := { c.sync with waiting := [] }
    bound := { c.bound with rollback := none, byUnit := false, faulted := [] } }

/-- The rollback that may be taken: one for an error that a command or an item of a halted core meets waits for the resume (R291). -/
def Core.rollbackDue (c : Core) : Option Nat :=
  if c.part.halted && c.part.status == .running && c.bound.byUnit then none else c.bound.rollback

/-- What follows a rollback: accesses that stood behind a discarded push, and the translations that walks have taken from stores which are
discarded (R198, R429). -/
def State.afterRollback (s : State) (stores : Bool) : State :=
  let s := s.releaseAll
  if stores then (s.dropWalks s.root).onCore fun c => { c with tlb := [] } else s

/-- ROLLBACK: while matrix items of the region are queued the core waits for them. -/
def execRollback (s : State) : Outcome :=
  let c := s.core
  match c.rollbackDue, c.regions.stack with
  | some why, r :: _ =>
    if c.regionItems then .refused (.notEnabled "ROLLBACK")
    else .next ((s.onCore fun c => c.rollBack why r).afterRollback (!c.regions.buf.isEmpty))
  | _, _ => .refused (.notEnabled "ROLLBACK")

/-! ### The end of a part (R24, R66, R402) -/

/-- Is nothing outstanding that a part waits for? -/
def Core.finished (c : Core) : Bool :=
  c.copy.cmds.isEmpty && c.mx.queue.isEmpty && c.sync.rels.isEmpty && c.bound.fatal.isEmpty && c.unperformed.isEmpty

/-- May a waiting KPEER still land (R54)? -/
def State.peerLands (s : State) (c : Core) (k : Command) : Bool :=
  let b := k.block.toNat
  !(k.after.any c.outstanding.contains) &&
    (match s.coreOf (bitsOf b 15 8) with | some r => r.ringTakes (BitVec.ofNat 4 (bitsOf b 19 16)) (bitsOf b 52 32) | none => false)

/-- R360: every core of the task has reached its end, and nothing is left of it but copies that find no slot. -/
def State.neverPlaced (s : State) (n : Nat) : Bool :=
  let mine := s.cores.filter fun c => c.part.task == n && c.part.status != .none
  let peers := mine.flatMap fun c => c.copy.cmds.map fun k => (c, k)
  !peers.isEmpty && mine.all (fun c => c.departed && c.mx.queue.isEmpty && c.sync.rels.isEmpty && c.bound.fatal.isEmpty) &&
    peers.all fun p => (match p.2.op with | .kpeer _ => true | _ => false) && !p.2.sig && p.2.stop.isNone && !s.peerLands p.1 p.2

/-- CORE_PART_END: the part is over, and counts as arrived at every barrier (R335); with the last one the task ends. -/
def execCorePartEnd (s : State) : Outcome :=
  match s.core.part.status with
  | .ending a =>
    if !s.core.finished then
      match s.task with
      | some t => if s.neverPlaced t.num then .next (s.faultTask t cIllegalOperation) else .refused (.notEnabled "CORE_PART_END")
      | none => .refused (.notEnabled "CORE_PART_END")
    else
      let n := s.core.part.task
      let s := (s.onCore fun c => { c with part := { c.part with status := .ended a, clean := false } }).joinEnded
      match s.taskOf n with
      | some t => .next (if s.allEnded n && (t.phase == .running || t.phase == .stopping) then s.endTask t (s.taskStatus t) else s)
      | none => .next s
  | _ => .refused (.notEnabled "CORE_PART_END")

/-- POOL_CLEAR_DONE (R66). -/
def execPoolClearDone (s : State) : Outcome :=
  let done := match s.core.part.status with | .ended _ => true | .none => true | _ => false
  if done && !s.core.part.clean then
    .next (s.onCore fun c => { c with pool := [], poison := [], part := { c.part with clean := true } })
  else .refused (.notEnabled "POOL_CLEAR_DONE")

/-! ### Pre-emption (R249, R277 to R279) -/

/-- Does the core hold on to its part of a task: has it not ended, and is it not saved? -/
def Core.inPart (c : Core) : Bool :=
  match c.part.status with
  | .running | .scanning | .ending _ => true
  | _ => false

/-- WAITING_BUDGET_EXHAUSTED (R249): the core's budget is zero, and its whole task is pre-empted for a snapshot. -/
def execWaitingBudgetExhausted (s : State) : Outcome :=
  match s.task with
  | some t =>
    if t.phase == .running && s.core.ctl.wbudget == 0 && s.core.inPart then
      let s := s.preemptTask t.num
      .next { s with hm := { s.hm with snapWait := s.hm.snapWait ++ [(t.num, s.core.id)] } }
    else .refused (.notEnabled "WAITING_BUDGET_EXHAUSTED")
  | none => .refused (.notEnabled "WAITING_BUDGET_EXHAUSTED")

/-- A STEST is over (R284): the core resumes with a status in s63, or stays where it is. -/
def Core.stestResult (c : Core) (st : Nat) : Core :=
  { c.setS 63 (BitVec.ofNat 64 st) with part := { c.part with status := .running, scan := 0 } }

/-- A restored context takes its cores back (R279): translations are dropped, the monitor is re-armed, and the descriptor
copy is reloaded ahead of the saved items. -/
def Core.restored (c : Core) : Core :=
  { c with
    tlb := []
    sync := if c.armed.isSome then { c.sync with restored := true } else c.sync
    mx := { c.mx with queue := .reload c.ctl.tdt none [] c.pushesBefore :: c.mx.queue }
    bound := { c.bound with preempt := false }
    part := if c.part.status = .saved then { c.part with status := .running } else c.part }

/-- The loads whose fault has not been taken are reissued at their latched addresses as the core resumes (R264, R279). -/
def State.reissueFaulted (s : State) : State :=
  let (s, ls) := s.core.loads.foldl (fun (s, ls) l =>
    let (s, l) := if l.fault.isSome then s.reread l else (s, l)
    (s, ls ++ [l])) (s, [])
  s.onCore fun c => { c with loads := ls }

/-- The core of a STEST resumes with a status; every translation is left uncached (R279, R284). A pre-emption that has been signalled
stands. -/
def State.resumeScan (s : State) (status : Nat) : State :=
  let signalled := s.core.bound.preempt
  let resume (c : Core) : Core := { (c.stestResult status).restored with bound := { c.bound with preempt := signalled } }
  ((s.dropWalks s.root).onCore resume).reissueFaulted

/-- Write a scan-log record and raise the management-interrupt event with its index (R284, R436). -/
def State.logScan (s : State) (outcome spare : Nat) : State :=
  let c := s.core
  let phys := ((s.maps.core.toList.getD c.id none)).getD 0
  let r : ScanRecord := ⟨c.id, outcome, if onDeckB c.id then 1 else 0, phys, spare, c.ctl.task, c.part.scanAt, s.time⟩
  let i := s.pilot.scanIdx
  let s := { s with pilot := { s.pilot with scanLog := s.pilot.scanLog.set i r, scanIdx := (i + 1) % 1024 } }
  s.emit ⟨7, s.taskQueue, c.ctl.task, BitVec.ofNat 64 i⟩

/-- Does something wait at the boundary that is taken ahead of a pre-emption (R280)? What a halted core's waits for the resume
(R291). -/
def State.beforePreemption (s : State) : Bool :=
  let c := s.core
  s.dueFatal.isSome || c.rollbackDue.isSome ||
    (!c.part.halted && (c.loads.any (fun l => l.fault.isSome) || (!c.handler.active && c.unreported.isSome)))

/-- CORE_PREEMPT_STOP (R277, R280): a signalled core stops at a boundary and is saved where it is; a STEST is abandoned. -/
def execCorePreemptStop (s : State) : Outcome :=
  let c := s.core
  if c.bound.preempt && c.part.status == .running && !s.beforePreemption then
    .next (s.onCore fun c =>
      let c := c.settleLoads
      { c with part := { c.part with status := .saved } })
  else if c.bound.preempt && c.part.status == .scanning then
    .next ((s.logScan 2 0).onCore fun c =>
      let c := c.stestResult 2
      { c with part := { c.part with status := .saved } })
  else .refused (.notEnabled "CORE_PREEMPT_STOP")

/-! ### STEST's outcomes (R283, R284) -/

/-- The next spare physical core of a deck, taken from its list. -/
def Maps.takeSpare (m : Maps) (core : Nat) : Option (Nat × Maps) :=
  match (if onDeckB core then m.spareB else m.spareA) with
  | [] => none
  | p :: r => some (p, if onDeckB core then { m with spareB := r } else { m with spareA := r })

def State.setPhys (s : State) (core : Nat) (p : Option Nat) : State :=
  if h : core < 224 then { s with maps := { s.maps with core := s.maps.core.set core p h } } else s

/-- Is the context one whose part has not ended? -/
def Core.unended (c : Core) : Bool := match c.part.status with | .ended _ => false | _ => true

/-- The saved part that a task has on a core that is retired under another task cannot go on: it ends ABORTED as a part in STEST does, its
commands cancelled (DESIGN CHOICE, log 88: R12 and R243 do not say what becomes of it). -/
def Task.losePart (n : Nat) (t : Task) : Task :=
  match t.saved.find? fun c => c.id == n && c.unended with
  | none => t
  | some k =>
    { t.firstCode 0x10000 with
      saved := t.saved.map fun c =>
        let c := k.lineSet 0x10000 c
        if c.id = n then { c.kill with part := { c.kill.part with status := .ended true } } else c }

/-- A core has been retired: the saved parts on it end, and the first abort of a task cluster makes its event (R250). -/
def State.retireSaved (s : State) (n : Nat) : State :=
  let lost (t : Task) (new : Bool) : Bool := t.saved.any fun c => c.id == n && c.unended && (!new || !c.ctl.abort.getLsbD 32)
  (s.hm.tasks.filter fun t => lost t false).foldl (fun s t =>
    let u := s.mapTask t.num (Task.losePart n)
    if lost t true then u.emit ⟨3, s.queueOf t, t.tid, 0x10000⟩ else u) s

/-- STEST_PATTERN_END, after 200 µs: the signature passes, or the core is replaced by a spare, or it is retired and its part ends
ABORTED with code 0x0001_0000. A test that a pre-emption abandons stops before its end (R284, R437). -/
def execStestPatternEnd (pass : Bool) (s : State) : Outcome :=
  let s := s.scanStart
  if s.core.bound.preempt || s.core.part.status != .scanning || s.core.part.scan != 2 || decide (s.time < s.core.part.scanAt + 200000) then
    .refused (.notEnabled "STEST_PATTERN_END")
  else if pass then .next ((s.logScan 0 0).resumeScan 0)
  else match s.maps.takeSpare s.core.id with
    | some (p, m) =>
      let s := { s.logScan 1 p with maps := m }
      .next ((s.setPhys s.core.id (some p)).resumeScan 1)
    | none =>
      .next (((((s.logScan 3 0).setPhys s.core.id none).setAbortLine 0x10000).onCore fun c =>
        { c.endPart true with part := { (c.endPart true).part with scan := 0 } }).retireSaved s.core.id)

/-- STEST_DRAIN_TIMEOUT: commands are still running more than 1 ms after the drain began; the test is abandoned. -/
def execStestDrainTimeout (s : State) : Outcome :=
  let s := s.scanStart
  if s.core.part.status == .scanning && s.core.part.scan == 1 && decide (s.core.part.scanAt + 1000000 < s.time) then
    .next ((s.logScan 2 0).resumeScan 2)
  else .refused (.notEnabled "STEST_DRAIN_TIMEOUT")

end Sys2Proof.Machine
end

