-- ==== Sys2Proof/Machine/FerryEvents.lean ====
section
/-! DEFINITION. The events of the Ferry and the fabric: messages of exchanges (R183 to R186, R190), flush markers and
acknowledgements (R209), revocations (R181), remote accesses (R208), joined barrier arrivals (R446) and path failures
(R209). -/

namespace Sys2Proof.Machine

/-! ### Messages of exchanges -/

/-- COUNT_MESSAGE (R183, R442): written to rctile, or kept. -/
def execCountMessage (p : XPkt) (s : State) : Outcome := .next (s.receive p.module p.psn fun s => s.arriveCount p)

/-- PAYLOAD_MESSAGE (R184, R185): placed, held or refused. -/
def execPayloadMessage (p : XPkt) (s : State) : Outcome := .next (s.receive p.module p.psn fun s => s.arrivePayload p)

/-- FRED_CONTRIBUTION (R190). -/
def execFredContribution (p : XPkt) (s : State) : Outcome := .next (s.receive p.module p.psn fun s => s.arrivePayload p)

/-- The command of a number, with the core that issued it. -/
def State.sender (s : State) (id : Nat) : Option (Core × Exchange) :=
  s.allCores.findSome? fun c => (c.copy.cmds.find? fun k => k.id == id).bind fun k => k.fx.map fun x => (c, x)

/-- PAYLOAD_ACK (R186): one message to another module is acknowledged; with the last one nothing of the exchange is held. -/
def execPayloadAck (id : Nat) (s : State) : Outcome :=
  match s.sender id with
  | some (c, x) =>
    if x.unacked = 0 then .refused (.notEnabled "PAYLOAD_ACK")
    else
      let s := s.mapAllCores fun c => c.mapCmd id fun k => { k with fx := k.fx.map fun (y : Exchange) => { y with unacked := y.unacked - 1 } }
      .next (if x.unacked = 1 ∧ !s.ferry.holds c.id x then s.dropReport c.id x.tag else s)
  | none => .refused (.notEnabled "PAYLOAD_ACK")

/-- REFUSAL_REPORT (R185): the latest report of an exchange in which a core of this module is held; a duplicate is discarded (R179). -/
def execRefusalReport (p : RefusalPkt) (s : State) : Outcome :=
  let r := p.report
  let mine (c : Core) : Bool := c.id == r.core && c.copy.cmds.any fun k =>
    match k.fx with | some x => x.tag == r.tag | none => false
  if s.allCores.any mine then .next (s.receive p.src.module p.src.psn fun s =>
    let s := s.dropReport r.core r.tag
    { s with ferry := { s.ferry with reports := r :: s.ferry.reports } })
  else .refused (.notEnabled "REFUSAL_REPORT")

/-! ### Flush markers (R209) -/

/-- FLUSH_MARKER: collected for its module, key, anchor core and epoch; with all of them there, and what came before them performed,
acknowledged. -/
def execFlushMarker (m : MarkerPkt) (s : State) : Outcome :=
  .next (s.receive m.module m.psn fun s =>
    if s.ferry.revoked.contains m.key then s.keyError 0 m.module
    else { s with ferry := ({ s.ferry with markers := s.ferry.markers ++ [m] } : Ferry).ackFlushes })

/-- Does the core wait for an acknowledgement? -/
def Core.awaits (c : Core) (a : Nat × BitVec 32) : Bool :=
  c.sync.rels.any (fun r => r.waits.contains a) || c.copy.cmds.any fun k => k.waits.contains a

/-- An acknowledgement has come. -/
def Core.acked (c : Core) (a : Nat × BitVec 32) : Core :=
  { c with
    sync := { c.sync with rels := c.sync.rels.map fun (r : Release) => { r with waits := r.waits.filter (· != a) } }
    copy := { c.copy with cmds := c.copy.cmds.map fun (k : Command) => { k with waits := k.waits.filter (· != a) } } }

/-- FLUSH_ACK: the releases of the task's context that wait for the module's acknowledgement of an epoch. -/
def execFlushAck (task module : Nat) (epoch : BitVec 32) (s : State) : Outcome :=
  let a := (module, epoch)
  let f (c : Core) : Core := if c.part.task = task then c.acked a else c
  if s.allCores.any fun c => c.part.task == task && c.awaits a then .next (s.mapAllCores f)
  else .refused (.notEnabled "FLUSH_ACK")

/-- Is a marker of this module still to be acknowledged? -/
def State.markerOut (s : State) (module : Nat) (m : MarkerPkt) : Bool := s.allCores.any fun c => c.awaits (module, m.epoch)

/-- Is an access one that its issuer has no answer to yet? Reads and atomic steps are answered as they are performed. -/
def isPosted : RemoteOp → Bool
  | .write _ | .release _ _ | .signal => true
  | _ => false

/-- Has a flush that is acknowledged covered a packet sent on a path? -/
def State.flushCovers (s : State) (module : Nat) (path : BitVec 4) (p : RemotePkt) : Bool :=
  s.ferry.sent.any fun x =>
    match x with
    | .marker m k => m == module && k.path == path && k.key == p.key && decide (p.psn < k.psn) && !s.markerOut module k
    | _ => false

/-- Has the command messages that are not acknowledged? -/
def State.unacked (s : State) (id : Nat) : Bool := match s.sender id with | some (_, x) => decide (x.unacked > 0) | none => false

/-- A packet with another path for one of its paths. -/
def movedPkt (p : XPkt) (path newPath : BitVec 4) : XPkt := { p with paths := p.paths.map fun q => if q = path then newPath else q }

/-- The packets sent on a path that are not acknowledged, as they go out again on another: a count is sent again while its exchange
goes on, since nothing says that it has arrived. -/
def State.sentAgain (s : State) (module : Nat) (path newPath : BitVec 4) : List Sent :=
  s.ferry.sent.filterMap fun x =>
    match x with
    | .remote m p q => if m = module ∧ q = path ∧ isPosted p.op ∧ !s.flushCovers module path p then some (Sent.remote m p newPath) else none
    | .payload id m p => if m = module ∧ p.paths.contains path ∧ s.unacked id then some (Sent.payload id m (movedPkt p path newPath)) else none
    | .count m p => if m = module ∧ p.paths.contains path ∧ s.sentBy p s.allCores then some (Sent.count m (movedPkt p path newPath)) else none
    | _ => none

/-- Its outstanding markers, likewise. -/
def State.marksAgain (s : State) (module : Nat) (path newPath : BitVec 4) : List Sent :=
  s.ferry.sent.filterMap fun x =>
    match x with
    | .marker m k => if m = module ∧ k.path = path ∧ s.markerOut module k then some (Sent.marker m { k with path := newPath }) else none
    | _ => none

/-- A path's unacknowledged packets are sent again, and its outstanding markers after them, on another path (R209). -/
def State.failOver (s : State) (module : Nat) (path newPath : BitVec 4) : State :=
  let move (p : Nat × BitVec 4) : Nat × BitVec 4 := if p = (module, path) then (module, newPath) else p
  { s with
    ferry := { s.ferry with sent := s.ferry.sent ++ s.sentAgain module path newPath ++ s.marksAgain module path newPath }
    hm := { s.hm with tasks := s.hm.tasks.map fun (t : Task) => { t with paths := (t.paths.map move).eraseDups } } }

/-- PATH_FAILURE. -/
def execPathFailure (module : Nat) (path newPath : BitVec 4) (s : State) : Outcome :=
  if path = newPath || s.ferry.pathDown module path || s.ferry.pathDown module newPath then .refused (.notEnabled "PATH_FAILURE")
  else
    let t := s.failOver module path newPath
    .next { t with ferry := { t.ferry with downPaths := t.ferry.downPaths ++ [(module, path, newPath)] } }

/-- The paths that packets have been sent on. -/
def Ferry.usedPaths (f : Ferry) : List (Nat × BitVec 4) :=
  (f.sent.flatMap fun x =>
    match x with
    | .remote m _ q => [(m, q)]
    | .payload _ m p => p.paths.map fun q => (m, q)
    | .count m p => p.paths.map fun q => (m, q)
    | .marker m k => [(m, k.path)]
    | _ => []).eraseDups

/-- A Ferry port goes down, and its paths fail over (R285, log 86). -/
def State.failPort (s : State) (port : Nat) : State :=
  let s := { s with ferry := { s.ferry with downPorts := port :: s.ferry.downPorts } }
  (s.ferry.usedPaths.filter fun p => Config.ferryPort p.1 p.2 % 8 == port).foldl
    (fun s p => s.failOver p.1 p.2 (s.ferry.pathFor p.1 p.2)) s

/-! ### Revocation (R181) -/

/-- Every exchange of the core whose peer table holds the key ends with FX_FENCED. -/
def Core.fence (c : Core) (key : BitVec 32) : Core :=
  let hit := c.copy.cmds.filter fun k => match k.fx with | some x => x.table.any fun e => e.2.2 == key | none => false
  hit.foldl (fun c k => ((c.releaseTiles k).dropCmd k.id).fatal cFxFenced) c

/-- REVOCATION_NOTICE: messages that carry the key and have not begun are dropped; what was kept of it can match nothing. -/
def execRevocationNotice (key : BitVec 32) (s : State) : Outcome :=
  let keep (p : XPkt) : Bool := p.key != key
  let s := s.mapAllCores fun c => c.fence key
  .next (({ s with ferry := { s.ferry with
    revoked := if s.ferry.revoked.contains key then s.ferry.revoked else key :: s.ferry.revoked
    keptCount := s.ferry.keptCount.filter keep
    keptData := s.ferry.keptData.filter keep } }).retryHeld)

/-! ### Remote accesses and barriers (R208, R446) -/

/-- Is the key on the group's list, and not revoked? -/
def Ferry.admits (f : Ferry) (group : Nat) (key : BitVec 32) : Bool :=
  !f.revoked.contains key && f.keyLists.any fun g => g.1 == group && (g.2.take 256).contains key

/-- Bytes that a remote access touches: an object's operations read its first 16. -/
def opSize : RemoteOp → Nat
  | .read n => n
  | .write bs => bs.length
  | .atom _ wide _ => if wide then 8 else 4
  | .cas wide _ _ => if wide then 8 else 4
  | _ => 16

/-- What an access leaves in the bytes it found; none where it writes nothing (R203, R206, R300, R322). -/
def opLeaves (op : RemoteOp) (old : List Byte) : Option (List Byte) :=
  let o := syncOf (leVal old)
  match op with
  | .read _ => none
  | .write bs => some bs
  | .atom code wide v => some (toBytes (opSize op) (atomNew code (if wide then 64 else 32) (leVal old) v.toNat))
  | .cas _ new cmp => if old = toBytes (opSize op) cmp.toNat then some (toBytes (opSize op) new.toNat) else none
  | .acquire core module => if o.illegal || !o.ready || o.mode == 2 then none else some (syncHead (o.acquired core module))
  | .release core module =>
    if o.illegal || (o.mode == 0 && (o.hcore != core + 1 || o.hmod != module)) then none
    else some (syncHead (if o.mode = 0 then { o with hcore := 0, hmod := 0 } else o).raised)
  | .signal => if o.illegal then none else some (syncHead o.raised)

/-- Does an access touch the spans of a region (R217)? No context maps them, and views do not reach the fabric (R233, log 71). -/
def State.inSpan (s : State) (pa n : Nat) : Bool :=
  s.bond.regions.toList.any fun r => r.valid && (List.range 8).any fun q =>
    let b := 0x010000000000 + q * 0x004000000000 + r.off.toNat
    decide (pa < b + r.span.toNat) && decide (b < pa + n)

/-- What a remote access finds goes back to its sender. -/
def Ferry.sendReply (f : Ferry) (p : RemotePkt) (bytes : List Byte) : Ferry :=
  { f with psn := f.psn + 1, sent := f.sent ++ [Sent.reply (f.header p.module p.key p.src p.tag 0) bytes] }

/-- REMOTE_ACCESS_PACKET: performed at this module's memory as one step (R210), or dropped and reported. Nothing is performed at an
unpopulated address, and poisoned data is not sent (R281). -/
def execRemoteAccessPacket (p : RemotePkt) (s : State) : Outcome :=
  .next (s.receive p.module p.psn fun s =>
    let n := opSize p.op
    if !s.ferry.admits p.group p.key || s.inSpan p.addr n then s.keyError 0 p.src
    else if n = 0 || !isDevice p.addr || !isDevice (p.addr + n - 1) then s
    else
      let old := s.mem.read p.addr n
      let bad := poisonedIn s.poison p.addr n
      let s := match opLeaves p.op old with
        | some bs => s.store p.addr bs
        | none => s.touch p.addr n
      match p.op with
      | .write _ => s
      | _ => if bad then s else { s with ferry := s.ferry.sendReply p old })

/-- The oldest open instance that lacks the module's joined arrival has it; an instance that lacks none is open no more. -/
def closeJoin (group module inst : Nat) : List OpenJoin → Option (List OpenJoin)
  | [] => none
  | o :: r =>
    if o.group == group && o.inst == inst && o.missing.contains module then
      let left := o.missing.erase module
      some (if left.isEmpty then r else { o with missing := left } :: r)
    else (closeJoin group module inst r).map fun r => o :: r

/-- Where the local members of a group's set have all ended, the instance that has come is joined for their task (R335, R446). -/
def State.joinForEnded (s : State) (group : Nat) : State :=
  match s.cores.find? fun c => c.part.status != .none && c.fabGroup == some group with
  | some c => (s.atCore c.id fun s => (s.joinEnded, ())).1
  | none => s

/-- FABRIC_BARRIER_ARRIVAL: at the oldest instance that this module has joined and that lacks it, or kept for one to come (R446); a duplicate
is discarded (R179). -/
def execFabricBarrierArrival (group : Nat) (src : PacketId) (inst : Nat) (s : State) : Outcome :=
  .next (s.receive src.module src.psn fun s =>
    match closeJoin group src.module inst s.ferry.opens with
    | some l => { s with ferry := { s.ferry with opens := l } }
    | none =>
      if s.ferry.joined.contains (group, src.module, inst) then s
      else { s with ferry := { s.ferry with joined := (group, src.module, inst) :: s.ferry.joined } }.joinForEnded group)

end Sys2Proof.Machine
end

