-- ==== Sys2Proof/Machine/HarbourEvents.lean ====
section
/-! DEFINITION. The events of the Harbourmaster (chapter 11): records and cards, dispatch and placement, code-image loads,
pre-emption and snapshots, completions, the event ring; and those of the Quays: promotions, write-backs, windows, and the
memory controllers (R158, R167, R248). -/

namespace Sys2Proof.Machine

def cRecordTorn : Nat := 0x150
def cRingOver : Nat := 0x151
def cRingAddr : Nat := 0x152

/-! ### Queues and records (R236 to R238) -/

/-- A queue fault (R236, R250): the queue's source becomes 0. -/
def State.queueFault (s : State) (q code : Nat) : State :=
  let x := s.queue q
  (s.setQueue q { x with cfg := { x.cfg with src := 0 }, rereads := 0 }).emit ⟨5, q, 0, BitVec.ofNat 64 code⟩

/-- A doorbell or a launch packet ends C3 (R290). -/
def State.wake (s : State) : State := if s.pilot.power = .c3 then { s with pilot := { s.pilot with power := .p0 } } else s

/-- A producer count too far ahead of the consumed count (R237). -/
def Queue.overrun (x : Queue) : Bool := x.cfg.src == 1 && decide ((x.prod - x.consumed).toNat > 2 ^ x.cfg.lsize.toNat)

/-- QUEUE_DOORBELL (R237). -/
def execQueueDoorbell (queue : Nat) (prod : BitVec 32) (s : State) : Outcome :=
  if queue ≥ 64 then .refused (.notEnabled "QUEUE_DOORBELL")
  else
    let s := s.wake
    let x := s.queue queue
    let s := s.setQueue queue { x with prod := prod }
    .next (if { x with prod := prod }.overrun then s.queueFault queue cRingOver else s)

/-- May the HM consume a record now (R242, R252, R290)? -/
def State.mayConsume (s : State) : Bool := !s.poolFull && s.canNumber && s.pilot.power != .c3

/-- The ring's physical addresses that the HM reaches (R193, R237). -/
def ringReaches (pa : Nat) : Bool :=
  match placeOf pa with
  | .hole => false
  | .remote _ _ => false
  | _ => true

def Queue.waits (x : Queue) : Bool := x.cfg.src == 1 && x.prod != x.consumed

/-- Read the record in hand: consume it when its stamp matches; the ninth failed read is RECORD_TORN. A poisoned record is no
match (log 69). -/
def State.readRecord (s : State) (q : Nat) : State :=
  let x := s.queue q
  let pa := x.cfg.rbase.toNat + 128 * (x.cfg.seq.toNat % 2 ^ x.cfg.lsize.toNat)
  if x.overrun then s.queueFault q cRingOver
  else if !ringReaches pa then s.queueFault q cRingAddr
  else
    let raw := s.mem.read pa 128
    if leVal (raw.drop 124) = x.cfg.seq.toNat ∧ !poisonedIn s.poison pa 128 then
      let s := s.consume q raw (some pa)
      let a := (s.queue q).cfg.consa.toNat
      if (List.range 4).all fun i => ringReaches (a + i) then s.store a (toBytes 4 (s.queue q).consumed.toNat) else s.queueFault q cRingAddr
    else if x.rereads ≥ 8 then s.queueFault q cRecordTorn
    else s.setQueue q { x with rereads := x.rereads + 1 }

/-- The held network record of the next stamp is consumed (R237). -/
def State.consumeHeld (s : State) (q : Nat) : Option State :=
  let x := s.queue q
  if x.cfg.src ≠ 2 then none
  else match x.held.find? fun h => h.1 == x.cfg.seq with
    | some h => some ((s.setQueue q { x with held := x.held.filter fun y => y.1 != x.cfg.seq }).consume q h.2 none)
    | none => none

/-- The next card of the LAUNCHes that waited is consumed (R252). -/
def State.consumeLaunch (s : State) (q : Nat) : Option State :=
  match s.hm.launches with
  | (n, addr, raw) :: r =>
    if n = q ∧ s.canNumber ∧ s.pilot.power ≠ .c3 then some (({ s with hm := { s.hm with launches := r } }).consume q raw (some addr)) else none
  | [] => none

/-- RECORD_READ (R237, R238, R241). -/
def execRecordRead (queue : Nat) (s : State) : Outcome :=
  let x := s.queue queue
  if let some t := s.consumeLaunch queue then .next t
  else if queue ≥ 64 || !s.mayConsume then .refused (.notEnabled "RECORD_READ")
  else if x.waits && x.rereads == 0 then .next (s.readRecord queue)
  else match s.consumeHeld queue with
    | some t => .next t
    | none => .refused (.notEnabled "RECORD_READ")

/-- RECORD_REREAD (R238). -/
def execRecordReread (queue : Nat) (s : State) : Outcome :=
  let x := s.queue queue
  if queue < 64 && s.mayConsume && x.waits && decide (x.rereads > 0) then .next (s.readRecord queue)
  else .refused (.notEnabled "RECORD_REREAD")

/-- A launch record that the network brings: checked against the queue's key and the window of stamps, then held (R237). -/
def State.takeLaunch (s : State) (p : LaunchPkt) : State :=
  let q := p.tag.toNat % 64
  let x := s.queue q
  let stamp := BitVec.ofNat 32 (leVal (p.record.drop 124))
  if s.ferry.revoked.contains p.key || x.cfg.src != 2 || p.key != x.cfg.key || decide ((stamp - x.cfg.seq).toNat ≥ 64) then
    s.keyError q p.src
  else if x.held.any fun h => h.1 == stamp then s
  else
    let s := s.setQueue q { x with held := x.held ++ [(stamp, p.record.take 128)] }
    if s.mayConsume then (s.consumeHeld q).getD s else s

/-- LAUNCH_PACKET (R237, R290): a duplicate is discarded (R179). -/
def execLaunchPacket (p : LaunchPkt) (s : State) : Outcome := .next (s.wake.receive p.src p.psn fun s => s.takeLaunch p)

/-! ### Dispatch (R242 to R244) -/

/-- The order of ready cards: deadline, queue, stamp; then the task's index. -/
def orderKey (c : Card) (t : Task) : Nat := ((c.deadline * 2 ^ 6 + c.queue) * 2 ^ 32 + c.stamp.toNat) * 2 ^ 26 + t.index

/-- Is the task ready? A card that must be retired EXPIRED is not. -/
def State.readyTask (s : State) (t : Task) : Option (Nat × Card × Task) :=
  match s.cardOf t.card with
  | some c =>
    if t.inPool && c.deps.isEmpty && !c.closed && !(t.phase == .pooled && c.late && !c.noDeadline && decide (s.time > c.deadline)) then
      some (orderKey c t, c, t)
    else none
  | none => none

def State.firstReady (s : State) : Option (Card × Task) :=
  (s.hm.tasks.foldl (fun best t =>
    match s.readyTask t, best with
    | some x, some b => if x.1 < b.1 then some x else some b
    | some x, none => some x
    | none, b => b) none).map fun x => x.2

/-- Is a logical core not retired (R283)? -/
def State.live (s : State) (n : Nat) : Bool := (s.maps.core.toList.getD n none).isSome

/-- Cores that will be free without any further pre-emption: those that are cleared now, and those of tasks that stop. -/
def State.comingFree (s : State) : List Nat :=
  (List.range 224).filter fun n =>
    s.freeCores.contains n ||
      (match s.coreOf n with
        | some c => s.live n && !(s.hm.tasks.any fun t => t.phase == .loading && t.cores.contains n) &&
            (c.part.status == .none ||
              (match s.taskOf c.part.task with | some t => t.phase == .stopping | none => false))
        | none => false)

/-- May the task be a victim of a card (R243)? -/
def State.victimOf (s : State) (k : Card) (t : Task) : Bool :=
  t.phase == .running &&
    (match s.cardOf t.card with
      | some c => (s.queue c.queue).cfg.pre && decide (c.deadline > k.deadline)
      | none => false)

/-- Insertion with the greatest key first. -/
def insertDown (x : Nat × Task) : List (Nat × Task) → List (Nat × Task)
  | [] => [x]
  | y :: r => if y.1 < x.1 then x :: y :: r else y :: insertDown x r

/-- Victims in the order they are picked: latest deadline, highest queue, highest stamp; each with the cores that it can free. -/
def State.victims (s : State) (k : Card) : List Task :=
  ((s.hm.tasks.filter fun t => s.victimOf k t).foldl (fun l t =>
    match s.cardOf t.card with
    | some c => insertDown (orderKey c t, t) l
    | none => l) []).map fun p => { p.2 with cores := p.2.cores.filter s.live }

/-- The victims that a placement of n cores needs: none when all of them do not suffice. -/
def pickVictims (n : Nat) : List Nat → List Task → List Task → Option (List Task)
  | _, _, [] => none
  | free, got, t :: r =>
    let free := (List.range 224).filter fun c => free.contains c || t.cores.contains c
    match placeBerth n free with
    | some _ => some (got ++ [t])
    | none => pickVictims n free (got ++ [t]) r

/-- A resident image of a card (R253): its bytes. -/
def State.resident (s : State) (c : Card) : Option (List Byte) :=
  if c.bits 256 256 = 1 then (s.hm.images.find? fun i => i.1.toNat == c.bits 127 0).map (·.2) else none

/-- A task ends FAULTED before it has run. -/
def State.failLoad (s : State) (t : Task) (cause : Nat) : State :=
  let t := { t with cause := cause, cores := [] }
  (s.mapTask t.num fun _ => t).endTask t stFaulted

/-- Launch a task on its cores with an image's bytes. -/
def State.launchWith (s : State) (c : Card) (t : Task) (raw : List Byte) : State :=
  match expandImage raw true with
  | none => s.failLoad t (subBadImage * 2 ^ 16)
  | some im =>
    match launchEntry c raw im with
    | none => s.failLoad t (subBadImage * 2 ^ 16)
    | some entry =>
      let s := if c.bits 256 256 = 1 then
          let mark := BitVec.ofNat 128 (c.bits 127 0)
          { s with hm := { s.hm with images := ((mark, raw) :: s.hm.images.filter fun i => i.1 != mark).take 256 } }
        else s
      s.launchTask c t im entry

/-- R286: an image that needs translation while the pilot core is down. -/
def State.untranslatable (s : State) (raw : List Byte) : Bool :=
  s.pilot.down && (match imageHead raw with | some h => h.kind == 3 | none => false)

/-- Give a task its cores: it launches at once when its image is resident, else its image is loaded. -/
def State.startTask (s : State) (c : Card) (t : Task) (cores : List Nat) : State :=
  let t := { t with cores := cores, unc := false, status := 0, cause := 0, acode := none, phase := .loading }
  let s := s.mapTask t.num fun _ => t
  match s.resident c with
  | some raw => s.launchWith c t raw
  | none => s

/-- A pre-empted task takes its cores back (R279). Its messages to other modules that are not acknowledged are sent again (R188,
R277): what was delivered already is discarded there as a duplicate. -/
def State.restoreTask (s : State) (t : Task) : State :=
  let s := (s.dropWalks t.root).mapCores fun c =>
    match t.saved.find? fun k => k.id == c.id with
    | some k => k.restored
    | none => c
  let s := (t.saved.filter fun c => c.loads.any fun l => l.fault.isSome).foldl (fun s c =>
    (s.atCore c.id fun s => (s.reissueFaulted, ())).1) s
  let ids := t.saved.flatMap fun c => c.copy.cmds.filterMap fun k => match k.fx with | some x => if x.unacked > 0 then some k.id else none | none => none
  let again := s.ferry.sent.filter fun x => match x with | .payload id _ _ => ids.contains id | _ => false
  let s := { s with ferry := { s.ferry with sent := s.ferry.sent ++ again } }
  let s := s.mapTask t.num fun t => { t with phase := .running, saved := [] }
  if s.allEnded t.num then s.endTask t (s.taskStatus t) else s

/-- Is the core one that a restored part may take again: free, or retired and held by no task (R12, R243)? -/
def State.vacant (s : State) (n : Nat) : Bool :=
  s.freeCores.contains n || (!s.live n && (match s.coreOf n with | some c => c.part.status == .none | none => false))

/-- Does a task that is over still hold one of the cores (R22)? It is no victim, and its berth is freed with its record. -/
def State.heldOver (s : State) (cores : List Nat) : Bool :=
  s.cores.any fun c => cores.contains c.id && c.part.status != .none &&
    (match s.taskOf c.part.task with | some t => t.phase == .over | none => false)

/-- DISPATCH: a ragged card's list is expanded (R245); the first ready task is placed or restored, or takes victims; otherwise it waits, and
no other goes first. On a core that was retired under it a task's part has ended: nothing runs there (R12, R283, R284). -/
def execDispatch (s : State) : Outcome :=
  let no : Outcome := .refused (.notEnabled "DISPATCH")
  if !s.canNumber then no
  else match s.firstReady with
    | none => no
    | some (c, t) =>
      if c.ragged then .next (s.expandCard c)
      else if t.phase = .preempted then
        if t.cores.all s.vacant then .next (s.restoreTask t)
        else
          let holders := s.hm.tasks.filter fun h => h.num != t.num && h.cores.any t.cores.contains && (h.phase == .running || h.phase == .loading)
          if holders.isEmpty || s.heldOver t.cores || !holders.all (s.victimOf c) then no
          else .next (holders.foldl (fun s h => s.preemptTask h.num) s)
      else match placeBerth c.berth s.freeCores with
        | some cores => .next (s.startTask c t cores)
        | none =>
          if (placeBerth c.berth s.comingFree).isSome then no
          else match pickVictims c.berth s.comingFree [] (s.victims c) with
            | some vs => .next (vs.foldl (fun s h => s.preemptTask h.num) s)
            | none => no

/-- CODE_IMAGE_LOAD (R235, R240, R253): the image is read, verified, and placed in bank 0 of the berth's cores. -/
def execCodeImageLoad (task : Nat) (s : State) : Outcome :=
  match s.taskOf task with
  | some t =>
    match s.cardOf t.card with
    | some c =>
      if t.phase ≠ .loading then .refused (.notEnabled "CODE_IMAGE_LOAD")
      else if c.bits 256 256 = 0 then
        let x : HmCtx := ⟨t.root, t.key, none⟩
        let bad (s : State) : Outcome := .next (s.failLoad t (subBadImage * 2 ^ 16))
        match s.hmRead x (c.bits 56 0) 64 with
        | (s, .error _) => bad s
        | (s, .ok head) =>
          match imageHead head with
          | none => bad s
          | some h =>
            match s.hmRead x (c.bits 56 0 + 64) h.body with
            | (s, .error _) => bad s
            | (s, .ok body) => if s.untranslatable head then bad s else .next (s.launchWith c t (head ++ body))
      else
        let r := rootOf (c.bits 255 0)
        if s.rootRegionBad r then .next ((s.failLoad t cBondRegion).emit ⟨2, c.queue, t.tid, BitVec.ofNat 64 cBondRegion⟩)
        else match s.readTree r with
          | .error st => .next (s.failLoad t (st * 2 ^ 16))
          | .ok raw => .next (if s.untranslatable raw then s.failLoad t (subBadImage * 2 ^ 16) else s.launchWith c t raw)
    | none => .refused (.notEnabled "CODE_IMAGE_LOAD")
  | none => .refused (.notEnabled "CODE_IMAGE_LOAD")

/-! ### Snapshots and pre-emption (R249, R252, R278) -/

/-- What is known of the receiver in which an exchange of a core is held: the latest report, or, of a message that is held without
one, its position alone. -/
def Ferry.heldAt (f : Ferry) (core : Nat) (x : Exchange) : Option RefusalRpt :=
  match f.reports.find? fun r => r.core == core && r.tag == x.tag with
  | some r => some r
  | none => (f.held.find? (x.sends f.addr core)).map fun p => ⟨x.tag, core, p.dest, 0, 0, 0, 0⟩

/-- The exchanges in which a context is held, in issue order, with the sender's position. -/
def heldExchanges (f : Ferry) (cores : List Core) : List (Nat × RefusalRpt) :=
  let cmds := cores.flatMap fun c => c.copy.cmds.filterMap fun k =>
    match k.fx with
    | some x => (f.heldAt c.id x).map fun r => (k.id, x.self, r)
    | none => none
  let rec ins (e : Nat × Nat × RefusalRpt) : List (Nat × Nat × RefusalRpt) → List (Nat × Nat × RefusalRpt)
    | [] => [e]
    | f :: r => if e.1 < f.1 then e :: f :: r else f :: ins e r
  (cmds.foldl (fun l e => ins e l) []).map (·.2)

/-- A snapshot record (R249). -/
def snapshotBytes (t : Task) (core time : Nat) (xs : List (Nat × RefusalRpt)) : List Byte :=
  let e (p : Nat × RefusalRpt) : List Byte :=
    toBytes 4 p.2.tag.toNat ++ toBytes 2 p.1 ++ toBytes 2 p.2.pos ++ toBytes 4 p.2.total ++ toBytes 4 p.2.capw ++
      toBytes 4 p.2.capo ++ toBytes 4 p.2.placed ++ zeros 8
  toBytes 8 t.tid.toNat ++ toBytes 1 core ++ toBytes 1 (min xs.length 16) ++ [if xs.length > 16 then 1 else 0] ++ zeros 5 ++
    toBytes 8 time ++ zeros 40 ++ ((xs.take 16).map e).flatten

/-- Write the snapshots that wait, while a slot is free and their events can be numbered (R252). -/
def State.writeSnaps (s : State) : List (Nat × Nat) → State
  | [] => s
  | (n, core) :: r =>
    let free := (List.range s.hm.snapNum).find? fun i => !(s.hm.snaps.any fun x => x.1 == i)
    match s.taskOf n, free with
    | some t, some i =>
      if t.phase = .snapshot ∧ s.canNumber then
        let pa := s.hm.snapBase + 1024 * i
        let s := s.store pa (snapshotBytes t core s.time (heldExchanges s.ferry t.saved))
        let s := { s with hm := { s.hm with snaps := (i, t.tid) :: s.hm.snaps, snapWait := s.hm.snapWait.filter fun x => x.1 != n } }
        State.writeSnaps (s.emit ⟨4, s.queueOf t, t.tid, BitVec.ofNat 64 pa⟩) r
      else State.writeSnaps s r
    | some _, none => State.writeSnaps s r
    | none, _ => State.writeSnaps { s with hm := { s.hm with snapWait := s.hm.snapWait.filter fun x => x.1 != n } } r

def State.flushSnaps (s : State) : State := s.writeSnaps s.hm.snapWait

/-- What waited for the arbiter is numbered once the backlog has room (R252): the lost events' entry, events, and snapshots. -/
def State.catchUp (s : State) : State :=
  let s := s.numberLost
  (s.emitWaiting s.hm.waiting.length).flushSnaps

/-- Has a core of a task that is being pre-empted acknowledged: it has stopped, its releases are performed, and its commands that run out
have ended (R277, R278, R389)? -/
def Core.acknowledges (c : Core) : Bool :=
  c.part.status != .running && c.part.status != .scanning && c.sync.rels.isEmpty &&
    c.copy.cmds.all fun k => !(k.runsOut && c.commandReady k)

/-- PREEMPTION_COMPLETE (R278, R279): every core has acknowledged; the contexts are saved and the berth is freed. -/
def execPreemptionComplete (task : Nat) (s : State) : Outcome :=
  match s.taskOf task with
  | some t =>
    let mine := s.cores.filter fun c => c.part.task == task && c.part.status != .none
    if t.phase ≠ .stopping || t.status != 0 || s.allEnded task || !mine.all Core.acknowledges then
      .refused (.notEnabled "PREEMPTION_COMPLETE")
    else
      let snap := s.hm.snapWait.any fun x => x.1 == task
      let s := s.mapTask task fun t => { t with saved := mine, phase := if snap then .snapshot else .preempted }
      let s := s.mapCores fun c => if c.part.task = task ∧ c.part.status ≠ .none then
        { Core.reset c.id with pool := c.pool, poison := c.poison, part := { (Core.reset c.id).part with clean := false } } else c
      .next s.flushSnaps
  | none => .refused (.notEnabled "PREEMPTION_COMPLETE")

/-! ### Expiry and completion (R240, R243, R245, R246) -/

/-- CARD_EXPIRE (R243): the tasks of a late card that were never dispatched are retired EXPIRED. -/
def execCardExpire (k : Nat) (s : State) : Outcome :=
  match s.cardOf k with
  | some c =>
    if c.late && !c.noDeadline && decide (s.time > c.deadline) && s.hm.tasks.any (fun t => t.card == k && t.phase == .pooled) then
      .next (s.dropPooled k stExpired 0 fun t => t.phase == .pooled)
    else .refused (.notEnabled "CARD_EXPIRE")
  | none => .refused (.notEnabled "CARD_EXPIRE")

/-- The completion record (R240). -/
def Card.record (c : Card) (time : Nat) : List Byte :=
  toBytes 32 (c.status + c.sub % 256 * 2 ^ 8 + (if c.unc then 2 ^ 16 else 0) + min c.nrq 255 * 2 ^ 24 + c.acode.toNat * 2 ^ 32 +
    (c.taskId 0).toNat * 2 ^ 64 + time % 2 ^ 64 * 2 ^ 128 + c.cause % 2 ^ 16 * 2 ^ 192)

/-- A completion that an access failed (R206, R444). -/
def State.hmFailed (s : State) (c : Card) (e : Option MemErr) : State :=
  match e with
  | some (.fatal code) =>
    if code = cPaHole ∨ code = cRemoteKey then s.emit ⟨6, c.queue, c.taskId 0, 0⟩ else s.emit ⟨2, c.queue, c.taskId 0, BitVec.ofNat 64 code⟩
  | _ => s

/-- Successors watch a record by its physical address (R246). -/
def State.notifyCards (s : State) (pa : Nat) (done : Bool) : List Card → State
  | [] => s
  | c :: r =>
    let s := if c.deps.contains pa then
        (if done then s.mapCard c.num fun c => { c with deps := c.deps.filter (· != pa) } else s.retireCard c.num subPredFailed)
      else s
    State.notifyCards s pa done r

/-- COMPLETION_RECORD_WRITE: the completion event is numbered, the record written and cso signalled; successors are readied or
retired, whether or not the record can be written now (R246); the berth is freed. -/
def execCompletionRecordWrite (k : Nat) (s : State) : Outcome :=
  match s.cardOf k with
  | some c =>
    if !c.closed || !s.canNumber then .refused (.notEnabled "COMPLETION_RECORD_WRITE")
    else
      let x := s.hmFor c
      let s := s.number ⟨1, c.queue, c.taskId 0, BitVec.ofNat 64 c.cpl⟩
      let (s, e) := s.hmWrite x c.cpl (c.record s.time)
      let s := s.hmFailed c e
      let (s, e) := if c.cso = 0 then (s, none) else s.hmSignal x c.cso
      let s := s.hmFailed c e
      let (s, now) := match s.pieces (.hm x.root) false 33 c.cpl 32 with
        | (s, .ok (p :: _)) => (s, [p.pa])
        | (s, _) => (s, [])
      let s := (now ++ c.cplPa.toList).eraseDups.foldl (fun s pa => s.notifyCards pa (c.status == stDone) s.hm.cards) s
      let mine := s.hm.tasks.filter fun t => t.card == k
      let s := mine.foldl (fun s t => s.freeBerth t.num) s
      .next { s with hm := { s.hm with
        cards := s.hm.cards.filter fun c => c.num != k
        tasks := s.hm.tasks.filter fun t => t.card != k } }
  | none => .refused (.notEnabled "COMPLETION_RECORD_WRITE")

/-- EVENT_CONSUMER_WRITE (R252): entries that waited are written, and what waited for a number is numbered. -/
def execEventConsumerWrite (n : BitVec 64) (s : State) : Outcome :=
  let s := { s with hm := { s.hm with consumer := n.toNat } }
  .next (s.writeEvents s.hm.backlog.length).catchUp

/-! ### Quays and controllers -/

/-- PROMOTION_COMPLETE (R158): the way becomes valid, unless the promotion was abandoned. -/
def execPromotionComplete (k : Nat) (s : State) : Outcome :=
  match s.hot.promos[k]? with
  | none => .refused (.notEnabled "PROMOTION_COMPLETE")
  | some p =>
    let ways := if p.dead then s.hot.ways else ⟨p.set, p.way, p.key, false, p.home, p.quay, p.group, p.data, p.bad⟩ :: s.hot.ways
    .next { s with hot := { s.hot with promos := dropAt k s.hot.promos, ways := ways } }

/-- WRITE_BACK_ARRIVAL (R158). -/
def execWriteBackArrival (k : Nat) (s : State) : Outcome :=
  match s.hot.backs[k]? with
  | some w => .next (s.landBack w)
  | none => .refused (.notEnabled "WRITE_BACK_ARRIVAL")

/-- WINDOW_FADE_TICK (R167): where ctl.time crosses a multiple of 1,000,000. -/
def execWindowFadeTick (s : State) : Outcome :=
  if s.time / 1000000 > s.fades then .next s.fadeTick else .refused (.notEnabled "WINDOW_FADE_TICK")

/-- The pending class that a controller serves next (R248). -/
def nextClass (acc : Vector Int 16) : List (Nat × Nat) → Option (Nat × Nat)
  | [] => none
  | p :: r =>
    let at' (k : Nat) : Int := acc.toList.getD k 0
    match nextClass acc r with
    | none => some p
    | some q => if at' q.1 > at' p.1 ∨ (at' q.1 = at' p.1 ∧ q.1 < p.1) then some q else some p

/-- The accumulators after b bytes for class c, in 64ths of a byte: R248's arithmetic is exact (R6). -/
def servedAcc (acc : Vector Int 16) (shares : Vector Nat 16) (c b : Nat) : Vector Int 16 :=
  let w : Int := 64 * 16384
  Vector.ofFn fun i : Fin 16 =>
    let a := min (acc.get i + (shares.get i * b : Nat)) w
    if i.val = c then Max.max (a - 64 * b) (-w) else a

/-- The class that a requester's traffic is charged to (R18): its card's, or 0 for traffic without a task. -/
def State.requestClass (s : State) (r : Requester) : Nat :=
  match r with
  | .task num => (match s.hm.tasks.find? fun t => t.num == num with | some t => s.classOf t | none => 0)
  | .host | .pilot | .bond => 0

/-- MEMORY_REQUEST_SERVE (R248): controllers 0 to 7 are HBM4E, 8 to 15 LPDDR, one for each Quay (DESIGN CHOICE, log 75: R10
says "LPDDR controllers" and no number); `pending` lists requesters and their request bytes. -/
def execMemoryRequestServe (ctrl : Nat) (pending : List (Requester × Nat)) (s : State) : Outcome :=
  if h : ctrl < 16 then
    let acc := s.ctrls.get ⟨ctrl, h⟩
    match nextClass acc (pending.map fun p => (s.requestClass p.1, p.2)) with
    | none => .refused (.notEnabled "MEMORY_REQUEST_SERVE")
    | some (c, b) =>
      let shares := if ctrl < 8 then s.pilot.hbm else s.pilot.lpddr
      .next { s with ctrls := s.ctrls.set ctrl (servedAcc acc shares c b) h }
  else .refused (.notEnabled "MEMORY_REQUEST_SERVE")

end Sys2Proof.Machine
end

