-- ==== Sys2Proof/Machine/HostEvents.lean ====
section
/-! DEFINITION. The host, the pilot core and the module's upkeep (chapter 13): accesses through BAR2, AtomicOps, management
messages, SPDM, links and spares, heartbeats and refresh, power states, debug, module reset and D3. -/

namespace Sys2Proof.Machine

/-! ### Host accesses (R210 to R212, R292) -/

def barSize : Nat := 2 ^ 36

/-- What BAR0 holds besides the MSI-X table (R292): queue doorbells, the management mailbox, and the event consumer count. -/
inductive Bar0 where
  | doorbell (queue : Nat)
  | mailbox
  | consumer
  deriving DecidableEq, Repr

/-- BAR0, 32 MiB, by offset. -/
def bar0At (off : Nat) : Option Bar0 :=
  if off % 4096 = 0 ∧ off / 4096 < 64 then some (.doorbell (off / 4096))
  else if off = 0x01000000 then some .mailbox
  else if off = 0x01F00000 then some .consumer
  else none

/-- A whole access to device memory. -/
def populated (pa n : Nat) : Bool := n != 0 && isDevice pa && isDevice (pa + n - 1)

def State.hostReply (s : State) (r : Response) : State := { s with host := { s.host with replies := s.host.replies ++ [r] } }
def State.hostLog (s : State) (pa : Nat) : State := { s with host := { s.host with logged := s.host.logged ++ [pa] } }

/-- HOST_BAR2_READ: an unpopulated address reads as all ones; poison is passed on (R281). In recovery mode only the management
mailbox answers (R287). -/
def execHostBar2Read (off len : Nat) (s : State) : Outcome :=
  if len = 0 || decide (off + len > barSize) then .refused (.notEnabled "HOST_BAR2_READ")
  else if s.pilot.recovery then .next s
  else
    let pa := s.host.bar2 + off
    if populated pa len then .next ((s.touch pa len).hostReply (.hostRead pa (s.mem.read pa len) (poisonedIn s.poison pa len)))
    else .next (s.hostReply (.hostRead pa (List.replicate len 0xFF) false))

/-- HOST_BAR2_WRITE: performed at its home (R199, R212); at an unpopulated address dropped and logged. -/
def execHostBar2Write (off : Nat) (bytes : List Byte) (s : State) : Outcome :=
  if bytes.isEmpty || decide (off + bytes.length > barSize) then .refused (.notEnabled "HOST_BAR2_WRITE")
  else if s.pilot.recovery then .next s
  else
    let pa := s.host.bar2 + off
    .next (if populated pa bytes.length then s.store pa bytes else s.hostLog pa)

/-- The value a PCIe AtomicOp stores: 0 FetchAdd, 1 Swap, 2 compare and swap; none for another code. -/
def atomicValue (op : BitVec 2) (old operand compare bits : Nat) : Option Nat :=
  match op.toNat with
  | 0 => some ((old + operand) % 2 ^ bits)
  | 1 => some (operand % 2 ^ bits)
  | 2 => some (if old = compare % 2 ^ bits then operand % 2 ^ bits else old)
  | _ => none

/-- HOST_ATOMICOP (R211); a poisoned old value is passed on as such (R281). Operands are of 32 or 64 bits, and no CAS has 128: R8 names no
sizes (DESIGN CHOICE, safe: log 59). -/
def execHostAtomicop (addr : Nat) (op : BitVec 2) (wide : Bool) (operand compare : Word) (s : State) : Outcome :=
  let n := if wide then 8 else 4
  let old := leVal (s.mem.read addr n)
  let abort : Outcome := .next ((s.hostLog addr).hostReply (.completerAbort addr))
  if s.pilot.recovery then .next s
  else if !populated addr n || addr % n != 0 || !s.host.attr.contains (addr / 65536) then abort
  else match atomicValue op old operand.toNat compare.toNat (8 * n) with
    | some v => .next ((s.store addr (toBytes n v)).hostReply (.atomicOld addr (BitVec.ofNat 64 old) (poisonedIn s.poison addr n)))
    | none => abort

/-! ### Management messages (R293) -/

/-- The pilot core answers a message, and raises MSI-X vector 1; while it is down there is no response (R286, R292). -/
def State.answer (s : State) (k : State × Response) : Outcome :=
  if s.pilot.down then .next s
  else
    let t := k.1.hostReply k.2
    .next { t with host := { t.host with msix := t.host.msix ++ [1] } }

/-- A message applied, or answered with an error response and changing nothing. -/
def State.applied (s : State) (code : Nat) (ok : Bool) (t : State) : Outcome :=
  s.answer (if ok then (t, .ok code) else (s, .error code))

/-- A queue configuration that R236 allows. -/
def configLegal (c : QueueConfig) : Bool :=
  c.src != 1 || (decide (4 ≤ c.lsize.toNat) && decide (c.lsize.toNat ≤ 16) && c.rbase.toNat % 128 == 0)

/-- MGMT_QUEUE_CONFIG: while src is 0; or src becomes 0 and nothing else changes. In recovery mode no queue is enabled
(R287). -/
def execMgmtQueueConfig (queue : Nat) (c : QueueConfig) (s : State) : Outcome :=
  let x := s.queue queue
  let ok := decide (queue < 64) &&
    (if x.cfg.src = 0 then configLegal c && !(s.pilot.recovery && c.src != 0) else c == { x.cfg with src := 0 })
  s.applied 0x01 ok (s.setQueue queue { x with cfg := c, rereads := 0, held := [] })

/-- Do two declared spans overlap (R217)? -/
def spansOverlap (a b : RegionEntry) : Bool :=
  a.valid && b.valid && decide (a.off.toNat < b.off.toNat + b.span.toNat) && decide (b.off.toNat < a.off.toNat + a.span.toNat)

def entryLegal (e : RegionEntry) : Bool :=
  !e.valid || (e.off.toNat % 65536 == 0 && e.span.toNat % 65536 == 0 && e.span != 0 &&
    decide (e.off.toNat + e.span.toNat ≤ 192 * 2 ^ 30))

/-- The region that the record in a root slot names. -/
def State.slotRegion (s : State) (c : Core) (va : Nat) : Option Nat :=
  match ({ s with core := c }.readSlot va).2 with
  | .ok x => some (rootOf x).region
  | .error _ => none

/-- The regions that a bond command of a core names. -/
def State.commandRegions (s : State) (c : Core) (k : Command) : List Nat :=
  let b := k.block.toNat
  let walked (via : Bool) : List Nat :=
    match k.acc with
    | r :: _ => [(rootOf r).region]
    | [] => if via then [(rootOf (bitsOf b 255 0)).region] else (s.slotRegion c (bitsOf b 312 256)).toList
  match k.op with
  | .blookLeaf _ | .blookInterior _ => [bitsOf b 17 12]
  | .bdrop _ | .bholdList _ => [bitsOf b 13 8]
  | .bholdRoot _ => (s.slotRegion c (bitsOf b 120 64)).toList
  | .bread _ | .breadVerify _ => [bitsOf b 133 128]
  | .bwalkLeaf _ | .bwalkElement _ => walked (bitsOf b 371 371 == 1)
  | .bcopy _ | .bcopyVerify _ => walked (bitsOf b 368 368 == 1)
  | .bswap _ => (rootOf (bitsOf b 511 256)).region :: (s.slotRegion c (bitsOf b 56 0)).toList
  | _ => []

/-- Does a bonded translation map a page of a region? -/
def State.mapsRegion (s : State) (x : Xlat) (region : Nat) : Bool := x.bond && (rootOf (s.mem.le x.pa 32)).region == region

/-- Entries of a page table that are not zero: their numbers. -/
def State.usedEntries (s : State) (t : Task) (table n : Nat) : List Nat :=
  ((s.mem.map (·.1) ++ t.staged.map (·.1)).filterMap fun a =>
    if table ≤ a ∧ a < table + 8 * n then some ((a - table) / 8) else none).eraseDups

/-- The bonded pages that a task's page table maps (R195, R196, R222). -/
def State.bondedPages (s : State) (t : Task) : List Level → Nat → List Nat
  | [], _ => []
  | l :: rest, table =>
    (s.usedEntries t table (2 ^ l.width)).flatMap fun i =>
      let e := leVal (s.viewBytes (some t) (table + 8 * i) 8)
      let pa := bitsOf e 55 8 * 256
      if e % 2 = 0 then []
      else if bitsOf e 1 1 = 1 then (if bitsOf e 4 4 = 1 then [pa] else [])
      else State.bondedPages s t rest pa

/-- Does a task stand on a berth, or is it saved from one? -/
def Task.hasContext (t : Task) : Bool :=
  match t.phase with
  | .loading | .running | .stopping | .preempted | .snapshot => true
  | .pooled | .requeue | .over => false

/-- Does a context use a region: its page table maps a view of it, an outstanding bond command names it, or a translation that a core holds,
or the Pier's walker while the context has engine commands, maps a page of it; or a code image is being loaded from it (R217; log 76)? -/
def State.bondBusy (s : State) (region : Nat) : Bool :=
  s.allCores.any (fun c => c.part.status != .none &&
    (c.copy.cmds.any (fun k => (s.commandRegions c k).contains region) ||
      c.tlb.any (fun x => s.mapsRegion x region) ||
      (!c.copy.cmds.isEmpty && s.walkP.any fun x => (s.taskOf c.part.task).any (fun t => t.root == x.root) && s.mapsRegion x region))) ||
  s.hm.tasks.any fun t => t.hasContext &&
    ((s.bondedPages t levels t.root).any (fun pa => (rootOf (s.mem.le pa 32)).region == region) ||
      (t.phase == .loading &&
        match s.cardOf t.card with
        | some c => c.bits 256 256 == 1 && (rootOf (c.bits 255 0)).region == region
        | none => false))

/-- MGMT_REGION_ENTRY (R217). Lines of a region whose span moves or that is undeclared are held no more. -/
def execMgmtRegionEntry (region : Nat) (e : RegionEntry) (s : State) : Outcome :=
  let old := s.region region
  let others := (List.range 64).filter fun i => i != region
  let ok := decide (region < 64) && entryLegal e && !s.bondBusy region && !others.any fun i => spansOverlap e (s.region i)
  let keep := e.valid && old.valid && e.off == old.off && e.span == old.span
  s.applied 0x02 ok (if h : region < 64 then
    { s with bond := { s.bond with
      regions := s.bond.regions.set region e h
      lines := if keep then s.bond.lines else s.bond.lines.filter fun l => l.region != region } }
  else s)

def sharesOf (l : List Nat) : Vector Nat 16 := Vector.ofFn fun i : Fin 16 => l.getD i.val 0
def sharesOk (l : List Nat) : Bool := l.length == 16 && decide (l.sum ≤ 64)

/-- MGMT_BANDWIDTH_SHARES (R18). -/
def execMgmtBandwidthShares (hbm lpddr : List Nat) (s : State) : Outcome :=
  s.applied 0x03 (sharesOk hbm && sharesOk lpddr)
    { s with pilot := { s.pilot with hbm := sharesOf hbm, lpddr := sharesOf lpddr } }

/-- MGMT_POWER_CAP (R17). -/
def execMgmtPowerCap (watts : Nat) (s : State) : Outcome :=
  s.applied 0x04 (decide (watts ≤ 1700)) { s with pilot := { s.pilot with cap := watts } }

/-- Is every queue idle (R290): no card in the HM's care, and no record or LAUNCH waiting? -/
def State.idle (s : State) : Bool :=
  s.hm.cards.isEmpty && s.hm.launches.isEmpty && s.hm.queues.toList.all fun x => !x.waits && x.held.isEmpty

/-- MGMT_C3_ENTRY (R289, R290). -/
def execMgmtC3Entry (s : State) : Outcome :=
  s.applied 0x04 (s.idle && s.allCores.all fun c => !c.part.halted) { s with pilot := { s.pilot with power := .c3 } }

/-- MGMT_HOT_ROW_CACHE (R156): dirty rows of the old carve-out go home. -/
def execMgmtHotRowCache (c slot : Nat) (s : State) : Outcome :=
  let ok := (c == 0 || (decide (30 ≤ c) && decide (c ≤ 38))) &&
    [128, 256, 512, 1024, 2048, 4096].contains slot && s.hm.tasks.all fun t => t.phase == .pooled || t.phase == .over
  s.applied 0x05 ok { s with hot := ⟨c, slot, [], [], s.hot.backs ++ s.hot.ways.filter (·.dirty)⟩ }

/-! ### Snapshots (R249) -/

/-- The task of an identifier that waits for the host, its snapshot written. -/
def State.snapshotOf (s : State) (tid : Word) : Option Task :=
  s.hm.tasks.find? fun t => t.tid == tid && t.phase == .snapshot && s.hm.snaps.any fun x => x.2 == tid

/-- The task's slot is free again. -/
def State.freeSlot (s : State) (tid : Word) : State :=
  ({ s with hm := { s.hm with snaps := s.hm.snaps.filter fun x => x.2 != tid } }).flushSnaps

/-- A core's new budget; 0 means none. -/
def Core.setBudget (c : Core) (w : Word) : Core :=
  { c with ctl := { c.ctl with wbudget := if w = 0 then BitVec.allOnes 64 else w }, part := { c.part with wait := 0, budget := w != 0 } }

/-- MGMT_SNAPSHOT_RESTORE: the task re-enters the pool with a new budget for every core, in berth rank order. -/
def execMgmtSnapshotRestore (task : Word) (budget : List Word) (s : State) : Outcome :=
  match s.snapshotOf task with
  | none => s.applied 0x06 false s
  | some t =>
    let give (c : Core) : Core := c.setBudget (budget.getD (t.cores.findIdx (· == c.id)) 0)
    s.applied 0x06 (budget.length == t.cores.length)
      ((s.mapTask t.num fun t => { t with phase := .preempted, saved := t.saved.map give }).freeSlot task)

/-- MGMT_SNAPSHOT_RETIRE: FAULTED, HOST_RETIRED. -/
def execMgmtSnapshotRetire (task : Word) (s : State) : Outcome :=
  match s.snapshotOf task with
  | none => s.applied 0x06 false s
  | some t =>
    let s' := t.saved.foldl (fun (s : State) c =>
      { s with ferry := { s.ferry with reports := s.ferry.reports.filter fun r => r.core != c.id } }) s
    s.applied 0x06 true ((s'.endTask { t with cause := subHostRetired * 2 ^ 16 } stFaulted).freeSlot task)

/-! ### Maps, logs and counts -/

/-- Physical units by logical number; 0xFFFF for a retired one. -/
def Maps.numbers (m : Maps) : List Nat := (m.core.toList ++ m.slice.toList).map fun x => x.getD 0xFFFF

/-- MGMT_READ_LOGICAL_MAPS (R283). -/
def execMgmtReadLogicalMaps (s : State) : Outcome := s.answer (s, .numbers 0x07 s.maps.numbers)

/-- R436. -/
def ScanRecord.bytes (r : ScanRecord) : List Byte :=
  toBytes 32 (r.core % 2 ^ 8 + r.outcome % 4 * 2 ^ 8 + r.deck % 2 * 2 ^ 10 + r.phys % 2 ^ 7 * 2 ^ 11 + r.spare % 2 ^ 7 * 2 ^ 18 +
    r.task.toNat * 2 ^ 64 + r.tstart % 2 ^ 64 * 2 ^ 128 + r.tend % 2 ^ 64 * 2 ^ 192)

/-- MGMT_READ_SCAN_LOG. -/
def execMgmtReadScanLog (s : State) : Outcome := s.answer (s, .data 0x08 (s.pilot.scanLog.flatMap ScanRecord.bytes))

/-- The corrected errors counted by now: how many were met since the last read is the environment's (log 72). -/
def State.countErrors (s : State) : State :=
  { s with fresh := s.fresh + 1, pilot := { s.pilot with errors := s.pilot.errors + Config.corrected s.fresh } }

/-- MGMT_READ_ERROR_COUNTS (R281): the correctable errors, and those of each link's lanes. -/
def execMgmtReadErrorCounts (s : State) : Outcome :=
  let t := s.countErrors
  s.answer (t, .numbers 0x09 (t.pilot.errors :: s.links.flatMap fun l => l.num :: l.errs.flatMap fun e => [e.1, e.2]))

/-- MGMT_CLEAR_ERROR_COUNTS. -/
def execMgmtClearErrorCounts (s : State) : Outcome :=
  s.applied 0x09 true { s with
    fresh := s.fresh + 1
    pilot := { s.pilot with errors := 0 }
    links := s.links.map fun (l : Link) => { l with errs := [] } }

/-- MGMT_HOST_ATTRIBUTE_MAP (R210): a page's attribute. The module's other settings of the host's view come with it (R292; log
74). -/
def execMgmtHostAttributeMap (page : HostItem) (sa : Bool) (s : State) : Outcome :=
  match page with
  | .page n =>
    let rest := s.host.attr.filter (· != n)
    s.applied 0x0A (isDevice (65536 * n)) { s with host := { s.host with attr := if sa then n :: rest else rest } }
  | .aperture base => s.applied 0x0A (base % barSize == 0) { s with host := { s.host with bar2 := base } }
  | .cxlCache => s.applied 0x0A true { s with host := { s.host with cxl := sa, lines := if sa then s.host.lines else [] } }

/-- MGMT_EVENT_RING_SETUP (R252): only while no queue is enabled; the consumer count is 0 after it. -/
def execMgmtEventRingSetup (base k snapBase slots : Nat) (s : State) : Outcome :=
  let ok := s.hm.queues.toList.all (fun x => x.cfg.src == 0) && decide (6 ≤ k) && decide (k ≤ 16) && base % 64 == 0 &&
    snapBase % 4096 == 0 && decide (1 ≤ slots) && decide (slots ≤ 256) && placeOf base == .host &&
    placeOf (base + 64 * 2 ^ k - 1) == .host && placeOf snapBase == .host && placeOf (snapBase + 1024 * slots - 1) == .host
  let t : State := { s with hm := { s.hm with ringBase := base, ringK := k, snapBase := snapBase, snapNum := slots, consumer := 0 } }
  s.applied 0x0B ok (t.writeEvents t.hm.backlog.length).catchUp

/-! ### Debug (R289, R291) -/

/-- A core's SRAM: the pool with its stream FIFOs (R48), the gather queues, the instruction banks and the routine store. -/
def Core.scrubbed (c : Core) : Core :=
  let clear (l : List StreamElem) : List StreamElem := l.map fun e => { e with data := 0, bad := false }
  let rows (l : List GatherRow) : List GatherRow := l.map fun r => { r with data := zeros r.data.length, poison := false }
  { c with
    pool := [], poison := []
    fetch := { c.fetch with bank0 := [], bank1 := [] }
    copy := { c.copy with
      streams := c.copy.streams.map fun w => { w with fifo := clear w.fifo, old := clear w.old }
      dq0 := rows c.copy.dq0, dq1 := rows c.copy.dq1 }
    mx := { c.mx with store := [] } }

/-- A context in the save area, which lies in HBM (R279), is all zeros. -/
def Core.erased (c : Core) : Core := { Core.reset c.id with part := c.part }

/-- Vendor-return scrubs the SRAM, HBM and LPDDR, and clears the region keys; host memory is not the module's. -/
def State.scrub (s : State) : State :=
  let s := { s with
    mem := s.mem.filter fun c => !isDevice c.1
    poison := s.poison.filter fun g => !isDevice (32 * g)
    hot := { s.hot with ways := [], promos := [], backs := [] }
    bond := ⟨s.bond.regions.map fun (e : RegionEntry) => { e with key := 0 }, []⟩
    hm := { s.hm with images := [], tasks := s.hm.tasks.map fun (t : Task) => { t.unstaged with saved := t.saved.map Core.erased } } }
  s.mapCores Core.scrubbed

/-- The queue of the task a core runs for. -/
def State.queueOfCore (s : State) (c : Core) : Nat := match s.taskOf c.part.task with | some t => s.queueOf t | none => 0

/-- The cores of the named queues' contexts halt. -/
def State.haltCores (s : State) : State :=
  s.mapAllCores fun c =>
    if c.part.status != .none && s.pilot.halts (s.queueOfCore c) then { c with part := { c.part with halted := true } } else c

/-- MGMT_DEBUG_TOKEN (R289): either debug state is left only by a module reset. A customer's token is signed by the key whose
hash the customer provisioned; a vendor-return token may fuse the state. -/
def execMgmtDebugToken (t : DebugToken) (s : State) : Outcome :=
  let set (s : State) (x : Security) : State :=
    ({ s with pilot := { s.pilot with fused := s.pilot.fused || (t.zaevo && t.fuse), security := x, halt := t.halt, trace := t.trace, debugQs := t.queues } }).haltCores
  let ok := t.signed &&
    (if t.zaevo then s.pilot.security != .customerDebug
     else t.key == s.pilot.customer && s.pilot.security != .vendorReturn && decide (t.queues.length ≤ 16) && t.queues.all fun q => decide (q < 64))
  s.applied 0x0C ok
    (if t.zaevo then set (if s.pilot.security = .vendorReturn then s else s.scrub) .vendorReturn else set s .customerDebug)

/-- Does an engine-sync step wait for a command of its bundle (R291)? -/
def Core.stepWaits (c : Core) : Bool :=
  match c.part.step with
  | .waiting _ since calls =>
    c.copy.cmds.any (fun k => decide (since ≤ k.id) && k.stop.isNone) || (calls && !c.mx.queue.isEmpty && c.mx.stop.isNone)
  | _ => false

/-- May the debugger step the core: is no step under way? -/
def Core.steppable (c : Core) : Bool :=
  c.part.halted && c.part.status == .running && !c.stepWaits &&
    match c.part.step with
    | .none | .waiting _ _ _ => true
    | _ => false

/-- DEBUG_STEP: the next bundle of a halted core issues; engine-sync mode sets a timeout of 1 µs to 1 s, in ns. -/
def execDebugStep (engineSync : Option Nat) (s : State) : Outcome :=
  let step (x : DebugStep) : Outcome := .next (s.onCore fun c => { c with part := { c.part with step := x } })
  if !s.core.steppable then .refused (.notEnabled "DEBUG_STEP")
  else match engineSync with
    | none => step .bundle
    | some n => if 1000 ≤ n ∧ n ≤ 10 ^ 9 then step (.sync n) else .refused (.notEnabled "DEBUG_STEP")

/-- Has the debugger's timeout passed? -/
def State.stepExpired (s : State) : Bool :=
  match s.core.part.step with
  | .waiting deadline _ _ => decide (deadline ≤ s.time)
  | _ => false

/-- DEBUG_STEP_TIMEOUT: the step stops with the command still running. -/
def execDebugStepTimeout (s : State) : Outcome :=
  if s.core.part.halted && s.core.stepWaits && s.stepExpired then
    .next (s.onCore fun c => { c with part := { c.part with step := .none } })
  else .refused (.notEnabled "DEBUG_STEP_TIMEOUT")

/-- DEBUG_RESUME: the core issues again; a fault that a stepped command met waits at its boundary and is taken there. -/
def execDebugResume (s : State) : Outcome :=
  if s.core.part.halted then .next (s.onCore fun c => { c with part := { c.part with halted := false, step := .none } })
  else .refused (.notEnabled "DEBUG_RESUME")

/-! ### Firmware and reset (R287, R289, R290) -/

/-- MGMT_STAGE_FIRMWARE. -/
def execMgmtStageFirmware (f : FirmwareImage) (s : State) : Outcome :=
  s.applied 0x0D true { s with pilot := { s.pilot with staged := f :: s.pilot.staged.filter fun g => g.part != f.part } }

/-- The checks of R287: the key is the fused one, the signature verifies, and the security version is not rolled back. -/
def Pilot.passes (p : Pilot) (f : FirmwareImage) : Bool :=
  sha512 f.pubkey == toBytes 64 p.keyHash.toNat && decide (p.svn ≤ f.svn) &&
    pssVerifies f.pubkey f.signature (toBytes 64 (Config.signedHash f.version f.svn f.digest).toNat)

/-- The images a module reset starts: the staged ones, and of the other parts those that run. -/
def Pilot.images (p : Pilot) : List FirmwareImage :=
  p.staged ++ p.boot.filter fun f => !p.staged.any fun g => g.part == f.part

def Pilot.image (p : Pilot) (x : FirmwarePart) : Option FirmwareImage := p.boot.find? fun f => f.part == x

/-- What no reset clears: the fuses and the scan log. -/
def Pilot.fuses (p : Pilot) : Pilot :=
  { Pilot.reset with
    svn := p.svn, keyHash := p.keyHash, customer := p.customer, fused := p.fused
    scanLog := p.scanLog, scanIdx := p.scanIdx
    security := if p.fused then .vendorReturn else .production }

/-- The pilot core after a module reset: every image that is not the factory's is verified, and any failure leaves recovery
mode. -/
def Pilot.afterReset (p : Pilot) : Pilot :=
  let q := { p.fuses with
    boot := p.images, imageSvn := p.imageSvn, version := p.version, digest := p.digest
    recovery := !p.images.all p.passes }
  match q.image .pilot with
  | some f => { q with imageSvn := f.svn, version := f.version, digest := f.digest }
  | none => q

/-- MODULE_RESET: the reset state with what survives; host memory is the host's, and customer-debug is left after a scrub. -/
def execModuleReset (s : State) : Outcome :=
  let wipe := s.pilot.security = .customerDebug ∨ s.pilot.power = .d3
  .next { State.reset with
    agenda := s.agenda, fresh := s.fresh
    mem := if wipe then s.mem.filter fun c => !isDevice c.1 else s.mem
    poison := if wipe then s.poison.filter fun g => !isDevice (32 * g) else s.poison
    maps := s.maps, ferry := { State.reset.ferry with addr := s.ferry.addr, groups := s.ferry.groups, keyLists := s.ferry.keyLists }
    pilot := s.pilot.afterReset }

/-- D3COLD: everything but fuses and logical maps is lost. -/
def execD3cold (s : State) : Outcome :=
  .next { State.reset with
    agenda := s.agenda, fresh := s.fresh
    mem := s.mem.filter fun c => !isDevice c.1
    poison := s.poison.filter fun g => !isDevice (32 * g)
    maps := { s.maps with channels := [] }
    pilot := { s.pilot.fuses with power := .d3 } }

/-! ### Exchanges enlarged by the host (R185) -/

/-- The overflow bytes of an FXCH of a tag. -/
def Command.overflowOf (k : Command) (tag : BitVec 32) : Option Nat :=
  let is := match k.op with | .fxch _ => true | .fxchPayload _ => true | _ => false
  if is && (fxchBlock k.block.toNat).tag == tag then
    some (match k.fx with | some x => x.ovbytes | none => k.acc.headD (bitsOf k.block.toNat 287 256))
  else none

def Command.enlarge (k : Command) (tag : BitVec 32) (n : Nat) : Command :=
  if (k.overflowOf tag).isSome then
    { k with fx := k.fx.map fun (x : Exchange) => { x with ovbytes := n }, acc := [n] }
  else k

/-- MGMT_ENLARGE_OVERFLOW: resident or saved; held messages whose positions now fit proceed. -/
def execMgmtEnlargeOverflow (core : Nat) (tag : BitVec 32) (ovbytes : Nat) (s : State) : Outcome :=
  let olds := (s.allCores.filter fun c => c.id == core).flatMap fun c => c.copy.cmds.filterMap fun k => k.overflowOf tag
  let grow (c : Core) : Core :=
    if c.id = core then { c with copy := { c.copy with cmds := c.copy.cmds.map fun k => k.enlarge tag ovbytes } } else c
  s.applied 0x0E (!olds.isEmpty && olds.all (fun n => decide (n ≤ ovbytes)) && decide (ovbytes < 2 ^ 32))
    ((s.mapAllCores grow).retryHeld)

/-- MGMT_UNKNOWN (R293): a code that is not in the table. -/
def execMgmtUnknown (code : Nat) (s : State) : Outcome :=
  if 0x01 ≤ code ∧ code ≤ 0x0E then .refused (.notEnabled "MGMT_UNKNOWN") else s.applied code false s

/-! ### SPDM (R288) -/

/-- The SPDM 1.3 responder; it answers neither while the pilot core is down nor in recovery mode (R286, R287). Response
names are the standard's codes (log 12). -/
def State.spdm (s : State) (t : State) (name : Nat) (bytes : List Byte) : Outcome :=
  if s.pilot.down || s.pilot.recovery then .next s else .next (t.hostReply (.spdm name bytes))

/-- A request the responder refuses. -/
def State.spdmError (s : State) (code : Byte) : Outcome := s.spdm s 0x7F [code, 0]

/-- A request that needs the negotiated algorithms. -/
def State.spdmAfter (s : State) (name : Nat) (bytes : List Byte) : Outcome :=
  if s.pilot.negotiated then s.spdm s name bytes else s.spdmError 4

/-- GET_VERSION: 1.3; it starts a new negotiation. -/
def execGetVersion (s : State) : Outcome :=
  s.spdm { s with pilot := { s.pilot with negotiated := false } } 0x04 [0x00, 0x13]

/-- GET_CAPABILITIES: certificates, challenge and signed measurements; no sessions. -/
def execGetCapabilities (s : State) : Outcome := s.spdm s 0x61 [0x16, 0x00, 0x00, 0x00]

/-- NEGOTIATE_ALGORITHMS: RSASSA-PSS 4096 with SHA-512 only. It is answered whether or not a version and capabilities have been asked for,
and of the standard's fields a reply holds those that the model has content for (DESIGN CHOICE, unsafe: log 12). -/
def execNegotiateAlgorithms (rsaPss4096Sha512 : Bool) (s : State) : Outcome :=
  if rsaPss4096Sha512 then s.spdm { s with pilot := { s.pilot with negotiated := true } } 0x63 [0x40, 0x00, 0x00, 0x00, 0x04, 0x00, 0x00, 0x00]
  else s.spdmError 1

/-- GET_DIGESTS: of certificate slot 0, the only one. -/
def execGetDigests (s : State) : Outcome := s.spdmAfter 0x01 (0x01 :: sha512 (Config.certificate 0))

/-- GET_CERTIFICATE: the portion asked for, after its length and that of the rest. -/
def execGetCertificate (r : SpdmReq) (s : State) : Outcome :=
  let chain := Config.certificate 0
  let part := (chain.drop r.offset).take r.length
  if r.slot = 0 && decide (r.offset ≤ chain.length) then
    s.spdmAfter 0x02 (toBytes 2 part.length ++ toBytes 2 (chain.length - r.offset - part.length) ++ part)
  else s.spdmError 1

/-- CHALLENGE: refused in vendor-return (R289). -/
def execChallenge (r : SpdmReq) (s : State) : Outcome :=
  if s.pilot.security = .vendorReturn || r.slot != 0 then s.spdmError 1
  else s.spdmAfter 0x03 (Config.spdmSign (r.nonce ++ sha512 (Config.certificate 0)))

/-- The digest of a part's image. -/
def Pilot.digestOf (p : Pilot) (x : FirmwarePart) (i : Nat) : List Byte :=
  toBytes 64 ((p.image x).elim (Config.measure i) (·.digest)).toNat

/-- Measurements 1 to 6. -/
def State.measurement (s : State) (i : Nat) : List Byte :=
  match i with
  | 2 => toBytes 64 s.pilot.digest.toNat ++ toBytes 8 s.pilot.imageSvn
  | 3 => s.pilot.digestOf .decks 3
  | 4 => s.pilot.digestOf .library 4
  | 5 => [match s.pilot.security with | .production => 0 | .customerDebug => 1 | .vendorReturn => 2,
      (if s.pilot.halt then 1 else 0) + (if s.pilot.trace then 2 else 0)]
  | 6 => s.maps.numbers.flatMap (toBytes 2)
  | _ => toBytes 64 (Config.measure i).toNat

/-- A measurement response, signed with the request's nonce where the request asks for it. -/
def SpdmReq.signed (r : SpdmReq) (bytes : List Byte) : List Byte :=
  bytes ++ if r.sign then r.nonce ++ Config.spdmSign (r.nonce ++ bytes) else []

/-- GET_MEASUREMENTS: 0 gives their number, 0xFF all of them. -/
def execGetMeasurements (r : SpdmReq) (s : State) : Outcome :=
  let bytes := if r.index = 0 then [6]
    else if r.index = 0xFF then (List.range 6).flatMap fun i => s.measurement (i + 1)
    else s.measurement r.index
  if r.index ≤ 6 ∨ r.index = 0xFF then s.spdmAfter 0x60 (SpdmReq.signed r bytes) else s.spdmError 1

/-! ### Links (R281, R285) -/

/-- Links 0 to 34 are the die-to-die links of R13: 16 Quay to deck, one between the decks, two to the Pier, eight sidebands,
eight HBM4E stacks; 35 to 42 are the Ferry's ports. -/
def linkCount : Nat := 43
def isFerryPort (link : Nat) : Bool := 35 ≤ link

def State.link (s : State) (n : Nat) : Link := (s.links.find? fun l => l.num == n).getD ⟨n, [], 0, [], [], false, false⟩
def State.setLink (s : State) (l : Link) : State := { s with links := l :: s.links.filter fun x => x.num != l.num }

/-- A lane's count in a list, and the list with one error more. -/
def laneErrors (l : List (Nat × Nat)) (lane : Nat) : Nat := ((l.find? fun e => e.1 == lane).map (·.2)).getD 0
def addLane (l : List (Nat × Nat)) (lane : Nat) : List (Nat × Nat) := (lane, laneErrors l lane + 1) :: l.filter fun e => e.1 != lane

def Link.errors (l : Link) (lane : Nat) : Nat := laneErrors l.errs lane

/-- A CRC error of a lane in a 1 ms window; a lane over firmware's threshold waits for its repair. -/
def Link.crcError (l : Link) (lane window : Nat) : Link :=
  let recent := addLane (if l.window = window then l.recent else []) lane
  let high := decide (Config.laneThreshold < laneErrors recent lane) && !l.failed.contains lane
  { l with errs := addLane l.errs lane, window := window, recent := recent, failed := if high then l.failed ++ [lane] else l.failed }

/-- The lane works again. -/
def Link.repaired (l : Link) (lane : Nat) : Link :=
  { l with recent := l.recent.filter (fun e => e.1 != lane), failed := l.failed.filter (· != lane) }

/-- Every lane works again. -/
def Link.retrained (l : Link) : Link := { l with recent := [], failed := [] }

/-- FLIT_REPLAY: the flit is replayed, and the lane's count rises. -/
def execFlitReplay (link lane : Nat) (s : State) : Outcome :=
  let l := s.link link
  if link < linkCount && !l.dead then .next (s.setLink (l.crcError lane (s.time / 1000000)))
  else .refused (.notEnabled "FLIT_REPLAY")

/-- A context ends FAULTED with a cause, wherever it is. -/
def State.faultContext (s : State) (code : Nat) (t : Task) : State :=
  match t.phase with
  | .running => s.faultTask t code
  | .stopping => s.faultTask t code
  | .preempted | .snapshot =>
    (s.endTask { t with cause := code } stFaulted).emit ⟨2, s.queueOf t, t.tid, BitVec.ofNat 64 code⟩
  | .loading => (s.failLoad t code).emit ⟨2, s.queueOf t, t.tid, BitVec.ofNat 64 code⟩
  | _ => s

/-- LANE_REPAIR, of a lane whose count has exceeded the threshold: the link switches to its spare lane, unless that is in use or
a second lane has failed before the switch. Then the link retrains; a die-to-die link that cannot is fatal to the module. A
Ferry port that cannot goes down, and its paths fail over (R209). -/
def execLaneRepair (link lane : Nat) (retrainOk : Bool) (s : State) : Outcome :=
  let l := s.link link
  if link ≥ linkCount || l.dead || !l.failed.contains lane then .refused (.notEnabled "LANE_REPAIR")
  else if !l.spared && l.failed.all (· == lane) then .next (s.setLink { l.repaired lane with spared := true })
  else if retrainOk then .next (s.setLink { l.retrained with spared := true })
  else
    let s := s.setLink { l with dead := true }
    if isFerryPort link then .next (s.failPort (link - 35))
    else .next ((s.hm.tasks.foldl (fun s t => if t.status = 0 then s.faultContext cUncorrectable t else s) s).emit ⟨7, 0, 0, 0⟩)

/-! ### Heartbeats and refresh (R286) -/

/-- HEARTBEAT: the pilot core is up. -/
def execHeartbeat (s : State) : Outcome :=
  .next { s with
    quays := s.quays.map fun (q : Quay) => { q with lastBeat := s.time }
    pilot := { s.pilot with down := false } }

def State.quay (s : State) (q : Nat) : Quay := s.quays.toList.getD q ⟨Vector.replicate 16 ⟨0, 0, 0, []⟩, [], 0, false, [], []⟩
def beatLimit : Nat := 250000

/-- QUAY_REFRESH_TAKEOVER: no heartbeat for 250 µs. -/
def execQuayRefreshTakeover (quay : Nat) (s : State) : Outcome :=
  let q := s.quay quay
  if quay < 8 && !q.auto && decide (s.time ≥ q.lastBeat + beatLimit) then
    let s := s.mapQuay quay fun q => { q with auto := true }
    .next (({ s with pilot := { s.pilot with down := true } }).emit ⟨7, 0, 0, 0⟩)
  else .refused (.notEnabled "QUAY_REFRESH_TAKEOVER")

/-- REFRESH_HANDBACK: only after heartbeats have resumed. -/
def execRefreshHandback (quay : Nat) (s : State) : Outcome :=
  let q := s.quay quay
  if quay < 8 && q.auto && decide (s.time < q.lastBeat + beatLimit) then .next (s.mapQuay quay fun q => { q with auto := false })
  else .refused (.notEnabled "REFRESH_HANDBACK")

/-! ### Power (R17, R290) -/

/-- P1_ENTRY: the draw over 1 ms exceeds the cap. -/
def execP1Entry (draw : Nat) (s : State) : Outcome :=
  if s.pilot.power = .p0 ∧ draw > s.pilot.cap then .next { s with pilot := { s.pilot with power := .p1 } }
  else .refused (.notEnabled "P1_ENTRY")

/-- P1_EXIT: the draw falls back below the cap. -/
def execP1Exit (draw : Nat) (s : State) : Outcome :=
  if s.pilot.power = .p1 ∧ draw < s.pilot.cap then .next { s with pilot := { s.pilot with power := .p0 } }
  else .refused (.notEnabled "P1_EXIT")

/-! ### Spares (R12, R194, R283) -/

/-- CORE_SPARE_SWAP: a failed core in no berth; a berth is held until its task ends, also while the task is pre-empted (R22). -/
def execCoreSpareSwap (c : Nat) (s : State) : Outcome :=
  let free := match s.coreOf c with | some k => k.part.status == .none | none => false
  let berthed := s.hm.tasks.any fun t => t.phase != .over && t.cores.contains c
  if c < 224 && free && !berthed && (s.maps.core.toList.getD c none).isSome then
    match s.maps.takeSpare c with
    | some (p, m) => .next (({ s with maps := m }).setPhys c (some p))
    | none => .next (s.setPhys c none)
  else .refused (.notEnabled "CORE_SPARE_SWAP")

/-- The slice map with a logical slice backed by a spare of its deck, or retired. -/
def Maps.moveSlice (m : Maps) (slice : Nat) (h : slice < 384) : Maps :=
  if slice < 192 then
    match m.sliceA with
    | p :: r => { m with slice := m.slice.set slice (some p) h, sliceA := r }
    | [] => { m with slice := m.slice.set slice none h }
  else
    match m.sliceB with
    | p :: r => { m with slice := m.slice.set slice (some p) h, sliceB := r }
    | [] => { m with slice := m.slice.set slice none h }

/-- SLICE_REHOME: while every context is pre-empted. No value and no order changes; only the homes do. -/
def execSliceRehome (slice : Nat) (s : State) : Outcome :=
  let quiet := s.cores.all (fun c => c.part.status == .none) &&
    s.hm.tasks.all fun t => t.phase != .running && t.phase != .stopping && t.phase != .loading
  if h : slice < 384 then
    if quiet && (s.maps.slice.get ⟨slice, h⟩).isSome then .next { s with maps := s.maps.moveSlice slice h }
    else .refused (.notEnabled "SLICE_REHOME")
  else .refused (.notEnabled "SLICE_REHOME")

/-- HBM_CHANNEL_SPARE: one spare channel for each stack. -/
def execHbmChannelSpare (stack channel : Nat) (s : State) : Outcome :=
  if stack < 8 && !(s.maps.channels.any fun c => c.1 == stack) then
    .next { s with maps := { s.maps with channels := (stack, channel) :: s.maps.channels } }
  else .refused (.notEnabled "HBM_CHANNEL_SPARE")

/-- LPDDR_ROW_REMAP: up to 64 failing rows at a Quay. -/
def execLpddrRowRemap (quay row : Nat) (s : State) : Outcome :=
  let q := s.quay quay
  if quay < 8 && decide (q.remap.length < 64) && !q.remap.contains row then
    .next (s.mapQuay quay fun q => { q with remap := row :: q.remap })
  else .refused (.notEnabled "LPDDR_ROW_REMAP")

end Sys2Proof.Machine
end

