-- ==== Sys2Proof/Machine/Vector.lean ====
section
/-! DEFINITION. The V class (R407 to R427). -/

namespace Sys2Proof.Machine

/-! ### Shared operations -/

/-- The rule of every V slot: it has no predicate (R408); in handler state it is NESTED_TRAP (R260); naming a register of a
lent bank traps (R60). -/
def State.vslot (s : State) (named : List (BitVec 5)) (bad : List (Bool × Nat)) (stall : Bool) (effect : Core → Core) :
    Outcome :=
  let c := s.core
  .next (s.slot (!c.issue.suppressed)
    (firstBad ((c.handler.active, cNestedTrap) :: (named.any c.isLent, cIllegalOperation) :: bad)) stall
    fun s => s.onCore effect)

/-- A result for v(d) under `keep`; the twin latch takes it with masked-off lanes zero (R76, R410). -/
def Core.sendV (c : Core) (dup : Bool) (d : BitVec 5) (x keep : VReg) (cls lat : Nat) : Core :=
  c.send (.v d x keep) (c.latency cls lat) (2 + c.issue.unit) (if dup then .v (x &&& keep) (x &&& keep) else .none)

/-- A result for the pair v(d), v(d+1); the twin latch takes their XOR (R410). -/
def Core.sendPair (c : Core) (dup : Bool) (d : BitVec 5) (x y : VReg) (cls lat : Nat) : Core :=
  c.send (.vv d x y) (c.latency cls lat) (2 + c.issue.unit) (if dup then .v (x ^^^ y) (x ^^^ y) else .none)

/-- Compute lane by lane at width w. -/
def byLane (w : Nat) (f : Nat → Nat) : VReg := pack w ((List.range (2048 / w)).map f)

/-- Class and latency of an arithmetic instruction: float formats 5 and 4 cycles, integer formats 4 and 2 (R62, R96). -/
def arithClass (c : Nat) : Nat × Nat := if fmtIsInt c then (4, 2) else (5, 4)

/-- An integer result: wrapped without saturate, clamped with it (R101, R412). -/
def intResult (c : Nat) (sat : Bool) (v : Int) : Nat := intCode c (if sat then intClamp c v else v)

/-- Exact operation, then one rounding (R109, R411). -/
inductive Arith where
  | add | sub | mul | fma
  deriving DecidableEq, Repr

def arithLane (op : Arith) (c : Nat) (r : Rounding) (rw a b d : Nat) : Nat :=
  if fmtIsInt c then
    let x := intDecode c a
    let y := intDecode c b
    intResult c r.sat (match op with
      | .add => x + y
      | .sub => x - y
      | .mul => x * y
      | .fma => x * y + intDecode c d)
  else
    let x := decodeNum c a
    let y := decodeNum c b
    round c r.mode r.sat (fmtWidth c) rw (match op with
      | .add => Num.add r.mode x y
      | .sub => Num.add r.mode x y.neg
      | .mul => Num.mul x y
      | .fma => Num.add r.mode (Num.mul x y) (decodeNum c d))

/-- The random-word register is read under SR only (R409, R418). -/
def Rounding.named (r : Rounding) : List (BitVec 5) := if r.mode = 5 then [r.rvec] else []

def State.execArith (s : State) (x : V3) (op : Arith) : Outcome :=
  let c := x.fmt.toNat
  let w := fmtWidth c
  let r := s.core.rounding
  s.vslot ([x.d, x.a, x.b] ++ r.named) [] false fun k =>
    let rv := k.getV r.rvec
    let va := k.getV x.a
    let vb := k.getV x.b
    let vd := k.getV x.d
    let res := byLane w fun i => arithLane op c r (lane w i rv) (lane w i va) (lane w i vb) (lane w i vd)
    let (cls, lat) := arithClass c
    k.sendV x.dup x.d res (laneKeep (k.laneMask x.m) w) cls lat

/-- The greater or the lesser lane (R113, R411): the default NaN if either operand is NaN. -/
def pickLane (greater : Bool) (c a b : Nat) : Nat :=
  if fmtIsInt c then
    let x := intDecode c a
    let y := intDecode c b
    if greater then (if x < y then b else a) else (if y < x then b else a)
  else
    let x := decodeNum c a
    let y := decodeNum c b
    if x = .nan ∨ y = .nan then roundRne c .nan
    else if greater then (if x.below y then b else a) else (if y.below x then b else a)

/-- A V3 instruction of latency 2 that computes lane by lane. VMAX and VMIN keep latency 2 in a float format, so they have legacy
class 4 in every format: R96 names neither (DEDUCED, unsafe: log 19). -/
def State.execLanes (s : State) (x : V3) (f : Nat → Nat → Nat → Nat) : Outcome :=
  let c := x.fmt.toNat
  let w := fmtWidth c
  s.vslot [x.d, x.a, x.b] [] false fun k =>
    let va := k.getV x.a
    let vb := k.getV x.b
    k.sendV x.dup x.d (byLane w fun i => f c (lane w i va) (lane w i vb)) (laneKeep (k.laneMask x.m) w) 4 2

def execVadd (x : V3) (s : State) : Outcome := s.execArith x .add
def execVsub (x : V3) (s : State) : Outcome := s.execArith x .sub
def execVmul (x : V3) (s : State) : Outcome := s.execArith x .mul
def execVfma (x : V3) (s : State) : Outcome := s.execArith x .fma
def execVmax (x : V3) (s : State) : Outcome := s.execLanes x (pickLane true)
def execVmin (x : V3) (s : State) : Outcome := s.execLanes x (pickLane false)

/-- R411, R412: the sign cleared, a NaN the default NaN; an integer's magnitude, saturating under ctl.vround. -/
def absLane (c : Nat) (sat : Bool) (a : Nat) : Nat :=
  if fmtIsInt c then intResult c sat (intDecode c a).natAbs
  else roundRne c (decodeNum c a).abs

def execVabs (x : V2) (s : State) : Outcome :=
  let c := x.fmt.toNat
  let w := fmtWidth c
  s.vslot [x.d, x.a] [] false fun k =>
    let va := k.getV x.a
    k.sendV x.dup x.d (byLane w fun i => absLane c k.satDefault (lane w i va)) (laneKeep (k.laneMask x.m) w) 4 2

/-- R413. -/
def execVbcast (x : VS) (s : State) : Outcome :=
  let w := fmtWidth x.fmt.toNat
  s.vslot [x.d] [] (s.core.pending x.s) fun k =>
    k.sendV x.dup x.d (byLane w fun _ => (k.src 0 x.s).toNat) (laneKeep (k.laneMask x.m) w) 4 2

/-- R414: all bits of an active lane's bytes take its condition. -/
def execVcmp (x : VC) (s : State) : Outcome :=
  let c := x.fmt.toNat
  let w := fmtWidth c
  s.vslot [x.a, x.b] [] false fun k =>
    let va := k.getV x.a
    let vb := k.getV x.b
    let n := w / 8
    let mask := k.laneMask x.m
    let bit (f : Nat → Bool) : Mask :=
      BitVec.ofNat 256 (packNat n ((List.range (2048 / w)).map fun i => if f i then 2 ^ n - 1 else 0))
    let keep := bit (laneOn mask w)
    let res := bit fun i => vcmpCond x.cc c (lane w i va) (lane w i vb)
    let t := (res &&& keep).setWidth 2048
    k.send (.m x.md res keep) (k.latency 4 2) (2 + k.issue.unit) (if x.dup then .v t t else .none)

/-- R415, R416: the first n lanes convert, the rest are zero. -/
def execVcvt (x : VCv) (s : State) : Outcome :=
  let ci := x.inF.toNat
  let co := x.outF.toNat
  let wi := fmtWidth ci
  let wo := fmtWidth co
  let n := 2048 / max wi wo
  let r := s.core.rounding
  s.vslot ([x.d, x.a] ++ r.named) [] false fun k =>
    let va := k.getV x.a
    let rv := k.getV r.rvec
    let res := byLane wo fun i =>
      if i < n then round co r.mode r.sat wo (lane wo i rv) (decodeNum ci (lane wi i va)) else 0
    k.sendV x.dup x.d res (laneKeep (k.laneMask x.m) wo) 6 3

/-- R417: function 0 exp, 1 log, 2 reciprocal, 3 reciprocal square root. -/
def State.execElementary (s : State) (x : V2) (fn : Nat) : Outcome :=
  let c := x.fmt.toNat
  let w := fmtWidth c
  let r := s.core.rounding
  s.vslot ([x.d, x.a] ++ r.named) [] false fun k =>
    let va := k.getV x.a
    k.sendV x.dup x.d (byLane w fun i => elementary fn c r.mode r.sat (lane w i va)) (laneKeep (k.laneMask x.m) w) 7 8

def execVexp (x : V2) (s : State) : Outcome := s.execElementary x 0
def execVlog (x : V2) (s : State) : Outcome := s.execElementary x 1
def execVrcp (x : V2) (s : State) : Outcome := s.execElementary x 2
def execVrsq (x : V2) (s : State) : Outcome := s.execElementary x 3

/-! ### Scratchpad and stream moves (R419 to R422) -/

/-- o = s(base) + 256 × off7, an exact sum (R6, R419). -/
def Core.vPlace (c : Core) (x : VMem) : Int := (c.src 0 x.base).toNat + 256 * x.off.toInt

/-- The offset as a place of the share: a negative one lies outside it. -/
def Core.vOffset (c : Core) (x : VMem) : Nat := (c.vPlace x).toNat

def Core.vMemBad (c : Core) (x : VMem) : List (Bool × Nat) :=
  [(c.vPlace x % 64 != 0, cMisalign), (decide (c.vPlace x < 0) || !c.inShare (c.vOffset x) 256, cSpadRange)]

def Core.vPostInc (c : Core) (x : VMem) : Core :=
  if x.pi then c.send (.s x.base (c.src 0 x.base + x.off.signExtend 64 * 256)) 1 (2 + c.issue.unit) else c

/-- A poisoned pool granule is consumed (R281). -/
def Core.consume (c : Core) (a n : Nat) : Core := if poisonedIn c.poison a n then c.uncorrectable else c

def execVld (x : VMem) (s : State) : Outcome :=
  s.vslot [x.v] (if s.core.pending x.base then [] else s.core.vMemBad x) (s.core.pending x.base) fun k =>
    let o := k.vOffset x
    ((k.send (.v x.v (vOfBytes (k.spRead o 256)) (byteKeep (k.laneMask x.m))) (k.latency 11 4) (2 + k.issue.unit)).vPostInc x).consume
      (k.spBase + o) 256

def execVst (x : VMem) (s : State) : Outcome :=
  s.vslot [x.v] (if s.core.pending x.base then [] else s.core.vMemBad x) (s.core.pending x.base) fun k =>
    let mask := k.laneMask x.m
    (k.spStore [(k.vOffset x, vBytes (k.getV x.v), fun j => mask.getLsbD j)]).vPostInc x

/-- R56: the uses of a stream that trap: unbound, against the direction, another element size, or past the last. -/
def Core.streamBad (c : Core) (w : BitVec 3) (write : Bool) : List (Bool × Nat) :=
  match (c.stream w).bind with
  | none => [(true, cIllegalOperation)]
  | some b => [(b.write != write, cIllegalOperation), (decide ((c.stream w).pos ≥ b.total), cStreamEnd)]

/-- A pop's step along the pattern, and a push's (R56). -/
def Stream.popped (x : Stream) : Stream := { x with fifo := x.fifo.drop 1, pos := x.pos + 1 }
def Stream.pushedOne (x : Stream) : Stream :=
  { x with pos := x.pos + 1, fifo := if x.bind.any (·.sp) then x.fifo else x.fifo ++ [⟨0, false, 0, 0, false, 0, 0, [], 0⟩] }

def execVldStream (x : VStr) (s : State) : Outcome :=
  s.vslot [x.v] (s.core.streamBad x.w false) (s.core.stream x.w).fifo.isEmpty fun k =>
    let w := k.stream x.w
    match w.fifo with
    | [] => k
    | e :: _ =>
      let k := k.setStream x.w w.popped
      let k := k.send (.v x.v e.data (byteKeep (k.laneMask x.m))) (k.latency 11 4) (2 + k.issue.unit)
      if e.bad then k.uncorrectable else k

/-- A push to memory enters the FIFO as a store of the core; inside a region it must fit the store buffer, or is not buffered (R268,
R354). -/
def Core.pushElem (c : Core) (i : BitVec 3) (w : Stream) (e : StreamElem) : Core :=
  if e.depth > 0 ∧ c.buffered + e.cost > 512 then (c.setStream i { w with moved := w.moved + 1 }).caught 4 0
  else c.setStream i { w with fifo := w.fifo ++ [e] }

/-- R354: a push to scratchpad is written in the issue cycle, undo-logged inside a region; a push to memory enters the
FIFO. Padding elements are suppressed. -/
def execVstStream (x : VStr) (s : State) : Outcome :=
  let full := match (s.core.stream x.w).bind with
    | some b => !b.sp && decide ((s.core.stream x.w).pushed.length ≥ s.core.fifoDepth)
    | none => false
  s.vslot [x.v] (s.core.streamBad x.w true) full fun k =>
    let w := k.stream x.w
    match w.bind with
    | none => k
    | some b =>
      let a := b.addr w.pos
      let keep := if b.padded w.pos then 0 else k.laneMask x.m
      let w := { w with pos := w.pos + 1 }
      if b.sp then
        let k := k.setStream x.w { w with moved := w.moved + 1 }
        k.spStore [(a, vBytes (k.getV x.v), fun j => keep.getLsbD j)]
      else k.pushElem x.w w ⟨a, false, keep, k.getV x.v, false, k.stamp, k.depth, k.fenced 4 ++ k.fenceLeft, b.hint⟩

/-- Element addresses of the active lanes (R422): lane and offset, an exact sum (R6). -/
def Core.vxLanes (c : Core) (x : VX) : List (Nat × Nat) :=
  let w := sizeBytes x.size
  let mask := c.laneMask x.m
  ((List.range (256 / w)).filter fun i => laneOn mask (8 * w) i).map fun i =>
    (i, (c.src 0 x.base).toNat + lane (8 * w) i (c.getV x.a) * w)

def Core.vxBad (c : Core) (x : VX) : List (Bool × Nat) :=
  [((c.src 0 x.base).toNat % sizeBytes x.size != 0, cMisalign),
   ((c.vxLanes x).any fun p => !c.inShare p.2 (sizeBytes x.size), cSpadRange)]

def execVldx (x : VX) (s : State) : Outcome :=
  let w := sizeBytes x.size
  s.vslot [x.d, x.a] (if s.core.pending x.base then [] else s.core.vxBad x) (s.core.pending x.base) fun k =>
    let ls := k.vxLanes x
    let res := byLane (8 * w) fun i =>
      match ls.find? fun p => p.1 == i with
      | some p => leVal (k.spRead p.2 w)
      | none => 0
    let c := k.send (.v x.d res (laneKeep (k.laneMask x.m) (8 * w))) (k.latency 11 4) (2 + k.issue.unit)
    if ls.any fun p => poisonedIn k.poison (k.spBase + p.2) w then c.uncorrectable else c

def execVstx (x : VX) (s : State) : Outcome :=
  let w := sizeBytes x.size
  s.vslot [x.d, x.a] (if s.core.pending x.base then [] else s.core.vxBad x) (s.core.pending x.base) fun k =>
    k.spStore ((k.vxLanes x).map fun p => (p.2, toBytes w (lane (8 * w) p.1 (k.getV x.d)), fun _ => true))

/-! ### Moves (R424) -/

def execVmov (x : V2) (s : State) : Outcome :=
  let w := fmtWidth x.fmt.toNat
  s.vslot [x.d, x.a] [] false fun k => k.sendV x.dup x.d (k.getV x.a) (laneKeep (k.laneMask x.m) w) 4 2

def execVperm (x : V3) (s : State) : Outcome :=
  let w := fmtWidth x.fmt.toNat
  s.vslot [x.d, x.a, x.b] [] false fun k =>
    let va := k.getV x.a
    let vb := k.getV x.b
    k.sendV x.dup x.d (byLane w fun i => lane w (lane w i vb % (2048 / w)) va) (laneKeep (k.laneMask x.m) w) 4 2

/-- The mask field is the selector; every lane is written (R69, R424). -/
def execVsel (x : V3) (s : State) : Outcome :=
  let w := fmtWidth x.fmt.toNat
  s.vslot [x.d, x.a, x.b] [] false fun k =>
    let mask := k.laneMask x.m
    let va := k.getV x.a
    let vb := k.getV x.b
    k.sendV x.dup x.d (byLane w fun i => if laneOn mask w i then lane w i va else lane w i vb) (BitVec.allOnes 2048) 4 2

def execVshf (x : V3) (s : State) : Outcome :=
  let w := fmtWidth x.fmt.toNat
  s.vslot [x.d, x.a, x.b] [] false fun k =>
    let va := k.getV x.a
    let n := sext 32 (lane 32 0 (k.getV x.b))
    let res := byLane w fun i =>
      let j : Int := (i : Int) - n
      if 0 ≤ j ∧ j < (2048 / w : Nat) then lane w j.toNat va else 0
    k.sendV x.dup x.d res (laneKeep (k.laneMask x.m) w) 4 2

/-! ### Reductions and scans (R118, R119, R425, R426) -/

/-- One combination: op 0 sum, 1 max, 2 min. -/
def combine (op c : Nat) (r : Rounding) (rw a b : Nat) : Nat :=
  if op = 0 then arithLane .add c r rw a b 0 else pickLane (op == 1) c a b

/-- A level of the tree: combinations at level l, position p upward. -/
def redLevel (op c : Nat) (r : Rounding) (rv : VReg) (l : Nat) : Nat → List (Option Nat) → List (Option Nat)
  | p, some a :: some b :: rest =>
    some (combine op c r (lane (fmtWidth c) (p * 2 ^ l + 2 ^ (l - 1)) rv) a b) :: redLevel op c r rv l (p + 1) rest
  | p, some a :: none :: rest => some a :: redLevel op c r rv l (p + 1) rest
  | p, none :: b :: rest => b :: redLevel op c r rv l (p + 1) rest
  | _, rest => rest

def redTree (op c : Nat) (r : Rounding) (rv : VReg) : Nat → Nat → List (Option Nat) → Option Nat
  | 0, _, xs => (xs[0]?).getD none
  | fuel + 1, l, xs =>
    if xs.length ≤ 1 then (xs[0]?).getD none else redTree op c r rv fuel (l + 1) (redLevel op c r rv l 0 xs)

/-- The root when no lane is active (R118). -/
def redEmpty (op c : Nat) : Nat :=
  if op = 0 then 0
  else if fmtIsInt c then intCode c (intClamp c (if op = 1 then -(2 ^ 64) else 2 ^ 64))
  else roundRne c .nan

def activeLanes (mask : Mask) (w : Nat) (v : VReg) : List (Option Nat) :=
  (List.range (2048 / w)).map fun i => if laneOn mask w i then some (lane w i v) else none

def execVred (x : VR) (s : State) : Outcome :=
  let c := x.fmt.toNat
  let w := fmtWidth c
  let r := s.core.rounding
  s.vslot ([x.d, x.a] ++ r.named) [] false fun k =>
    let root := (redTree x.op.toNat c r (k.getV r.rvec) 8 1 (activeLanes (k.laneMask x.m) w (k.getV x.a))).getD
      (redEmpty x.op.toNat c)
    k.sendV x.dup x.d (pack w [root]) (BitVec.allOnes 2048) 8 6

/-- The running values; a masked-off lane leaves them unchanged (R119). -/
def scanLanes (op c : Nat) (r : Rounding) (rv : VReg) : Nat → Option Nat → List (Option Nat) → List Nat
  | _, _, [] => []
  | i, run, none :: rest => 0 :: scanLanes op c r rv (i + 1) run rest
  | i, none, some a :: rest => a :: scanLanes op c r rv (i + 1) (some a) rest
  | i, some q, some a :: rest =>
    let v := combine op c r (lane (fmtWidth c) i rv) q a
    v :: scanLanes op c r rv (i + 1) (some v) rest

def execVscan (x : VR) (s : State) : Outcome :=
  let c := x.fmt.toNat
  let w := fmtWidth c
  let r := s.core.rounding
  s.vslot ([x.d, x.a] ++ r.named) [] false fun k =>
    let mask := k.laneMask x.m
    k.sendV x.dup x.d (pack w (scanLanes x.op.toNat c r (k.getV r.rvec) 0 none (activeLanes mask w (k.getV x.a))))
      (laneKeep mask w) 8 6

/-! ### VMERGE and VTOPK (R120, R122, R423, R427) -/

/-- A run: index and value bits, up to lane 32 or the first index of all ones. -/
def runOf (idx val : VReg) : List (Nat × Nat) :=
  ((List.range 32).map fun i => (lane 32 i idx, lane 32 i val)).takeWhile fun p => p.1 != 0xFFFFFFFF

def mergeRuns (keep : Bool) : Nat → List (Nat × Nat) → List (Nat × Nat) → List (Nat × Nat)
  | 0, _, _ => []
  | _, [], bs => bs
  | _, as, [] => as
  | n + 1, a :: as, b :: bs =>
    if a.1 < b.1 then a :: mergeRuns keep n as (b :: bs)
    else if b.1 < a.1 then b :: mergeRuns keep n (a :: as) bs
    else
      let v := roundRne 1 (Num.add 0 (f32Num a.2) (f32Num b.2))
      if v % 2 ^ 31 ≠ 0 ∨ keep then (a.1, v) :: mergeRuns keep n as bs else mergeRuns keep n as bs

def execVmerge (x : VG) (s : State) : Outcome :=
  s.vslot [x.d, x.d + 1, x.a, x.a + 1, x.b, x.b + 1] [] false fun k =>
    let out := mergeRuns x.keep 64 (runOf (k.getV x.a) (k.getV (x.a + 1))) (runOf (k.getV x.b) (k.getV (x.b + 1)))
    k.sendPair x.dup x.d (byLane 32 fun p => (out.map (·.1)).getD p 0xFFFFFFFF) (byLane 32 fun p => (out.map (·.2)).getD p 0) 9 10

/-- Does candidate p rank above q (R120)? Candidates are lane and bits; NaN-first or dropped before. -/
def ranksAbove (c : Nat) (p q : Nat × Nat) : Bool :=
  let x := decodeNum c p.2
  let y := decodeNum c q.2
  if x = .nan then (y != .nan || p.1 < q.1)
  else if y = .nan then false
  else y.lt x || (x.eqv y && p.1 < q.1)

def insertRank (c : Nat) (p : Nat × Nat) : List (Nat × Nat) → List (Nat × Nat)
  | [] => [p]
  | q :: r => if ranksAbove c p q then p :: q :: r else q :: insertRank c p r

def execVtopk (x : VK) (s : State) : Outcome :=
  let c := x.fmt.toNat
  let w := fmtWidth c
  s.vslot [x.d, x.d + 1, x.a] [] false fun k =>
    let mask := k.laneMask x.m
    let va := k.getV x.a
    let cands := ((List.range (2048 / w)).filter (laneOn mask w)).map fun i => (i, lane w i va)
    let cands := if x.nan then cands.filter (fun p => decodeNum c p.2 != .nan) else cands
    let ranked := cands.foldl (fun acc p => insertRank c p acc) []
    let n := x.k.toNat + 1
    let nan := roundRne c .nan
    let val (p : Nat) : Nat :=
      if p < n then match ranked[p]? with
        | some q => if decodeNum c q.2 = .nan then nan else q.2
        | none => nan
      else 0
    let idx (p : Nat) : Nat :=
      if p < n then match ranked[p]? with | some q => q.1 | none => 0xFFFFFFFF else 0
    k.sendPair x.dup x.d (byLane w val) (byLane 32 idx) 10 12

end Sys2Proof.Machine
end

