-- ==== Sys2Proof/Machine/Dispatch.lean ====
section
/-! DEFINITION. The meaning of every constructor of Instr: one arm each, in the order of spec/opcode_table.json. -/

namespace Sys2Proof.Machine

def exec (i : Instr) (s : State) : Host.Outcome State Fault Refusal :=
  match i with
  | .add x => Sys2Proof.Machine.execAdd x s
  | .and x => Sys2Proof.Machine.execAnd x s
  | .andn x => Sys2Proof.Machine.execAndn x s
  | .atom x => Sys2Proof.Machine.execAtom x s
  | .bfi x => Sys2Proof.Machine.execBfi x s
  | .bfx x => Sys2Proof.Machine.execBfx x s
  | .cas x => Sys2Proof.Machine.execCas x s
  | .chk x => Sys2Proof.Machine.execChk x s
  | .clz x => Sys2Proof.Machine.execClz x s
  | .cmp x => Sys2Proof.Machine.execCmp x s
  | .div x => Sys2Proof.Machine.execDiv x s
  | .ld x => Sys2Proof.Machine.execLd x s
  | .lea x => Sys2Proof.Machine.execLea x s
  | .max x => Sys2Proof.Machine.execMax x s
  | .min x => Sys2Proof.Machine.execMin x s
  | .movi x => Sys2Proof.Machine.execMovi x s
  | .mul x => Sys2Proof.Machine.execMul x s
  | .mulh x => Sys2Proof.Machine.execMulh x s
  | .or x => Sys2Proof.Machine.execOr x s
  | .plog x => Sys2Proof.Machine.execPlog x s
  | .popc x => Sys2Proof.Machine.execPopc x s
  | .rem x => Sys2Proof.Machine.execRem x s
  | .sar x => Sys2Proof.Machine.execSar x s
  | .sel x => Sys2Proof.Machine.execSel x s
  | .shl x => Sys2Proof.Machine.execShl x s
  | .shr x => Sys2Proof.Machine.execShr x s
  | .st x => Sys2Proof.Machine.execSt x s
  | .sub x => Sys2Proof.Machine.execSub x s
  | .xor x => Sys2Proof.Machine.execXor x s
  | .vabs x => Sys2Proof.Machine.execVabs x s
  | .vadd x => Sys2Proof.Machine.execVadd x s
  | .vbcast x => Sys2Proof.Machine.execVbcast x s
  | .vcmp x => Sys2Proof.Machine.execVcmp x s
  | .vcvt x => Sys2Proof.Machine.execVcvt x s
  | .vexp x => Sys2Proof.Machine.execVexp x s
  | .vfma x => Sys2Proof.Machine.execVfma x s
  | .vld x => Sys2Proof.Machine.execVld x s
  | .vldStream x => Sys2Proof.Machine.execVldStream x s
  | .vldx x => Sys2Proof.Machine.execVldx x s
  | .vlog x => Sys2Proof.Machine.execVlog x s
  | .vmax x => Sys2Proof.Machine.execVmax x s
  | .vmerge x => Sys2Proof.Machine.execVmerge x s
  | .vmin x => Sys2Proof.Machine.execVmin x s
  | .vmov x => Sys2Proof.Machine.execVmov x s
  | .vmul x => Sys2Proof.Machine.execVmul x s
  | .vperm x => Sys2Proof.Machine.execVperm x s
  | .vrcp x => Sys2Proof.Machine.execVrcp x s
  | .vred x => Sys2Proof.Machine.execVred x s
  | .vrsq x => Sys2Proof.Machine.execVrsq x s
  | .vscan x => Sys2Proof.Machine.execVscan x s
  | .vsel x => Sys2Proof.Machine.execVsel x s
  | .vshf x => Sys2Proof.Machine.execVshf x s
  | .vst x => Sys2Proof.Machine.execVst x s
  | .vstStream x => Sys2Proof.Machine.execVstStream x s
  | .vstx x => Sys2Proof.Machine.execVstx x s
  | .vsub x => Sys2Proof.Machine.execVsub x s
  | .vtopk x => Sys2Proof.Machine.execVtopk x s
  | .bklend x => Sys2Proof.Machine.execBklend x s
  | .bklendRet x => Sys2Proof.Machine.execBklendRet x s
  | .hstrd x => Sys2Proof.Machine.execHstrd x s
  | .mcall x => Sys2Proof.Machine.execMcall x s
  | .mcomp x => Sys2Proof.Machine.execMcomp x s
  | .mload x => Sys2Proof.Machine.execMload x s
  | .mswap x => Sys2Proof.Machine.execMswap x s
  | .msync x => Sys2Proof.Machine.execMsync x s
  | .scld x => Sys2Proof.Machine.execScld x s
  | .tdset x => Sys2Proof.Machine.execTdset x s
  | .cbadvProd x => Sys2Proof.Machine.execCbadvProd x s
  | .cbadvCons x => Sys2Proof.Machine.execCbadvCons x s
  | .cbwait x => Sys2Proof.Machine.execCbwait x s
  | .kaq x => Sys2Proof.Machine.execKaq x s
  | .kbar x => Sys2Proof.Machine.execKbar x s
  | .kbind x => Sys2Proof.Machine.execKbind x s
  | .kcopy x => Sys2Proof.Machine.execKcopy x s
  | .kdq x => Sys2Proof.Machine.execKdq x s
  | .kpeer x => Sys2Proof.Machine.execKpeer x s
  | .tlset x => Sys2Proof.Machine.execTlset x s
  | .bcopy x => Sys2Proof.Machine.execBcopy x s
  | .bcopyVerify x => Sys2Proof.Machine.execBcopyVerify x s
  | .bdrop x => Sys2Proof.Machine.execBdrop x s
  | .bholdList x => Sys2Proof.Machine.execBholdList x s
  | .bholdRoot x => Sys2Proof.Machine.execBholdRoot x s
  | .blookLeaf x => Sys2Proof.Machine.execBlookLeaf x s
  | .blookInterior x => Sys2Proof.Machine.execBlookInterior x s
  | .bread x => Sys2Proof.Machine.execBread x s
  | .breadVerify x => Sys2Proof.Machine.execBreadVerify x s
  | .bswap x => Sys2Proof.Machine.execBswap x s
  | .bwalkLeaf x => Sys2Proof.Machine.execBwalkLeaf x s
  | .bwalkElement x => Sys2Proof.Machine.execBwalkElement x s
  | .cupdSgd x => Sys2Proof.Machine.execCupdSgd x s
  | .cupdAdagrad x => Sys2Proof.Machine.execCupdAdagrad x s
  | .cupdRowwiseAdagrad x => Sys2Proof.Machine.execCupdRowwiseAdagrad x s
  | .cupdAdam x => Sys2Proof.Machine.execCupdAdam x s
  | .fbktMod x => Sys2Proof.Machine.execFbktMod x s
  | .fbktRange x => Sys2Proof.Machine.execFbktRange x s
  | .fbktHash x => Sys2Proof.Machine.execFbktHash x s
  | .fredAll x => Sys2Proof.Machine.execFredAll x s
  | .fredRoot x => Sys2Proof.Machine.execFredRoot x s
  | .fxch x => Sys2Proof.Machine.execFxch x s
  | .fxchPayload x => Sys2Proof.Machine.execFxchPayload x s
  | .hrctlSetGroup x => Sys2Proof.Machine.execHrctlSetGroup x s
  | .hrctlInvalidateTable x => Sys2Proof.Machine.execHrctlInvalidateTable x s
  | .hrctlWriteBack x => Sys2Proof.Machine.execHrctlWriteBack x s
  | .hrctlClearSketch x => Sys2Proof.Machine.execHrctlClearSketch x s
  | .l2opUpdate x => Sys2Proof.Machine.execL2opUpdate x s
  | .l2opGather x => Sys2Proof.Machine.execL2opGather x s
  | .qgath x => Sys2Proof.Machine.execQgath x s
  | .qpoolSplit x => Sys2Proof.Machine.execQpoolSplit x s
  | .qpoolOrdered x => Sys2Proof.Machine.execQpoolOrdered x s
  | .skrd x => Sys2Proof.Machine.execSkrd x s
  | .wpin x => Sys2Proof.Machine.execWpin x s
  | .wpinLoad x => Sys2Proof.Machine.execWpinLoad x s
  | .wunpin x => Sys2Proof.Machine.execWunpin x s
  | .br x => Sys2Proof.Machine.execBr x s
  | .jmp x => Sys2Proof.Machine.execJmp x s
  | .jmpReg x => Sys2Proof.Machine.execJmpReg x s
  | .call x => Sys2Proof.Machine.execCall x s
  | .callReg x => Sys2Proof.Machine.execCallReg x s
  | .ret x => Sys2Proof.Machine.execRet x s
  | .bsel x => Sys2Proof.Machine.execBsel x s
  | .loop x => Sys2Proof.Machine.execLoop x s
  | .lcnt x => Sys2Proof.Machine.execLcnt x s
  | .nop => Sys2Proof.Machine.execNop s
  | .tend x => Sys2Proof.Machine.execTend x s
  | .cabort x => Sys2Proof.Machine.execCabort x s
  | .yield x => Sys2Proof.Machine.execYield x s
  | .brkpt x => Sys2Proof.Machine.execBrkpt x s
  | .ifence x => Sys2Proof.Machine.execIfence x s
  | .ibank x => Sys2Proof.Machine.execIbank x s
  | .acq x => Sys2Proof.Machine.execAcq x s
  | .rel x => Sys2Proof.Machine.execRel x s
  | .fence x => Sys2Proof.Machine.execFence x s
  | .mon x => Sys2Proof.Machine.execMon x s
  | .mwait x => Sys2Proof.Machine.execMwait x s
  | .dbar x => Sys2Proof.Machine.execDbar x s
  | .ropen x => Sys2Proof.Machine.execRopen x s
  | .rkeep x => Sys2Proof.Machine.execRkeep x s
  | .rclose x => Sys2Proof.Machine.execRclose x s
  | .einj x => Sys2Proof.Machine.execEinj x s
  | .stest x => Sys2Proof.Machine.execStest x s
  | .trap x => Sys2Proof.Machine.execTrap x s
  | .tret x => Sys2Proof.Machine.execTret x s
  | .launch x => Sys2Proof.Machine.execLaunch x s
  | .crd x => Sys2Proof.Machine.execCrd x s
  | .cwr x => Sys2Proof.Machine.execCwr x s
  | .xinvPage x => Sys2Proof.Machine.execXinvPage x s
  | .xinvAll x => Sys2Proof.Machine.execXinvAll x s
  | .mxEnd => Sys2Proof.Machine.execMxEnd s
  | .mxNop => Sys2Proof.Machine.execMxNop s
  | .zacc xc n => Sys2Proof.Machine.execZacc xc n s
  | .ldacc xc xa n => Sys2Proof.Machine.execLdacc xc xa n s
  | .ldw xw => Sys2Proof.Machine.execLdw xw s
  | .ldwSparse xw nm => Sys2Proof.Machine.execLdwSparse xw nm s
  | .mxSwap => Sys2Proof.Machine.execMxSwap s
  | .strm xa xc n => Sys2Proof.Machine.execStrm xa xc n s
  | .drain xc xd n => Sys2Proof.Machine.execDrain xc xd n s
  | .sets xs => Sys2Proof.Machine.execSets xs s
  | .setr mode sat xr => Sys2Proof.Machine.execSetr mode sat xr s
  | .setx xd imm => Sys2Proof.Machine.execSetx xd imm s
  | .movx xd xa => Sys2Proof.Machine.execMovx xd xa s
  | .addx xd fld imm => Sys2Proof.Machine.execAddx xd fld imm s
  | .loopx xc target => Sys2Proof.Machine.execLoopx xc target s
  | .resultLand => Sys2Proof.Machine.execResultLand s
  | .loadReturn k => Sys2Proof.Machine.execLoadReturn k s
  | .engineFaultReport => Sys2Proof.Machine.execEngineFaultReport s
  | .impreciseFault => Sys2Proof.Machine.execImpreciseFault s
  | .rollback => Sys2Proof.Machine.execRollback s
  | .releasePerform k => Sys2Proof.Machine.execReleasePerform k s
  | .gatherRowArrival q => Sys2Proof.Machine.execGatherRowArrival q s
  | .kpeerArrival id => Sys2Proof.Machine.execKpeerArrival id s
  | .streamFill w => Sys2Proof.Machine.execStreamFill w s
  | .streamDrain w => Sys2Proof.Machine.execStreamDrain w s
  | .commandComplete id => Sys2Proof.Machine.execCommandComplete id s
  | .matrixCallComplete => Sys2Proof.Machine.execMatrixCallComplete s
  | .bankDrained => Sys2Proof.Machine.execBankDrained s
  | .descriptorReload => Sys2Proof.Machine.execDescriptorReload s
  | .promotionComplete k => Sys2Proof.Machine.execPromotionComplete k s
  | .reclaimDecrement quay => Sys2Proof.Machine.execReclaimDecrement quay s
  | .lineFree region mark => Sys2Proof.Machine.execLineFree region mark s
  | .windowFadeTick => Sys2Proof.Machine.execWindowFadeTick s
  | .memoryRequestServe ctrl pending => Sys2Proof.Machine.execMemoryRequestServe ctrl pending s
  | .queueDoorbell queue prod => Sys2Proof.Machine.execQueueDoorbell queue prod s
  | .recordRead queue => Sys2Proof.Machine.execRecordRead queue s
  | .recordReread queue => Sys2Proof.Machine.execRecordReread queue s
  | .launchPacket p => Sys2Proof.Machine.execLaunchPacket p s
  | .dispatch => Sys2Proof.Machine.execDispatch s
  | .corePreemptStop => Sys2Proof.Machine.execCorePreemptStop s
  | .preemptionComplete task => Sys2Proof.Machine.execPreemptionComplete task s
  | .cardExpire k => Sys2Proof.Machine.execCardExpire k s
  | .corePartEnd => Sys2Proof.Machine.execCorePartEnd s
  | .completionRecordWrite k => Sys2Proof.Machine.execCompletionRecordWrite k s
  | .eventConsumerWrite n => Sys2Proof.Machine.execEventConsumerWrite n s
  | .waitingBudgetExhausted => Sys2Proof.Machine.execWaitingBudgetExhausted s
  | .containedRequeue => Sys2Proof.Machine.execContainedRequeue s
  | .codeImageLoad task => Sys2Proof.Machine.execCodeImageLoad task s
  | .countMessage p => Sys2Proof.Machine.execCountMessage p s
  | .payloadMessage p => Sys2Proof.Machine.execPayloadMessage p s
  | .payloadAck id => Sys2Proof.Machine.execPayloadAck id s
  | .refusalReport p => Sys2Proof.Machine.execRefusalReport p s
  | .flushMarker m => Sys2Proof.Machine.execFlushMarker m s
  | .flushAck task module epoch => Sys2Proof.Machine.execFlushAck task module epoch s
  | .revocationNotice key => Sys2Proof.Machine.execRevocationNotice key s
  | .remoteAccessPacket p => Sys2Proof.Machine.execRemoteAccessPacket p s
  | .fabricBarrierArrival group src inst => Sys2Proof.Machine.execFabricBarrierArrival group src inst s
  | .fredContribution p => Sys2Proof.Machine.execFredContribution p s
  | .pathFailure module path newPath => Sys2Proof.Machine.execPathFailure module path newPath s
  | .hostBar2Read off len => Sys2Proof.Machine.execHostBar2Read off len s
  | .hostBar2Write off bytes => Sys2Proof.Machine.execHostBar2Write off bytes s
  | .hostAtomicop addr op wide operand compare => Sys2Proof.Machine.execHostAtomicop addr op wide operand compare s
  | .mgmtQueueConfig queue c => Sys2Proof.Machine.execMgmtQueueConfig queue c s
  | .mgmtRegionEntry region e => Sys2Proof.Machine.execMgmtRegionEntry region e s
  | .mgmtBandwidthShares hbm lpddr => Sys2Proof.Machine.execMgmtBandwidthShares hbm lpddr s
  | .mgmtPowerCap watts => Sys2Proof.Machine.execMgmtPowerCap watts s
  | .mgmtC3Entry => Sys2Proof.Machine.execMgmtC3Entry s
  | .mgmtHotRowCache c slot => Sys2Proof.Machine.execMgmtHotRowCache c slot s
  | .mgmtSnapshotRestore task budget => Sys2Proof.Machine.execMgmtSnapshotRestore task budget s
  | .mgmtSnapshotRetire task => Sys2Proof.Machine.execMgmtSnapshotRetire task s
  | .mgmtReadLogicalMaps => Sys2Proof.Machine.execMgmtReadLogicalMaps s
  | .mgmtReadScanLog => Sys2Proof.Machine.execMgmtReadScanLog s
  | .mgmtReadErrorCounts => Sys2Proof.Machine.execMgmtReadErrorCounts s
  | .mgmtClearErrorCounts => Sys2Proof.Machine.execMgmtClearErrorCounts s
  | .mgmtHostAttributeMap page sa => Sys2Proof.Machine.execMgmtHostAttributeMap page sa s
  | .mgmtEventRingSetup base k snapBase slots => Sys2Proof.Machine.execMgmtEventRingSetup base k snapBase slots s
  | .mgmtDebugToken t => Sys2Proof.Machine.execMgmtDebugToken t s
  | .mgmtStageFirmware f => Sys2Proof.Machine.execMgmtStageFirmware f s
  | .mgmtEnlargeOverflow core tag ovbytes => Sys2Proof.Machine.execMgmtEnlargeOverflow core tag ovbytes s
  | .mgmtUnknown code => Sys2Proof.Machine.execMgmtUnknown code s
  | .getVersion => Sys2Proof.Machine.execGetVersion s
  | .getCapabilities => Sys2Proof.Machine.execGetCapabilities s
  | .negotiateAlgorithms rsaPss4096Sha512 => Sys2Proof.Machine.execNegotiateAlgorithms rsaPss4096Sha512 s
  | .getDigests => Sys2Proof.Machine.execGetDigests s
  | .getCertificate r => Sys2Proof.Machine.execGetCertificate r s
  | .challenge r => Sys2Proof.Machine.execChallenge r s
  | .getMeasurements r => Sys2Proof.Machine.execGetMeasurements r s
  | .laneRepair link lane retrainOk => Sys2Proof.Machine.execLaneRepair link lane retrainOk s
  | .heartbeat => Sys2Proof.Machine.execHeartbeat s
  | .quayRefreshTakeover quay => Sys2Proof.Machine.execQuayRefreshTakeover quay s
  | .refreshHandback quay => Sys2Proof.Machine.execRefreshHandback quay s
  | .p1Entry draw => Sys2Proof.Machine.execP1Entry draw s
  | .p1Exit draw => Sys2Proof.Machine.execP1Exit draw s
  | .stestPatternEnd pass => Sys2Proof.Machine.execStestPatternEnd pass s
  | .stestDrainTimeout => Sys2Proof.Machine.execStestDrainTimeout s
  | .debugStep engineSync => Sys2Proof.Machine.execDebugStep engineSync s
  | .debugStepTimeout => Sys2Proof.Machine.execDebugStepTimeout s
  | .moduleReset => Sys2Proof.Machine.execModuleReset s
  | .d3cold => Sys2Proof.Machine.execD3cold s
  | .poolClearDone => Sys2Proof.Machine.execPoolClearDone s
  | .writeBackArrival k => Sys2Proof.Machine.execWriteBackArrival k s
  | .flitReplay link lane => Sys2Proof.Machine.execFlitReplay link lane s
  | .debugResume => Sys2Proof.Machine.execDebugResume s
  | .coreSpareSwap c => Sys2Proof.Machine.execCoreSpareSwap c s
  | .sliceRehome slice => Sys2Proof.Machine.execSliceRehome slice s
  | .hbmChannelSpare stack channel => Sys2Proof.Machine.execHbmChannelSpare stack channel s
  | .lpddrRowRemap quay row => Sys2Proof.Machine.execLpddrRowRemap quay row s

end Sys2Proof.Machine
end

