-- ==== Sys2Proof/Machine/Issue.lean ====
section
/-! DEFINITION. Fetching and issuing a bundle (R32, R33, R67, R85), what is taken at a boundary before it (R263, R265,
R271, R280), the matrix unit's turn, and the model's own schedule (log 1). -/

namespace Sys2Proof.Machine

/-! ### Fetch -/

/-- The four slot words of the bundle at an address of a bank (R67). -/
def Core.fetchWords (c : Core) (pc : Nat) : List SlotWord :=
  let bank := if c.fetch.ibank then c.fetch.bank1 else c.fetch.bank0
  (List.range 4).map fun i => BitVec.ofNat 32 (bank.le (pc + 4 * i) 4)

/-- The header of slot 0, if it decodes. -/
def headerOf (ws : List SlotWord) : Option Header :=
  match ws with
  | w :: _ => (match decodeHeader w with | .ok h => h | .error _ => none)
  | [] => none

/-! ### Slots -/

/-- The slot's issue context. -/
def Core.atSlot (c : Core) (h : Option Header) (ops : SlotOps) (p : Nat × Instr) (checked : Bool) : Core :=
  let replay := match c.fetch.replay with
    | some r => some ((r.latches.find? fun l => l.slot == p.1).getD ⟨p.1, 0, 0, 0, 0⟩)
    | none => none
  { c with issue := ⟨p.1, lendFor h p.1, c.fetch.replay.isNone && loopfOff c h p.1, unitOf ops p.1 p.2, replay, checked, .ran⟩ }

/-- The state an outcome leaves; an operation of a slot always answers a next state. -/
def stateOr (o : Outcome) (s : State) : State :=
  match o with
  | .next t => t
  | _ => s

/-- Execute one slot. -/
def State.runSlot (s : State) (h : Option Header) (ops : SlotOps) (checked : Bool) (p : Nat × Instr) : State :=
  stateOr (exec p.2 (s.onCore fun c => c.atSlot h ops p checked)) s

/-- The slots that a bundle issues: all of them, or on a replay those that did not retire (R264). -/
def Core.slotsToRun (c : Core) (ops : SlotOps) : SlotOps :=
  match c.fetch.replay with
  | some r => ops.filter fun p => !r.ret.testBit p.1
  | none => ops

/-! ### Steps 3 and 4 of R85 -/

/-- What the checks of a bundle's slots answer: go on; an outcome that replaces the bundle's issue; or a stall. -/
inductive Checked where
  | go
  | instead (s : State)
  | stall
  deriving DecidableEq, Repr

/-- Does the operation sample the abort line (R41)? -/
def samplesAbort (i : Instr) : Bool :=
  match i with
  | .cbwait _ | .mwait _ | .dbar _ => true
  | _ => false

/-- Does the operation need an entry of the call queue (R136, R334)? -/
def takesEntry (i : Instr) : Bool :=
  match i with
  | .mcall _ | .mload _ | .mswap _ | .mcomp _ | .cwr _ => true
  | _ => false

/-- The core as the checks of the bundle's later slots see it where they count what this one takes: a ring's counters and
tiles after a CBADV (R324), a stream one element further after a pop or a push (R56, R32), and an entry of the call queue (R31, R32,
R136). `t` is the outcome of the slot's own checks. -/
def State.counted (ahead t : State) (i : Instr) : State :=
  match i with
  | .cbadvProd _ | .cbadvCons _ => t
  | .vldStream x => if t.core.issue.suppressed then ahead else ahead.onCore fun c => c.setStream x.w (c.stream x.w).popped
  | .vstStream x =>
    if t.core.issue.suppressed then ahead else ahead.onCore fun c => c.setStream x.w (c.stream x.w).pushedOne
  | i => if takesEntry i then ahead.onCore fun c => { c with mx := { c.mx with queue := t.core.mx.queue } } else ahead

/-- Is the operation checked against what the slots before it take? -/
def countsSlots (i : Instr) : Bool :=
  match i with
  | .cbadvProd _ | .cbadvCons _ | .vldStream _ | .vstStream _ => true
  | _ => false

/-- The state that an operation's checks read: what the earlier slots take is counted for rings and streams, and for an operation that
needs an entry of the call queue in that queue alone. -/
def State.seenBy (s ahead : State) (i : Instr) : State :=
  if countsSlots i then ahead
  else if takesEntry i then s.onCore fun c => { c with mx := { c.mx with queue := ahead.core.mx.queue } }
  else s

/-- R308: a result of the same bundle that targets the bank of a lending BKLEND counts as one in flight; a slot that LOOPF suppresses
does neither (R61), and a pop whose element is still to come does (R85). -/
def State.lendCollides (s : State) (h : Option Header) (ops : SlotOps) (p : Nat × Instr) : Bool :=
  match p.2 with
  | .bklend x =>
    (s.core.atSlot h ops p true).active x.g && ops.any fun o =>
      let on (g : Guard) : Bool := (s.core.atSlot h ops o true).active g
      match o.2 with
      | .vldStream y => !(s.core.atSlot h ops o true).issue.suppressed && y.v.toNat / 8 == x.bank.toNat
      | .kdq y => on y.g && (List.range (y.cnt.toNat + 1)).any fun j => (y.d.toNat + j) % 32 / 8 == x.bank.toNat
      | i => slotClass i == .v && ((s.runSlot h ops true o).core.flight.drop s.core.flight.length).any fun f =>
        f.res.vregs.any fun v => v / 8 == x.bank.toNat
  | _ => false

/-- The code of the trap that led from `s` to `t` outside handler state (R254, R266). -/
def State.trapCode (s t : State) : Nat :=
  if s.core.ctl.tvec = 0 then t.core.bound.fatal.getLast?.getD 0 else bitsOf t.core.ctl.cause.toNat 15 0

/-- The slots in slot order against the state before the bundle: the first that traps answers; otherwise any that stalls
makes the bundle stall. CBADV, the stream operations and those that enter the call queue count what earlier slots of the bundle take, in
`ahead` (R54, R56, R136, R324). -/
def State.checkSlots (h : Option Header) (ops : SlotOps) (s : State) : SlotOps → State → Checked → Checked
  | [], _, acc => acc
  | p :: r, ahead, acc =>
    let t := (s.seenBy ahead p.2).runSlot h ops false p
    let t := if t.core.issue.flow = .ran ∧ s.lendCollides h ops p then s.trapAt cIllegalOperation p.1 else t
    match t.core.issue.flow with
    | .trapped => .instead (if countsSlots p.2 || takesEntry p.2 then s.trapAt (s.trapCode t) p.1 else t)
    | .stalled => State.checkSlots h ops s r (ahead.counted t p.2) .stall
    | _ => State.checkSlots h ops s r (ahead.counted t p.2) acc

/-- A sampling operation that finds the abort line set ends the part before anything else (R41). -/
def State.abortSampled (s : State) (h : Option Header) (ops : SlotOps) : SlotOps → Option State
  | [] => none
  | p :: r =>
    if samplesAbort p.2 then
      let t := s.runSlot h ops false p
      if t.core.issue.flow = .moved then some t else State.abortSampled s h ops r
    else State.abortSampled s h ops r

def State.checkBundle (s : State) (h : Option Header) (ops : SlotOps) : Checked :=
  let run := s.core.slotsToRun ops
  match s.abortSampled h ops run with
  | some t => .instead t
  | none => State.checkSlots h ops s run s .go

/-! ### The clock (R14, R35) -/

/-- 1/36 ns in one clock cycle: P0 at 3.6 GHz, P1 at 2.4 GHz (R16, R17; log 2). -/
def State.cycleLength (s : State) : Nat := if s.pilot.power = .p1 then 15 else 10

/-- A clock cycle passes: cores that have drained for a STEST begin its pattern as it does (R284), and a tick of R167 that ends with
it takes place. -/
def State.tick (s : State) : State :=
  let s := if s.cores.any fun c => c.part.scan == 1 then s.mapCores fun c => c.scanFrom s.time else s
  let s := { s with clock := s.clock + s.cycleLength }
  if s.time / 1000000 > s.fades then s.fadeTick else s

/-- Charge a time to the waiting budget of the core (R35); a context without a budget is not charged (R236), nor a halted core's
time (R291), nor that of a STEST (R284). -/
def Core.charge (c : Core) (t : Nat) : Core :=
  if !c.part.budget || c.part.halted || c.part.scan != 0 then c
  else
    let w := c.part.wait + t
    { c with part := { c.part with wait := w % 36 }, ctl := { c.ctl with wbudget := BitVec.ofNat 64 (c.ctl.wbudget.toNat - w / 36) } }

/-- A cycle in which issue is stalled; before a bundle that TRET replays nothing lands (R264, R405). A DBAR of the bundle has arrived, and its arrival stays outstanding until the bundle
issues (R32, R335). -/
def State.stallTick (s : State) (h : Option Header) (ops : SlotOps) : State :=
  let s := (s.core.slotsToRun ops).foldl (fun s p =>
    match p.2 with
    | .dbar x =>
      let t := s.onCore fun c => c.atSlot h ops p false
      if t.core.active x.g then
        let (u, k, d) := t.arrive x.level
        u.joinFabric x.level.toNat k d
      else s
    | _ => s) s
  (s.onCore fun c => { (if c.fetch.replay.isSome then c else c.landDue).charge s.cycleLength with
    issue := { c.issue with flow := .stalled } }).tick

/-! ### Issue -/

/-- Does the operation read a block of the scratchpad as it stood before its own bundle, though its rank comes after pushes and stores
(R50, R315, R353)? -/
def readsBefore (i : Instr) : Bool := match i with | .kbind _ | .bsel _ => true | _ => false

/-- Perform one slot of a bundle that `before` has issued. KBIND and BSEL write no scratchpad. -/
def State.performSlot (before : State) (h : Option Header) (ops : SlotOps) (s : State) (p : Nat × Instr) : State :=
  if readsBefore p.2 then
    let t := (s.onCore fun c => { c with pool := before.core.pool, poison := before.core.poison }).runSlot h ops true p
    t.onCore fun c => { c with pool := s.core.pool, poison := s.core.poison }
  else s.runSlot h ops true p

/-- Performing the slots of a bundle that has passed its checks, and the end of its issue cycle. -/
def State.performBundle (s : State) (h : Option Header) (ops : SlotOps) : State :=
  let t := (inRank (s.core.slotsToRun ops)).foldl (s.performSlot h ops) s
  let branchy := ops.any fun p => isBranch p.2
  (if t.core.issue.flow = .moved then t else t.onCore fun c => c.finish branchy).tick

/-- The newest entries that the 64 MiB trace buffer holds, of 8 bytes each (R289; log 77). -/
def traceEntries : Nat := 2 ^ 23

/-- Debug trace (R289): the bundle's address goes to the trace buffer of a named queue's context. -/
def State.traceBundle (s : State) : State :=
  if s.pilot.trace && (s.pilot.security == .vendorReturn || s.pilot.debugQs.contains s.taskQueue) then
    { s with pilot := { s.pilot with traceBuf := s.pilot.traceBuf.drop (s.pilot.traceBuf.length + 1 - traceEntries) ++ [(s.core.id, s.core.fetch.pc)] } }
  else s

/-- The core comes to issue its next bundle: the boundary has been sampled, and the results of this cycle land, save before a
bundle that TRET replays (R264, R405). -/
def Core.startBundle (c : Core) : Core :=
  let c := { c with bound := { c.bound with sample := false } }
  if c.fetch.replay.isSome then c else c.landReady

/-- R85: encodings, composition, state, stalls; then the bundle issues. Composition is not checked again for a bundle that TRET replays
(DESIGN CHOICE, log 13: R406 has its words decoded afresh, and says no more). -/
def State.issueBundle (s : State) : State :=
  let s := s.onCore Core.startBundle
  let ws := s.core.fetchWords s.core.fetch.pc
  if loopfBad s.core (headerOf ws) then (s.trapAt cIllegalInstruction 0).tick
  else match decodeBundle ws with
    | .error (_, k) => (s.trapAt cIllegalInstruction k).tick
    | .ok b =>
      match (if s.core.fetch.replay.isSome then none else composition s.core b.ops) with
      | some k => (s.trapAt cIllegalBundle k).tick
      | none =>
        match s.checkBundle b.header b.ops with
        | .instead t => t.tick
        | .stall => s.stallTick b.header b.ops
        | .go => s.traceBundle.performBundle b.header b.ops

/-! ### Boundaries (R280) -/

/-- The imprecise fault that waits is taken: the task ends, or a contained node is re-queued (R266, R275). -/
def State.takeFatal (s : State) : State :=
  match exec .impreciseFault s with
  | .next t => t
  | _ => stateOr (exec .containedRequeue s) s

/-- The core stands at its boundary, waiting for matrix items of its region (R271). -/
def State.holdIssue (s : State) : State :=
  s.onCore fun c => { c.charge s.cycleLength with issue := { c.issue with flow := .stalled } }

/-- A rollback that waits: it is taken; or a matrix stop that holds it up goes to the handler first (log 60); or the core
waits. -/
def State.rollbackWork (s : State) : Option State :=
  match exec .rollback s with
  | .next t => some t
  | _ =>
    if s.core.mx.stop.isNone then some s.holdIssue
    else if s.core.mx.told then (if s.core.handler.active then none else some s.holdIssue)
    else match exec .engineFaultReport s with
      | .next t => some t
      | _ => if s.core.handler.active then none else some s.holdIssue

/-- The work that waits at the boundary before the bundle when no rollback does: a load's translation fault, an engine's, a
pre-emption (R280). -/
def State.quietWork (s : State) : Option State :=
  let c := s.core
  match c.loads.find? fun l => l.fault.isSome with
  | some l =>
    let (code, va) := l.fault.getD (0, 0)
    some (s.onCore fun c => c.takeTrap ⟨code, l.slot, 1, 0, some va, false, 0, []⟩ c.fetch.pc)
  | none =>
    match exec .engineFaultReport s with
    | .next t => some t
    | _ =>
      if c.bound.preempt then
        match exec .corePreemptStop s with
        | .next t => some t
        | _ => none
      else none

/-- The work that waits at the boundary before the bundle, in the order of R280: a fatal fault, a rollback, then the rest; the abort
line is sampled last (R41). -/
def State.boundaryWork (s : State) : Option State :=
  if s.dueFatal.isSome then some s.takeFatal
  else if s.core.rollbackDue.isSome then s.rollbackWork
  else s.quietWork.or (if s.core.bound.sample && s.core.part.abort then some (s.onCore fun c => c.endPart true) else none)

/-- May the core issue? -/
def Core.issues (c : Core) : Bool := c.part.status == .running

/-- After a debugger's step from `s` (R291): in engine-sync mode it waits for the commands and calls of the bundle. -/
def State.stepped (s t : State) : State :=
  if t.core.issue.flow = .stalled then t
  else
    let next : DebugStep := match s.core.part.step with
      | .sync n => .waiting (t.time + n) s.hm.nextNum (decide (s.core.mx.queue.length < t.core.mx.queue.length))
      | _ => .none
    t.onCore fun c => { c with part := { c.part with step := next } }

/-- Is the core halted for debug, with no bundle to step? -/
def Core.frozen (c : Core) : Bool :=
  c.part.halted &&
    match c.part.step with
    | .bundle | .sync _ => false
    | _ => true

/-- Is an exchange of the core held at a receiver (R185, R442)? -/
def State.senderHeld (s : State) : Bool :=
  s.core.copy.cmds.any fun k =>
    match k.fx with
    | some x =>
      s.ferry.reports.any (fun r => r.core == s.core.id && r.tag == x.tag) || s.ferry.holds s.core.id x
    | none => false

/-- A cycle of a held sender is charged, once (R185). -/
def State.chargeHeld (s t : State) : State :=
  if s.senderHeld && t.core.issue.flow != .stalled then t.onCore fun c => c.charge s.cycleLength else t

/-- The first candidate that is enabled. -/
def State.firstEnabled (s : State) : List (State → Outcome) → Option State
  | [] => none
  | f :: r =>
    match f s with
    | .next t => some t
    | _ => State.firstEnabled s r

/-- Does the operation stand after every store that the core has issued (R204, R429, R438)? -/
def ordersAll (i : Instr) : Bool :=
  match i with
  | .fence _ | .xinvPage _ | .xinvAll _ | .tret _ => true
  | _ => false

/-- Does the bundle at the pc hold such an operation? -/
def Core.ordersNext (c : Core) : Bool :=
  match decodeBundle (c.fetchWords c.fetch.pc) with
  | .ok b => b.ops.any fun p => ordersAll p.2
  | .error _ => false

/-- The last of the commands and gathers that a waiting push comes after (R351). -/
def Core.lastBlocker (c : Core) : Nat :=
  (c.pushes.flatMap fun e => e.after.filter c.outstanding.contains).foldl Nat.max 0

/-- A command or gather that a waiting push may come after moves on. -/
def State.unblock (s : State) : Option State :=
  s.firstEnabled ([exec (.gatherRowArrival false), exec (.gatherRowArrival true)] ++
    (s.core.copy.cmds.filter fun k => !k.sig && decide (k.id ≤ s.core.lastBlocker)).flatMap fun k =>
      [exec (.commandComplete k.id), exec (.kpeerArrival k.id)])

/-- Pushes that a KBAR holds back are performed as what they come after completes. -/
def State.settlePushes : Nat → State → State
  | 0, s => s
  | n + 1, s =>
    if s.core.pushes.isEmpty then s
    else match s.unblock with
      | some t => State.settlePushes n t.flushStreams
      | none => s

/-- Before a bundle with FENCE, XINV or TRET the module completes what holds the core's pushes back, as far as it can, and performs them
(DESIGN CHOICE, log 81: these operations do not stall, and what follows them comes after the pushes). -/
def State.beforeOrder (s : State) : State :=
  if s.core.pushes.isEmpty then s
  else if s.core.ordersNext then s.flushStreams.settlePushes (2 ^ 16)
  else s

/-- A running core's cycle: the boundary's work if there is any, else the bundle. -/
def State.issueRunning (s : State) : State :=
  match s.boundaryWork with
  | some t => t.tick
  | none => s.issueBundle

/-- The same for a core that issues no more, while its part holds on (R185). -/
def State.idleCycle (s : State) : State :=
  (if s.core.inPart && s.senderHeld then s.onCore fun c => c.charge s.cycleLength else s).tick

/-- A core's turn to issue; a core halted for debug issues only the bundle a DEBUG_STEP asked for (R291). -/
def State.issue (s : State) : State :=
  if s.core.issues then
    if s.core.frozen then s.tick
    else
      let s := s.beforeOrder
      if s.core.part.halted then
        match s.boundaryWork with
        | some t => t.tick
        | none => s.stepped s.issueBundle
      else s.chargeHeld s.issueRunning
  else if s.core.bound.fatal.isEmpty then s.idleCycle
  else s.takeFatal.tick

/-! ### The matrix unit's turn -/

/-- Does a reload stand at the head of the call queue, as it does ahead of a restored call (R279)? -/
def Matrix.reloadFirst (m : Matrix) : Bool := match m.queue with | .reload _ _ _ _ :: _ => true | _ => false

/-- The next item of the call queue begins or completes. A call begins once the accesses that its reads come after are performed (R206,
R354). -/
def State.nextItem (s : State) : Outcome :=
  match s.core.mx.queue with
  | .call k :: _ =>
    if s.core.mx.stop.isSome || k.after.any s.core.unperformed.contains then .refused (.notEnabled "MATRIX_CALL_COMPLETE")
    else .next (s.startCall k)
  | .reload _ _ _ _ :: _ => exec .descriptorReload s
  | _ => exec .matrixCallComplete s

/-- The scales that a load is still to read (R394); else the next micro-operation of the running call; without one, the call queue. -/
def State.matrixTurn (s : State) : Outcome :=
  match s.readPending with
  | some t => .next t
  | none =>
    match s.core.mx.run with
    | some r =>
      if s.core.mx.reloadFirst then exec .descriptorReload s
      else if r.done then exec .matrixCallComplete s
      else match r.prog[r.pc]? with
        | some i => exec i s
        | none => exec .matrixCallComplete s
    | none => s.nextItem

/-! ### The schedule (log 1) -/

/-- What may happen by itself while nothing is on the agenda: at the focused core first, then in the module. -/
def State.candidates (s : State) : List (State → Outcome) :=
  let c := s.core
  (if c.flight.isEmpty then [] else [exec .resultLand]) ++
  ((List.range c.sync.rels.length).map fun k => exec (.releasePerform k)) ++
  (if c.loads.isEmpty then [] else [exec (.loadReturn 0)]) ++
  ((List.range 8).flatMap fun i => [exec (.streamDrain (BitVec.ofNat 3 i)), exec (.streamFill (BitVec.ofNat 3 i))]) ++
  [exec (.gatherRowArrival false), exec (.gatherRowArrival true)] ++
  (c.copy.cmds.map fun k => exec (.commandComplete k.id)) ++
  (c.copy.cmds.map fun k => exec (.kpeerArrival k.id)) ++
  [exec .bankDrained, exec (.stestPatternEnd true), exec .waitingBudgetExhausted, exec .corePreemptStop,
    exec .impreciseFault, exec .containedRequeue, exec .corePartEnd, execPoolClearDone] ++
  ((List.range 64).flatMap fun q => if ((s.hm.queues.toList[q]?.map fun x => x.cfg.src == 1 || x.cfg.src == 2).getD false || s.hm.launches.any fun l => l.1 == q)
    then [exec (.recordRead q), exec (.recordReread q)] else []) ++
  (s.hm.tasks.flatMap fun t => [exec (.codeImageLoad t.num), exec (.preemptionComplete t.num)]) ++
  (s.hm.cards.flatMap fun k => [exec (.completionRecordWrite k.num), exec (.cardExpire k.num)]) ++
  (if s.hm.cards.isEmpty then [] else [exec .dispatch]) ++
  ((List.range s.hot.promos.length).map fun k => exec (.promotionComplete k)) ++
  ((List.range s.hot.backs.length).map fun k => execWriteBackArrival k) ++
  ((List.range 8).map fun q => exec (.reclaimDecrement q)) ++
  ((s.bond.lines.filter (·.dying)).map fun l => exec (.lineFree l.region l.mark))

/-- Give the turn to the next core that has a task or work left. -/
def Core.alive (c : Core) : Bool :=
  c.part.status != .none || !c.part.clean || !c.copy.cmds.isEmpty || !c.sync.rels.isEmpty || !c.bound.fatal.isEmpty

def State.rotate (s : State) : State :=
  match s.rest.find? Core.alive with
  | none => s
  | some k => { s with core := k, rest := s.rest.filter (fun r => r.id != k.id) ++ [s.core] }

/-- Does the bundle at the pc end the part? -/
def Core.endsNext (c : Core) : Bool :=
  match decodeBundle (c.fetchWords c.fetch.pc) with
  | .ok b => b.ops.any fun p => match p.2 with | .tend _ | .cabort _ => true | _ => false
  | .error _ => false

/-- What moves at the focused core or in the module besides the issue of bundles. -/
def State.other (s : State) : Option State :=
  match s.matrixTurn with
  | .next u => some u
  | _ => s.firstEnabled s.candidates

/-- With an empty agenda: the focused core issues, save that its engines and loads go first before a bundle that ends the
part and in every 32nd cycle; when it cannot issue, its matrix unit or an event moves; then the next core has its turn. -/
def State.default (s : State) : State :=
  if s.core.issues && !s.core.frozen then
    match (if (s.core.endsNext || s.core.fetch.cycle % 32 = 31) && s.boundaryWork.isNone then s.other else none) with
    | some u => u.rotate
    | none =>
      let t := s.issue
      if t.core.issue.flow = .stalled then (s.other.getD t).rotate else t.rotate
  else (s.other.getD s.issue).rotate

end Sys2Proof.Machine
end

