-- ==== Sys2Proof/Machine/Place.lean ====
section
/-! DEFINITION. Placing an instruction where the next step fetches it (log 6). -/

namespace Sys2Proof.Machine

/-- The four slots of a bundle with a word in slot 0 and NOP in the others, as bytes (R67, R381). -/
def loneBundle (w : Nat) : List Byte :=
  toBytes 4 w ++ toBytes 4 0xE0000000 ++ toBytes 4 0xE0000000 ++ toBytes 4 0xE0000000

/-- Write bytes into the issuing bank. -/
def Core.placeCode (c : Core) (a : Nat) (bs : List Byte) : Core :=
  { c with fetch := if c.fetch.ibank then { c.fetch with bank1 := c.fetch.bank1.write a bs }
    else { c.fetch with bank0 := c.fetch.bank0.write a bs } }

/-- The focused core runs a task and stands at a boundary where nothing waits. -/
def Core.atBundle (c : Core) : Core :=
  { c with
    part := { c.part with status := .running, halted := false, step := .none }
    bound := ⟨none, false, [], [], false, false⟩
    fetch := { c.fetch with replay := none, after := false } }

/-- A call of routine 64 that is running, with all its parameters as the core holds them. -/
def Core.bareCall (c : Core) : Call where
  routine := 64
  tile := ⟨0, 0, 0⟩
  flags := 0
  p := c.regs.p
  vround := c.ctl.vround
  pad := 0
  hist := c.ctl.hist
  descs := c.mx.descs
  late := none
  count := bitsOf c.ctl.tdt.toNat 7 0
  lend := c.ctl.lend
  tiles := c.tiles
  scaleL := c.mx.scaleL
  scaleR := c.mx.scaleR
  depth := 0
  after := []

/-- The matrix unit runs a routine whose next micro-operation is the word. -/
def Core.placeMicro (c : Core) (w : Nat) : Core :=
  let prog := match decodeMicro (BitVec.ofNat 64 w) with | .ok i => [i] | .error _ => []
  { c with mx := { c.mx with
    queue := [.call c.bareCall]
    store := [(64, [BitVec.ofNat 64 w])]
    run := some ⟨c.bareCall, prog, 0, Vector.replicate 16 0, 0x3F800000, 0, false, 0, 0, false⟩ } }

def State.placeWord (s : State) (nbits w : Nat) : State :=
  if nbits ≤ 32 then
    { (s.onCore fun c => (c.atBundle).placeCode c.fetch.pc (loneBundle w)) with agenda := [⟨s.core.id, .issue⟩] }
  else { (s.onCore fun c => c.placeMicro w) with agenda := [⟨s.core.id, .matrix⟩] }

end Sys2Proof.Machine
end

