-- ==== Sys2Proof/Machine/Step.lean ====
section
/-! DEFINITION. One step of the module: the next turn of the agenda, or the model's own schedule (log 1). -/

namespace Sys2Proof.Machine

/-- The state in which the very next step fetches and runs the instruction whose bits are w (log 6). -/
def State.withFetchWord (s : State) (nbits w : Nat) : State := s.placeWord nbits w

/-- A turn: a core issues, its matrix unit moves, or an event takes place at it or in the module. -/
def State.move (s : State) : Move → Outcome
  | .issue => .next s.issue
  | .matrix => s.matrixTurn
  | .event i => exec i s

/-- Does the turn bring the module back from D3? -/
def Move.revives : Move → Bool
  | .event .moduleReset => true
  | _ => false

/-- One step. In D3 only a module reset takes place (R290). -/
def step (s : State) : Outcome :=
  match s.agenda with
  | [] => if s.pilot.power = .d3 then .fault .poweredOff else .next s.default
  | t :: r =>
    if s.pilot.power = .d3 && !t.move.revives then .fault .poweredOff
    else (({ s with agenda := r }).focus t.core).move t.move

end Sys2Proof.Machine
end

