-- ==== Sys2Proof/Safety.lean ====
section
/-! DEFINITION. What counts as a safe run (the invariant that every step keeps, and a run that never stops), and the words
the statements are written in: a slot that may take effect, and the states that a slot or a unit leaves. -/

namespace Sys2Proof

open Machine

/-! ### Safe runs -/

/-- The canonical form of every memory of a core: its pool and its two instruction banks. -/
def Safety.coreMem (c : Core) : Bool := c.pool.wf && c.fetch.bank0.wf && c.fetch.bank1.wf

/-- The canonical form of every memory of the module, with those of the contexts that pre-empted tasks keep. -/
def Safety.memWf (s : State) : Bool :=
  s.mem.wf && s.cores.all Safety.coreMem && s.hm.tasks.all fun t => t.saved.all Safety.coreMem

/-- n steps from a state without a fault or a refusal. -/
def Safety.runs : Nat → State → Prop
  | 0, _ => True
  | n + 1, s => ∃ t, step s = .next t ∧ Safety.runs n t

/-! ### Slots -/

/-- The state after a slot that changes the core alone: the model's mark of the slot says that it ran. -/
def Safety.ranTo (s : State) (c : Core) : State := { s with core := { c with issue := { c.issue with flow := .ran } } }

/-- The core with one more result in flight: it lands `lat` issue cycles after the slot's own (R44, R62). -/
def Safety.withResult (c : Core) (res : Result) (lat unit : Nat) (twin : Twin := .none) (div slow : Bool := false) : Core :=
  { c with flight := c.flight ++ [⟨res, c.issueCycle + lat, unit, c.issueCycle, c.issue.slot, twin, div, slow⟩] }

/-- The state after a slot whose only effect is a result in flight. -/
def Safety.sent (s : State) (res : Result) (lat unit : Nat) (twin : Twin := .none) (div slow : Bool := false) : State :=
  Safety.ranTo s (Safety.withResult s.core res lat unit twin div slow)

/-- What a .dup S result leaves for the twin latch (R76). -/
def Safety.dupS (dup : Bool) (v : Word) : Twin := if dup then .s v v else .none

/-- What a .dup V result leaves for the twin latch, masked-off lanes zero (R76). -/
def Safety.dupV (dup : Bool) (v keep : VReg) : Twin := if dup then .v (v &&& keep) (v &&& keep) else .none

/-- No register that an S3-form slot reads waits for a result (R31, R96), and no load is to write its destination. -/
def Safety.freeS3 (c : Core) (x : S3) : Prop :=
  c.pending x.a = false ∧ (x.i = false → c.pending x.b = false) ∧ c.pendingW x.d = false

/-- The state after an S3-form slot with result v (R296). -/
def Safety.sentS3 (s : State) (x : S3) (v : Word) (cls lat : Nat) (div : Bool := false) : State :=
  Safety.sent s (.s x.d v) (s.core.latency cls lat) s.core.issue.unit (Safety.dupS x.dup v) div (cls == 1 && s.core.latency cls lat == 2)

/-- The state after an S2-form, MOVI or LEA slot with result v for s(d). -/
def Safety.sentS (s : State) (dup : Bool) (d : BitVec 6) (v : Word) : State :=
  Safety.sent s (.s d v) (s.core.latency 0 1) s.core.issue.unit (Safety.dupS dup v)

/-- The state after a slot that writes the predicate q(d). -/
def Safety.sentQ (s : State) (dup : Bool) (d : BitVec 4) (v : Bool) : State :=
  Safety.sent s (.q d v) (s.core.latency 3 1) s.core.issue.unit (Safety.dupS dup (if v then 1 else 0))

/-- The signed offset field of an SM form, times the access size, with LEND's bits above it when the slot is lent them. -/
def Safety.offset (c : Core) (size : BitVec 2) (off : BitVec 4) : Int :=
  2 ^ size.toNat * (match c.issue.ext with | some e => (e ++ off).toInt | none => off.toInt)

/-- The core after an SM or SA slot's post-increment: with pi = 1 a result for its base, one issue cycle on (R77). -/
def Safety.withPost (c : Core) (x : SMem) : Core :=
  if x.pi then Safety.withResult c (.s x.base (c.src 0 x.base + BitVec.ofInt 64 (Safety.offset c x.size x.off))) 1 c.issue.unit else c

/-- s(base) + offset, for a slot that is not replayed. -/
def Safety.addr (c : Core) (x : SMem) : Word := c.getS x.base + BitVec.ofInt 64 (Safety.offset c x.size x.off)

/-- The bytes an SM form accesses. -/
def Safety.width (x : SMem) : Nat := 2 ^ x.size.toNat

/-- The scratchpad offset of a window address. -/
def Safety.windowOff (va : Word) : Nat := va.toNat - windowBase

/-- A window address whose access stays inside the share (R192). -/
def Safety.inWindowShare (c : Core) (va : Word) (n : Nat) : Prop :=
  inWindow va.toNat = true ∧ Safety.windowOff va + n ≤ c.sp * 16384

/-- The core with one more scoreboarded access outstanding (R31, R365). -/
def Safety.withLoad (c : Core) (x : SMem) (atomic : Bool) (va : Word) (value : Nat) (poison : Bool) : Core :=
  { c with loads := c.loads ++ [⟨x.d, atomic, va, x.size, BitVec.ofNat 64 value, none, poison, c.fetch.pc / 16,
      c.fetch.ibank, c.issue.slot, c.issue.unit, false⟩] }

/-- The core of an atomic whose old value is to return to its d register; s0 takes none (R298, R322). -/
def Safety.withOld (c : Core) (x : SMem) (va : Word) (old : Nat) (poison : Bool) : Core :=
  if x.d = 0 then c else Safety.withLoad c x true va old poison

/-- The core after n bytes have been written at an offset of its scratchpad share: its pool and the poison of the granules
they cover (R50, R281). -/
def Safety.withScratch (c : Core) (off : Nat) (bs : List Byte) : Core :=
  { c with pool := c.pool.write (c.spBase + off) bs, poison := poisonAfter c.poison (c.spBase + off) bs.length false }

/-- The focused core's writes are performed and not staged: it is in no contained node (R274). -/
def Safety.performsDirect (s : State) : Prop := ∀ t, s.task = some t → s.contained t = false

/-- The table of R299. -/
def Safety.atomTable (code w old op : Nat) : Nat :=
  let f := if w = 32 then 1 else 0
  let signed (v : Nat) : Int := if v < 2 ^ (w - 1) then v else (v : Int) - 2 ^ w
  if code = 0 then op
  else if code = 1 then (old + op) % 2 ^ w
  else if code = 2 then old &&& op
  else if code = 3 then old ||| op
  else if code = 4 then old ^^^ op
  else if code = 5 then (if signed old < signed op then op else old)
  else if code = 6 then (if signed op < signed old then op else old)
  else if code = 7 then Max.max old op
  else if code = 8 then Min.min old op
  else if code = 9 then roundRne f (Machine.Num.add 0 (decodeNum f old) (decodeNum f op))
  else if code = 10 then roundRne f (Machine.Num.max (decodeNum f old) (decodeNum f op))
  else roundRne f (Machine.Num.min (decodeNum f old) (decodeNum f op))

/-! ### V slots -/

/-- A V slot that may take effect: LOOPF does not suppress it, the core is not in handler state, and it names no register of
a lent bank (R60, R260, R408). -/
def Safety.freeV (c : Core) (named : List (BitVec 5)) : Prop :=
  c.issue.suppressed = false ∧ c.handler.active = false ∧ ∀ r ∈ named, c.isLent r = false

/-- The state after a V slot whose result `v` lands in the active lanes of width w of v(d). -/
def Safety.sentV (s : State) (m : LaneMask) (dup : Bool) (d : BitVec 5) (w : Nat) (v : VReg) (cls lat : Nat) : State :=
  Safety.sent s (.v d v (laneKeep (s.core.laneMask m) w)) (s.core.latency cls lat) (2 + s.core.issue.unit)
    (Safety.dupV dup v (laneKeep (s.core.laneMask m) w))

/-- The state after a V slot that writes a whole register. -/
def Safety.sentWhole (s : State) (dup : Bool) (d : BitVec 5) (v : VReg) (cls lat : Nat) : State :=
  Safety.sent s (.v d v (BitVec.allOnes 2048)) (s.core.latency cls lat) (2 + s.core.issue.unit)
    (Safety.dupV dup v (BitVec.allOnes 2048))

/-- The state after a V slot that writes a pair. -/
def Safety.sentPair (s : State) (dup : Bool) (d : BitVec 5) (x y : VReg) (cls lat : Nat) : State :=
  Safety.sent s (.vv d x y) (s.core.latency cls lat) (2 + s.core.issue.unit) (if dup then .v (x ^^^ y) (x ^^^ y) else .none)

/-- A V register operand's lane as a number of the format. -/
def Safety.num (c : Core) (fmt : Nat) (r : BitVec 5) (i : Nat) : Machine.Num := decodeNum fmt (lane (fmtWidth fmt) i (c.getV r))

/-- The same lane as an integer of the format. -/
def Safety.int (c : Core) (fmt : Nat) (r : BitVec 5) (i : Nat) : Int := intDecode fmt (lane (fmtWidth fmt) i (c.getV r))

/-- An exact number rounded into a lane under the slot's rounding, with lane i of the random-bits register (R109, R409). -/
def Safety.rounded (c : Core) (fmt i : Nat) (x : Machine.Num) : Nat :=
  round fmt c.rounding.mode c.rounding.sat (fmtWidth fmt) (lane (fmtWidth fmt) i (c.getV c.rounding.rvec)) x

/-- An exact integer as a lane: clamped with saturate, else modulo 2^w (R101). -/
def Safety.narrowed (fmt : Nat) (sat : Bool) (v : Int) : Nat := intCode fmt (if sat then intClamp fmt v else v)

/-- The scratchpad offset of a VM form: s(base) + 256 × off7, exact (R6, R419). -/
def Safety.vectorOff (c : Core) (x : VMem) : Int := (c.src 0 x.base).toNat + 256 * x.off.toInt

/-- The core after a VM slot's post-increment (R419). -/
def Safety.withVPost (c : Core) (x : VMem) : Core :=
  if x.pi then Safety.withResult c (.s x.base (c.src 0 x.base + BitVec.ofInt 64 (256 * x.off.toInt))) 1 (2 + c.issue.unit) else c

/-- A core that consumes a value: UNCORRECTABLE when it is poisoned (R281). -/
def Safety.consumed (c : Core) (poisoned : Bool) : Core := if poisoned then c.uncorrectable else c

/-- The same for a command or a matrix item (R291). -/
def Safety.unitConsumed (c : Core) (poisoned : Bool) : Core := if poisoned then c.unitUncorrectable else c

/-- A pool and its poison after `d`'s bytes under a byte mask have been stored at a scratchpad offset of the core: every other byte is
as before, and a granule stays poisoned unless all its 32 bytes were written (R50, R281). -/
def Safety.blockStored (c : Core) (o : Nat) (keep : Mask) (d : VReg) (p : Mem) (q : List Nat) : Prop :=
  (∀ a, p.byte a = if c.spBase + o ≤ a ∧ a < c.spBase + o + 256 ∧ keep.getLsbD (a - (c.spBase + o)) = true
    then BitVec.ofNat 8 (lane 8 (a - (c.spBase + o)) d) else c.pool.byte a) ∧
  ∀ g, g ∈ q ↔ g ∈ c.poison ∧ ¬ (∀ j, j < 32 → c.spBase + o ≤ 32 * g + j ∧ 32 * g + j < c.spBase + o + 256 ∧
    keep.getLsbD (32 * g + j - (c.spBase + o)) = true)

/-- Inside a region, the core with these undo records appended to its log (R268); outside, the core as it is. -/
def Safety.undoLogged (c : Core) (records : List (List Byte)) : Core :=
  if c.depth = 0 then c
  else records.foldl (fun c r => { Safety.withScratch c c.regions.logPos r with
    regions := { c.regions with logPos := c.regions.logPos + r.length } }) c

/-- The records fit the log, where there is one to fit. -/
def Safety.logFits (c : Core) (records : List (List Byte)) : Prop :=
  c.depth = 0 ∨ c.regions.logPos + (records.map (·.length)).sum ≤ c.regions.logEnd

/-- The core with a vector move's result in flight: `data` lands in the bytes that the mask lets through (R419, R420). -/
def Safety.withVector (c : Core) (v : BitVec 5) (m : LaneMask) (data : VReg) : Core :=
  Safety.withResult c (.v v data (byteKeep (c.laneMask m))) (c.latency 11 4) (2 + c.issue.unit)

/-- The element of lane i of a VX form (R422): s(base) + idx × w, exact (R6). -/
def Safety.element (c : Core) (x : VX) (i : Nat) : Nat :=
  (c.src 0 x.base).toNat + lane (8 * 2 ^ x.size.toNat) i (c.getV x.a) * 2 ^ x.size.toNat

/-- Lane i of a VX form is active (R46, R422). -/
def Safety.vxOn (c : Core) (x : VX) (i : Nat) : Prop :=
  i < 256 / 2 ^ x.size.toNat ∧ (c.laneMask x.m).getLsbD (i * 2 ^ x.size.toNat) = true

/-! ### Commands -/

/-- The operands of an instruction of the command form (R80). -/
def Safety.cmdOf : Instr → Option Cmd
  | .kcopy x | .kpeer x | .bcopy x | .bcopyVerify x | .bdrop x | .bholdList x | .bholdRoot x | .blookLeaf x
  | .blookInterior x | .bread x | .breadVerify x | .bswap x | .bwalkLeaf x | .bwalkElement x | .cupdSgd x
  | .cupdAdagrad x | .cupdRowwiseAdagrad x | .cupdAdam x | .fbktMod x | .fbktRange x | .fbktHash x | .fredAll x
  | .fredRoot x | .fxch x | .fxchPayload x | .hrctlSetGroup x | .hrctlInvalidateTable x | .hrctlWriteBack x
  | .hrctlClearSketch x | .l2opUpdate x | .l2opGather x | .qgath x | .qpoolSplit x | .qpoolOrdered x | .skrd x
  | .wpin x | .wpinLoad x | .wunpin x => some x
  | _ => none

/-- The commands that R270 lets stand in a recovery region whatever their block; KCOPY and BCOPY may by their dkind. -/
def Safety.regionOk : Instr → Bool
  | .qpoolSplit _ | .qpoolOrdered _ | .qgath _ | .skrd _ | .fbktMod _ | .fbktRange _ | .fbktHash _ | .bread _
  | .breadVerify _ | .bwalkLeaf _ | .bwalkElement _ | .bcopy _ | .bcopyVerify _ | .kcopy _ => true
  | _ => false

/-! ### Control flow -/

/-- The core with a redirect pending: it is taken after one delay bundle (R86). -/
def Safety.redirected (c : Core) (t : Nat) (flip : Bool) : Core :=
  { c with fetch := { c.fetch with redirect := some ⟨t, flip⟩ } }

/-- The core of a CALL with its return address in flight for s63 (R321). -/
def Safety.linked (c : Core) : Core := Safety.withResult c (.s 63 (BitVec.ofNat 64 (c.fetch.pc + 32))) 1 0

/-- The end of the slot's bundle is clean: no sibling has faulted in translation, and no rollback waits or comes with the
results that land (R262, R280). -/
def Safety.cleanEnd (s : State) : Prop :=
  s.core.bound.faulted = [] ∧ s.core.bound.rollback = none ∧ (s.core.finish false).bound.rollback = none

/-- No store of the core waits to be performed: no pushed stream element (R354) and nothing behind a FENCE (R204). -/
def Safety.noPushes (s : State) : Prop := (∀ w, (s.core.stream w).pushed = []) ∧ s.core.copy.fenced = []

/-- The n bytes at an offset of the trap frame, as a number (R256). -/
def Safety.frameNat (c : Core) (o n : Nat) : Nat := leVal (c.spRead (c.ctl.frame.toNat + o) n)

/-! ### Sync objects -/

/-- R203: may an acquire take the object? -/
def Safety.objReady (o : SyncObj) : Prop :=
  (o.mode = 0 ∧ o.aux = 0 ∧ o.hcore = 0) ∨
  (o.mode = 1 ∧ 1 ≤ (o.seq + 2 ^ 32 - o.aux) % 2 ^ 32 ∧ (o.seq + 2 ^ 32 - o.aux) % 2 ^ 32 < 2 ^ 31) ∨
  (o.mode = 2 ∧ (o.seq + 2 ^ 32 - o.aux) % 2 ^ 32 < 2 ^ 31)

/-- The object after an acquisition by a core of a module (R203). -/
def Safety.objAcquired (o : SyncObj) (core module : Nat) : SyncObj :=
  if o.mode = 0 then { o with hcore := core + 1, hmod := module }
  else if o.mode = 1 then { o with aux := (o.aux + 1) % 2 ^ 32 }
  else o

/-- The object after a release or a completion signal; `release` says that a LOCK is freed (R203, R206). -/
def Safety.objRaised (o : SyncObj) (release : Bool) : SyncObj :=
  if o.mode = 0 ∧ release = true then { o with hcore := 0, hmod := 0, seq := (o.seq + 1) % 2 ^ 32 }
  else { o with seq := (o.seq + 1) % 2 ^ 32 }

/-- The 12 bytes of an object that its operations write (R201). -/
def Safety.objBytes (o : SyncObj) : List Byte := toBytes 4 o.seq ++ toBytes 4 o.aux ++ toBytes 2 o.hcore ++ toBytes 2 o.hmod

/-- The operand of ACQ, REL and LCNT that R205 allows. -/
def Safety.objAddr (va : Word) : Prop := va.toNat % 64 = 0 ∧ va ≠ 0 ∧ inWindow va.toNat = false

/-- The core's task sees memory as it stands: it has staged nothing and stages nothing (R274). -/
def Safety.seesMemory (s : State) : Prop := ∀ t, s.task = some t → t.staged = [] ∧ s.contained t = false

/-- The core without a MON that waits to arm (R213). -/
def Safety.noHeldMonitor (c : Core) : Core :=
  { c with copy := { c.copy with fenced := c.copy.fenced.filter fun f => match f.op with | .monitor _ => false | _ => true } }

/-! ### Regions -/

/-- ctl.rgn with another depth (R65). -/
def Safety.rgnDepth (rgn : Word) (d : Nat) : Word := BitVec.ofNat 64 (rgn.toNat / 8 * 8 + d)

/-- The core's list of tile entries, ring handles and parameters as CRD reads them is in `readCtl`; this is the table of R64
for the registers with a number of their own. -/
def Safety.namedCtl (c : Core) : List (Nat × Word) :=
  [(0x00, c.ctl.cause), (0x01, c.ctl.epc), (0x02, c.ctl.frame), (0x03, c.ctl.part), (0x04, c.ctl.core), (0x05, c.ctl.task),
   (0x07, c.ctl.wbudget), (0x08, c.ctl.rgn), (0x09, c.ctl.tdt), (0x0A, c.ctl.vround), (0x0B, c.ctl.abort),
   (0x0C, c.ctl.dom[0]), (0x0D, c.ctl.dom[1]), (0x0E, c.ctl.dom[2]), (0x0F, c.ctl.dom[3]), (0x10, c.ctl.hist),
   (0x11, c.ctl.fault), (0x12, c.ctl.pad), (0x13, c.ctl.grp), (0x14, c.ctl.card), (0x15, c.ctl.tvec),
   (0x16, if c.fetch.ibank then 1 else 0), (0x17, c.ctl.lend)]

/-! ### Micro-operations -/

/-- A matrix call runs, its routine has not ended and no translation fault has stopped the unit; it has executed fewer
micro-operations than R137's limit. -/
def Safety.microRunning (s : State) (r : Run) : Prop :=
  s.core.mx.run = some r ∧ r.done = false ∧ s.core.mx.stop = none ∧ r.steps + 1 < 2 ^ 24

/-- The routine state after one more micro-operation, going on at index pc; after its last one the routine ends (R140). -/
def Safety.microAt (r : Run) (pc : Nat) : Run :=
  { r with pc := pc, steps := r.steps + 1, done := decide (r.prog.length ≤ pc) }

/-- The state with this routine state. -/
def Safety.withRun (s : State) (r : Run) : State :=
  { s with core := { s.core with mx := { s.core.mx with run := some r } } }

/-- The routine state with another value in one of its registers. -/
def Safety.microSet (r : Run) (x : BitVec 4) (v : Word) : Run := { r with x := r.x.set x.toNat v x.isLt }

/-- The state after a micro-operation's run-time error (R137): the queue is given up, and the tiles that its items were to fill
or to consume become empty (R52). -/
def Safety.microFailed (s : State) (code : Nat) : State :=
  let named (i : Nat) : Bool := s.core.mx.queue.any fun q => (q.fills ++ q.drains).any fun t => t % 64 == i
  { s with core := { s.core with
    bound := { s.core.bound with fatal := s.core.bound.fatal ++ [code] }, mx := { s.core.mx with run := none, queue := [] }
    tiles := Vector.ofFn fun i : Fin 64 =>
      let t := s.core.tiles.get i
      if named i.val ∧ (t.state = .filling ∨ t.state = .draining) then { t with state := .empty } else t } }

/-- Value (i, j) of an accumulator whose first row lies at a pool offset (R130). -/
def Safety.accValue (c : Core) (wide : Bool) (at' i j : Nat) : Machine.Num :=
  let w := if wide then 8 else 4
  decodeNum (if wide then 0 else 1) (leVal (c.poolRead (at' + 64 * w * i + w * j) w))

/-- One accumulation of R115: x and w by increasing k; exact group sums of 32 for the narrow formats, else one product at a
time. -/
def Safety.accumulated (narrow wide : Bool) (acc : Machine.Num) (x w : List Machine.Num) : Machine.Num :=
  let fmt := if wide then 0 else 1
  let step := if narrow then 32 else 1
  (List.range ((x.length + step - 1) / step)).foldl (fun acc g =>
    match groupSum ((x.drop (step * g)).take step) ((w.drop (step * g)).take step) with
    | some total => decodeNum fmt (roundRne fmt (Machine.Num.add 0 acc total))
    | none => acc) acc

/-! ### The pilot core -/

/-- t's host port holds s's with one more answer of the pilot core and the interrupt that announces it (R292, R293). -/
def Safety.answered (s : State) (r : Response) (t : State) : Prop :=
  t.host = { s.host with replies := s.host.replies ++ [r], msix := s.host.msix ++ [1] }

/-- The SPDM responder has answered, and memory and the cores are as they were (R288). -/
def Safety.responded (s : State) (name : Nat) (bs : List Byte) (t : State) : Prop :=
  t.host.replies = s.host.replies ++ [.spdm name bs] ∧ t.mem = s.mem ∧ t.cores = s.cores

/-! ### Predicates -/

/-- The guard of a slot that its predicate switches off (R61, R69): every S, M, K and C operation but NOP and SEL. -/
def Safety.guardOf : Instr → Option Guard
  | .add x | .and x | .andn x | .bfi x | .bfx x | .div x | .max x | .min x | .mul x | .mulh x | .or x | .rem x | .sar x |
  .shl x | .shr x | .sub x | .xor x => some x.g
  | .atom x | .cas x | .ld x | .st x => some x.g
  | .chk x => some x.g
  | .clz x | .popc x => some x.g
  | .cmp x => some x.g
  | .lea x => some x.g
  | .movi x => some x.g
  | .plog x => some x.g
  | .bklend x | .bklendRet x => some x.g
  | .hstrd x | .jmpReg x | .callReg x | .ibank x | .mon x | .mwait x | .xinvPage x | .xinvAll x => some x.g
  | .mcall x => some x.g
  | .mcomp x => some x.g
  | .mload x => some x.g
  | .mswap x | .msync x | .ret x | .tend x | .yield x | .ifence x | .rclose x | .stest x | .tret x => some x
  | .scld x => some x.g
  | .tdset x => some x.g
  | .cbadvProd x | .cbadvCons x => some x.g
  | .cbwait x => some x.g
  | .kaq x => some x.g
  | .kbar x => some x.g
  | .kbind x => some x.g
  | .kdq x => some x.g
  | .tlset x => some x.g
  | .br x => some x.g
  | .jmp x | .call x => some x.g
  | .bsel x | .ropen x => some x.g
  | .loop x => some x.g
  | .lcnt x => some x.g
  | .cabort x | .brkpt x | .trap x => some x.g
  | .acq x | .rel x => some x.g
  | .fence x => some x.g
  | .dbar x => some x.g
  | .rkeep x => some x.g
  | .einj x => some x.g
  | .launch x => some x.g
  | .crd x | .cwr x => some x.g
  | .kcopy x | .kpeer x | .bcopy x | .bcopyVerify x | .bdrop x | .bholdList x | .bholdRoot x | .blookLeaf x |
  .blookInterior x | .bread x | .breadVerify x | .bswap x | .bwalkLeaf x | .bwalkElement x | .cupdSgd x | .cupdAdagrad x |
  .cupdRowwiseAdagrad x | .cupdAdam x | .fbktMod x | .fbktRange x | .fbktHash x | .fredAll x | .fredRoot x | .fxch x |
  .fxchPayload x | .hrctlSetGroup x | .hrctlInvalidateTable x | .hrctlWriteBack x | .hrctlClearSketch x | .l2opUpdate x |
  .l2opGather x | .qgath x | .qpoolSplit x | .qpoolOrdered x | .skrd x | .wpin x | .wpinLoad x | .wunpin x => some x.g
  | _ => none

/-- A slot of a bundle that issues from `l`, run on what the slots before it leave: KBIND and BSEL read the scratchpad as it stood before
the bundle, and write none of it (R50, R315, R353). -/
def Safety.slotRun (l : State) (h : Option Header) (ops : SlotOps) (x : State) (p : Nat × Instr) : State :=
  let run (y : State) : State := stateOr (exec p.2 (y.onCore fun c => c.atSlot h ops p true)) y
  match p.2 with
  | .kbind _ | .bsel _ =>
    (run (x.onCore fun c => { c with pool := l.core.pool, poison := l.core.poison })).onCore fun c =>
      { c with pool := x.core.pool, poison := x.core.poison }
  | _ => run x

/-- The V operations and SEL, which only LOOPF switches off (R59, R61, R396). -/
def Safety.unguarded : Instr → Bool
  | .sel _ => true
  | .vabs _ | .vexp _ | .vlog _ | .vmov _ | .vrcp _ | .vrsq _ | .vadd _ | .vfma _ | .vmax _ | .vmin _ | .vmul _ | .vperm _
  | .vsel _ | .vshf _ | .vsub _ | .vbcast _ | .vcmp _ | .vcvt _ | .vld _ | .vst _ | .vldStream _ | .vstStream _ | .vldx _
  | .vstx _ | .vmerge _ | .vred _ | .vscan _ | .vtopk _ => true
  | _ => false

end Sys2Proof
end

