-- ==== Sys2Proof/Certificates/Slice0/Obligations.lean ====
section
/-! DEFINITION. The statements for the provers: what each instruction and each step of the module's agents does, from the
numbered rules of spec/. -/

open Sys2Proof Sys2Proof.Machine

/-- ADD, SUB, AND, ANDN, OR, XOR, the shifts, MAX and MIN complete with the result of their tables (R297, R370, R430; SUB,
OR and the shifts of R382). With its predicate on, no operand pending and no DIV trap to take, each of the eleven
instructions answers a next state that differs from the old one only in one result in flight: the value its table gives for
s(a) and B, of latency 1, to s(d), with a twin under .dup. No other register, no control register, no byte of memory
changes. With d = 0 the result is discarded when it lands (ResultsAndLoadsLand). -/
def Obligations.AluResults : Prop :=
  ∀ (x : S3) (s : State) (a b : Word), s.core.active x.g = true → Safety.freeS3 s.core x →
    a = s.core.src 0 x.a → b = s.core.opB x →
    exec (.add x) s = .next (Safety.sentS3 s x (a + b) 0 1) ∧
    exec (.sub x) s = .next (Safety.sentS3 s x (a - b) 0 1) ∧
    exec (.and x) s = .next (Safety.sentS3 s x (a &&& b) 0 1) ∧
    exec (.andn x) s = .next (Safety.sentS3 s x (a &&& ~~~b) 0 1) ∧
    exec (.or x) s = .next (Safety.sentS3 s x (a ||| b) 0 1) ∧
    exec (.xor x) s = .next (Safety.sentS3 s x (a ^^^ b) 0 1) ∧
    exec (.shl x) s = .next (Safety.sentS3 s x (BitVec.ofNat 64 (a.toNat * 2 ^ (b.toNat % 64))) 0 1) ∧
    exec (.shr x) s = .next (Safety.sentS3 s x (BitVec.ofNat 64 (a.toNat / 2 ^ (b.toNat % 64))) 0 1) ∧
    exec (.sar x) s = .next (Safety.sentS3 s x (BitVec.ofInt 64 (a.toInt / 2 ^ (b.toNat % 64))) 0 1) ∧
    exec (.max x) s = .next (Safety.sentS3 s x (BitVec.ofInt 64 (Max.max a.toInt b.toInt)) 0 1) ∧
    exec (.min x) s = .next (Safety.sentS3 s x (BitVec.ofInt 64 (Min.min a.toInt b.toInt)) 0 1)

/-- MUL, MULH, DIV and REM complete; DIV and REM raise DIV_BUSY on a busy divider (R336, R379; REM of R382). MUL gives the
low and MULH the high 64 bits of the signed product, with latency 3 (or the legacy latency in effect); DIV the quotient
truncated towards zero, all ones for B = 0; REM the remainder, s(a) for B = 0; both with latency 20 and holding the divider.
A DIV or REM whose divider holds a result in flight traps at issue with DIV_BUSY. Nothing else changes but the one result in
flight. -/
def Obligations.MulDivResults : Prop :=
  ∀ (x : S3) (s : State) (a b : Word), s.core.active x.g = true → Safety.freeS3 s.core x →
    a = s.core.src 0 x.a → b = s.core.opB x →
    exec (.mul x) s = .next (Safety.sentS3 s x (BitVec.ofInt 64 (a.toInt * b.toInt)) 1 3) ∧
    exec (.mulh x) s = .next (Safety.sentS3 s x (BitVec.ofInt 64 (a.toInt * b.toInt / 2 ^ 64)) 1 3) ∧
    (s.core.divBusy x.dup = false →
      exec (.div x) s = .next (Safety.sentS3 s x
        (if b = 0 then BitVec.allOnes 64 else BitVec.ofInt 64 (a.toInt.tdiv b.toInt)) 2 20 true) ∧
      exec (.rem x) s = .next (Safety.sentS3 s x
        (if b = 0 then a else BitVec.ofInt 64 (a.toInt - b.toInt * a.toInt.tdiv b.toInt)) 2 20 true)) ∧
    (s.core.divBusy x.dup = true → s.core.issue.checked = false →
      exec (.div x) s = .next (s.trapAt cDivBusy s.core.issue.slot) ∧
      exec (.rem x) s = .next (s.trapAt cDivBusy s.core.issue.slot))

/-- BFI, BFX, CLZ, POPC, MOVI, LEA and SEL complete with the values of their rules (R305, R328, R366, R376, R384, R396). BFX
takes the field of len bits at pos, extended by its own top bit when sx = 1; BFI inserts the low len bits of s(a) at pos and
keeps the other bits of s(d); CLZ counts the zero bits above the highest set bit, 64 for zero; POPC the set bits; MOVI
writes the sign-extended immediate, with the lent bits above it under LEND; LEA the base plus the scaled offset modulo 2^64;
SEL chooses s(a) or B by its predicate and is not gated. Each is one result in flight of latency 1; nothing else changes. -/
def Obligations.BitFieldAndMoveResults : Prop :=
  ((∀ (x : S3) (s : State), s.core.active x.g = true → Safety.freeS3 s.core x →
     ∀ (ctl : Word), ctl = s.core.opC x → ∀ (pos len : Nat), pos = (ctl.extractLsb' 0 6).toNat → len = (ctl.extractLsb' 6 6).toNat + 1 →
     (∃ v, exec (.bfx x) s = .next (Safety.sentS3 s x v 0 1) ∧
       ∀ k : Nat, k < 64 → v.getLsbD k = if k < len then (s.core.src 0 x.a).getLsbD (pos + k)
         else (ctl.getLsbD 12 && (s.core.src 0 x.a).getLsbD (pos + len - 1))) ∧
     (s.core.pending x.d = false → ∃ v, exec (.bfi x) s = .next (Safety.sentS3 s x v 0 1) ∧
       ∀ k : Nat, k < 64 → v.getLsbD k = if pos ≤ k ∧ k < pos + len then (s.core.src 0 x.a).getLsbD (k - pos)
         else (s.core.src 2 x.d).getLsbD k)) ∧
   (∀ (x : S2) (s : State), s.core.active x.g = true → s.core.pending x.a = false → s.core.pendingW x.d = false →
     ∀ a : Word, a = s.core.src 0 x.a →
     exec (.clz x) s = .next (Safety.sentS s x.dup x.d (BitVec.ofNat 64 (if a = 0 then 64 else 63 - Nat.log2 a.toNat))) ∧
     exec (.popc x) s = .next (Safety.sentS s x.dup x.d (BitVec.ofNat 64 ((List.range 64).filter fun k => a.getLsbD k).length)))) ∧
  ((∀ (x : SMovi) (s : State), s.core.active x.g = true → s.core.pendingW x.d = false →
     exec (.movi x) s = .next (Safety.sentS s x.dup x.d (BitVec.ofInt 64
       (match s.core.issue.ext with | none => x.imm.toInt | some e => (e ++ x.imm).toInt)))) ∧
   (∀ (x : SLea) (s : State), s.core.active x.g = true → s.core.pending x.base = false → s.core.pendingW x.d = false →
     exec (.lea x) s = .next (Safety.sentS s x.dup x.d
       (s.core.src 0 x.base + BitVec.ofInt 64 (Safety.offset s.core x.size x.off)))) ∧
   (∀ (x : S3) (s : State), s.core.issue.suppressed = false → Safety.freeS3 s.core x →
     exec (.sel x) s = .next (Safety.sentS3 s x
       (if s.core.getQ x.g.q = !x.g.neg then s.core.src 0 x.a else s.core.opB x) 0 1)))

/-- CMP and PLOG complete with the predicate of their tables; CHK compares and clears the twin latch (R326, R329, R330,
R383). CMP sends cond(s(a), B) to q(qd) for the seven conditions, B formed from s(b) or, under LEND, from the lent bits and
b; PLOG the bit of tt that its two predicates choose; each is one predicate in flight of latency 1. CHK clears valid of the
latch of its pair; where valid was set and the halves differ it raises CHK_FAIL: a rollback inside a region, the imprecise
fault 0x149 outside. Nothing else changes. -/
def Obligations.PredicateResults : Prop :=
  ((∀ (x : SCmp) (s : State), s.core.active x.g = true → s.core.pending x.a = false →
     (s.core.issue.ext = none → s.core.pending x.b = false) → x.cc.toNat ≤ 6 →
     ∀ a b : Word, a = s.core.src 0 x.a →
       b = (match s.core.issue.ext with | none => s.core.src 1 x.b | some e => BitVec.ofInt 64 (e ++ x.b).toInt) →
     exec (.cmp x) s = .next (Safety.sentQ s x.dup x.qd (match x.cc.toNat with
       | 0 => decide (a = b)
       | 1 => decide (a ≠ b)
       | 2 => decide (a.toInt < b.toInt)
       | 3 => decide (a.toInt ≤ b.toInt)
       | 4 => decide (a.toNat < b.toNat)
       | 5 => decide (a.toNat ≤ b.toNat)
       | _ => decide (a &&& b ≠ 0)))) ∧
   (∀ (x : SPlog) (s : State), s.core.active x.g = true →
     exec (.plog x) s = .next (Safety.sentQ s x.dup x.qd
       (x.tt.getLsbD (2 * (s.core.getQ x.qa).toNat + (s.core.getQ x.qb).toNat))))) ∧
  (∀ (x : SChk) (s : State), s.core.active x.g = true → x.pair.toNat ≤ 1 →
     let valid := if x.pair = 0 then s.core.twinS.valid else s.core.twinV.valid
     let same := if x.pair = 0 then decide (s.core.twinS.primary = s.core.twinS.twin) else decide (s.core.twinV.primary = s.core.twinV.twin)
     ∃ t, exec (.chk x) s = .next t ∧
       t.core.twinS.valid = (s.core.twinS.valid && x.pair != 0) ∧ t.core.twinV.valid = (s.core.twinV.valid && x.pair == 0) ∧
       t.core.bound.rollback = (if valid && !same && decide (s.core.depth > 0) && s.core.bound.rollback.isNone then some 2 else s.core.bound.rollback) ∧
       t.core.bound.fatal = (if valid && !same && s.core.depth == 0 then s.core.bound.fatal ++ [0x149] else s.core.bound.fatal) ∧
       t = Safety.ranTo s { s.core with twinS := t.core.twinS, twinV := t.core.twinV, bound := t.core.bound })

/-- LD is accepted with the bytes it reads or with its fault, which the handler then finds recorded; it traps outside the
share (R365, R192, R77, R31, R254, R256, R257, R263; log 11: the value is sampled at issue; log 81: behind a FENCE it comes
later). A scratchpad LD inside the share, or an LD that translation lets through, answers a next state with one more
scoreboarded load that carries the zero-extended bytes and their poison, and the post-increment in flight. A window address
outside the share traps with SPAD_RANGE. Where translation fails, the LD is accepted with its fault and its register stays
scoreboarded; at the boundary the core takes the trap with src = 1, the load is the one faulted-pending entry of kind 6 in
the frame, and its register stays scoreboarded in the handler (stated for one load outstanding and no result in flight). The
value is sampled at issue (the model's choice, log 11). With an earlier access of the core still to be performed before a
FENCE, it is accepted without its value (log 81). -/
def Obligations.LoadIssues : Prop :=
  (∀ (x : SMem) (s : State) (va : Word), s.core.active x.g = true → s.core.issue.replay = none → va = Safety.addr s.core x →
     s.core.pending x.base = false → s.core.pendingW x.d = false →
     (x.d = 0 → (s.core.loads ++ s.core.handler.loads).any (fun l => l.dest == 0) = false) →
     (Safety.inWindowShare s.core va (Safety.width x) →
       exec (.ld x) s = .next (Safety.ranTo s (Safety.withPost (Safety.withLoad s.core x false va
         (leVal (s.core.spRead (Safety.windowOff va) (Safety.width x)))
         (poisonedIn s.core.poison (s.core.spBase + Safety.windowOff va) (Safety.width x))) x))) ∧
     (inWindow va.toNat = false → ∀ (s1 s2 : State) (ps : List Piece) (bs : List Byte),
       ((s.flow .ran).flushStreams).pieces .deck false (Safety.width x + 1) va.toNat (Safety.width x) = (s1, .ok ps) →
       (s1.core.fenceLeft = [] → s1.readOwn ps = (s2, .ok bs) → exec (.ld x) s = .next { s2 with core := Safety.withPost (Safety.withLoad s2.core x false va (leVal bs) (s2.poisonedOwn ps)) x }) ∧
       (s1.core.fenceLeft ≠ [] → exec (.ld x) s = .next (s1.onCore fun c =>
         ((c.addLoad x va false 0 none false true).holdAccess c.fenceLeft (.load x.d)).postInc x))) ∧
     (inWindow va.toNat = true → s.core.issue.checked = false → ¬ Safety.inWindowShare s.core va (Safety.width x) →
       exec (.ld x) s = .next (s.trapAt cSpadRange s.core.issue.slot))) ∧
  ((∀ (x : SMem) (s s1 : State) (va : Word) (code a : Nat), s.core.active x.g = true → s.core.issue.replay = none → va = Safety.addr s.core x →
     s.core.pending x.base = false → s.core.pendingW x.d = false →
     (x.d = 0 → (s.core.loads ++ s.core.handler.loads).any (fun l => l.dest == 0) = false) → inWindow va.toNat = false →
     ((s.flow .ran).flushStreams).pieces .deck false (Safety.width x + 1) va.toNat (Safety.width x) = (s1, .error (.trans code a)) →
     ∀ c : Core, c = Safety.withPost { s1.core with loads := s1.core.loads ++ [⟨x.d, false, va, x.size, 0, some (code, a), false,
         s1.core.fetch.pc / 16, s1.core.fetch.ibank, s1.core.issue.slot, s1.core.issue.unit, false⟩] } x →
       exec (.ld x) s = .next { s1 with core := c } ∧ (x.d ≠ 0 → c.pendingW x.d = true)) ∧
   (∀ (s : State) (l : Load) (code va : Nat), s.dueFatal = none → s.core.rollbackDue = none → s.core.loads = [l] → l.fault = some (code, va) →
     s.core.handler.active = false → s.core.handler.loads = [] → s.core.ctl.tvec ≠ 0 → s.core.flight = [] → s.core.fetch.replay = none →
     s.core.fetch.pc < 0x8000 → s.core.loops.length ≤ 6 → l.unit < 8 → l.bidx < 2 ^ 11 → l.slot < 4 →
     ∃ t, s.boundaryWork = some t ∧ t.core.handler.active = true ∧ t.core.handler.loads = [l] ∧ t.core.loads = [] ∧
       (l.dest ≠ 0 → t.core.pendingW l.dest = true) ∧ t.core.fetch.pc = s.core.ctl.tvec.toNat ∧ t.mem = s.mem ∧ t.core.regs = s.core.regs ∧
       t.core.ctl = { s.core.ctl with cause := BitVec.ofNat 64 (code + 2 ^ 16 + l.slot * 2 ^ 17), epc := BitVec.ofNat 64 s.core.fetch.pc,
                                      fault := BitVec.ofNat 64 (va % 2 ^ 57 + 2 ^ 63) } ∧
       Safety.frameNat t.core 0 64 / 2 ^ 201 % 4 = 1 ∧ Safety.frameNat t.core 0 64 / 2 ^ 206 % 2 ^ 8 = 1 ∧
       Safety.frameNat t.core 0x800 16 = l.va.toNat + l.dest.toNat * 2 ^ 64 + 6 * 2 ^ 70 + l.unit * 2 ^ 73 + 2 ^ 82 + l.size.toNat * 2 ^ 88 +
         l.bidx * 2 ^ 90 + (if l.bank then 2 ^ 101 else 0) + l.slot * 2 ^ 102))

/-- ST into the scratchpad share writes exactly its bytes, after a kind 0 record inside a region (R398, R399, R192, R268,
R281). With the window address inside the share, ST writes size bytes of s(d) at that offset of the scratchpad and nothing
else of the pool; a granule it covers whole is poisoned no longer. Inside a recovery region with room in the log, it first
appends the kind 0 record with the old bytes and moves the log position. The base gets its post-increment. Nothing else
changes. -/
def Obligations.StoreToScratchpad : Prop :=
  ∀ (x : SMem) (s : State) (va : Word), s.core.active x.g = true → s.core.issue.replay = none → va = Safety.addr s.core x →
    s.core.pending x.base = false → s.core.pending x.d = false → Safety.inWindowShare s.core va (Safety.width x) →
    ∀ (off : Nat) (bs : List Byte), off = Safety.windowOff va → bs = toBytes (Safety.width x) (s.core.getS x.d).toNat →
    (s.core.depth = 0 →
      exec (.st x) s = .next (Safety.ranTo s (Safety.withPost (Safety.withScratch s.core off bs) x)) ∧
      ∀ a, ¬ (s.core.spBase + off ≤ a ∧ a < s.core.spBase + off + Safety.width x) →
        (Safety.withPost (Safety.withScratch s.core off bs) x).pool.byte a = s.core.pool.byte a) ∧
    (0 < s.core.depth → ∀ (rcd : List Byte), rcd = logRecord 0 off (s.core.spRead off (Safety.width x)) →
      s.core.regions.logPos + rcd.length ≤ s.core.regions.logEnd →
      exec (.st x) s = .next (Safety.ranTo s (Safety.withPost { Safety.withScratch (Safety.withScratch s.core s.core.regions.logPos rcd) off bs with
        regions := { s.core.regions with logPos := s.core.regions.logPos + rcd.length } } x)))

/-- ST to device memory writes the translated bytes and no others; a translation fault is noted for its slot (R398, R399,
R262, R268, R269, R274; log 11: a store is performed in its issue step; log 48: OVERFLOW keeps the post-increment in
flight). Outside a region and a contained node, with no access left to be performed before a FENCE, an ST whose pieces
translate to device memory completes: every byte of memory outside the pieces reads as before, and an ST of one piece writes
exactly its bytes at the piece's physical address. Registers, control registers, the pool and the outstanding loads stay; a
post-increment is in flight. Inside a region the store is held in the region's buffer, or raises OVERFLOW where the buffer
has no room. When translation faults, the slot's cause, address and latch are noted for the end of the bundle and nothing is
written. -/
def Obligations.StoreToMemory : Prop :=
  ∀ (x : SMem) (s : State) (va data : Word), s.core.active x.g = true → s.core.issue.replay = none → va = Safety.addr s.core x →
    data = s.core.getS x.d → s.core.pending x.base = false → s.core.pending x.d = false → inWindow va.toNat = false →
    ∀ (s1 : State),
    (∀ ps, ((s.flow .ran).flushBefore s.core.stamp).pieces .deck true (Safety.width x + 1) va.toNat (Safety.width x) = (s1, .ok ps) →
      s1.core.depth = 0 → (∀ p ∈ ps, isDevice p.pa = true) → Safety.performsDirect s1 → s1.core.fenceLeft = [] →
      ∃ t, exec (.st x) s = .next t ∧
        (∀ a, (∀ p ∈ ps, ¬ (p.pa ≤ a ∧ a < p.pa + p.len)) → t.mem.byte a = s1.mem.byte a) ∧
        (∀ p, ps = [p] → t.mem = s1.mem.write p.pa (toBytes (Safety.width x) data.toNat)) ∧
        t.core.regs = s1.core.regs ∧ t.core.ctl = s1.core.ctl ∧ t.core.pool = s1.core.pool ∧ t.core.loads = s1.core.loads ∧
        t.core.flight = (Safety.withPost s1.core x).flight) ∧
    (∀ ps, ((s.flow .ran).flushBefore s.core.stamp).pieces .deck true (Safety.width x + 1) va.toNat (Safety.width x) = (s1, .ok ps) →
      0 < s1.core.depth → exec (.st x) s = .next (s1.onCore fun c =>
        (if c.buffered + 1 > 512 then c.caught 4 0
          else c.holdStore c.stamp c.depth ps (toBytes (Safety.width x) data.toNat) 1).postInc x)) ∧
    (∀ code a, ((s.flow .ran).flushBefore s.core.stamp).pieces .deck true (Safety.width x + 1) va.toNat (Safety.width x) = (s1, .error (.trans code a)) →
      exec (.st x) s = .next (s1.onCore fun c => { c with bound := { c.bound with
        faulted := c.bound.faulted ++ [(code, a, ⟨c.issue.slot, c.src 0 x.base, 0, data, va⟩)] } }))

/-- ATOM and CAS read the old value, write the new one of the table, and return the old one (R298, R299, R300, R322; log 11:
the atomic step is performed at issue, and the old value returned later). On an aligned operand inside the scratchpad share,
or in device memory that translation reaches, outside a region, with nothing left before a FENCE and, for the scratchpad,
the pool in its canonical form: ATOM of codes 0 to 11 writes new of the table of R299 over old and op at width 32 or 64; CAS
writes s(d+1) when old equals s(d) bit for bit, and writes nothing otherwise. Either answers a next state with the old value
as a scoreboarded load for s(d), poison included (with d = 0 it is discarded and no load waits), and the post-increment;
s(d+1) and everything else stay. -/
def Obligations.AtomicOperations : Prop :=
  (∀ (x : SMem) (s u : State) (va op arg : Word) (n off old : Nat), s.core.active x.g = true → s.core.issue.replay = none →
     va = Safety.addr s.core x → op = s.core.getS x.d → arg = s.core.getS (x.d + 1) → n = Safety.width x → off = Safety.windowOff va →
     old = leVal (s.core.spRead off n) → x.size.toNat ≥ 2 → s.core.pool.wf = true → Safety.inWindowShare s.core va n → va.toNat % n = 0 →
     s.core.pending x.base = false → s.core.pending x.d = false → s.core.pending (x.d + 1) = false → s.core.depth = 0 →
     u = (s.flow .ran).uncontain s.core.part.task →
     ∀ bad, bad = poisonedIn s.core.poison (s.core.spBase + off) n →
     (arg.toNat % 16 < 12 →
       exec (.atom x) s = .next { u with core := Safety.withPost (Safety.withOld
         (Safety.withScratch u.core off (toBytes n (Safety.atomTable (arg.toNat % 16) (8 * n) old (op.toNat % 2 ^ (8 * n))))) x va old bad) x }) ∧
     exec (.cas x) s = .next { u with core := Safety.withPost (Safety.withOld
       (if old = op.toNat % 2 ^ (8 * n) then Safety.withScratch u.core off (toBytes n arg.toNat) else u.core) x va old bad) x } ∧
     u.core = { (s.flow .ran).core with sync := u.core.sync } ∧ (Safety.performsDirect s → u = s.flow .ran)) ∧
  (∀ (x : SMem) (s s1 u s2 : State) (ps : List Piece) (bs : List Byte) (va op arg : Word) (n old : Nat) (bad : Bool), s.core.active x.g = true →
     s.core.issue.replay = none → va = Safety.addr s.core x → op = s.core.getS x.d → arg = s.core.getS (x.d + 1) →
     n = Safety.width x → inWindow va.toNat = false → va.toNat % n = 0 →
     s.core.pending x.base = false → s.core.pending x.d = false → s.core.pending (x.d + 1) = false → s.core.depth = 0 →
     ((s.flow .ran).flushBefore s.core.stamp).pieces .deck true (n + 1) va.toNat n = (s1, .ok ps) → (∀ p ∈ ps, isDevice p.pa = true) →
     u = s1.uncontain s1.core.part.task → u.core.fenceLeft = [] → u.readOwn ps = (s2, .ok bs) → old = leVal bs → bad = u.poisonedOwn ps →
     (∀ v t, (s2.onCore fun c => c.supersede c.stamp va.toNat n).writePieces false ps (toBytes n v) = (t, none) →
       (arg.toNat % 16 < 12 → v = Safety.atomTable (arg.toNat % 16) (8 * n) old (op.toNat % 2 ^ (8 * n)) →
         exec (.atom x) s = .next { t with core := Safety.withPost (Safety.withOld t.core x va old bad) x }) ∧
       (old = op.toNat % 2 ^ (8 * n) → v = arg.toNat % 2 ^ (8 * n) →
         exec (.cas x) s = .next { t with core := Safety.withPost (Safety.withOld t.core x va old bad) x })) ∧
     (old ≠ op.toNat % 2 ^ (8 * n) →
       exec (.cas x) s = .next { s2 with core := Safety.withPost (Safety.withOld s2.core x va old bad) x }))

/-- Operands that the checks at issue forbid trap precisely with the cause of their rule (R77, R82, R88, R260, R267, R270,
R294, R298, R299). ATOM with a reserved code traps ILLEGAL_OPERATION and ATOM or CAS on a misaligned address MISALIGN (the
order of the two is the model's, log 26). BR, JMP, CALL and IBANK with a target past 0x7FF0 or off a bundle, IBANK with the
idle bank written since the last IFENCE, and IFENCE while a command writes it trap ILLEGAL_OPERATION. A command whose block
is misaligned or leaves the share or the room below the frame traps SPAD_RANGE, one with an illegal completion object
ILLEGAL_OPERATION, one that R270 forbids in a region REGION_OP. ROPEN traps NESTED_TRAP in handler state and REGION_OP at
depth 4; RKEEP and RCLOSE at depth 0, REL and LAUNCH inside a region REGION_OP. -/
def Obligations.IllegalOperandsTrap : Prop :=
  (∀ (x : SMem) (s : State) (va : Word), s.core.active x.g = true → s.core.issue.replay = none → s.core.issue.checked = false →
     va = Safety.addr s.core x → s.core.pending x.base = false → s.core.pending x.d = false → s.core.pending (x.d + 1) = false →
     ((s.core.getS (x.d + 1)).toNat % 16 ≥ 12 → exec (.atom x) s = .next (s.trapAt cIllegalOperation s.core.issue.slot)) ∧
     ((s.core.getS (x.d + 1)).toNat % 16 < 12 → va.toNat % Safety.width x ≠ 0 →
       exec (.atom x) s = .next (s.trapAt cMisalign s.core.issue.slot)) ∧
     (va.toNat % Safety.width x ≠ 0 → exec (.cas x) s = .next (s.trapAt cMisalign s.core.issue.slot))) ∧
  (∀ (s : State), s.core.issue.checked = false →
     (∀ x : BrF, s.core.active x.g = true → ((s.core.fetch.pc : Int) + 16 * x.off.toInt < 0 ∨ 0x7FF0 < (s.core.fetch.pc : Int) + 16 * x.off.toInt) →
       s.core.fetch.pc < 0x8000 → exec (.br x) s = .next (s.trapAt cIllegalOperation s.core.issue.slot)) ∧
     (∀ x : GReg, s.core.active x.g = true → s.core.pending x.a = false → s.core.pending 63 = false →
       (0x7FF0 < (s.core.src 0 x.a).toNat ∨ (s.core.src 0 x.a).toNat % 16 ≠ 0) →
       exec (.jmpReg x) s = .next (s.trapAt cIllegalOperation s.core.issue.slot) ∧
       exec (.callReg x) s = .next (s.trapAt cIllegalOperation s.core.issue.slot) ∧
       exec (.ibank x) s = .next (s.trapAt cIllegalOperation s.core.issue.slot)) ∧
     (∀ x : GReg, s.core.active x.g = true → s.core.pending x.a = false → s.core.fetch.written = true →
       exec (.ibank x) s = .next (s.trapAt cIllegalOperation s.core.issue.slot)) ∧
     (∀ g : Guard, s.core.active g = true → (∃ k ∈ s.core.copy.cmds, k.bank = true) →
       exec (.ifence g) s = .next (s.trapAt cIllegalOperation s.core.issue.slot))) ∧
  (∀ (i : Instr) (x : Cmd) (s : State) (off : Nat) (so : Word), Safety.cmdOf i = some x → s.core.active x.g = true →
     s.core.issue.checked = false → s.core.pending x.cb = false → s.core.pending x.so = false →
     off = (s.core.src 0 x.cb).toNat → so = s.core.src 1 x.so →
     (off % 64 ≠ 0 ∨ s.core.ctl.frame.toNat < off + 64 ∨ s.core.sp * 16384 < off + 64 →
       exec i s = .next (s.trapAt cSpadRange s.core.issue.slot)) ∧
     (off % 64 = 0 → off + 64 ≤ s.core.ctl.frame.toNat → off + 64 ≤ s.core.sp * 16384 →
       (so ≠ 0 → so.toNat % 64 ≠ 0 ∨ inWindow so.toNat = true → exec i s = .next (s.trapAt cIllegalOperation s.core.issue.slot)) ∧
       (so = 0 ∨ so.toNat % 64 = 0 ∧ inWindow so.toNat = false → 0 < s.core.depth →
         Safety.regionOk i = false ∨ x.rel = true ∨ so ≠ 0 → exec i s = .next (s.trapAt cRegionOp s.core.issue.slot)))) ∧
  (∀ s : State, s.core.issue.checked = false →
     (∀ x : GReg2, s.core.active x.g = true → s.core.pending x.a = false → s.core.pending x.b = false →
       (s.core.handler.active = true → exec (.ropen x) s = .next (s.trapAt cNestedTrap s.core.issue.slot)) ∧
       (s.core.handler.active = false → s.core.depth = 4 → exec (.ropen x) s = .next (s.trapAt cRegionOp s.core.issue.slot))) ∧
     (∀ x : RkeepF, s.core.active x.g = true → s.core.pending x.a = false → s.core.handler.active = false → s.core.depth = 0 →
       exec (.rkeep x) s = .next (s.trapAt cRegionOp s.core.issue.slot)) ∧
     (∀ g : Guard, s.core.active g = true → s.core.handler.active = false → s.core.depth = 0 →
       exec (.rclose g) s = .next (s.trapAt cRegionOp s.core.issue.slot)) ∧
     (0 < s.core.depth →
       (∀ x : SyncF, s.core.active x.g = true → s.core.pending x.a = false → exec (.rel x) s = .next (s.trapAt cRegionOp s.core.issue.slot)) ∧
       (∀ x : LaunchF, s.core.active x.g = true → s.core.pending x.a = false → exec (.launch x) s = .next (s.trapAt cRegionOp s.core.issue.slot))))

/-- VADD, VSUB, VMUL and VFMA compute each active lane exactly and round or narrow it once (R411, R101, R109, R409). For
every format: each active lane of v(d) receives the exact sum, difference, product or product and sum of the lanes, for
integers reduced modulo 2^w or clamped with saturate, for floats rounded once under the slot's mode. One result in flight
with the class's latency; the lanes that the mask leaves out and everything else stay. -/
def Obligations.VectorArithmetic : Prop :=
  ∀ (x : V3) (s : State) (f : Nat) (r : Rounding), f = x.fmt.toNat → r = s.core.rounding →
    Safety.freeV s.core ([x.d, x.a, x.b] ++ if r.mode = 5 then [r.rvec] else []) →
    (fmtIsInt f = true →
      exec (.vadd x) s = .next (Safety.sentV s x.m x.dup x.d (fmtWidth f) (byLane (fmtWidth f) fun i =>
        Safety.narrowed f r.sat (Safety.int s.core f x.a i + Safety.int s.core f x.b i)) 4 2) ∧
      exec (.vsub x) s = .next (Safety.sentV s x.m x.dup x.d (fmtWidth f) (byLane (fmtWidth f) fun i =>
        Safety.narrowed f r.sat (Safety.int s.core f x.a i - Safety.int s.core f x.b i)) 4 2) ∧
      exec (.vmul x) s = .next (Safety.sentV s x.m x.dup x.d (fmtWidth f) (byLane (fmtWidth f) fun i =>
        Safety.narrowed f r.sat (Safety.int s.core f x.a i * Safety.int s.core f x.b i)) 4 2) ∧
      exec (.vfma x) s = .next (Safety.sentV s x.m x.dup x.d (fmtWidth f) (byLane (fmtWidth f) fun i =>
        Safety.narrowed f r.sat (Safety.int s.core f x.a i * Safety.int s.core f x.b i + Safety.int s.core f x.d i)) 4 2)) ∧
    (fmtIsInt f = false →
      exec (.vadd x) s = .next (Safety.sentV s x.m x.dup x.d (fmtWidth f) (byLane (fmtWidth f) fun i =>
        Safety.rounded s.core f i (Machine.Num.add r.mode (Safety.num s.core f x.a i) (Safety.num s.core f x.b i))) 5 4) ∧
      exec (.vsub x) s = .next (Safety.sentV s x.m x.dup x.d (fmtWidth f) (byLane (fmtWidth f) fun i =>
        Safety.rounded s.core f i (Machine.Num.add r.mode (Safety.num s.core f x.a i) (Machine.Num.neg (Safety.num s.core f x.b i)))) 5 4) ∧
      exec (.vmul x) s = .next (Safety.sentV s x.m x.dup x.d (fmtWidth f) (byLane (fmtWidth f) fun i =>
        Safety.rounded s.core f i (Machine.Num.mul (Safety.num s.core f x.a i) (Safety.num s.core f x.b i))) 5 4) ∧
      exec (.vfma x) s = .next (Safety.sentV s x.m x.dup x.d (fmtWidth f) (byLane (fmtWidth f) fun i =>
        Safety.rounded s.core f i (Machine.Num.add r.mode (Machine.Num.mul (Safety.num s.core f x.a i) (Safety.num s.core f x.b i))
          (Safety.num s.core f x.d i))) 5 4))

/-- VMAX, VMIN, VABS, VMOV, VBCAST, VPERM, VSEL and VSHF write the lanes their tables give (R411, R113, R413, R424). VMAX
and VMIN take the greater or the lesser, the default NaN when either is NaN; VABS the absolute value; VMOV lane i; VBCAST
the low w bits of s(s); VPERM the lane named modulo L; VSEL by its mask bit, every lane; VSHF lane i - n, zero outside. One
result in flight of latency 2 in the lanes the mask lets through; nothing else changes. -/
def Obligations.VectorMaxMinMoves : Prop :=
  ((∀ (x : V3) (s : State) (f : Nat), f = x.fmt.toNat → Safety.freeV s.core [x.d, x.a, x.b] →
     (fmtIsInt f = true →
       exec (.vmax x) s = .next (Safety.sentV s x.m x.dup x.d (fmtWidth f) (byLane (fmtWidth f) fun i =>
         if Safety.int s.core f x.a i < Safety.int s.core f x.b i then lane (fmtWidth f) i (s.core.getV x.b) else lane (fmtWidth f) i (s.core.getV x.a)) 4 2) ∧
       exec (.vmin x) s = .next (Safety.sentV s x.m x.dup x.d (fmtWidth f) (byLane (fmtWidth f) fun i =>
         if Safety.int s.core f x.b i < Safety.int s.core f x.a i then lane (fmtWidth f) i (s.core.getV x.b) else lane (fmtWidth f) i (s.core.getV x.a)) 4 2)) ∧
     (fmtIsInt f = false →
       exec (.vmax x) s = .next (Safety.sentV s x.m x.dup x.d (fmtWidth f) (byLane (fmtWidth f) fun i =>
         if Safety.num s.core f x.a i = .nan ∨ Safety.num s.core f x.b i = .nan then roundRne f .nan
         else if (Safety.num s.core f x.a i).below (Safety.num s.core f x.b i) then lane (fmtWidth f) i (s.core.getV x.b)
         else lane (fmtWidth f) i (s.core.getV x.a)) 4 2) ∧
       exec (.vmin x) s = .next (Safety.sentV s x.m x.dup x.d (fmtWidth f) (byLane (fmtWidth f) fun i =>
         if Safety.num s.core f x.a i = .nan ∨ Safety.num s.core f x.b i = .nan then roundRne f .nan
         else if (Safety.num s.core f x.b i).below (Safety.num s.core f x.a i) then lane (fmtWidth f) i (s.core.getV x.b)
         else lane (fmtWidth f) i (s.core.getV x.a)) 4 2))) ∧
   (∀ (x : V2) (s : State) (f : Nat), f = x.fmt.toNat → Safety.freeV s.core [x.d, x.a] →
     (fmtIsInt f = true → exec (.vabs x) s = .next (Safety.sentV s x.m x.dup x.d (fmtWidth f) (byLane (fmtWidth f) fun i =>
       Safety.narrowed f (s.core.ctl.vround.getLsbD 3) |Safety.int s.core f x.a i|) 4 2)) ∧
     (fmtIsInt f = false → exec (.vabs x) s = .next (Safety.sentV s x.m x.dup x.d (fmtWidth f) (byLane (fmtWidth f) fun i =>
       roundRne f (Machine.Num.abs (Safety.num s.core f x.a i))) 4 2)))) ∧
  ((∀ (x : V2) (s : State), Safety.freeV s.core [x.d, x.a] →
     exec (.vmov x) s = .next (Safety.sentV s x.m x.dup x.d (fmtWidth x.fmt.toNat) (s.core.getV x.a) 4 2)) ∧
   (∀ (x : VS) (s : State) (w : Nat), w = fmtWidth x.fmt.toNat → Safety.freeV s.core [x.d] → s.core.pending x.s = false →
     exec (.vbcast x) s = .next (Safety.sentV s x.m x.dup x.d w (byLane w fun _ => (s.core.src 0 x.s).toNat) 4 2)) ∧
   (∀ (x : V3) (s : State) (w n : Nat), w = fmtWidth x.fmt.toNat → n = 2048 / w → Safety.freeV s.core [x.d, x.a, x.b] →
     exec (.vperm x) s = .next (Safety.sentV s x.m x.dup x.d w (byLane w fun i =>
       lane w (lane w i (s.core.getV x.b) % n) (s.core.getV x.a)) 4 2) ∧
     exec (.vsel x) s = .next (Safety.sentWhole s x.dup x.d (byLane w fun i =>
       if (s.core.laneMask x.m).getLsbD (i * (w / 8)) then lane w i (s.core.getV x.a) else lane w i (s.core.getV x.b)) 4 2) ∧
     exec (.vshf x) s = .next (Safety.sentV s x.m x.dup x.d w (byLane w fun i =>
       if 0 ≤ (i : Int) - sext 32 (lane 32 0 (s.core.getV x.b)) ∧ (i : Int) - sext 32 (lane 32 0 (s.core.getV x.b)) < n
       then lane w ((i : Int) - sext 32 (lane 32 0 (s.core.getV x.b))).toNat (s.core.getV x.a) else 0) 4 2)))

/-- VCMP, VCVT, VEXP, VLOG, VRCP and VRSQ complete with the bits and lanes of their rules (R414 to R418). VCMP sends to
m(md), for every byte of each active lane, the condition of that lane; VCVT the input lane as an exact number rounded to the
output format, zero above the common lanes; VEXP, VLOG, VRCP and VRSQ each lane's elementary value. Where the spec leaves
open which of two neighbours an elementary function gives, the value is the free one of log 7: the statement holds for every
choice. Nothing else changes. -/
def Obligations.VectorCompareConvert : Prop :=
  (∀ (x : VC) (s : State) (f w : Nat), f = x.fmt.toNat → w = fmtWidth f → Safety.freeV s.core [x.a, x.b] →
    ∃ (v keep : Mask) (twin : Twin),
      exec (.vcmp x) s = .next (Safety.sent s (.m x.md v keep) (s.core.latency 4 2) (2 + s.core.issue.unit) twin) ∧
      (twin = if x.dup then .v ((v &&& keep).setWidth 2048) ((v &&& keep).setWidth 2048) else .none) ∧
      ∀ j, j < 256 →
        keep.getLsbD j = (s.core.laneMask x.m).getLsbD (j / (w / 8) * (w / 8)) ∧
        v.getLsbD j = vcmpCond x.cc f (lane w (j / (w / 8)) (s.core.getV x.a)) (lane w (j / (w / 8)) (s.core.getV x.b))) ∧
  (∀ (x : VCv) (s : State) (ci co : Nat) (r : Rounding), ci = x.inF.toNat → co = x.outF.toNat → r = s.core.rounding →
    Safety.freeV s.core ([x.d, x.a] ++ if r.mode = 5 then [r.rvec] else []) →
    exec (.vcvt x) s = .next (Safety.sentV s x.m x.dup x.d (fmtWidth co) (byLane (fmtWidth co) fun i =>
      if i < 2048 / Max.max (fmtWidth ci) (fmtWidth co) then Safety.rounded s.core co i (Safety.num s.core ci x.a i) else 0) 6 3)) ∧
  (∀ (x : V2) (s : State) (f : Nat) (r : Rounding), f = x.fmt.toNat → r = s.core.rounding →
    Safety.freeV s.core ([x.d, x.a] ++ if r.mode = 5 then [r.rvec] else []) →
    ∀ e : Nat → VReg, (∀ fn, e fn = byLane (fmtWidth f) fun i => elementary fn f r.mode r.sat (lane (fmtWidth f) i (s.core.getV x.a))) →
    exec (.vexp x) s = .next (Safety.sentV s x.m x.dup x.d (fmtWidth f) (e 0) 7 8) ∧
    exec (.vlog x) s = .next (Safety.sentV s x.m x.dup x.d (fmtWidth f) (e 1) 7 8) ∧
    exec (.vrcp x) s = .next (Safety.sentV s x.m x.dup x.d (fmtWidth f) (e 2) 7 8) ∧
    exec (.vrsq x) s = .next (Safety.sentV s x.m x.dup x.d (fmtWidth f) (e 3) 7 8))

/-- VRED, VSCAN, VMERGE and VTOPK complete with the tree, scan, merge and selection of their rules (R118 to R122, R423, R425
to R427). VRED writes the fixed tree's value over the active lanes, the empty value without one; VSCAN each active lane's
running value; VMERGE the merged runs, 0xFFFFFFFF and 0 past their end; VTOPK, for its k + 1 best lanes, distinct active
lanes in rank order with their values, every lane it leaves out ranking below the last one, and the end mark with the
default NaN where lanes run out. One result or pair in flight; nothing else changes. -/
def Obligations.VectorReductions : Prop :=
  (∀ (x : VR) (s : State) (f w : Nat) (r : Rounding), f = x.fmt.toNat → w = fmtWidth f → r = s.core.rounding →
    Safety.freeV s.core ([x.d, x.a] ++ if r.mode = 5 then [r.rvec] else []) →
    ∀ xs : List (Option Nat), xs = activeLanes (s.core.laneMask x.m) w (s.core.getV x.a) →
    exec (.vred x) s = .next (Safety.sentWhole s x.dup x.d
      (pack w [(redTree x.op.toNat f r (s.core.getV r.rvec) 8 1 xs).getD (redEmpty x.op.toNat f)]) 8 6) ∧
    exec (.vscan x) s = .next (Safety.sentV s x.m x.dup x.d w (pack w (scanLanes x.op.toNat f r (s.core.getV r.rvec) 0 none xs)) 8 6)) ∧
  (∀ (x : VG) (s : State), Safety.freeV s.core [x.d, x.d + 1, x.a, x.a + 1, x.b, x.b + 1] →
    ∀ out : List (Nat × Nat), out = mergeRuns x.keep 64 (runOf (s.core.getV x.a) (s.core.getV (x.a + 1)))
      (runOf (s.core.getV x.b) (s.core.getV (x.b + 1))) →
    exec (.vmerge x) s = .next (Safety.sentPair s x.dup x.d
      (byLane 32 fun p => (out.map (·.1)).getD p 0xFFFFFFFF) (byLane 32 fun p => (out.map (·.2)).getD p 0) 9 10)) ∧
  (∀ (x : VK) (s : State) (f : Nat), f = x.fmt.toNat → Safety.freeV s.core [x.d, x.d + 1, x.a] →
    ∃ val idx : Nat → Nat,
      exec (.vtopk x) s = .next (Safety.sentPair s x.dup x.d (byLane (fmtWidth f) val) (byLane 32 idx) 10 12) ∧
      (∀ p, x.k.toNat < p → val p = 0 ∧ idx p = 0) ∧
      (∀ p, p ≤ x.k.toNat → idx p = 0xFFFFFFFF ∧ val p = roundRne f .nan ∨
        idx p < 2048 / fmtWidth f ∧ laneOn (s.core.laneMask x.m) (fmtWidth f) (idx p) = true ∧
        (decodeNum f (lane (fmtWidth f) (idx p) (s.core.getV x.a)) = .nan → x.nan = false ∧ val p = roundRne f .nan) ∧
        (decodeNum f (lane (fmtWidth f) (idx p) (s.core.getV x.a)) ≠ .nan → val p = lane (fmtWidth f) (idx p) (s.core.getV x.a))) ∧
      (∀ p q, p < q → q ≤ x.k.toNat → idx q ≠ 0xFFFFFFFF → idx p ≠ 0xFFFFFFFF ∧
        ranksAbove f (idx p, lane (fmtWidth f) (idx p) (s.core.getV x.a)) (idx q, lane (fmtWidth f) (idx q) (s.core.getV x.a)) = true) ∧
      (∀ i, i < 2048 / fmtWidth f → laneOn (s.core.laneMask x.m) (fmtWidth f) i = true →
        (decodeNum f (lane (fmtWidth f) i (s.core.getV x.a)) = .nan → x.nan = false) → (∀ p, p ≤ x.k.toNat → idx p ≠ i) →
        idx x.k.toNat ≠ 0xFFFFFFFF ∧ ranksAbove f (idx x.k.toNat, lane (fmtWidth f) (idx x.k.toNat) (s.core.getV x.a))
          (i, lane (fmtWidth f) i (s.core.getV x.a)) = true))

/-- VCMP, VCVT, VEXP, VLOG, VRCP, VRSQ, VRED, VSCAN, VMERGE and VTOPK complete wherever a V slot may take effect (R408, R60,
R260, R414 to R418, R423, R425 to R427). Where LOOPF does not suppress the slot, the core is not in handler state, and no
register the slot names is in a lent bank, each of the ten forms answers a next state that differs from the old one only in
one result, or pair, in flight: for the destination the slot names, in the lanes its rule writes, with the latency of its
class. Which value lands is stated by VectorCompareConvert and VectorReductions. -/
def Obligations.VectorFormsComplete : Prop :=
  ∀ (s : State) (r : Rounding), r = s.core.rounding →
    (∀ x : VC, Safety.freeV s.core [x.a, x.b] → ∃ (v keep : Mask) (twin : Twin),
      exec (.vcmp x) s = .next (Safety.sent s (.m x.md v keep) (s.core.latency 4 2) (2 + s.core.issue.unit) twin)) ∧
    (∀ x : VCv, Safety.freeV s.core ([x.d, x.a] ++ if r.mode = 5 then [r.rvec] else []) → ∃ v : VReg,
      exec (.vcvt x) s = .next (Safety.sentV s x.m x.dup x.d (fmtWidth x.outF.toNat) v 6 3)) ∧
    (∀ x : V2, Safety.freeV s.core ([x.d, x.a] ++ if r.mode = 5 then [r.rvec] else []) → ∃ v : Fin 4 → VReg,
      exec (.vexp x) s = .next (Safety.sentV s x.m x.dup x.d (fmtWidth x.fmt.toNat) (v 0) 7 8) ∧
      exec (.vlog x) s = .next (Safety.sentV s x.m x.dup x.d (fmtWidth x.fmt.toNat) (v 1) 7 8) ∧
      exec (.vrcp x) s = .next (Safety.sentV s x.m x.dup x.d (fmtWidth x.fmt.toNat) (v 2) 7 8) ∧
      exec (.vrsq x) s = .next (Safety.sentV s x.m x.dup x.d (fmtWidth x.fmt.toNat) (v 3) 7 8)) ∧
    (∀ x : VR, Safety.freeV s.core ([x.d, x.a] ++ if r.mode = 5 then [r.rvec] else []) → ∃ v w : VReg,
      exec (.vred x) s = .next (Safety.sentWhole s x.dup x.d v 8 6) ∧
      exec (.vscan x) s = .next (Safety.sentV s x.m x.dup x.d (fmtWidth x.fmt.toNat) w 8 6)) ∧
    (∀ x : VG, Safety.freeV s.core [x.d, x.d + 1, x.a, x.a + 1, x.b, x.b + 1] → ∃ v w : VReg,
      exec (.vmerge x) s = .next (Safety.sentPair s x.dup x.d v w 9 10)) ∧
    (∀ x : VK, Safety.freeV s.core [x.d, x.d + 1, x.a] → ∃ v w : VReg,
      exec (.vtopk x) s = .next (Safety.sentPair s x.dup x.d v w 10 12))

/-- VLD and VLDX fetch the bytes of the scratchpad; a misaligned or outlying vector access of the four forms traps (R419,
R422; R6: offsets are exact numbers; log 26: the order of the two checks). VLD brings 256 bytes at its 64-byte aligned
offset into the active bytes of v(v), VLDX the element of each active lane; poisoned bytes raise UNCORRECTABLE. A misaligned
offset of VLD or VST, or base of VLDX or VSTX, traps MISALIGN; an offset below 0 or past the share, or an active element
that leaves the share, SPAD_RANGE: the sums are exact (R6). One result in flight, the post-increment; nothing else changes.
-/
def Obligations.VectorLoads : Prop :=
  (∀ (x : VMem) (s : State) (v : Int), v = Safety.vectorOff s.core x → Safety.freeV s.core [x.v] → s.core.pending x.base = false →
    (∀ o : Nat, v = o → o % 64 = 0 → o + 256 ≤ s.core.sp * 16384 →
      exec (.vld x) s = .next (Safety.ranTo s (Safety.consumed
        (Safety.withVPost (Safety.withVector s.core x.v x.m (vOfBytes (s.core.spRead o 256))) x)
        (poisonedIn s.core.poison (s.core.spBase + o) 256)))) ∧
    (s.core.issue.checked = false → v % 64 ≠ 0 →
      exec (.vld x) s = .next (s.trapAt cMisalign s.core.issue.slot) ∧ exec (.vst x) s = .next (s.trapAt cMisalign s.core.issue.slot)) ∧
    (s.core.issue.checked = false → v % 64 = 0 → v < 0 ∨ s.core.sp * 16384 < v + 256 →
      exec (.vld x) s = .next (s.trapAt cSpadRange s.core.issue.slot) ∧ exec (.vst x) s = .next (s.trapAt cSpadRange s.core.issue.slot))) ∧
  (∀ (x : VX) (s : State) (w : Nat), w = 2 ^ x.size.toNat → Safety.freeV s.core [x.d, x.a] → s.core.pending x.base = false →
    (s.core.src 0 x.base).toNat % w = 0 → (∀ i, Safety.vxOn s.core x i → Safety.element s.core x i + w ≤ s.core.sp * 16384) →
    (∀ i, Safety.vxOn s.core x i → poisonedIn s.core.poison (s.core.spBase + Safety.element s.core x i) w = false) →
    ∃ v, exec (.vldx x) s = .next (Safety.ranTo s (Safety.withResult s.core
        (.v x.d v (laneKeep (s.core.laneMask x.m) (8 * w))) (s.core.latency 11 4) (2 + s.core.issue.unit))) ∧
      ∀ i, Safety.vxOn s.core x i → lane (8 * w) i v = leVal (s.core.spRead (Safety.element s.core x i) w)) ∧
  (∀ (x : VX) (s : State) (w : Nat), w = 2 ^ x.size.toNat → Safety.freeV s.core [x.d, x.a] → s.core.pending x.base = false →
    s.core.issue.checked = false →
    ((s.core.src 0 x.base).toNat % w ≠ 0 →
      exec (.vldx x) s = .next (s.trapAt cMisalign s.core.issue.slot) ∧ exec (.vstx x) s = .next (s.trapAt cMisalign s.core.issue.slot)) ∧
    ((s.core.src 0 x.base).toNat % w = 0 → (∃ i, Safety.vxOn s.core x i ∧ s.core.sp * 16384 < Safety.element s.core x i + w) →
      exec (.vldx x) s = .next (s.trapAt cSpadRange s.core.issue.slot) ∧ exec (.vstx x) s = .next (s.trapAt cSpadRange s.core.issue.slot)))

/-- VST and VSTX write exactly the active bytes of the scratchpad, undo-logged inside a region (R419, R422, R50, R268, R281;
log 48: OVERFLOW keeps the post-increment; log 39: partial stores that together cover a granule leave it poisoned). With the
pool in its canonical form for VST, VST writes the bytes of v(v) that its mask makes active at the offset, VSTX each active
lane's element, the highest lane last where elements coincide. Every other byte of the pool stays; a poisoned granule is
clear after it exactly when VST covers it whole. Inside a region the records with the old bytes go to the log first; where
they do not fit, the slot raises OVERFLOW and stores nothing, VSTX after logging the records that fit, which stay in the
log. Nothing else changes but the post-increment. -/
def Obligations.VectorStores : Prop :=
  (∀ (x : VMem) (s : State) (o : Nat) (undo : List (List Byte)), (o : Int) = Safety.vectorOff s.core x → Safety.freeV s.core [x.v] →
    s.core.pending x.base = false → o % 64 = 0 → o + 256 ≤ s.core.sp * 16384 → s.core.pool.wf = true →
    undo = [logRecord 0 o (s.core.spRead o 256)] →
    (Safety.logFits s.core undo → ∃ (p : Mem) (q : List Nat),
      exec (.vst x) s = .next (Safety.ranTo s (Safety.withVPost { Safety.undoLogged s.core undo with pool := p, poison := q } x)) ∧
      Safety.blockStored (Safety.undoLogged s.core undo) o (s.core.laneMask x.m) (s.core.getV x.v) p q) ∧
    (¬ Safety.logFits s.core undo → exec (.vst x) s = .next (Safety.ranTo s (Safety.withVPost (s.core.caught 4 0) x)))) ∧
  (∀ (x : VX) (s : State) (w : Nat) (undo : List (List Byte)), w = 2 ^ x.size.toNat → Safety.freeV s.core [x.d, x.a] →
    s.core.pending x.base = false → (s.core.src 0 x.base).toNat % w = 0 →
    (∀ i, Safety.vxOn s.core x i → Safety.element s.core x i + w ≤ s.core.sp * 16384) →
    undo = ((List.range (256 / w)).filter fun i => (s.core.laneMask x.m).getLsbD (i * w)).map
      (fun i => logRecord 0 (Safety.element s.core x i) (s.core.spRead (Safety.element s.core x i) w)) →
    (Safety.logFits s.core undo → ∃ (p : Mem),
      exec (.vstx x) s = .next (Safety.ranTo s { Safety.undoLogged s.core undo with pool := p }) ∧
      (∀ a, (∀ i, Safety.vxOn s.core x i → ¬ (s.core.spBase + Safety.element s.core x i ≤ a ∧ a < s.core.spBase + Safety.element s.core x i + w)) →
        p.byte a = (Safety.undoLogged s.core undo).pool.byte a) ∧
      ∀ i, Safety.vxOn s.core x i → (∀ k, i < k → Safety.vxOn s.core x k → Safety.element s.core x k ≠ Safety.element s.core x i) →
        ∀ j, j < w → p.byte (s.core.spBase + Safety.element s.core x i + j) =
          BitVec.ofNat 8 (lane (8 * w) i (s.core.getV x.d) / 256 ^ j)) ∧
    (∀ k, k < undo.length → Safety.logFits s.core (undo.take k) → ¬ Safety.logFits s.core (undo.take (k + 1)) →
      exec (.vstx x) s = .next (Safety.ranTo s ((Safety.undoLogged s.core (undo.take k)).caught 4 0))))

/-- VLD_STREAM pops and VST_STREAM pushes in order; unbound or exhausted streams trap, an empty one stalls (R56, R268, R269,
R354, R420; log 80: a push counts as one store of the region buffer, none when it keeps no byte, and OVERFLOW moves the
stream on). A bound read stream with an element ready gives it and moves on; an empty one stalls. A write stream bound to
memory takes the element into its queue, with no byte kept where it is padding, stalls when the queue is full, and raises
OVERFLOW inside a region whose buffer has no room for it, a push counting as one store and one that keeps no byte as none
(log 80); one bound to the scratchpad, the pool in its canonical form, writes the active bytes at once, none where it is
padding, after its undo record inside a region. An unbound stream or a move against the binding's direction traps
ILLEGAL_OPERATION, one past its total STREAM_END. Nothing else changes. -/
def Obligations.StreamMoves : Prop :=
  (∀ (x : VStr) (s : State) (st : Stream) (b : StreamBind), st = s.core.stream x.w → st.bind = some b → Safety.freeV s.core [x.v] →
    (b.write = false → st.pos < b.total → ∀ e r, st.fifo = e :: r →
      exec (.vldStream x) s = .next (Safety.ranTo s (Safety.consumed
        (Safety.withVector (s.core.setStream x.w { st with fifo := r, pos := st.pos + 1 }) x.v x.m e.data) e.bad))) ∧
    (b.write = false → st.pos < b.total → st.fifo = [] → s.core.issue.checked = false →
      exec (.vldStream x) s = .next (s.flow .stalled)) ∧
    (b.write = true → st.pos < b.total → b.sp = false → st.pushed.length < 8 * s.core.rf →
      ∀ keep e, keep = (if b.padded st.pos then 0 else s.core.laneMask x.m) →
      e = ⟨b.addr st.pos, false, keep, s.core.getV x.v, false, s.core.stamp, s.core.depth, s.core.fenced 4 ++ s.core.fenceLeft, b.hint⟩ →
      (s.core.depth = 0 ∨ s.core.buffered + (if keep = 0 then 0 else 1) ≤ 512 →
        exec (.vstStream x) s = .next (Safety.ranTo s (s.core.setStream x.w { st with pos := st.pos + 1, fifo := st.fifo ++ [e] }))) ∧
      (0 < s.core.depth → 512 < s.core.buffered + (if keep = 0 then 0 else 1) →
        exec (.vstStream x) s = .next (Safety.ranTo s
          ((s.core.setStream x.w { st with pos := st.pos + 1, moved := st.moved + 1 }).caught 4 0)))) ∧
    (b.write = true → st.pos < b.total → b.sp = false → 8 * s.core.rf ≤ st.pushed.length → s.core.issue.checked = false →
      exec (.vstStream x) s = .next (s.flow .stalled)) ∧
    (b.write = true → st.pos < b.total → b.sp = true → s.core.pool.wf = true →
      ∀ keep k undo, keep = (if b.padded st.pos then 0 else s.core.laneMask x.m) →
      k = s.core.setStream x.w { st with pos := st.pos + 1, moved := st.moved + 1 } →
      undo = [logRecord 0 (b.addr st.pos) (s.core.spRead (b.addr st.pos) 256)] →
      (Safety.logFits k undo → ∃ (p : Mem) (q : List Nat),
        exec (.vstStream x) s = .next (Safety.ranTo s { Safety.undoLogged k undo with pool := p, poison := q }) ∧
        Safety.blockStored (Safety.undoLogged k undo) (b.addr st.pos) keep (s.core.getV x.v) p q) ∧
      (¬ Safety.logFits k undo → exec (.vstStream x) s = .next (Safety.ranTo s (k.caught 4 0))))) ∧
  (∀ (x : VStr) (s : State), Safety.freeV s.core [x.v] → s.core.issue.checked = false →
    ((s.core.stream x.w).bind = none →
      exec (.vldStream x) s = .next (s.trapAt cIllegalOperation s.core.issue.slot) ∧
      exec (.vstStream x) s = .next (s.trapAt cIllegalOperation s.core.issue.slot)) ∧
    (∀ b, (s.core.stream x.w).bind = some b → b.write = false →
      exec (.vstStream x) s = .next (s.trapAt cIllegalOperation s.core.issue.slot) ∧
      ((s.core.stream x.w).pos ≥ b.total → exec (.vldStream x) s = .next (s.trapAt cStreamEnd s.core.issue.slot))) ∧
    (∀ b, (s.core.stream x.w).bind = some b → b.write = true →
      exec (.vldStream x) s = .next (s.trapAt cIllegalOperation s.core.issue.slot) ∧
      ((s.core.stream x.w).pos ≥ b.total → exec (.vstStream x) s = .next (s.trapAt cStreamEnd s.core.issue.slot))))

/-- BKLEND lends and returns a bank or traps; HSTRD stores and clears the histogram (R60, R127, R307, R344). Lending with no
result in flight to the bank, and none or that same bank lent, sets ctl.lend; returning the lent bank that no call holds
clears its bit; lending with a result in flight to the bank, lending another bank than the lent one, returning with none
lent, returning another bank than the lent one and returning while a call holds it trap ILLEGAL_OPERATION, and so does a V
slot that names a register of the lent bank (stated for VMOV). HSTRD writes the 33 counters as 136 bytes at an aligned
offset of the share and clears them. Nothing else changes. -/
def Obligations.LentBanksAndHistogram : Prop :=
  (∀ (x : MBank) (s : State), s.core.active x.g = true → s.core.handler.active = false →
    ((∀ f ∈ s.core.flight, ∀ v ∈ f.res.vregs, v / 8 ≠ x.bank.toNat) → s.core.ctl.lend.getLsbD 2 = false ∨ s.core.ctl.lend.toNat % 4 = x.bank.toNat →
      exec (.bklend x) s = .next (Safety.ranTo s { s.core with ctl := { s.core.ctl with lend := BitVec.ofNat 64 (x.bank.toNat + 4) } })) ∧
    (s.core.ctl.lend.getLsbD 2 = true → s.core.ctl.lend.toNat % 4 ≠ x.bank.toNat → s.core.issue.checked = false →
      exec (.bklend x) s = .next (s.trapAt cIllegalOperation s.core.issue.slot)) ∧
    (s.core.ctl.lend = BitVec.ofNat 64 (x.bank.toNat + 4) → s.core.callHolds x.bank.toNat = false →
      exec (.bklendRet x) s = .next (Safety.ranTo s { s.core with ctl := { s.core.ctl with lend := BitVec.ofNat 64 x.bank.toNat } })) ∧
    (s.core.ctl.lend.getLsbD 2 = false → s.core.issue.checked = false →
      exec (.bklendRet x) s = .next (s.trapAt cIllegalOperation s.core.issue.slot)) ∧
    ((∃ f ∈ s.core.flight, ∃ v ∈ f.res.vregs, v / 8 = x.bank.toNat) → s.core.issue.checked = false →
      exec (.bklend x) s = .next (s.trapAt cIllegalOperation s.core.issue.slot)) ∧
    (s.core.ctl.lend.getLsbD 2 = true → s.core.ctl.lend.toNat % 4 ≠ x.bank.toNat → s.core.issue.checked = false →
      exec (.bklendRet x) s = .next (s.trapAt cIllegalOperation s.core.issue.slot)) ∧
    ((∃ k : Call, MxItem.call k ∈ s.core.mx.queue ∧ k.lend.getLsbD 2 = true ∧ k.lend.toNat % 4 = x.bank.toNat) → s.core.issue.checked = false →
      exec (.bklendRet x) s = .next (s.trapAt cIllegalOperation s.core.issue.slot))) ∧
  (∀ (x : V2) (s : State), s.core.issue.suppressed = false → s.core.handler.active = false → s.core.issue.checked = false →
    s.core.ctl.lend.getLsbD 2 = true → s.core.ctl.lend.toNat % 4 = x.d.toNat / 8 ∨ s.core.ctl.lend.toNat % 4 = x.a.toNat / 8 →
    exec (.vmov x) s = .next (s.trapAt cIllegalOperation s.core.issue.slot)) ∧
  (∀ (x : GReg) (s : State) (off : Nat), off = (s.core.src 0 x.a).toNat → s.core.active x.g = true → s.core.pending x.a = false →
    off % 8 = 0 → off + 136 ≤ s.core.sp * 16384 → s.core.depth = 0 →
    ∃ bs : List Byte, bs.length = 136 ∧ (∀ j (h : j < 33), leVal ((bs.drop (4 * j)).take 4) = (s.core.mx.hist[j]).toNat) ∧
      exec (.hstrd x) s = .next (Safety.ranTo s { Safety.withScratch s.core off bs with
        mx := { s.core.mx with hist := Vector.replicate 33 0 } }))

/-- MCALL, MLOAD, MSWAP and MCOMP queue their items and mark their tiles; MSYNC waits for the empty queue (R125, R135, R138,
R371, R373, R374, R377, R378). MCALL samples the parameters, the rounding, the padding, the histogram control and the
descriptors, and its tile becomes filling or draining by its flags; the pushes of the core that it comes after stand in the
item; with the version check on and a stale scale it is a translation-class fault 0x14 of its slot. MLOAD queues its 64
words, or traps ROUTINE_BAD when one decodes to nothing. MSWAP and MCOMP queue theirs, MCOMP's destination filling. MLOAD
and MCOMP of a tile of the accumulator share trap ILLEGAL_OPERATION (log 30). MSYNC completes on the empty queue and stalls
on another. Every other tile and everything else stay. -/
def Obligations.MatrixQueueItems : Prop :=
  (∀ (x : MCallF) (s u : State), s.core.active x.g = true → u = s.readReload → u.core.routineValid x.routine.toNat = true →
    (u.core.tile x.tile).size ≠ 0 → u.core.mx.queue.length < 8 →
    (u.core.tile x.tile).state = (if x.flags.getLsbD 0 then .empty else .ready) →
    ∀ (f : State), f = (u.flow .ran).flushStreams →
    ((x.flags.getLsbD 3 = false ∨ f.core.scaleStale false (f.core.regs.p.get 0) = false ∧ f.core.scaleStale true (f.core.regs.p.get 1) = false) →
      ∃ (c : Core) (k : Call), exec (.mcall x) s = .next { f with core := c } ∧
        c.mx = { f.core.mx with queue := f.core.mx.queue ++ [.call k] } ∧
        k.routine = x.routine.toNat ∧ k.flags = x.flags ∧ k.p = f.core.regs.p ∧ k.vround = f.core.ctl.vround ∧
        k.pad = f.core.ctl.pad.toNat % 65536 ∧ k.hist = f.core.ctl.hist ∧ k.descs = f.core.descView ∧
        k.scaleL = f.core.mx.scaleL ∧ k.scaleR = f.core.mx.scaleR ∧ k.after = f.core.pushesBefore ∧
        (∀ t, t ≠ x.tile → c.tile t = f.core.tile t) ∧
        c.tile x.tile = { f.core.tile x.tile with
          state := (if x.flags.getLsbD 0 then .filling else if x.flags.getLsbD 1 then .draining else (f.core.tile x.tile).state) } ∧
        c = { f.core with mx := c.mx, tiles := c.tiles, regions := { f.core.regions with filled := c.regions.filled } } ∧
        (f.core.depth = 0 → c.regions.filled = f.core.regions.filled)) ∧
    (x.flags.getLsbD 3 = true → f.core.scaleStale false (f.core.regs.p.get 0) = true ∨ f.core.scaleStale true (f.core.regs.p.get 1) = true →
      exec (.mcall x) s = .next (f.onCore fun c => { c with bound := { c.bound with
        faulted := c.bound.faulted ++ [(0x14, 0, ⟨c.issue.slot, 0, 0, 0, 0⟩)] } }))) ∧
  (∀ (x : MLoadF) (s : State), s.core.active x.g = true → (s.core.tile x.tile).size ≠ 0 → (s.core.tile x.tile).state = .ready →
    s.core.accTile x.tile.toNat = false → s.core.mx.queue.length < 8 →
    ((∀ w ∈ s.core.routineWords x.tile, ∃ i, decodeMicro w = .ok i) →
      exec (.mload x) s = .next (Safety.ranTo s (Safety.unitConsumed { s.core with mx := { s.core.mx with
        queue := s.core.mx.queue ++ [.mload x.routine.toNat (s.core.routineWords x.tile) s.core.depth] } }
        (s.core.tilePoison (s.core.tileRef x.tile.toNat) 0 512)))) ∧
    ((∃ w ∈ s.core.routineWords x.tile, ∀ i, decodeMicro w ≠ .ok i) → s.core.issue.checked = false →
      exec (.mload x) s = .next (s.trapAt cRoutineBad s.core.issue.slot))) ∧
  (∀ (x : Guard) (s : State), s.core.active x = true →
    (s.core.mx.queue.length < 8 →
      exec (.mswap x) s = .next (Safety.ranTo s { s.core with mx := { s.core.mx with queue := s.core.mx.queue ++ [.mswap s.core.depth] } })) ∧
    (s.core.mx.queue = [] → exec (.msync x) s = .next (Safety.ranTo s s.core)) ∧
    (s.core.mx.queue ≠ [] → s.core.issue.checked = false → exec (.msync x) s = .next (s.flow .stalled))) ∧
  (∀ (x : MCompF) (s : State), s.core.active x.g = true → (s.core.tile x.td).size ≠ 0 → (s.core.tile x.ts).size ≠ 0 →
    s.core.accTile x.td.toNat = false → s.core.accTile x.ts.toNat = false →
    64 * (s.core.tile x.ts).size.toNat * (256 * (ratioOf x.nm).1 / (ratioOf x.nm).2 + 64) ≤ 16384 * (s.core.tile x.td).size.toNat →
    (s.core.tile x.td).state = .empty → (s.core.tile x.ts).state = .ready → s.core.mx.queue.length < 8 →
    ∃ c, exec (.mcomp x) s = .next (Safety.ranTo s c) ∧
      c.mx = { s.core.mx with queue := s.core.mx.queue ++
        [.mcomp (s.core.tileRef x.ts.toNat) (s.core.tileRef x.td.toNat) x.nm x.fmt s.core.depth] } ∧
      (∀ t, t ≠ x.td → c.tile t = s.core.tile t) ∧ c.tile x.td = { s.core.tile x.td with state := .filling } ∧
      c = { s.core with mx := c.mx, tiles := c.tiles, regions := { s.core.regions with filled := c.regions.filled } } ∧
      (s.core.depth = 0 → c.regions.filled = s.core.regions.filled)) ∧
  (∀ (s : State), s.core.issue.checked = false →
    (∀ x : MLoadF, s.core.active x.g = true → s.core.accTile x.tile.toNat = true →
      exec (.mload x) s = .next (s.trapAt cIllegalOperation s.core.issue.slot)) ∧
    (∀ x : MCompF, s.core.active x.g = true → s.core.accTile x.td.toNat = true ∨ s.core.accTile x.ts.toNat = true →
      exec (.mcomp x) s = .next (s.trapAt cIllegalOperation s.core.issue.slot)))

/-- SCLD brings a scale tile with its version; TDSET stores a descriptor and updates the core's copy (R116, R125, R394,
R401). SCLD of a descriptor with a scale reads its scale bytes and puts them in flight to the side's scale tile with the
descriptor's number and version; while an earlier store of the core waits, it is in flight without its bytes, which are read
once that store is performed (R206); a translation fault of its reads stops the matrix unit with the load still pending, and
a pending load that nothing stops is read at the unit's next turn. TDSET writes the 64-byte image to the table in memory and
into the unit's copy at the same index; an index above the table's count traps ILLEGAL_OPERATION. -/
def Obligations.ScalesAndDescriptors : Prop :=
  (∀ (x : ScldF) (s u f : State) (d : Desc) (bs : List Byte), s.core.active x.g = true → u = s.readReload →
    u.core.handler.active = false → d = u.core.descAt x.desc.toNat → x.desc.toNat ≤ u.core.ctl.tdt.toNat % 256 → d.bscale = true →
    d.scaleBytes ≤ 65536 → ∀ (v : State), v = (u.flow .ran).flushStreams →
    (v.core.pushesBefore = [] → v.readScales (d.scaleTile x.desc) = (f, .ok bs) →
      ∀ r, r = Machine.Result.scale x.side { d.scaleTile x.desc with scales := some bs } →
      exec (.scld x) s = .next { f with core := Safety.withResult f.core r (f.core.latency 12 16) 4 }) ∧
    (∀ code va, v.core.pushesBefore = [] → v.readScales (d.scaleTile x.desc) = (f, .error (.trans code va)) →
      ∀ r, r = Machine.Result.scale x.side (d.scaleTile x.desc) →
      exec (.scld x) s = .next { f with core := { Safety.withResult f.core r (f.core.latency 12 16) 4 with
        mx := { f.core.mx with
          stop := if f.core.mx.stop = none then some (code, va) else f.core.mx.stop
          pend := f.core.mx.pend ++ [(d.scaleTile x.desc, f.core.pushesBefore)] } } }) ∧
    (v.core.pushesBefore ≠ [] →
      ∀ r, r = Machine.Result.scale x.side (d.scaleTile x.desc) →
      exec (.scld x) s = .next { v with core := { Safety.withResult v.core r (v.core.latency 12 16) 4 with
        mx := { v.core.mx with pend := v.core.mx.pend ++ [(d.scaleTile x.desc, v.core.pushesBefore)] } } })) ∧
  (∀ (s t : State) (u : ScaleTile) (after : List Nat) (r : List (ScaleTile × List Nat)) (bs : List Byte), s.core.mx.pend = (u, after) :: r →
    s.core.mx.stop = none → (∀ n ∈ after, n ∉ s.core.unperformed) → s.readScales u = (t, .ok bs) →
    ∃ v, s.matrixTurn = .next v ∧ v.mem = t.mem ∧ v.core.regs = t.core.regs ∧ v.core.pool = t.core.pool ∧
      (t.core.mx.scaleL = some u → v.core.mx.scaleL = some { u with scales := some bs }) ∧
      (t.core.mx.scaleR = some u → v.core.mx.scaleR = some { u with scales := some bs }) ∧
      ∀ p ∈ v.core.mx.pend, p.1 ≠ u) ∧
  (∀ (x : TdsetF) (s f : State) (off ea : Nat) (ps : List Piece), s.core.active x.g = true → s.core.pending x.a = false →
    s.core.issue.replay = none →
    off = (s.core.src 0 x.a).toNat → off % 64 = 0 → off + 64 ≤ s.core.sp * 16384 →
    ea = s.core.ctl.tdt.toNat / 4096 * 4096 + 64 * x.desc.toNat → x.desc.toNat ≤ s.core.ctl.tdt.toNat % 256 →
    ∀ (img : Nat), img = leVal (s.core.spRead off 64) → (descOf img).fmt ≠ 10 → ((descOf img).bscale = true → (descOf img).sptr % 128 = 0) →
    ((s.flow .ran).onCore fun c => Safety.consumed c (poisonedIn c.poison (c.spBase + off) 64)).flushStreams.pieces .deck true 65 ea 64 =
      (f, .ok ps) →
    ∃ t, exec (.tdset x) s = .next t ∧ t = ((f.ownStore ps (toBytes 64 img) 4).onCore fun c => { c with mx := t.core.mx }) ∧
      t.core.mx.descs = (f.ownStore ps (toBytes 64 img) 4).core.mx.descs.set x.desc.toNat (BitVec.ofNat 512 img) x.desc.isLt) ∧
  (∀ (x : TdsetF) (s : State), s.core.active x.g = true → s.core.issue.checked = false → s.core.ctl.tdt.toNat % 256 < x.desc.toNat →
    exec (.tdset x) s = .next (s.trapAt cIllegalOperation s.core.issue.slot))

/-- TLSET binds idle tiles, CBADV moves a ring's counts, CBWAIT waits for them; the illegal cases trap (R51, R53, R54, R323,
R325, R403). TLSET on an empty or ready tile sets base, size and state; on a filling or draining one it traps TILE_BUSY; on
an illegal binding ILLEGAL_OPERATION. CBADV_PROD and CBADV_CONS add k to prod or cons within the ring's fill, consumed ready
slots becoming empty; beyond it they trap ILLEGAL_OPERATION, as does CBADV_CONS over a slot whose tile is filling, CBADV or
CBWAIT of an unbound ring, and CBWAIT with a count above n. CBWAIT completes once the ring holds, or has free, its count,
and stalls before. Nothing else changes. -/
def Obligations.TilesAndRings : Prop :=
  (∀ (x : TlSetF) (s : State) (v : Nat), v = (s.core.src 0 x.a).toNat → s.core.active x.g = true → s.core.pending x.a = false →
    (s.core.tileBad (bitsOf v 6 0) (bitsOf v 13 7) = false → (s.core.tile x.t).state = .empty ∨ (s.core.tile x.t).state = .ready →
      ∀ e : Tile, e = ⟨BitVec.ofNat 7 v, BitVec.ofNat 7 (v / 128), if v / 128 % 128 ≠ 0 ∧ x.st = true then .ready else .empty⟩ →
      exec (.tlset x) s = .next (Safety.ranTo s { s.core with tiles := s.core.tiles.set x.t.toNat e x.t.isLt })) ∧
    (s.core.tileBad (bitsOf v 6 0) (bitsOf v 13 7) = false → (s.core.tile x.t).state = .filling ∨ (s.core.tile x.t).state = .draining →
      s.core.issue.checked = false → exec (.tlset x) s = .next (s.trapAt cTileBusy s.core.issue.slot)) ∧
    (s.core.tileBad (bitsOf v 6 0) (bitsOf v 13 7) = true → s.core.issue.checked = false →
      exec (.tlset x) s = .next (s.trapAt cIllegalOperation s.core.issue.slot))) ∧
  (∀ (x : CbAdvF) (s : State) (r : Ring) (k : Nat), r = s.core.ring x.h → k = x.k.toNat + 1 → s.core.active x.g = true →
    r.n ≠ 0 →
    (r.count + k ≤ r.n.toNat → exec (.cbadvProd x) s = .next (Safety.ranTo s { s.core with
      rings := s.core.rings.set x.h.toNat { r with prod := r.prod + BitVec.ofNat 16 k } x.h.isLt })) ∧
    (r.count + k > r.n.toNat → s.core.issue.checked = false →
      exec (.cbadvProd x) s = .next (s.trapAt cIllegalOperation s.core.issue.slot)) ∧
    (k ≤ r.count → (∀ i, i < k → (s.core.tileAt (r.slotTile ((r.cons.toNat + i) % 65536))).state ≠ .filling) →
      ∃ c, exec (.cbadvCons x) s = .next (Safety.ranTo s c) ∧ c = { s.core with rings := c.rings, tiles := c.tiles } ∧
        c.rings = s.core.rings.set x.h.toNat { r with cons := r.cons + BitVec.ofNat 16 k } x.h.isLt ∧
        ∀ t, c.tile t = if (s.core.tile t).state = .ready ∧ (∃ i, i < k ∧ r.slotTile ((r.cons.toNat + i) % 65536) % 64 = t.toNat)
          then { s.core.tile t with state := .empty } else s.core.tile t) ∧
    (k > r.count → s.core.issue.checked = false →
      exec (.cbadvCons x) s = .next (s.trapAt cIllegalOperation s.core.issue.slot)) ∧
    ((∃ i, i < k ∧ (s.core.tileAt (r.slotTile ((r.cons.toNat + i) % 65536))).state = .filling) → s.core.issue.checked = false →
      exec (.cbadvCons x) s = .next (s.trapAt cIllegalOperation s.core.issue.slot))) ∧
  (∀ (x : CbWaitF) (s : State) (r : Ring), r = s.core.ring x.h → s.core.active x.g = true → s.core.part.abort = false →
    r.n ≠ 0 → x.count.toNat ≤ r.n.toNat →
    (x.count.toNat ≤ (if x.free then r.n.toNat - r.count else r.count) → exec (.cbwait x) s = .next (Safety.ranTo s s.core)) ∧
    ((if x.free then r.n.toNat - r.count else r.count) < x.count.toNat → s.core.issue.checked = false →
      exec (.cbwait x) s = .next (s.flow .stalled))) ∧
  (∀ (s : State) (r : Ring), s.core.issue.checked = false →
    (∀ x : CbAdvF, r = s.core.ring x.h → r.n = 0 → s.core.active x.g = true →
      exec (.cbadvProd x) s = .next (s.trapAt cIllegalOperation s.core.issue.slot) ∧
      exec (.cbadvCons x) s = .next (s.trapAt cIllegalOperation s.core.issue.slot)) ∧
    (∀ x : CbWaitF, r = s.core.ring x.h → s.core.active x.g = true → s.core.part.abort = false → r.n = 0 ∨ r.n.toNat < x.count.toNat →
      exec (.cbwait x) s = .next (s.trapAt cIllegalOperation s.core.issue.slot)))

/-- KAQ queues the addresses it computes and KDQ pops rows in order; a full or short queue stalls (R57, R349, R358). KAQ
pushes n addresses s(b) + index times 2^shift with their length, sets its predicate, and writes no memory; without room it
stalls, or with nb sends false. KDQ pops n rows into consecutive vector registers; a row that failed in translation becomes
the slot's fault; too few rows stall. -/
def Obligations.GatherQueues : Prop :=
  (∀ (x : KaqF) (s f : State) (ctl n : Nat), f = (s.flow .ran).flushStreams → ctl = (s.core.src 1 (x.b + 1)).toNat → n = ctl % 64 + 1 →
    s.core.active x.g = true → s.core.pending x.b = false → s.core.pending (x.b + 1) = false →
    ctl / 64 % 64 ≤ 47 → ctl < 2 ^ 23 → ctl / 2 ^ 20 = 0 ∨ ctl / 2 ^ 20 ≥ 4 → s.core.isLent x.a = false →
    ((if x.aq then s.core.copy.aq1 else s.core.copy.aq0).length + n ≤ 64 →
      ∃ new : List GatherAddr, new.length = n ∧
        (∀ i (g : GatherAddr), new[i]? = some g → g.len = ctl / 4096 % 256 + 1 ∧
          g.addr = ((f.core.src 0 x.b).toNat + lane 32 i (f.core.getV x.a) * 2 ^ (ctl / 64 % 64)) % 2 ^ 64) ∧
        ∃ t, exec (.kaq x) s = .next t ∧
          t.core.copy = (if x.aq then { f.core.copy with aq1 := f.core.copy.aq1 ++ new } else { f.core.copy with aq0 := f.core.copy.aq0 ++ new }) ∧
          t.core.flight = (if x.nb then (Safety.withResult f.core (.q x.qn true) 1 f.core.issue.unit).flight else f.core.flight) ∧
          t.core.regs = f.core.regs ∧ t.core.pool = f.core.pool ∧ t.mem = f.mem) ∧
    (¬ (if x.aq then s.core.copy.aq1 else s.core.copy.aq0).length + n ≤ 64 →
      (x.nb = true → ∃ t, exec (.kaq x) s = .next t ∧ t.core = Safety.withResult f.core (.q x.qn false) 1 f.core.issue.unit) ∧
      (x.nb = false → s.core.issue.checked = false → exec (.kaq x) s = .next (s.flow .stalled)))) ∧
  (∀ (x : KdqF) (s : State) (q : List GatherRow) (n : Nat), q = (if x.dq then s.core.copy.dq1 else s.core.copy.dq0) →
    n = x.cnt.toNat + 1 → s.core.active x.g = true → s.core.handler.active = false →
    (∀ j, j < n → s.core.isLent (BitVec.ofNat 5 (x.d.toNat + j)) = false) →
    (n ≤ q.length → (∀ r ∈ q.take n, r.fault = none) →
      exec (.kdq x) s = .next (Safety.ranTo s (Safety.withResult (s.core.setDq x.dq (q.drop n))
        (.rows x.d ((q.take n).map fun r => vOfBytes r.data) ((q.take n).any (·.poison))) 2 (5 + s.core.issue.unit)))) ∧
    (n ≤ q.length → s.core.issue.replay = none → ∀ i r code va, q[i]? = some r → i < n → r.fault = some (code, va) →
      (∀ j r', j < i → q[j]? = some r' → r'.fault = none) →
      exec (.kdq x) s = .next (Safety.ranTo s { s.core with bound := { s.core.bound with
        faulted := s.core.bound.faulted ++ [(code, va, ⟨s.core.issue.slot, 0, 0, 0, BitVec.ofNat 64 va⟩)] } })) ∧
    (q.length < n → s.core.issue.checked = false → exec (.kdq x) s = .next (s.flow .stalled)))

/-- KBIND binds a stream from its block; KBAR records what its classes must wait for (R56, R207, R351, R352, R353). KBIND of
a legal block sets the stream's binding and starts it at its first element, pushed elements kept; a misaligned block traps
SPAD_RANGE. KBAR completes and records every outstanding command and gather address of its classes. Nothing else changes but
streams that fetch again. -/
def Obligations.StreamBindingAndBarrier : Prop :=
  (∀ (x : KBindF) (s f : State) (off b : Nat) (w : Stream), off = (s.core.src 0 x.a).toNat → b = leVal (s.core.spRead off 64) →
    s.core.active x.g = true → s.core.pending x.a = false → firstBad (s.core.bindBad off b) = none →
    f = (s.flow .ran).flushStreams → w = f.core.stream x.w →
    exec (.kbind x) s = .next { f with core := Safety.consumed (f.core.setStream x.w {
      bind := if b / 2 ^ 72 % 512 = 0 then none
        else some ⟨b.testBit 64, b.testBit 65, b % 2 ^ 57, bindDims b, b.testBit 66, f.core.ctl.pad.toNat % 65536, BitVec.ofNat 3 (b / 2 ^ 67)⟩
      pos := 0, moved := 0, fifo := [], old := w.pushed
      stop := if w.pushed = [] then none else w.stop
      told := if w.pushed = [] then false else w.told
      unit := f.core.issue.unit, after := f.core.pushesBefore }) (poisonedIn f.core.poison (f.core.spBase + off) 64) }) ∧
  (∀ (x : KBindF) (s : State) (off : Nat), off = (s.core.src 0 x.a).toNat → s.core.active x.g = true → s.core.pending x.a = false →
    s.core.issue.checked = false → off % 64 ≠ 0 → exec (.kbind x) s = .next (s.trapAt cSpadRange s.core.issue.slot)) ∧
  (∀ (x : KBarF) (s f : State), f = (s.flow .ran).flushStreams → s.core.active x.g = true →
    ∃ c ids, exec (.kbar x) s = .next { f with core := c } ∧ c.copy.fences.getLast? = some (x.cls, ids) ∧
      (∀ k ∈ f.core.copy.cmds, kClasses f.core.id k.op k.block.toNat &&& x.cls ≠ 0 → k.id ∈ ids) ∧
      (x.cls.getLsbD 2 = true → (∀ g ∈ f.core.copy.aq0 ++ f.core.copy.aq1, g.id ∈ ids) ∧ ∀ e ∈ f.core.pushes, e.num ∈ ids) ∧
      c = { f.core with copy := { f.core.copy with fences := c.copy.fences, streams := c.copy.streams } })

/-- Every command-form instruction that passes its checks is accepted with its block and marks its tiles (R52, R294, R448).
For each of the 38 command-form instructions: once the checks of the bundle have passed, it answers a next state in which
the copy unit holds one more command, with the 64 bytes of its block, its completion object, its acquire, release and scope,
its unit and the depth at issue; the tiles that fill are filling, those consumed draining, every other tile as before; no
register, control register, result in flight or byte of the pool changes. -/
def Obligations.CommandsAccepted : Prop :=
  ∀ (i : Instr) (x : Cmd) (s f : State), Safety.cmdOf i = some x → s.core.active x.g = true → s.core.issue.checked = true →
    f = (s.flow .ran).flushStreams →
    ∃ (t : State) (k : Command), exec i s = .next t ∧ t.core.copy.cmds = f.core.copy.cmds ++ [k] ∧
      k.op = i ∧ k.cb = (s.core.src 0 x.cb).toNat ∧ k.so = s.core.src 1 x.so ∧ k.acq = x.acq ∧ k.rel = x.rel ∧ k.scope = x.scope ∧
      k.block = BitVec.ofNat 512 (leVal (s.core.spRead (s.core.src 0 x.cb).toNat 64)) ∧ k.unit = s.core.issue.unit ∧
      k.depth = f.core.depth ∧ k.rels = (if x.rel then f.core.sync.rels.map (·.num) else []) ∧ k.prog = 0 ∧ k.stop = none ∧ k.sig = false ∧
      (∀ r ∈ k.dsts, r.idx ∉ k.cons → (t.core.tileAt r.idx).state = .filling) ∧
      (∀ n ∈ k.cons, (t.core.tileAt n).state = .draining) ∧
      (∀ n, n < 64 → (∀ r ∈ k.dsts, r.idx % 64 ≠ n) → (∀ m ∈ k.cons, m % 64 ≠ n) → t.core.tileAt n = f.core.tileAt n) ∧
      t.core.regs = f.core.regs ∧ t.core.ctl = f.core.ctl ∧ t.core.flight = f.core.flight ∧ t.core.pool = f.core.pool

/-- BR, JMP, CALL, RET and IBANK redirect to their target after one delay bundle (R82, R86, R311, R321, R345, R348, R390).
With a target from 0 to 0x7FF0 on a bundle, each sets the pending redirect, IBANK with the flip of the bank, CALL with pc +
32 in flight for s63. Nothing else changes. -/
def Obligations.Branches : Prop :=
  ∀ (s : State) (t : Nat), t ≤ 0x7FF0 → t % 16 = 0 →
    (∀ x : BrF, s.core.active x.g = true → (t : Int) = s.core.fetch.pc + 16 * x.off.toInt →
      exec (.br x) s = .next (Safety.ranTo s (Safety.redirected s.core t false))) ∧
    (∀ x : JmpF, s.core.active x.g = true → (t : Int) = s.core.fetch.pc + 16 * x.off.toInt →
      exec (.jmp x) s = .next (Safety.ranTo s (Safety.redirected s.core t false)) ∧
      (s.core.pendingW 63 = false →
        exec (.call x) s = .next (Safety.ranTo s (Safety.linked (Safety.redirected s.core t false))))) ∧
    (∀ x : GReg, s.core.active x.g = true → s.core.pending x.a = false → t = (s.core.src 0 x.a).toNat →
      exec (.jmpReg x) s = .next (Safety.ranTo s (Safety.redirected s.core t false)) ∧
      (s.core.pendingW 63 = false →
        exec (.callReg x) s = .next (Safety.ranTo s (Safety.linked (Safety.redirected s.core t false)))) ∧
      (s.core.fetch.written = false →
        exec (.ibank x) s = .next (Safety.ranTo s (Safety.redirected s.core t true)))) ∧
    (∀ g : Guard, s.core.active g = true → s.core.pending 63 = false → t = (s.core.src 0 63).toNat →
      exec (.ret g) s = .next (Safety.ranTo s (Safety.redirected s.core t false)))

/-- BSEL branches to the bucket of its value and sets the padding; LOOP enters a level or skips its body (R36, R58, R314,
R315, R364, R368). BSEL finds the first bucket that holds s(a), or the last entry when none does, redirects to its entry and
sets ctl.pad to the bound less the value. LOOP takes its count from the pending count or its block, clears the pending
count, and either skips the body for 0 or pushes a level with its start, stop, count and strides. Nothing else changes. -/
def Obligations.BucketSelectAndLoopEntry : Prop :=
  (∀ (x : GReg2) (s : State) (off t : Nat) (v : Int), s.core.active x.g = true → s.core.pending x.a = false → s.core.pending x.b = false →
     v = (s.core.src 0 x.a).toInt → off = (s.core.src 1 x.b).toNat → t = leVal (s.core.spRead off 64) →
     off % 64 = 0 → off + 64 ≤ s.core.sp * 16384 → bselBad t = false →
     ∀ (k : Nat) (b e : Nat → Nat), k = t % 16 → (∀ i, b i = t / 2 ^ (32 * i + 32) % 2 ^ 32) → (∀ j, e j = t / 2 ^ (16 * j + 288) % 2 ^ 16) →
     ∀ (i p : Nat), (1 ≤ v ∧ i < k ∧ v ≤ b i ∧ (∀ j, j < i → (b j : Int) < v) ∧ (p : Int) = b i - v) ∨
         ((v < 1 ∨ ∀ j, j < k → (b j : Int) < v) ∧ i = k ∧ p = 0) → e i ≤ 0x7FF0 →
       exec (.bsel x) s = .next (Safety.ranTo s (Safety.consumed
         (Safety.redirected { s.core with ctl := { s.core.ctl with pad := BitVec.ofNat 64 p } } (e i) false)
         (poisonedIn s.core.poison (s.core.spBase + off) 64)))) ∧
  (∀ (x : LoopF) (s : State) (off blk start stop n : Nat), s.core.active x.g = true → s.core.pending x.a = false →
     off = (s.core.src 0 x.a).toNat → blk = leVal (s.core.spRead off 64) → start = s.core.fetch.pc + 16 →
     stop = s.core.fetch.pc + 16 * (x.body.toNat + 1) → s.core.loops.length < 6 → off % 64 = 0 → off + 64 ≤ s.core.sp * 16384 →
     loopBlockBad blk = false → stop ≤ 0x7FF0 → (∀ l, s.core.loops.getLast? = some l → stop ≤ l.stop) →
     n = (match s.core.pend.toList.getD s.core.loops.length none with | some m => m.toNat | none => blk % 2 ^ 32) →
     ∃ c, exec (.loop x) s = .next (Safety.ranTo s (Safety.consumed c (poisonedIn s.core.poison (s.core.spBase + off) 64))) ∧
       c = { s.core with loops := c.loops, pend := c.pend, fetch := { s.core.fetch with skip := c.fetch.skip } } ∧
       (∀ j : Fin 6, c.pend.get j = if j.val = s.core.loops.length then none else s.core.pend.get j) ∧
       (n = 0 → c.loops = s.core.loops ∧ c.fetch.skip = some ((stop + 16) % 0x8000)) ∧
       (n ≠ 0 → c.fetch.skip = some start ∧ ∃ strides, c.loops = s.core.loops ++ [⟨start, stop, n, n, strides⟩] ∧
         strides.length = blk / 2 ^ 32 % 8 ∧ ∀ j p, strides[j]? = some p →
           p.1.toNat = blk / 2 ^ (64 * j + 64) % 2 ^ 8 ∧ p.2 = sext 56 (blk / 2 ^ (64 * j + 72) % 2 ^ 56)))

/-- NOP and YIELD change nothing, IFENCE clears the written flag, TEND ends the part, STEST starts to drain (R284, R347,
R381, R402, R431). TEND leaves the core ending its part, aborted if the line is set, with no result or load outstanding, the
twin latches and the monitor clear and no region open; memory, the pool and the other cores stay. STEST outside a region, a
handler and a lent bank, no load waiting for s63, leaves the core scanning. -/
def Obligations.EndsAndMarks : Prop :=
  (∀ s : State, exec .nop s = .next (Safety.ranTo s s.core)) ∧
  (∀ (g : Guard) (s : State), s.core.active g = true →
    exec (.yield g) s = .next (Safety.ranTo s s.core) ∧
    ((∀ k ∈ s.core.copy.cmds, k.bank = false) →
      exec (.ifence g) s = .next (Safety.ranTo s { s.core with fetch := { s.core.fetch with written := false } })) ∧
    (∀ f : State, f = (s.flow .ran).flushStreams → Safety.cleanEnd f →
      (∃ t, exec (.tend g) s = .next t ∧ t.core.part.status = .ending f.core.part.abort ∧ t.core.flight = [] ∧ t.core.loads = [] ∧
        t.core.twinS.valid = false ∧ t.core.twinV.valid = false ∧ t.core.sync.monitor = none ∧
        t.core.regions = ⟨[], 0, 0, 0, [], []⟩ ∧ t.core.pool = f.core.pool ∧ t.mem = f.mem ∧ t.rest = f.rest) ∧
      (s.core.depth = 0 → s.core.handler.active = false → s.core.pendingW 63 = false → s.core.ctl.lend.getLsbD 2 = false →
        ∃ t, exec (.stest g) s = .next t ∧ t.core.part.status = .scanning ∧ (t.core.part.scan = 1 ∨ t.core.part.scan = 2))))

/-- CABORT sets the cluster's abort line and ends the part at the boundary; TRAP and BRKPT enter the handler after their
bundle (R40, R254, R257, R313, R320, R404). CABORT sets the line of every core of the task's cluster, its own among them,
with the code in ctl.abort unless an earlier code stands, and has its core sample the line at the boundary after the bundle;
the other cores stay as they are. A core that comes to such a boundary with its line set and nothing else waiting ends its
part, aborted, with no result, load, monitor or region left. TRAP and BRKPT take the trap with cause 0x0C or 0x0D, their
slot, and epc at the next bundle, pc at ctl.tvec, memory unchanged; BRKPT in halt mode halts the core there. -/
def Obligations.AbortAndSoftwareTraps : Prop :=
  ((∀ (x : Imm16F) (s : State), s.core.active x.g = true →
     ∃ t, exec (.cabort x) s = .next t ∧ t.core.bound = { s.core.bound with sample := true } ∧
       t.core.part = { s.core.part with abort := true } ∧ t.core.fetch = s.core.fetch ∧ t.core.regs = s.core.regs ∧ t.core.pool = s.core.pool ∧
       t.core.ctl.abort = (if s.core.ctl.abort.getLsbD 32 then s.core.ctl.abort else BitVec.ofNat 64 (x.imm.toNat + 2 ^ 32)) ∧
       (∀ c ∈ s.rest, s.core.sameCluster c = true → ∃ c' ∈ t.rest, c'.id = c.id ∧ c'.part.abort = true ∧
         c'.ctl.abort = if s.core.ctl.abort.getLsbD 32 then c.ctl.abort else BitVec.ofNat 64 (x.imm.toNat + 2 ^ 32)) ∧
       (∀ c ∈ s.rest, s.core.sameCluster c = false → ∃ c' ∈ t.rest, c'.id = c.id ∧ c'.part.abort = c.part.abort ∧ c'.ctl = c.ctl)) ∧
   (∀ s : State, s.core.part.status = .running → s.core.part.halted = false → s.core.part.abort = true → s.senderHeld = false →
     (s.core.pushes = [] ∨ s.core.ordersNext = false) → s.core.bound = ⟨none, false, [], [], false, true⟩ → (∀ l ∈ s.core.loads, l.fault = none) → s.core.unreported = none →
     ∃ t, s.issue = t ∧ t.core.part.status = .ending true ∧ t.core.flight = [] ∧ t.core.loads = [] ∧ t.core.sync.monitor = none ∧
       t.core.regions.stack = [] ∧ t.core.regions.buf = [])) ∧
  (∀ (x : Imm16F) (s : State), s.core.active x.g = true → s.core.handler.active = false → s.core.ctl.tvec ≠ 0 →
     Safety.cleanEnd (s.flow .ran) → ∀ e : Core, e = ((s.flow .ran).core.finish false) →
     (∃ t, exec (.trap x) s = .next t ∧ t.core.handler.active = true ∧ t.core.fetch.pc = s.core.ctl.tvec.toNat ∧
       t.core.ctl.cause = BitVec.ofNat 64 (0x0C + 2 ^ 16 + s.core.issue.slot % 4 * 2 ^ 17) ∧
       t.core.ctl.epc = BitVec.ofNat 64 e.fetch.pc ∧ t.core.flight = [] ∧ t.core.loads = [] ∧ t.mem = s.mem) ∧
     (s.haltDebug = false → ∃ t, exec (.brkpt x) s = .next t ∧ t.core.handler.active = true ∧ t.core.fetch.pc = s.core.ctl.tvec.toNat ∧
       t.core.ctl.cause = BitVec.ofNat 64 (0x0D + 2 ^ 16 + s.core.issue.slot % 4 * 2 ^ 17) ∧
       t.core.ctl.epc = BitVec.ofNat 64 e.fetch.pc ∧ t.core.flight = [] ∧ t.core.loads = [] ∧ t.mem = s.mem) ∧
     (s.haltDebug = true → ∃ t, exec (.brkpt x) s = .next t ∧ t.core = { e with part := { e.part with halted := true }, issue := t.core.issue } ))

/-- TRET leaves handler state and restores pc, predicates, masks, loops and the redirect from the frame (R256, R264, R405).
With no latch in the frame, TRET at a clean boundary leaves handler state with pc at ctl.epc, the predicates and masks of
the frame, its six loop levels, the redirect and the replay its flags say; the scalar and vector registers stay. -/
def Obligations.TrapReturn : Prop :=
  ∀ (g : Guard) (s f : State) (e : Core), s.core.active g = true → s.core.handler.active = true →
    f = (s.flow .ran).flushStreams → s.core.bound.faulted = [] → f.core.bound.faulted = [] → f.core.bound.rollback = none →
    e = f.core.finish false false → e.bound.rollback = none → Safety.frameNat e 0 64 / 2 ^ 206 % 2 ^ 8 = 0 →
    ∀ rt, rt = Safety.frameNat e 0 64 / 2 ^ 256 % 2 ^ 64 →
    ((Safety.frameNat e 0 64).testBit 192 = true → rt / 2 * 2 ≤ 0x7FF0 ∧ rt / 2 * 2 % 16 = 0) →
    (∀ i < 6, badLoopEdit (e.spRead (e.ctl.frame.toNat + (0x200 + 64 * i)) 64) = false) →
    ∃ t, exec (.tret g) s = .next t ∧ t.core.handler = ⟨false, [], [], 0, false, none, [], []⟩ ∧ t.core.fetch.pc = e.ctl.epc.toNat ∧
      (∀ j : Fin 16, t.core.regs.q.get j = (Safety.frameNat e 0xC0 8).testBit j) ∧
      (∀ j : Fin 8, t.core.regs.m.get j = BitVec.ofNat 256 (Safety.frameNat e (0x100 + 32 * j) 32)) ∧
      t.core.regs.s = e.regs.s ∧ t.core.regs.v = e.regs.v ∧ t.core.flight = e.flight ∧
      (t.core.fetch.replay.isSome = (Safety.frameNat e 0 64).testBit 193) ∧
      t.core.fetch.redirect = (if (Safety.frameNat e 0 64).testBit 192 then
        some ⟨rt / 2 * 2, decide (rt % 2 = 1)⟩ else none) ∧
      t.core.fetch.after = (decide (e.handler.after = true ∧ e.ctl.epc.toNat = e.handler.pc) || (Safety.frameNat e 0 64).testBit 192) ∧
      t.core.loops = (List.range 6).filterMap fun i => readLoop (e.spRead (e.ctl.frame.toNat + (0x200 + 64 * i)) 64)

/-- Taking a trap saves the frame and enters the handler; nested or without a vector it is fatal (R254, R256, R257, R259,
R260). For the shared operation that takes a precise trap: in handler state it records the fault NESTED_TRAP, with ctl.tvec
= 0 its own cause. Otherwise, with no load outstanding and at most one result in flight, cause, slot and epc are set, pc is
ctl.tvec, loops and flight are empty, nothing of the pool outside the 4 KiB frame changes, and the frame holds pc, cause,
fault, the flags, the predicates, the masks and the latch of the result in flight. The order of latches in the frame is the
model's (log 13), so one result is stated. -/
def Obligations.TrapEntry : Prop :=
  ∀ (s t : State) (c : Core) (code slot : Nat), c = s.core → t = s.trapAt code slot →
    (c.handler.active = true → t = { s with core := { c with
      bound := { c.bound with fatal := c.bound.fatal ++ [0x100] }, issue := { c.issue with flow := .trapped } } }) ∧
    (c.handler.active = false → c.ctl.tvec = 0 → t = { s with core := { c with
      bound := { c.bound with fatal := c.bound.fatal ++ [code] }, issue := { c.issue with flow := .trapped } } }) ∧
    (c.handler.active = false → c.ctl.tvec ≠ 0 → c.handler.loads = [] → c.loads = [] → (∀ f ∈ c.copy.fenced, f.op.isLoad = false) → c.fetch.replay = none → c.fetch.pc < 0x8000 →
      c.loops.length ≤ 6 → c.flight.length ≤ 1 → (∀ f ∈ c.flight, c.fetch.cycle < f.land ∧ f.land < c.fetch.cycle + 32) →
      t = { s with core := { c with
        ctl := { c.ctl with cause := BitVec.ofNat 64 (code + 2 ^ 16 + slot % 4 * 2 ^ 17), epc := BitVec.ofNat 64 c.fetch.pc }
        fetch := { c.fetch with pc := c.ctl.tvec.toNat, redirect := none, skip := none, after := false }
        flight := [], loops := [], pool := t.core.pool, poison := t.core.poison
        handler := ⟨true, c.flight.map fun f => (0, { f with land := f.land - c.fetch.cycle }), [], c.fetch.pc, c.fetch.after, c.fetch.skip,
          c.sync.waiting, c.loops⟩
        sync := { c.sync with waiting := [] }
        issue := { c.issue with flow := .trapped } } } ∧
      (∀ a, ¬ (c.spBase + c.ctl.frame.toNat ≤ a ∧ a < c.spBase + c.ctl.frame.toNat + 4096) → t.core.pool.byte a = c.pool.byte a) ∧
      Safety.frameNat t.core 0 8 = c.fetch.pc ∧ Safety.frameNat t.core 8 8 = t.core.ctl.cause.toNat ∧
      Safety.frameNat t.core 16 8 = c.ctl.fault.toNat ∧
      (Safety.frameNat t.core 0 64).testBit 192 = c.fetch.redirect.isSome ∧ (Safety.frameNat t.core 0 64).testBit 193 = false ∧
      (Safety.frameNat t.core 0 64).testBit 198 = c.fetch.written ∧ Safety.frameNat t.core 0 64 / 2 ^ 201 % 4 = 0 ∧
      Safety.frameNat t.core 0 64 / 2 ^ 206 % 2 ^ 8 = c.flight.length ∧
      (∀ j : Fin 16, (Safety.frameNat t.core 0xC0 8).testBit j = c.getQ (BitVec.ofNat 4 j)) ∧
      (∀ j : Fin 8, Safety.frameNat t.core (0x100 + 32 * j) 32 = (c.getM (BitVec.ofNat 3 j)).toNat) ∧
      (∀ (f : Flight) (d : BitVec 6) (x : Word), c.flight = [f] → f.res = .s d x → f.twin = .none → f.unit < 2 →
        Safety.frameNat t.core 0x800 16 =
          x.toNat + d.toNat * 2 ^ 64 + f.unit * 2 ^ 73 + (f.land - c.fetch.cycle) * 2 ^ 76 + 2 ^ 82))

/-- ACQ takes a ready object as its mode says, stalls on another, and faults on an illegal one (R201, R203, R205, R295).
When the probe of the object finds it ready, ACQ completes: a LOCK is written with the holder, a COUNT with aux + 1, an
EPOCH not at all (log 49), registers and control registers stay. When it is not, issue stalls; an illegal object is its
imprecise fault. -/
def Obligations.AcquireSemantics : Prop :=
  ∀ (x : SyncF) (s s1 : State) (va : Word), s.core.active x.g = true → s.core.pending x.a = false → s.core.issue.flow = .ran →
    va = s.core.srcAddr x.a → Safety.objAddr va →
    (∀ p o, s.flushStreams.acqProbe va.toNat x.scope.toNat = (s1, .take p o) → Safety.objReady o ∧
      ∃ t, exec (.acq x) s = .next t ∧ t.core.regs = s1.core.regs ∧ t.core.ctl = s1.core.ctl ∧
        (o.mode = 2 → t = s1) ∧
        (o.mode ≠ 2 → isDevice p.pa = true → Safety.performsDirect s1 →
          t.mem = s1.mem.write p.pa (Safety.objBytes (Safety.objAcquired o s1.core.id s1.ferry.addr)))) ∧
    (s.flushStreams.acqProbe va.toNat x.scope.toNat = (s1, .wait) → s.core.issue.checked = false → exec (.acq x) s = .next (s.flow .stalled)) ∧
    (∀ code, s.flushStreams.acqProbe va.toNat x.scope.toNat = (s1, .err (.fatal code)) → exec (.acq x) s = .next (s1.onCore fun c => c.fatal code))

/-- REL is accepted without a stall and, when performed, frees its LOCK or raises seq; another's LOCK faults (R203, R389).
REL on a legal object whose page may be written adds one outstanding release. RELEASE_PERFORM of a release with nothing to
wait for raises seq by 1, frees a LOCK its core holds, and writes only the object's 12 bytes; a LOCK of another holder
raises SYNC_OWNER and writes nothing. Of the core's releases only the oldest is performed (R203). -/
def Obligations.ReleaseSemantics : Prop :=
  (∀ (x : SyncF) (s f : State) (va : Word) (p : Piece), s.core.active x.g = true → s.core.pending x.a = false → s.core.depth = 0 →
    va = s.core.srcAddr x.a → Safety.objAddr va →
    (s.flow .ran).flushStreams.syncPiece va.toNat x.scope.toNat = (f, .ok p) → p.x.w = true →
    ∃ t, exec (.rel x) s = .next t ∧ t.core.sync.rels = f.core.sync.rels ++ [⟨va, p.pa, x.scope, [], false, f.core.pushesBefore, f.core.stamp⟩] ∧
      t.core.regs = f.core.regs ∧ t.core.ctl = f.core.ctl ∧ (Safety.performsDirect f → t.mem = f.mem)) ∧
  (∀ (s : State) (r : Release) (o : SyncObj), s.core.sync.rels[0]? = some r → r.waits = [] → (∀ n ∈ s.core.unperformed, n ∉ r.after) →
    (r.scope.toNat ≠ 4 ∨ r.sent = true) → isDevice r.pa = true → Safety.seesMemory s → s.windows = [] →
    ∀ (bad : Bool), bad = s.poisonedAt [⟨r.va.toNat, r.pa, 64, ⟨0, 0, 64, 0, true, false, false⟩⟩] →
    (bad = true → ∃ t, exec (.releasePerform 0) s = .next t ∧ t.core.bound.fatal = s.core.bound.fatal ++ [cUncorrectable] ∧ t.mem = s.mem) ∧
    (bad = false → o = syncOf (leVal (s.mem.read r.pa 64)) →
    (o.mode = 1 ∨ o.mode = 2 ∨ (o.mode = 0 ∧ o.aux = 0 ∧ o.hcore = s.core.id + 1 ∧ o.hmod = s.ferry.addr) →
      ∃ t, exec (.releasePerform 0) s = .next t ∧ t.core.sync.rels = s.core.sync.rels.eraseIdx 0 ∧
        t.mem = s.mem.write r.pa (Safety.objBytes (Safety.objRaised o true))) ∧
    (o.mode = 0 → o.aux = 0 → o.hcore ≠ s.core.id + 1 ∨ o.hmod ≠ s.ferry.addr →
      ∃ t, exec (.releasePerform 0) s = .next t ∧ t.core.bound.fatal = s.core.bound.fatal ++ [cSyncOwner] ∧ t.mem = s.mem))) ∧
  (∀ (k : Nat) (s : State), k ≠ 0 → exec (.releasePerform k) s = .refused (.notEnabled "RELEASE_PERFORM"))

/-- FENCE, LCNT, MON and MWAIT complete, stall or trap as their rules say (R39, R213, R214, R340, R364, R375, R380). FENCE
outside a region completes: the streams' stores that may be written are written, and the core's later accesses come after
those that are left (log 81); inside it traps REGION_OP. LCNT acquires its object and sets the pending counts from level lo
up to the 32-byte record's words. MON arms the 128-byte line, or nothing for a window address. MWAIT sends 1 after a
restore, 2 when nothing is armed, 0 when the line was written, and stalls otherwise. Nothing else changes. -/
def Obligations.FencesMonitorsAndCounts : Prop :=
  ((∀ (x : FenceF) (s : State), s.core.active x.g = true →
     (s.core.depth = 0 → exec (.fence x) s = .next ((s.flow .ran).flushStreams.onCore Core.fenceHere)) ∧
     (0 < s.core.depth → s.core.issue.checked = false → exec (.fence x) s = .next (s.trapAt cRegionOp s.core.issue.slot))) ∧
   (∀ (x : LcntF) (s s1 s2 s3 s4 : State) (va vb : Word) (p : Piece) (o : SyncObj) (ps : List Piece) (bs : List Byte),
     s.core.active x.g = true → s.core.pending x.a = false → s.core.pending x.b = false → s.core.issue.flow = .ran →
     va = s.core.srcAddr x.a → vb = s.core.src 1 x.b → Safety.objAddr va → vb.toNat % 32 = 0 → inWindow vb.toNat = false →
     s.flushStreams.acqProbe va.toNat 3 = (s1, .take p o) → s1.pieces .deck false 33 vb.toNat 32 = (s2, .ok ps) →
     s2.acquire p o = (s3, none) → s3.readOwn ps = (s4, .ok bs) →
     ∃ c, exec (.lcnt x) s = .next { s4 with core := Safety.consumed c (s4.poisonedOwn ps) } ∧ c = { s4.core with pend := c.pend } ∧
       ∀ i : Fin 6, c.pend.get i = if x.lo.toNat ≤ i.val then some (BitVec.ofNat 32 (leVal bs / 2 ^ (32 * i.val))) else s4.core.pend.get i)) ∧
  ((∀ (x : GReg) (s f : State) (va : Word) (p : Xlat), s.core.active x.g = true → s.core.pending x.a = false → va = s.core.srcAddr x.a →
     (inWindow va.toNat = true → ∀ c : Core, c = Safety.noHeldMonitor s.core →
       exec (.mon x) s = .next (Safety.ranTo s { c with sync := { c.sync with monitor := some ⟨0, true, false, c.stamp⟩ } })) ∧
     (inWindow va.toNat = false → (s.flow .ran).flushStreams.xlat .deck va.toNat = (f, .ok p) → p.bond = false →
       isDevice (p.pa + va.toNat % p.size) = true →
       ∀ (c : Core) (line : Nat), c = Safety.noHeldMonitor f.core → line = (p.pa + va.toNat % p.size) / 128 * 128 →
       (c.unperformed = [] →
         exec (.mon x) s = .next { f with core := { c with sync := { c.sync with monitor := some ⟨line, false, false, c.stamp⟩ } } }) ∧
       (c.unperformed ≠ [] →
         exec (.mon x) s = .next { f with core := { c with
           sync := { c.sync with monitor := none }
           copy := { c.copy with fenced := c.copy.fenced ++ [⟨c.stamp, c.unperformed, .monitor line⟩] } } }))) ∧
   (∀ (x : GReg) (s : State), s.core.active x.g = true → s.core.pendingW x.a = false → s.core.part.abort = false →
     (s.core.sync.restored = true →
       exec (.mwait x) s = .next (Safety.ranTo s (Safety.withResult { Safety.noHeldMonitor s.core with
         sync := { s.core.sync with monitor := none, restored := false } } (.s x.a 1) 1 0))) ∧
     (s.core.sync.restored = false → s.core.heldMonitor.isSome = true → s.core.issue.checked = false →
       exec (.mwait x) s = .next (s.flow .stalled)) ∧
     (s.core.sync.restored = false → s.core.heldMonitor = none →
       (s.core.sync.monitor = none ∨ (∃ m, s.core.sync.monitor = some m ∧ m.nothing = true) →
         exec (.mwait x) s = .next (Safety.ranTo s (Safety.withResult { s.core with
           sync := { s.core.sync with monitor := none } } (.s x.a 2) 1 0))) ∧
       (∀ m, s.core.sync.monitor = some m → m.nothing = false →
         (m.hit = true → exec (.mwait x) s = .next (Safety.ranTo s (Safety.withResult { s.core with
           sync := { s.core.sync with monitor := none } } (.s x.a 0) 1 0))) ∧
         (m.hit = false → s.core.issue.checked = false → exec (.mwait x) s = .next (s.flow .stalled))))))

/-- DBAR counts its arrival, completes when every member has arrived or ended, and stalls before (R27, R335). A DBAR at a
level without the fabric, with no arrival outstanding and member sets that agree, counts the arrival with its member set and
completes or stalls by whether every other member has reached that instance or ended; memory, the other cores and the
registers stay. Disagreeing member sets raise DOMAIN_MISMATCH. -/
def Obligations.BarrierArrival : Prop :=
  ∀ (x : DbarF) (s : State) (d : Word) (k : Nat), s.core.active x.g = true → s.core.part.abort = false →
    d = s.core.ctl.dom.get x.level.toFin → domFab d = false →
    (s.core.sync.waiting = [] → k = (s.core.sync.arrivals.get x.level.toFin).length + 1 → s.domMismatch x.level.toNat k d = false →
      ∃ t, exec (.dbar x) s = .next t ∧ t.rest = s.rest ∧ t.mem = s.mem ∧ t.core.regs = s.core.regs ∧
        t.core.sync.arrivals.get x.level.toFin = d :: s.core.sync.arrivals.get x.level.toFin ∧
        ((∀ c ∈ t.cores, c.part.task = s.core.part.task → inDom d c.rank = true → c.departed = true ∨
            k ≤ (c.sync.arrivals.get x.level.toFin).length) →
          t.core.issue.flow = .ran ∧ t.core.sync.waiting = []) ∧
        ((∃ c ∈ t.cores, c.part.task = s.core.part.task ∧ inDom d c.rank = true ∧ c.departed = false ∧
            (c.sync.arrivals.get x.level.toFin).length < k) →
          t.core.issue.flow = .stalled ∧ t.core.sync.waiting = [(x.level.toNat, k)])) ∧
    (s.core.sync.waiting = [] → k = (s.core.sync.arrivals.get x.level.toFin).length + 1 → s.domMismatch x.level.toNat k d = true →
      ∃ t, exec (.dbar x) s = .next t ∧ t.core.bound.fatal = s.core.bound.fatal ++ [0x101])

/-- ROPEN opens a region with its target and log, RKEEP logs, RCLOSE closes and performs the buffered stores (R267, R268,
R388, R391, R392). ROPEN at depth 0 starts the log and the stack, deeper it pushes its marks; ctl.rgn shows the depth. RKEEP
appends its records. RCLOSE pops; at depth 1 it performs the buffered stores (stated for none and for one), empties the log,
and leaves no command of the closed region. Nothing else changes. -/
def Obligations.RecoveryRegions : Prop :=
  (∀ (x : GReg2) (s f : State) (l t : Nat), f = (s.flow .ran).flushStreams → s.core.active x.g = true → s.core.pending x.a = false →
    s.core.pending x.b = false → s.core.handler.active = false → l = (s.core.src 0 x.a).toNat → t = (s.core.src 1 x.b).toNat →
    t ≤ 0x7FF0 → t % 16 = 0 → f.core.depth = s.core.depth → s.core.bound.rollback = none →
    (s.core.depth = 0 → s.core.logBad l = false → (∀ e ∈ f.core.pushes, e.depth = 0) →
      exec (.ropen x) s = .next { f with core := { f.core with
        regions := ⟨[⟨t, l % 2 ^ 32, 0⟩], l % 2 ^ 32, l % 2 ^ 32 + l / 2 ^ 32, l % 2 ^ 32, [], []⟩
        ctl := { f.core.ctl with rgn := Safety.rgnDepth f.core.ctl.rgn 1 } } }) ∧
    (0 < s.core.depth → s.core.depth < 4 → l = 0 →
      exec (.ropen x) s = .next { f with core := { f.core with
        regions := { f.core.regions with stack := ⟨t, f.core.regions.logPos, f.core.buffered⟩ :: f.core.regions.stack }
        ctl := { f.core.ctl with rgn := Safety.rgnDepth f.core.ctl.rgn (s.core.depth + 1) } } })) ∧
  (∀ (x : RkeepF) (s : State) (mask : Word), s.core.active x.g = true → s.core.handler.active = false → 0 < s.core.depth →
    mask = s.core.src 0 x.a → s.core.pending x.a = false → (∀ r : BitVec 6, mask.getLsbD r.toNat = true → s.core.pending r = false) →
    (∀ k, k < 4 → x.vb.getLsbD k = true → s.core.bankLent k = false) →
    exec (.rkeep x) s = .next (Safety.ranTo s (s.core.logAll (s.core.keepRecords mask x.vb)).1)) ∧
  (∀ (x : Guard) (s f : State), f = (s.flow .ran).flushStreams → s.core.active x = true → s.core.handler.active = false →
    f.core.depth = s.core.depth → s.core.depth ≤ 4 → s.core.bound.rollback = none →
    (1 < s.core.depth → ∃ t, exec (.rclose x) s = .next t ∧ t.core.regions = { f.core.regions with
        stack := f.core.regions.stack.drop 1
        buf := f.core.regions.buf.map fun b => { b with depth := min b.depth (s.core.depth - 1) }
        filled := f.core.regions.filled.map fun p => (min p.1 (s.core.depth - 1), p.2) } ∧
      t.core.ctl = { f.core.ctl with rgn := Safety.rgnDepth f.core.ctl.rgn (s.core.depth - 1) } ∧ t.mem = f.mem ∧ t.core.pool = f.core.pool ∧
      ∀ k ∈ t.core.copy.cmds, k.depth < s.core.depth) ∧
    (s.core.depth = 1 → f.core.regions.buf = [] → ∃ t, exec (.rclose x) s = .next t ∧
      t.core.regions = { f.core.regions with stack := [], buf := [], logPos := f.core.regions.logBase, filled := [] } ∧
      t.core.ctl = { f.core.ctl with rgn := Safety.rgnDepth f.core.ctl.rgn 0 } ∧ t.mem = f.mem ∧ ∀ k ∈ t.core.copy.cmds, k.depth = 0) ∧
    (s.core.depth = 1 → ∀ b, f.core.regions.buf = [b] → b.bytes ≠ [] → isDevice b.pa = true → Safety.performsDirect f → f.core.fenceLeft = [] → ∃ t, exec (.rclose x) s = .next t ∧
      t.core.regions.buf = [] ∧ t.mem = f.mem.write b.pa b.bytes))

/-- CRD sends every control register's value; CWR keeps the writable fields and leaves RO registers alone (R64, R65, R331,
R333, R334, R72; log 37: a restore's reload; log 11: the table is sampled at CWR's issue where it can be). CRD of each
register of the table, the time, the parameters, the ring handles and the tile entries puts that value in flight for s(r);
an unlisted number traps, for CWR too. The number has its high bits from the slot's lent bits under LEND (R72), so that a
lent number is an unlisted one. CWR of an RO register changes nothing; epc and tvec keep bits 14 to 4; rgn clears valid when
written 1; vround, hist, pad, the domains, the parameters and the rings keep their fields; a reserved rounding mode, an
illegal domain and an illegal ring trap ILLEGAL_OPERATION; tdt queues the reload of the descriptor copy, whose table is read
at issue unless an earlier access of the core waits or translation fails (log 11). Nothing else changes. -/
def Obligations.ControlRegisters : Prop :=
  (∀ (x : CtlF) (s : State), s.core.active x.g = true → s.core.pendingW x.r = false → (∀ n : Nat, n = (s.core.issue.ext.map fun e => e.toNat % 4 * 1024).getD 0 + x.ctl.toNat →
     (∀ v, (n, v) ∈ Safety.namedCtl s.core → exec (.crd x) s = .next (Safety.sent s (.s x.r v) 1 0)) ∧
     (n = 0x06 → exec (.crd x) s = .next (Safety.sent s (.s x.r (BitVec.ofNat 64 (s.clock / 36))) 1 0)) ∧
     (∀ k : Fin 8, n = 0x40 + k → exec (.crd x) s = .next (Safety.sent s (.s x.r (s.core.regs.p.get k)) 1 0)) ∧
     (∀ (k : Fin 16) (h : Ring), n = 0x50 + k → h = s.core.rings.get k →
       exec (.crd x) s = .next (Safety.sent s (.s x.r (BitVec.ofNat 64 (h.first.toNat + h.n.toNat * 2 ^ 6 + h.prod.toNat * 2 ^ 16 +
         h.cons.toNat * 2 ^ 32 + h.kbar.toNat * 2 ^ 48))) 1 0)) ∧
     (∀ (k : Fin 64) (t : Tile), n = 0x80 + k → t = s.core.tiles.get k →
       exec (.crd x) s = .next (Safety.sent s (.s x.r (BitVec.ofNat 64 (t.base.toNat + t.size.toNat * 2 ^ 7 +
         (match t.state with | .empty => 0 | .filling => 1 | .ready => 2 | .draining => 3) * 2 ^ 14))) 1 0)) ∧
     ((0x18 ≤ n ∧ n < 0x40 ∨ 0x48 ≤ n ∧ n < 0x50 ∨ 0x60 ≤ n ∧ n < 0x80 ∨
         0xC0 ≤ n) → s.core.issue.checked = false →
       exec (.crd x) s = .next (s.trapAt cIllegalOperation s.core.issue.slot) ∧
       exec (.cwr x) s = .next (s.trapAt cIllegalOperation s.core.issue.slot)))) ∧
  (∀ (x : CtlF) (s : State) (n : Nat) (v : Word), s.core.active x.g = true → s.core.pending x.r = false → 
     n = (s.core.issue.ext.map fun e => e.toNat % 4 * 1024).getD 0 + x.ctl.toNat → v = s.core.src 0 x.r →
     (n ∈ [0x00, 0x02, 0x03, 0x04, 0x05, 0x06, 0x07, 0x0B, 0x11, 0x13, 0x14, 0x16, 0x17] ∨ 0x80 ≤ n ∧ n < 0xC0 →
       exec (.cwr x) s = .next (Safety.ranTo s s.core)) ∧
     (n = 0x01 → exec (.cwr x) s = .next (Safety.ranTo s { s.core with ctl := { s.core.ctl with epc := v &&& 0x7FF0 } })) ∧
     (n = 0x15 → exec (.cwr x) s = .next (Safety.ranTo s { s.core with ctl := { s.core.ctl with tvec := v &&& 0x7FF0 } })) ∧
     (n = 0x08 → exec (.cwr x) s = .next (Safety.ranTo s { s.core with ctl := { s.core.ctl with
       rgn := if v.getLsbD 10 then s.core.ctl.rgn &&& 0x3FF else s.core.ctl.rgn } })) ∧
     (n = 0x0A → v.toNat % 8 ≤ 5 →
       exec (.cwr x) s = .next (Safety.ranTo s { s.core with ctl := { s.core.ctl with vround := v &&& 0x1FF } })) ∧
     (n = 0x10 → exec (.cwr x) s = .next (Safety.ranTo s { s.core with ctl := { s.core.ctl with hist := v &&& 0x1FF } })) ∧
     (n = 0x12 → exec (.cwr x) s = .next (Safety.ranTo s { s.core with ctl := { s.core.ctl with pad := v &&& 0xFFFF } })) ∧
     (∀ k : Fin 4, n = 0x0C + k → s.core.domBad k v = false →
       exec (.cwr x) s = .next (Safety.ranTo s { s.core with ctl := { s.core.ctl with dom := s.core.ctl.dom.set k (v &&& 0xFFFF0001FFFF) } })) ∧
     (∀ k : Fin 8, n = 0x40 + k →
       exec (.cwr x) s = .next (Safety.ranTo s { s.core with regs := { s.core.regs with p := s.core.regs.p.set k v } })) ∧
     (∀ (k : Fin 16) (h : Ring), n = 0x50 + k → s.core.ringBad k v.toNat = false →
       h = ⟨v.extractLsb' 0 6, v.extractLsb' 6 7, v.extractLsb' 16 16, v.extractLsb' 32 16, (s.core.rings.get k).kbar⟩ →
       exec (.cwr x) s = .next (Safety.ranTo s { s.core with rings := s.core.rings.set k h })) ∧
     (s.core.issue.checked = false →
       (n = 0x0A ∧ 5 < v.toNat % 8) ∨ (∃ k : Fin 4, n = 0x0C + k ∧ s.core.domBad k v = true) ∨
         (∃ k : Fin 16, n = 0x50 + k ∧ s.core.ringBad k v.toNat = true) →
       exec (.cwr x) s = .next (s.trapAt cIllegalOperation s.core.issue.slot)) ∧
     (n = 0x09 → s.core.mx.queue.length < 8 → ∀ e f tab w, w = v &&& 0x1FFFFFFFFFFF0FF → e = (s.flow .ran).flushStreams →
       (e.core.pushesBefore = [] → e.readTable w = (f, .ok tab) →
         exec (.cwr x) s = .next { f with core := { f.core with
           ctl := { f.core.ctl with tdt := w }
           mx := { f.core.mx with queue := f.core.mx.queue ++ [.reload w (some tab) [] f.core.pushesBefore] } } }) ∧
       (e.core.pushesBefore ≠ [] →
         exec (.cwr x) s = .next { e with core := { e.core with
           ctl := { e.core.ctl with tdt := w }
           mx := { e.core.mx with queue := e.core.mx.queue ++ [.reload w none [] e.core.pushesBefore] } } })))

/-- EINJ arms one injection, XINV drops cached translations, LAUNCH hands its record to the queue (R198, R241, R337, R363,
R429). EINJ sets the injection of its kind and keeps the others. XINV of a page or of the whole root leaves no cached
translation of it at the core, its deck's walker or the Pier's, and changes neither memory nor registers; for a window
address it does nothing. LAUNCH of a 128-byte record that it can read into an enabled launch queue of the same key is
consumed by the queue, or waits in order while no event number can be given, or is held unread behind an earlier access of
the core that is still to be performed (log 81); a poisoned one raises UNCORRECTABLE. -/
def Obligations.InjectInvalidateLaunch : Prop :=
  (∀ (x : EinjF) (s : State), s.core.active x.g = true → s.core.pending x.a = false →
    ∃ v : Vector (Option Word) 4, exec (.einj x) s = .next (Safety.ranTo s { s.core with inject := v }) ∧
      ∀ i : Fin 4, v.get i = if i.val = x.kind.toNat then some (s.core.src 0 x.a) else s.core.inject.get i) ∧
  (∀ (x : GReg) (s f : State) (va : Nat), f = (s.flow .ran).flushStreams → va = (s.core.src 0 x.a).toNat → s.core.active x.g = true →
    s.core.pending x.a = false →
    (inWindow va = true → exec (.xinvPage x) s = .next (Safety.ranTo s s.core)) ∧
    (inWindow va = false → ∃ t, exec (.xinvPage x) s = .next t ∧ t.mem = f.mem ∧ t.core.regs = f.core.regs ∧
      ∀ y : Xlat, y.root = s.root ∧ y.page = va / y.size → y ∉ t.core.tlb ∧ y ∉ t.walkP ∧ (y ∉ t.walkA ∨ onDeckB f.core.id = true) ∧
        (y ∉ t.walkB ∨ onDeckB f.core.id = false))) ∧
  (∀ (x : GReg) (s f : State), f = (s.flow .ran).flushStreams → s.core.active x.g = true →
    ∃ t, exec (.xinvAll x) s = .next t ∧ t.mem = f.mem ∧ t.core.regs = f.core.regs ∧
      ∀ y : Xlat, y.root = s.root → y ∉ t.core.tlb ∧ y ∉ t.walkP ∧ (y ∉ t.walkA ∨ onDeckB f.core.id = true) ∧
        (y ∉ t.walkB ∨ onDeckB f.core.id = false)) ∧
  (∀ (x : LaunchF) (s s1 s2 : State) (va : Word) (ps : List Piece) (raw : List Byte), s.core.active x.g = true → s.core.pending x.a = false →
    va = s.core.srcAddr x.a → s.core.depth = 0 → va.toNat % 128 = 0 → inWindow va.toNat = false → (s.queue x.queue.toNat).cfg.src = 3 →
    (s.queue x.queue.toNat).cfg.key = (s.task.map (·.key)).getD 0 →
    (s.flow .ran).flushStreams.pieces .deck false 129 va.toNat 128 = (s1, .ok ps) → ∀ u, u = s1.uncontain s1.core.part.task →
    (u.core.unperformed = [] → u.readOwn ps = (s2, .ok raw) →
      (s2.poisonedOwn ps = true → exec (.launch x) s = .next (s2.onCore Core.uncorrectable)) ∧
      (s2.poisonedOwn ps = false → s2.canNumber = true → s2.hm.launches = [] → exec (.launch x) s = .next (s2.consume x.queue.toNat raw (some (va.toNat % 2 ^ 57)))) ∧
      (s2.poisonedOwn ps = false → s2.canNumber = false → exec (.launch x) s = .next { s2 with hm := { s2.hm with
        launches := s2.hm.launches ++ [(x.queue.toNat, va.toNat % 2 ^ 57, raw)] } })) ∧
    (u.core.unperformed ≠ [] → exec (.launch x) s = .next { u with core := { u.core with copy := { u.core.copy with
      fenced := u.core.copy.fenced ++ [⟨u.core.stamp, u.core.unperformed, .launch x.queue.toNat (va.toNat % 2 ^ 57) ps⟩] } } }))

/-- A slot that its predicate or LOOPF switches off has no effect, whatever the instruction (R59, R61). For every guarded
instruction: with the predicate false or the slot suppressed, exec answers the same state with the slot marked as run and
nothing else changed, with no check of state and no stall. The V operations and SEL have no effect when LOOPF suppresses
them. -/
def Obligations.SwitchedOffSlots : Prop :=
  (∀ (i : Instr) (g : Guard) (s : State), Safety.guardOf i = some g → s.core.issue.replay = none →
    (s.core.issue.suppressed = true ∨ s.core.getQ g.q = g.neg) → exec i s = .next (Safety.ranTo s s.core)) ∧
  (∀ (i : Instr) (s : State), Safety.unguarded i = true → s.core.issue.suppressed = true → exec i s = .next (Safety.ranTo s s.core))

/-- END, NOP, SETS, SETR, SETX, MOVX, ADDX and LOOPX do their micro-operation; 2^24 of them are a runaway (R137, R139,
R140). Each changes only the routine state: END ends it, SETS and SETR set the scale and the rounding (a reserved mode is
MX_OPERAND 0x102), SETX, MOVX and ADDX a routine register, ADDX one 22-bit field or the whole, LOOPX counts down and goes
back. The micro-operation that reaches 2^24 without ending fails the call with 0x103. -/
def Obligations.ControlMicroOps : Prop :=
  (∀ (s : State) (r : Run), Safety.microRunning s r →
     exec .mxEnd s = .next (Safety.withRun s { r with steps := r.steps + 1, done := true }) ∧
     exec .mxNop s = .next (Safety.withRun s (Safety.microAt r (r.pc + 1))) ∧
     (∀ xs, exec (.sets xs) s = .next (Safety.withRun s (Safety.microAt { r with scale := (r.x.get xs.toFin).extractLsb' 0 32 } (r.pc + 1)))) ∧
     (∀ mode sat xr, mode.toNat ≤ 5 → exec (.setr mode sat xr) s =
       .next (Safety.withRun s (Safety.microAt { r with mode := mode, sat := sat, seed := r.x.get xr.toFin } (r.pc + 1)))) ∧
     (∀ mode sat xr, 6 ≤ mode.toNat → exec (.setr mode sat xr) s = .next (Safety.microFailed s 0x102)) ∧
     (∀ xd imm, exec (.setx xd imm) s =
       .next (Safety.withRun s (Safety.microAt (Safety.microSet r xd (BitVec.ofInt 64 imm.toInt)) (r.pc + 1)))) ∧
     (∀ xd xa, exec (.movx xd xa) s =
       .next (Safety.withRun s (Safety.microAt (Safety.microSet r xd (r.x.get xa.toFin)) (r.pc + 1)))) ∧
     (∀ (xd : BitVec 4) (fld : BitVec 2) (imm : BitVec 32) (old : Word), fld.toNat ≤ 2 → old = r.x.get xd.toFin →
       ∃ v : Word, exec (.addx xd fld imm) s = .next (Safety.withRun s (Safety.microAt (Safety.microSet r xd v) (r.pc + 1))) ∧
         (fld = 0 → v = old + BitVec.ofInt 64 imm.toInt) ∧
         (∀ lo, (fld = 1 ∧ lo = 20) ∨ (fld = 2 ∧ lo = 42) →
           v.extractLsb' lo 22 = old.extractLsb' lo 22 + BitVec.ofInt 22 imm.toInt ∧
           ∀ k, k < lo ∨ lo + 22 ≤ k → v.getLsbD k = old.getLsbD k)) ∧
     (∀ (xc : BitVec 4) (target : BitVec 6) (v : Word), v = r.x.get xc.toFin →
       exec (.loopx xc target) s = .next (Safety.withRun s (
         if v = 0 then Safety.microAt r (r.pc + 1)
         else Safety.microAt (Safety.microSet r xc (v - 1)) (if v = 1 then r.pc + 1 else target.toNat))))) ∧
  (∀ (s : State) (r : Run), s.core.mx.run = some r → r.done = false → s.core.mx.stop = none → r.steps + 1 = 2 ^ 24 →
     r.pc + 1 < r.prog.length → exec .mxNop s = .next (Safety.microFailed s 0x103))

/-- ZACC clears and LDACC loads whole accumulator rows; rows that do not exist fail the call (R130, R131, R137, R140; log
30: LDACC is scaled by the left side's descriptor and applies no padding). With the rows inside an accumulator tile, ZACC
zeroes exactly their bytes and LDACC writes the operand's values rounded into them; no other byte of the pool, no register
and no tile entry changes. A reference to rows that are not there fails ZACC, LDACC, DRAIN and STRM with MX_OPERAND 0x102.
-/
def Obligations.AccumulatorMicroOps : Prop :=
  ∀ (s : State) (r : Run) (xc : BitVec 4) (n : BitVec 6) (m : MRef) (w : Nat), Safety.microRunning s r → m = mrefOf (r.x.get xc.toFin) →
    w = (if m.acc64 then 8 else 4) →
    (s.core.accAt r.call m (n.toNat + 1) = none →
      exec (.zacc xc n) s = .next (Safety.microFailed s 0x102) ∧
      ∀ xa, exec (.ldacc xc xa n) s = .next (Safety.microFailed s 0x102) ∧
        exec (.drain xc xa n) s = .next (Safety.microFailed s 0x102) ∧ exec (.strm xa xc n) s = .next (Safety.microFailed s 0x102)) ∧
    (∀ a, s.core.accAt r.call m (n.toNat + 1) = some a →
      (∃ t, exec (.zacc xc n) s = .next t ∧ t.core.mx.run = some (Safety.microAt r (r.pc + 1)) ∧ t.mem = s.mem ∧
        t.core.regs = s.core.regs ∧ t.core.tiles = s.core.tiles ∧
        ∀ k, t.core.pool.byte k = if a ≤ k ∧ k < a + 64 * w * (n.toNat + 1) then 0 else s.core.pool.byte k) ∧
      ∀ (xa : BitVec 4) (o : Operand) (s1 s2 : State) (sc : Scales) (rows : List (List Machine.Num)),
        s.core.operand r.call (r.x.get xa.toFin) = some o → o.desc.fmt = (if m.acc64 then 0 else 1) →
        s.scalesFor r.call false o o.ref.col0 = (s1, .ok sc) →
        s1.elemRows o sc (fun _ => false) 64 o.ref.col0 (n.toNat + 1) o.ref.row0 = (s2, .ok rows) →
        ∃ t, exec (.ldacc xc xa n) s = .next t ∧ t.core.mx.run = some (Safety.microAt r (r.pc + 1)) ∧ t.mem = s2.mem ∧
          t.core.regs = s2.core.regs ∧ t.core.tiles = s2.core.tiles ∧
          (∀ k, ¬ (a ≤ k ∧ k < a + 64 * w * (n.toNat + 1)) → t.core.pool.byte k = s2.core.pool.byte k) ∧
          ∀ i row j x k, rows[i]? = some row → row[j]? = some x → k < w →
            t.core.pool.byte (a + 64 * w * i + w * j + k) =
              BitVec.ofNat 8 (roundRne (if m.acc64 then 0 else 1) x / 256 ^ k))

/-- LDW and LDW_SPARSE load the idle bank, SWAP makes it active and drains the other (R129, R140, R143, R145; log 30:
LDW_SPARSE's scales start at col0). LDW puts the operand's block into the bank that is not active, LDW_SPARSE the expanded
columns; the other bank, memory and registers stay. SWAP makes the loaded bank active; the bank it replaces drains while
rows tagged with it remain. -/
def Obligations.WeightBankMicroOps : Prop :=
  ∀ (s : State) (r : Run) (load : Bool), Safety.microRunning s r →
    load = (match s.core.mx.active with | some b => !b | none => false) →
    (∀ (xw : BitVec 4) (o : Operand) (s1 s2 : State) (sc : Scales) (w : List (List Machine.Num)),
      s.core.operand r.call (r.x.get xw.toFin) = some o → (s.core.mx.bank load).state ≠ .draining →
      (s.scalesFor r.call true o o.ref.row0 = (s1, .ok sc) →
        s1.elemRows o sc (fun _ => false) 64 o.ref.col0 64 o.ref.row0 = (s2, .ok w) →
        ∃ t, exec (.ldw xw) s = .next t ∧ t.core.mx.run = some (Safety.microAt r (r.pc + 1)) ∧
          t.core.mx.bank load = ⟨.idle, true, BitVec.ofNat 5 o.desc.fmt, w, false⟩ ∧
          t.core.mx.bank (!load) = s2.core.mx.bank (!load) ∧ t.core.mx.active = s2.core.mx.active ∧
          t.core.pool = s2.core.pool ∧ t.mem = s2.mem ∧ t.core.regs = s2.core.regs) ∧
      (∀ (nm : BitVec 2) (cs : List (List Machine.Num)), nm ≠ 3 → o.ref.kind = 1 → o.ref.t = false → 11 ≤ o.desc.fmt →
        o.ref.col0 = 0 ∨ o.ref.col0 = 128 → s.scalesFor r.call true o o.ref.col0 = (s1, .ok sc) →
        s1.sparseColumns o nm sc 64 o.ref.row0 = (s2, .ok cs) →
        ∃ t bank, exec (.ldwSparse xw nm) s = .next t ∧ t.core.mx.run = some (Safety.microAt r (r.pc + 1)) ∧
          t.core.mx.bank load = bank ∧ bank.state = .idle ∧ bank.valid = true ∧ bank.fmt = BitVec.ofNat 5 o.desc.fmt ∧
          bank.w.length = 128 ∧ (∀ k row, bank.w[k]? = some row → row = cs.map fun c => c.getD k (.fin false 0 0)) ∧
          t.core.mx.bank (!load) = s2.core.mx.bank (!load) ∧ t.core.pool = s2.core.pool ∧ t.mem = s2.mem)) ∧
    ((s.core.mx.bank load).state ≠ .draining → ∃ t, exec .mxSwap s = .next t ∧ t.core.mx.run = some (Safety.microAt r (r.pc + 1)) ∧ t.core.mx.active = some load ∧
      t.core.mx.bank load = { s.core.mx.bank load with state := .active } ∧
      t.core.mx.bank (!load) = (if s.core.mx.active = none then s.core.mx.bank (!load)
        else { s.core.mx.bank (!load) with state := if (s.core.mx.bank (!load)).rows then .draining else .idle }) ∧
      t.core.pool = s.core.pool ∧ t.mem = s.mem ∧ t.core.regs = s.core.regs ∧ t.core.mx.queue = s.core.mx.queue)

/-- STRM accumulates each streamed row against the active bank in the fixed order (R115, R128, R132, R140; log 30: all left
rows are read before the first accumulates). For compatible formats, STRM changes exactly the accumulator rows it names:
value (i, j) becomes the old value with row i and column j added in the order of R115, one product at a time or exact groups
of 32, rounded at each step. A row left out as padding stays. Registers and memory stay. -/
def Obligations.StreamedRows : Prop :=
  ∀ (s s1 s2 : State) (r : Run) (xa xc : BitVec 4) (n : BitVec 6) (m : MRef) (o : Operand) (b : Bool) (bank : WBank) (a w : Nat)
    (sc : Scales) (rows : List (List Machine.Num)), Safety.microRunning s r → m = mrefOf (r.x.get xc.toFin) →
    w = (if m.acc64 then 8 else 4) → s.core.mx.active = some b → bank = s.core.mx.bank b → bank.valid = true →
    s.core.operand r.call (r.x.get xa.toFin) = some o → s.core.accAt r.call m (n.toNat + 1) = some a →
    ((m.acc64 = true ∧ o.desc.fmt = 0 ∧ bank.fmt = 0) ∨
      (m.acc64 = false ∧ ((o.desc.fmt = 1 ∧ bank.fmt = 1) ∨ (o.desc.fmt = 2 ∧ bank.fmt = 2) ∨ (o.desc.fmt = 3 ∧ bank.fmt = 3) ∨
        (11 ≤ o.desc.fmt ∧ 11 ≤ bank.fmt.toNat)))) →
    bank.w.length ≤ 128 → s2.core.pool.wf = true →
    s.scalesFor r.call false o o.ref.col0 = (s1, .ok sc) →
    s1.elemRows o sc (o.padRow r.call) bank.w.length o.ref.col0 (n.toNat + 1) o.ref.row0 = (s2, .ok rows) →
    ∃ t, exec (.strm xa xc n) s = .next t ∧ t.core.mx.run = some (Safety.microAt r (r.pc + 1)) ∧ t.mem = s2.mem ∧
      t.core.regs = s2.core.regs ∧
      (∀ k, ¬ (a ≤ k ∧ k < a + 64 * w * (n.toNat + 1)) → t.core.pool.byte k = s2.core.pool.byte k) ∧
      ∀ i j k, i ≤ n.toNat → j < 64 → k < w →
        t.core.pool.byte (a + 64 * w * i + w * j + k) =
          if rows.getD i [] = [] then s2.core.pool.byte (a + 64 * w * i + w * j + k)
          else BitVec.ofNat 8 (roundRne (if m.acc64 then 0 else 1)
            (Safety.accumulated (decide (2 ≤ o.desc.fmt)) m.acc64 (Safety.accValue s2.core m.acc64 a i j) (rows.getD i [])
              (bank.w.map fun x => x.getD j (.fin false 0 0))) / 256 ^ k)

/-- DRAIN writes the scaled, rounded values into its destination tile and nothing outside it (R146, R147). For an
untransposed tile whose rows do not overlap and lie clear of the accumulator, each value (i, j) inside the descriptor's rows
and columns is written as the drain value of the accumulator under the scale, the mode and the dither of its position; no
byte outside the destination tile, no register and no byte of memory changes. -/
def Obligations.DrainedTile : Prop :=
  ∀ (s : State) (r : Run) (xc xd : BitVec 4) (n : BitVec 6) (m : MRef) (o : Operand) (a w es : Nat), Safety.microRunning s r →
    m = mrefOf (r.x.get xc.toFin) → w = (if m.acc64 then 8 else 4) → s.core.operand r.call (r.x.get xd.toFin) = some o →
    s.core.accAt r.call m (n.toNat + 1) = some a → es = fmtWidth o.desc.fmt / 8 →
    (if m.acc64 then o.desc.fmt = 0 else o.desc.fmt = 1 ∨ o.desc.fmt = 2 ∨ o.desc.fmt = 3 ∨ 11 ≤ o.desc.fmt) →
    o.ref.kind = 1 → o.ref.t = false → r.call.flags.getLsbD 0 = false → s.core.pool.wf = true → 0 ≤ o.desc.rstr →
    (o.desc.cols : Int) * es ≤ o.desc.rstr → (o.desc.rows : Int) * o.desc.rstr ≤ o.tile.bytes →
    (a + 64 * w * (n.toNat + 1) ≤ o.tile.start ∨ o.tile.start + o.tile.bytes ≤ a) →
    (∀ i, i ≤ n.toNat → poisonedIn s.core.poison (a + 64 * w * i) (64 * w) = false) →
    ∃ t, exec (.drain xc xd n) s = .next t ∧ t.core.mx.run = some (Safety.microAt r (r.pc + 1)) ∧ t.mem = s.mem ∧
      t.core.regs = s.core.regs ∧
      (∀ k, ¬ (o.tile.start ≤ k ∧ k < o.tile.start + o.tile.bytes) → t.core.pool.byte k = s.core.pool.byte k) ∧
      ∀ i j, i ≤ n.toNat → j < 64 → o.ref.row0 + i < o.desc.rows → o.ref.col0 + j < o.desc.cols → o.padRow r.call (o.ref.row0 + i) = false →
        ∀ k, k < es → ∀ at' : Int, at' = (o.ref.row0 + i) * o.desc.rstr + (o.ref.col0 + j) * es →
          t.core.pool.byte (o.tile.start + at'.toNat + k) = BitVec.ofNat 8
            (drainValue (Safety.accValue s.core m.acc64 a i j) (f32Num r.scale.toNat) o.desc.fmt r.mode.toNat r.sat
              (((r.seed + BitVec.ofNat 64 (i * 2 ^ 32 + j)) * 0x9E3779B97F4A7C15).toNat / 2 ^ 48) / 256 ^ k)

/-- A result lands in its register and nowhere else; s0, q0 and m0 discard; of two the later slot wins (R31, R43, R44, R46,
R281). RESULT_LAND with one due result writes its register or pair under its byte mask, discards writes to s0, q0 and m0,
and changes no other register, control register or byte; of two results for one scalar register landing together the later
issue, then the higher slot, prevails; with nothing due the event is not enabled. LOAD_RETURN of a load without a fault
writes its register and clears its scoreboard; poison raises UNCORRECTABLE. -/
def Obligations.ResultsAndLoadsLand : Prop :=
  (∀ (s : State) (f : Flight), s.core.fetch.replay = none → s.core.flight = [f] → f.land ≤ s.core.fetch.cycle → f.twin = .none →
    (∀ d xs p, f.res = .rows d xs p → d.toNat + xs.length ≤ 32) →
    ∃ t, exec .resultLand s = .next t ∧ t.core.flight = [] ∧ t.mem = s.mem ∧ t.rest = s.rest ∧ t.core.ctl = s.core.ctl ∧
      t.core.pool = s.core.pool ∧
      (∀ r, t.core.getS r = match f.res with | .s d x => (if r = d ∧ r ≠ 0 then x else s.core.getS r) | _ => s.core.getS r) ∧
      (∀ r, t.core.getQ r = match f.res with | .q d x => (if r = d ∧ r ≠ 0 then x else s.core.getQ r) | _ => s.core.getQ r) ∧
      (∀ r, t.core.getM r = match f.res with
        | .m d x keep => (if r = d ∧ r ≠ 0 then (x &&& keep) ||| (s.core.getM r &&& ~~~keep) else s.core.getM r)
        | _ => s.core.getM r) ∧
      (∀ r, t.core.getV r = match f.res with
        | .v d x keep => (if r = d then (x &&& keep) ||| (s.core.getV r &&& ~~~keep) else s.core.getV r)
        | .vv d x y => (if r = d + 1 then y else if r = d then x else s.core.getV r)
        | .rows d xs _ => (if d.toNat ≤ r.toNat then xs.getD (r.toNat - d.toNat) (s.core.getV r) else s.core.getV r)
        | _ => s.core.getV r) ∧
      t.core.mx = match f.res with
        | .scale side x => (if side then { s.core.mx with scaleR := some x } else { s.core.mx with scaleL := some x })
        | _ => s.core.mx) ∧
  (∀ (s : State) (f g : Flight) (d : BitVec 6) (x y : Word), s.core.fetch.replay = none → s.core.flight = [f, g] ∨ s.core.flight = [g, f] →
    f.land ≤ s.core.fetch.cycle → g.land ≤ s.core.fetch.cycle → f.twin = .none → g.twin = .none → f.res = .s d x → g.res = .s d y → d ≠ 0 →
    f.issued < g.issued ∨ (f.issued = g.issued ∧ f.slot < g.slot) →
    ∃ t, exec .resultLand s = .next t ∧ t.core.flight = [] ∧ t.core.getS d = y) ∧
  (∀ s : State, (∀ f ∈ s.core.flight, s.core.fetch.cycle < f.land) → exec .resultLand s = .refused (.notEnabled "RESULT_LAND")) ∧
  (∀ (s : State) (k : Nat) (l : Load) (bad : Bool), s.core.loads[k]? = some l → l.fault = none → l.late = false →
    bad = (l.poison || (!l.atomic && (s.core.inject.get 2).isSome)) →
    ∃ t, exec (.loadReturn k) s = .next t ∧ t.core.loads = s.core.loads.eraseIdx k ∧ t.mem = s.mem ∧
      (∀ r, t.core.getS r = if r = l.dest ∧ r ≠ 0 then l.value else s.core.getS r) ∧
      t.core.bound = (Safety.consumed s.core bad).bound ∧ ((∀ f ∈ s.core.flight, f.slow = false) → t.core.flight = s.core.flight) ∧ t.core.pool = s.core.pool)

/-- An engine fault reaches the handler, a fatal fault ends or requeues the task, a rollback restores the log (R265, R266,
R271, R272, R274, R275). ENGINE_FAULT_REPORT takes the trap with the command's cause and address and marks it told.
IMPRECISE_FAULT ends the task FAULTED with the cause and stops its cores; of a contained node with a silent-error cause and
requeues left, CONTAINED_REQUEUE sends it back to the pool instead. ROLLBACK restores the scratchpad bytes of the log
(stated for none or one record), drops the region and its commands, empties the tiles that they filled, reports in ctl.rgn,
and goes to the region's target; memory and registers stay. -/
def Obligations.FaultEvents : Prop :=
  (∀ (s : State) (k : Command) (code va : Nat), s.core.part.halted = false → s.core.handler.active = false → s.core.part.status = .running →
    s.core.bound.rollback = none → s.core.copy.cmds.find? (fun c => c.stop.isSome && !c.told) = some k → k.stop = some (code, va) →
    s.core.ctl.tvec ≠ 0 →
    ∃ t, exec .engineFaultReport s = .next t ∧ t.core.ctl.cause = BitVec.ofNat 64 (code + 2 ^ 16) ∧
      t.core.ctl.fault = BitVec.ofNat 64 (va % 2 ^ 57 + 2 ^ 63) ∧ t.core.ctl.epc = BitVec.ofNat 64 s.core.fetch.pc ∧
      t.core.fetch.pc = s.core.ctl.tvec.toNat ∧ t.core.handler.active = true ∧ t.mem = s.mem ∧
      ∀ c ∈ t.core.copy.cmds, c.id = k.id → c.told = true) ∧
  (∀ (s : State) (code : Nat) (rest : List Nat) (u : Task), s.core.part.halted = false → s.core.bound.fatal = code :: rest → s.task = some u → u.status = 0 →
    u.phase ≠ .over → s.core.part.status ≠ .none →
    (code ≠ 0x148 ∧ code ≠ 0x149 ∧ code ≠ 0x14A ∨ s.contained u = false →
      ∃ t, exec .impreciseFault s = .next t ∧
        (∀ v ∈ t.hm.tasks, v.num = u.num → v.status = 3 ∧ v.cause = code ∧ v.staged = []) ∧
        ∀ c ∈ t.cores, c.part.task = u.num → c.part.status ≠ .none →
          c.part.status ≠ .running ∧ c.copy.cmds = [] ∧ c.mx.queue = [] ∧ c.flight = [] ∧ c.loads = []) ∧
    (∀ k : Card, (code = 0x148 ∨ code = 0x149 ∨ code = 0x14A) → s.contained u = true → s.cardOf u.card = some k →
      k.nrq + 1 ≤ (s.queue k.queue).cfg.maxrq.toNat →
      ∃ t, exec .containedRequeue s = .next t ∧
        (∀ v ∈ t.hm.tasks, v.num = u.num → v.phase = .requeue ∧ v.cores = [] ∧ v.staged = [] ∧ v.saved = []) ∧
        (∃ k' ∈ t.hm.cards, k'.num = k.num ∧ k'.nrq = k.nrq + 1) ∧
        ∀ c ∈ t.cores, c.part.task = u.num → c.part.status = .none)) ∧
  (∀ (s : State) (why d : Nat) (r : Region) (rs : List Region), s.core.bound.rollback = some why → s.core.regions.stack = r :: rs →
    d = rs.length + 1 → (∀ i ∈ s.core.mx.queue, i.depth < d) → s.core.part.halted = false ∨ s.core.bound.byUnit = false →
    s.core.copy.fenced = [] →
    ∀ (old : List Byte) (off : Nat), (s.core.regions.logPos = r.logMark ∧ old = []) ∨
      (s.core.regions.logPos = r.logMark + 8 + padTo8 old.length ∧ old ≠ [] ∧ old.length < 4096 ∧ off < 2 ^ 21 ∧ r.logMark < 2 ^ 21 ∧
        leVal (s.core.spRead r.logMark 8) = off + old.length * 2 ^ 32 ∧ s.core.spRead (r.logMark + 8) old.length = old) →
    ∃ t, exec .rollback s = .next t ∧ t.core.fetch.pc = r.target ∧ t.core.regions.stack = rs ∧ t.core.regions.logPos = r.logMark ∧
      t.core.regions.buf = s.core.regions.buf.filter (fun b => decide (b.depth < d)) ∧ t.core.flight = [] ∧ t.core.loads = [] ∧
      t.core.ctl.rgn = BitVec.ofNat 64 ((d - 1) + d * 2 ^ 3 + why * 2 ^ 6 + 2 ^ 10) ∧ t.core.bound.rollback = none ∧
      (∀ k ∈ t.core.copy.cmds, k.depth < d) ∧ (∀ f ∈ s.core.regions.filled, d ≤ f.1 → (t.core.tileAt f.2).state = .empty) ∧
      t.mem = s.mem ∧ t.core.regs = s.core.regs ∧
      (∀ a, t.core.pool.byte a = if s.core.spBase + off ≤ a ∧ a < s.core.spBase + off + old.length then old.getD (a - (s.core.spBase + off)) 0
        else s.core.pool.byte a))

/-- Gather rows, stream elements, KPEER, command completions and the matrix queue move as their rules say (R54, R56, R57,
R129, R136, R138, R206, R294, R334, R354, R355; log 17: KCOPY's bytes move at COMMAND_COMPLETE; log 25: one element for each
STREAM_DRAIN; log 81: which releases what stands behind a FENCE). A gather address becomes a row with its bytes or its
fault; a read stream fetches its next element and a write stream's oldest leaves for memory, and what stands behind a FENCE
follows; KPEER delivers its bytes to the ring's next slot, outside the accumulator share (log 30), and counts them;
COMMAND_COMPLETE releases tiles, copies a row of KCOPY without poison within the scratchpad, and signals its sync object;
MATRIX_CALL_COMPLETE retires the head call, load or swap, BANK_DRAINED frees a drained bank, DESCRIPTOR_RELOAD installs the
table. Each clause says what else stays. -/
def Obligations.EngineEvents : Prop :=
  ((∀ (s s1 : State) (q : Bool) (g : GatherAddr) (r : List GatherAddr), (if q then s.core.copy.aq1 else s.core.copy.aq0) = g :: r →
     (if q then s.core.copy.dq1 else s.core.copy.dq0).length < 64 → (∀ id ∈ g.after, id ∉ s.core.outstanding) →
     (∀ bs bad, s.readHinted .deck g.addr g.len g.hint.toNat = (s1, .ok (bs, bad)) →
       ∃ t, exec (.gatherRowArrival q) s = .next t ∧ t.mem = s1.mem ∧ t.core.regs = s1.core.regs ∧
         (if q then t.core.copy.aq1 else t.core.copy.aq0) = r ∧
         (if q then t.core.copy.dq1 else t.core.copy.dq0) = (if q then s1.core.copy.dq1 else s1.core.copy.dq0) ++ [⟨g, bs, none, bad⟩]) ∧
     (∀ code va, s.readHinted .deck g.addr g.len g.hint.toNat = (s1, .error (.trans code va)) →
       ∃ t, exec (.gatherRowArrival q) s = .next t ∧ (if q then t.core.copy.aq1 else t.core.copy.aq0) = r ∧
         (if q then t.core.copy.dq1 else t.core.copy.dq0) =
           (if q then s1.core.copy.dq1 else s1.core.copy.dq0) ++ [⟨g, [], some (code, g.addr), false⟩])) ∧
   (∀ (s : State) (w : BitVec 3) (x : Stream) (b : StreamBind), x = s.core.stream w → x.bind = some b → b.write = false → x.stop = none →
     x.fifo.length < 8 * s.core.rf → x.moved < b.total → (∀ cls, s.core.fenced cls = []) →
     (∀ n ∈ x.after, n ∉ s.core.outstanding) →
     (b.padded x.moved = true → exec (.streamFill w) s = .next { s with core := s.core.setStream w { x with
       moved := x.moved + 1, stop := none, fifo := x.fifo ++ [⟨b.addr x.moved, b.sp, 0, 0, false, 0, 0, [], b.hint⟩] } }) ∧
     (b.padded x.moved = false → b.sp = true → exec (.streamFill w) s = .next { s with core := s.core.setStream w { x with
       moved := x.moved + 1, stop := none, fifo := x.fifo ++ [⟨b.addr x.moved, true, 0, vOfBytes (s.core.spRead (b.addr x.moved) 256),
         poisonedIn s.core.poison (s.core.spBase + b.addr x.moved) 256, 0, 0, [], b.hint⟩] } }) ∧
     (b.padded x.moved = false → b.sp = false → ∀ s1 s2 ps bs, s.pieces .deck false 257 (b.addr x.moved) 256 = (s1, .ok ps) →
       s1.readPieces ps = (s2, .ok bs) → ∀ u, u = s2.hinted ps b.hint.toNat →
       exec (.streamFill w) s = .next { u with core := u.core.setStream w { x with
         moved := x.moved + 1, stop := none, fifo := x.fifo ++ [⟨b.addr x.moved, false, 0, vOfBytes bs, s2.poisonedAt ps, 0, 0, [], b.hint⟩] } })) ∧
   (∀ (s s1 : State) (w : BitVec 3) (e : StreamElem) (r : List StreamElem), (s.core.stream w).pushed = e :: r → (s.core.stream w).stop = none →
     (∀ n ∈ e.after, n ∉ s.core.outstanding) → (∀ f ∈ s.core.pushes, f.num < e.num → f.meets e = false) → s.core.copy.fenced = [] →
     (e.keep = 0 → ∃ t, exec (.streamDrain w) s = .next t ∧ (t.core.stream w).pushed = r ∧ t.mem = s.mem ∧ t.core.regs = s.core.regs) ∧
     (e.keep = BitVec.allOnes 256 → ∀ p, s.pieces .deck true 257 e.addr 256 = (s1, .ok [p]) → isDevice p.pa = true →
       Safety.performsDirect s1 → e.depth = 0 → p.len = 256 →
       ∃ t, exec (.streamDrain w) s = .next t ∧
         t.mem = s1.mem.write p.pa ((List.range 256).map fun i => BitVec.ofNat 8 (lane 8 i e.data)))) ∧
   (∀ (s : State) (w : BitVec 3), s.core.drainable (s.core.stream w) = false →
     (s.core.fencedReady = true → exec (.streamDrain w) s = .next s.releaseAll) ∧
     (s.core.fencedReady = false → exec (.streamDrain w) s = .refused (.notEnabled "STREAM_DRAIN"))) ∧
   (∀ (s : State) (id n dst : Nat) (k : Command) (x : Cmd) (ref : TileRef) (d : Core) (h : BitVec 4), s.cmd id = some k → k.op = .kpeer x →
     k.sig = false → k.stop = none → k.after = [] → k.srcs = [ref] → dst = k.block.toNat / 2 ^ 8 % 2 ^ 8 →
     h = BitVec.ofNat 4 (k.block.toNat / 2 ^ 16) → n = k.block.toNat / 2 ^ 32 % 2 ^ 21 → s.core.id ≠ dst → s.coreOf dst = some d →
     (d.ring h).n ≠ 0 → (d.tileAt ((d.ring h).slotTile (d.ring h).prod.toNat)).state = .empty →
     d.accTile ((d.ring h).slotTile (d.ring h).prod.toNat) = false →
     n ≤ 16384 * (d.tileAt ((d.ring h).slotTile (d.ring h).prod.toNat)).size.toNat → 0 < n → (s.core.inject.get 3) = none →
     s.core.tilePoison ref (k.block.toNat / 2 ^ 64 % 2 ^ 21) n = false →
     ∃ t d', exec (.kpeerArrival id) s = .next t ∧ t.mem = s.mem ∧ t.core.regs = s.core.regs ∧ d' ∈ t.rest ∧ d'.id = dst ∧
       (d'.ring h).prod = (d.ring h).prod + 1 ∧ (d'.ring h).kbar = (d.ring h).kbar + 1 ∧
       (d'.tileAt ((d.ring h).slotTile (d.ring h).prod.toNat)).state = .ready ∧
       d'.pool = d.pool.write (16384 * (d.tileAt ((d.ring h).slotTile (d.ring h).prod.toNat)).base.toNat)
         (s.core.pool.read (16384 * ref.base + k.block.toNat / 2 ^ 64 % 2 ^ 21) n) ∧
       ∀ c ∈ t.core.copy.cmds, c.id = id → c.sig = true) ∧
   (∀ (s : State) (id : Nat) (k : Command), s.cmd id = some k → k.stop = none → k.after = [] → s.core.part.status = .running →
     s.core.part.scan = 0 → k.so = 0 →
     (k.sig = true → k.waits = [] → (∀ r ∈ k.dsts, r.idx < 64) → (∀ n ∈ k.cons, n < 64) →
       ∃ t, exec (.commandComplete id) s = .next t ∧ (∀ c ∈ t.core.copy.cmds, c.id ≠ id) ∧ t.mem = s.mem ∧ t.core.pool = s.core.pool ∧
         (∀ n, n < 64 → (t.core.tileAt n).state =
           if n ∈ k.cons ∧ (s.core.tileAt n).state = .draining then .empty
           else if (s.core.tileAt n).state = .filling ∧ (∃ r ∈ k.dsts, r.idx = n) then .ready else (s.core.tileAt n).state)) ∧
     (k.sig = false → k.waits = [] → k.prog = 0 → (∃ x, k.op = .kcopy x) → k.cons = [] → k.dsts = [] →
       ∀ cb : CopyBlock, cb = copyBlock k.block.toNat → cb.skind = 1 → cb.dkind = 1 → cb.rows = 1 → cb.bucket = false →
         0 < cb.len → cb.len ≤ 4096 → poisonedIn s.core.poison (s.core.spBase + cb.src) cb.len = false →
         ∃ t, exec (.commandComplete id) s = .next t ∧ (∀ c ∈ t.core.copy.cmds, c.id ≠ id) ∧ t.mem = s.mem ∧
           t.core.regs = s.core.regs ∧ t.core.pool = s.core.pool.write (s.core.spBase + cb.dst) (s.core.spRead cb.src cb.len))) ∧
   (∀ (s f : State) (id : Nat) (k : Command) (p : Piece) (o : SyncObj), s.cmd id = some k → k.stop = none → k.after = [] →
     s.core.part.status = .running → s.core.part.scan = 0 → k.sig = true → k.waits = [] → k.rel = false → k.so ≠ 0 →
     (∀ r ∈ s.core.sync.rels, r.num ∉ k.rels) →
     (s.onCore fun c => c.mapCmd k.id fun x => { x with sig := true }).syncPiece k.so.toNat 0 = (f, .ok p) → p.x.w = true →
     isDevice p.pa = true → p.x.bond = false → p.len = 64 → Safety.seesMemory f → f.windows = [] → f.poisonedAt [p] = false →
     o = syncOf (leVal (f.mem.read p.pa 64)) → o.mode = 1 ∨ o.mode = 2 ∨ (o.mode = 0 ∧ o.aux = 0) →
     ∃ t, exec (.commandComplete id) s = .next t ∧ (∀ c ∈ t.core.copy.cmds, c.id ≠ id) ∧
       t.mem = f.mem.write p.pa (Safety.objBytes (Safety.objRaised o false)))) ∧
  ((∀ (s : State) (r : List MxItem), s.core.mx.stop = none → s.core.part.scan = 0 →
     (∀ k run, s.core.mx.queue = .call k :: r → s.core.mx.run = some run → run.done = true →
       ∃ t, exec .matrixCallComplete s = .next t ∧ t.core.mx = { s.core.mx with queue := r, run := none } ∧
         t.core.pool = s.core.pool ∧ t.mem = s.mem ∧ t.core.regs = s.core.regs ∧
         ∀ n, n < 64 → k.tile.idx < 64 → (t.core.tileAt n).state =
           if n = k.tile.idx ∧ k.flags.getLsbD 0 = true ∧ (s.core.tileAt n).state = .filling then .ready
           else if n = k.tile.idx ∧ k.flags.getLsbD 0 = false ∧ k.flags.getLsbD 1 = true then .empty else (s.core.tileAt n).state) ∧
     (∀ n ws d, s.core.mx.queue = .mload n ws d :: r →
       ∃ t, exec .matrixCallComplete s = .next t ∧ t.core.mx = { s.core.mx with queue := r, run := none, store := t.core.mx.store } ∧
         ((t.core.mx.store.find? fun p => p.1 == n) = some (n, ws)) ∧
         ∀ m, m ≠ n → (t.core.mx.store.find? fun p => p.1 == m) = s.core.mx.store.find? fun p => p.1 == m) ∧
     (∀ d load, s.core.mx.queue = .mswap d :: r → load = (match s.core.mx.active with | some b => !b | none => false) →
       (s.core.mx.bank load).state ≠ .draining →
       ∃ t, exec .matrixCallComplete s = .next t ∧ t.core.mx.queue = r ∧ t.core.mx.active = some load ∧
         t.core.mx.bank load = { s.core.mx.bank load with state := .active } ∧ t.core.pool = s.core.pool ∧ t.mem = s.mem) ∧
     (∀ k run, s.core.mx.queue = .call k :: r → s.core.mx.run = some run → run.done = false →
       exec .matrixCallComplete s = .refused (.notEnabled "MATRIX_CALL_COMPLETE"))) ∧
   (∀ (s : State) (b : Bool), (s.core.mx.bank b).state = .draining → (s.core.mx.bank (!b)).state ≠ .draining →
     ∃ t, exec .bankDrained s = .next t ∧ t.core.mx.bank b = { s.core.mx.bank b with state := .idle, rows := false } ∧
       t.core.mx.bank (!b) = s.core.mx.bank (!b) ∧ t.core.regs = s.core.regs ∧ t.core.pool = s.core.pool ∧ t.mem = s.mem) ∧
   (∀ (s : State) (w : Word) (tab : Vector (BitVec 512) 256) (after : List Nat), s.core.mx.stop = none →
     s.core.mx.queue = [.reload w (some tab) [] after] →
     exec .descriptorReload s = .next { s with core := { s.core with mx := { s.core.mx with queue := [], descs := tab } } }))

/-- Doorbells, record reads and launch packets consume records by stamp or fault their queue (R179, R236, R237, R238, R241).
A doorbell sets prod, or disables the queue when it overruns the ring. A record whose stamp is the next is consumed: seq and
the consumed count rise by 1 and the count is written at consa; another stamp is read again up to eight times and then
disables the queue, as does an address the Harbourmaster does not reach. A launch packet with a wrong key, source or stamp
window is counted and changes no queue; one ahead of its turn is held; the next one is consumed; a duplicate by its packet
number is discarded (R179). -/
def Obligations.QueueEvents : Prop :=
  (∀ (s : State) (q : Nat) (prod : BitVec 32) (x : Queue), q < 64 → x = s.queue q →
    (x.cfg.src ≠ 1 ∨ (prod - x.consumed).toNat ≤ 2 ^ x.cfg.lsize.toNat →
      ∃ t, exec (.queueDoorbell q prod) s = .next t ∧ t.queue q = { x with prod := prod } ∧ (∀ j, j ≠ q → t.queue j = s.queue j) ∧
        t.mem = s.mem ∧ t.cores = s.cores) ∧
    (x.cfg.src = 1 → 2 ^ x.cfg.lsize.toNat < (prod - x.consumed).toNat →
      ∃ t, exec (.queueDoorbell q prod) s = .next t ∧ (t.queue q).cfg = { x.cfg with src := 0 } ∧ (t.queue q).prod = prod)) ∧
  (∀ (s : State) (q pa : Nat) (x : Queue) (i : Instr), q < 64 → s.mayConsume = true → s.hm.launches = [] → x = s.queue q → x.cfg.src = 1 → x.prod ≠ x.consumed →
    pa = x.cfg.rbase.toNat + 128 * (x.cfg.seq.toNat % 2 ^ x.cfg.lsize.toNat) →
    i = (if x.rereads = 0 then .recordRead q else .recordReread q) →
    (2 ^ x.cfg.lsize.toNat < (x.prod - x.consumed).toNat → ∃ t, exec i s = .next t ∧ (t.queue q).cfg = { x.cfg with src := 0 }) ∧
    ((x.prod - x.consumed).toNat ≤ 2 ^ x.cfg.lsize.toNat →
    (ringReaches pa = true → leVal ((s.mem.read pa 128).drop 124) = x.cfg.seq.toNat → (∀ j, j < 4 → ringReaches (x.cfg.consa.toNat + j) = true) →
      poisonedIn s.poison pa 128 = false →
      ∃ t, exec i s = .next t ∧ (t.queue q).cfg = { x.cfg with seq := x.cfg.seq + 1 } ∧ (t.queue q).consumed = x.consumed + 1 ∧
        (t.queue q).rereads = 0 ∧
        ∀ j, j < 4 → t.mem.byte (x.cfg.consa.toNat + j) = BitVec.ofNat 8 ((x.consumed + 1).toNat / 256 ^ j)) ∧
    (ringReaches pa = true → leVal ((s.mem.read pa 128).drop 124) ≠ x.cfg.seq.toNat → x.rereads < 8 →
      ∃ t, exec i s = .next t ∧ t.queue q = { x with rereads := x.rereads + 1 } ∧ t.mem = s.mem) ∧
    (ringReaches pa = true → leVal ((s.mem.read pa 128).drop 124) ≠ x.cfg.seq.toNat → 8 ≤ x.rereads →
      ∃ t, exec i s = .next t ∧ (t.queue q).cfg = { x.cfg with src := 0 }) ∧
    (ringReaches pa = false → ∃ t, exec i s = .next t ∧ (t.queue q).cfg = { x.cfg with src := 0 }))) ∧
  (∀ (s : State) (p : LaunchPkt) (q : Nat) (x : Queue) (stamp : BitVec 32), q = p.tag.toNat % 64 → x = s.queue q →
    stamp = BitVec.ofNat 32 (leVal (p.record.drop 124)) → s.pilot.recovery = false →
    ((p.src, p.psn) ∈ s.ferry.seen → exec (.launchPacket p) s = .next s.wake) ∧
    ((p.src, p.psn) ∉ s.ferry.seen → (p.key ∈ s.ferry.revoked ∨ x.cfg.src ≠ 2 ∨ p.key ≠ x.cfg.key ∨ 64 ≤ (stamp - x.cfg.seq).toNat →
      ∃ t, exec (.launchPacket p) s = .next t ∧ t.ferry.keyErrors = s.ferry.keyErrors + 1 ∧ t.hm.queues = s.hm.queues ∧
        t.hm.cards = s.hm.cards ∧ t.hm.tasks = s.hm.tasks) ∧
    (p.key ∉ s.ferry.revoked → x.cfg.src = 2 → p.key = x.cfg.key → (stamp - x.cfg.seq).toNat < 64 → (∀ h ∈ x.held, h.1 ≠ stamp) →
      (stamp ≠ x.cfg.seq → (∀ h ∈ x.held, h.1 ≠ x.cfg.seq) →
        ∃ t, exec (.launchPacket p) s = .next t ∧ t.queue q = { x with held := x.held ++ [(stamp, p.record.take 128)] } ∧ t.mem = s.mem) ∧
      (stamp = x.cfg.seq → s.poolFull = false → s.canNumber = true →
        ∃ t, exec (.launchPacket p) s = .next t ∧ (t.queue q).cfg = { x.cfg with seq := x.cfg.seq + 1 } ∧ (t.queue q).held = x.held ∧
          (t.queue q).consumed = x.consumed + 1))))

/-- Tasks are placed, loaded, pre-empted, restored, expired, ended and recorded as the Harbourmaster's rules say (R23, R24,
R42, R66, R240, R243 to R245, R249, R252, R277 to R279; log 4: bank 0 holds the image and zeros). DISPATCH places the first
ready task or restores a pre-empted one (stated for loads that have not faulted and a part that has not ended);
CODE_IMAGE_LOAD starts every core of the berth at the entry with the launch state, or ends the task FAULTED when the image
cannot be read; pre-emption saves the stopped cores and frees them; a late card past its deadline expires; the last core to
end its part gives the task's status; the completion record is written and the card leaves; an exhausted budget stops the
task for a snapshot; POOL_CLEAR_DONE zeroes the pool; EVENT_CONSUMER_WRITE sets the count. The time in the record is the
model's clock (log 2). -/
def Obligations.TaskEvents : Prop :=
  (∀ (s : State) (c : Card) (u : Task), s.canNumber = true → s.firstReady = some (c, u) → c.ragged = false →
    (∀ l, u.phase = .pooled → placeBerth c.berth s.freeCores = some l → s.resident c = none →
      ∃ t, exec .dispatch s = .next t ∧ t.mem = s.mem ∧ ∀ v ∈ t.hm.tasks, v.num = u.num → v.phase = .loading ∧ v.cores = l) ∧
    (u.phase = .preempted → (∀ n ∈ u.cores, n ∈ s.freeCores) → (∀ k ∈ u.saved, ∀ l ∈ k.loads, l.fault = none) →
      (∃ c ∈ s.cores, ∃ k, u.saved.find? (fun k => k.id == c.id) = some k ∧ k.part.status = .saved ∧ k.part.task = u.num) →
      ∃ t, exec .dispatch s = .next t ∧ t.mem = s.mem ∧ (∀ v ∈ t.hm.tasks, v.num = u.num → v.phase = .running ∧ v.saved = []) ∧
        ∀ c ∈ s.cores, ∀ k, u.saved.find? (fun k => k.id == c.id) = some k → k.restored ∈ t.cores)) ∧
  (∀ (s s1 : State) (n : Nat) (u : Task) (c : Card), s.taskOf n = some u → s.cardOf u.card = some c → u.phase = .loading → c.bits 256 256 = 0 →
    (∀ e, s.hmRead ⟨u.root, u.key, none⟩ (c.bits 56 0) 64 = (s1, .error e) →
      ∃ t, exec (.codeImageLoad n) s = .next t ∧ ∀ v ∈ t.hm.tasks, v.num = n → v.phase = .over ∧ v.status = 3) ∧
    (∀ s2 head h body im entry, s.hmRead ⟨u.root, u.key, none⟩ (c.bits 56 0) 64 = (s1, .ok head) → imageHead head = some h →
      s1.hmRead ⟨u.root, u.key, none⟩ (c.bits 56 0 + 64) h.body = (s2, .ok body) → s2.untranslatable head = false →
      expandImage (head ++ body) true = some im → launchEntry c (head ++ body) im = some entry → u.cores.Nodup →
      ∃ t, exec (.codeImageLoad n) s = .next t ∧ t.mem = s2.mem ∧ (∀ v ∈ t.hm.tasks, v.num = n → v.phase = .running) ∧
        ∀ k ∈ s2.cores, k.id ∈ u.cores → ∃ k' ∈ t.cores, k'.id = k.id ∧ k'.fetch.pc = 16 * entry ∧ k'.fetch.bank0 = Mem.write [] 0 im.bytes ∧
          k'.fetch.ibank = false ∧ k'.part.status = .running ∧ k'.part.task = n ∧ k'.regs = Regs.reset ∧ k'.flight = [] ∧
          k'.ctl.task = u.tid ∧ k'.ctl.part = BitVec.ofNat 64 c.partWord)) ∧
  (∀ s : State, s.core.bound.preempt = true → s.core.part.status = .running → s.core.loads = [] → s.beforePreemption = false →
    exec .corePreemptStop s = .next { s with core := { s.core with part := { s.core.part with status := .saved } } }) ∧
  (∀ (s : State) (n : Nat) (u : Task) (mine : List Core), s.taskOf n = some u → u.phase = .stopping → u.status = 0 → s.allEnded n = false →
    mine = (s.cores.filter fun c => c.part.task == n && c.part.status != .none) →
    (∀ c ∈ mine, c.part.status ≠ .running ∧ c.part.status ≠ .scanning ∧ c.sync.rels = [] ∧
      ∀ k ∈ c.copy.cmds, k.runsOut = true → c.commandReady k = false) → s.hm.snapWait = [] →
    ∃ t, exec (.preemptionComplete n) s = .next t ∧ t.mem = s.mem ∧
      (∀ v ∈ t.hm.tasks, v.num = n → v.phase = .preempted ∧ v.saved = mine) ∧ ∀ c ∈ t.cores, c.part.task = n → c.part.status = .none) ∧
  (∀ (s : State) (k : Nat) (c : Card) (u : Task), s.cardOf k = some c → c.late = true → c.noDeadline = false → c.deadline < s.time →
    u ∈ s.hm.tasks → u.card = k → u.phase = .pooled →
    ∃ t, exec (.cardExpire k) s = .next t ∧ t.mem = s.mem ∧ (∀ v ∈ t.hm.tasks, v.card = k → v.phase ≠ .pooled) ∧
      ∃ c' ∈ t.hm.cards, c'.num = k ∧ (c.status = 0 → c'.status = 4)) ∧
  (∀ (s : State) (a : Bool) (e : State), s.core.part.status = .ending a → s.core.finished = true →
    e = ({ s with core := { s.core with part := { s.core.part with status := .ended a, clean := false } } } : State).joinEnded →
    (s.taskOf s.core.part.task = none ∨ e.allEnded s.core.part.task = false → exec .corePartEnd s = .next e) ∧
    (∀ u, s.taskOf s.core.part.task = some u → e.allEnded s.core.part.task = true → u.phase = .running →
      ∃ t, exec .corePartEnd s = .next t ∧ ∀ v ∈ t.hm.tasks, v.num = u.num → v.phase = .over ∧ v.status =
        (if u.status ≠ 0 then u.status
         else if ∃ c ∈ e.cores, c.part.task = u.num ∧ c.part.status = .ended true then 2 else 1))) ∧
  (∀ (s s1 e : State) (k : Nat) (c : Card), s.cardOf k = some c → c.closed = true → s.canNumber = true → c.cso = 0 →
    e = s.number ⟨1, c.queue, c.taskId 0, BitVec.ofNat 64 c.cpl⟩ →
    e.hmWrite (s.hmFor c) c.cpl (toBytes 32 (c.status + c.sub % 256 * 2 ^ 8 + (if c.unc then 2 ^ 16 else 0) +
      min c.nrq 255 * 2 ^ 24 + c.acode.toNat * 2 ^ 32 + (c.taskId 0).toNat * 2 ^ 64 + s.clock / 36 % 2 ^ 64 * 2 ^ 128 +
      c.cause % 2 ^ 16 * 2 ^ 192)) = (s1, none) →
    ∃ t, exec (.completionRecordWrite k) s = .next t ∧ t.mem = s1.mem ∧ (∀ c' ∈ t.hm.cards, c'.num ≠ k) ∧ ∀ v ∈ t.hm.tasks, v.card ≠ k) ∧
  (∀ (s : State) (u : Task), s.task = some u → u.phase = .running → s.core.ctl.wbudget = 0 → s.core.part.status = .running →
    ∃ t, exec .waitingBudgetExhausted s = .next t ∧ t.mem = s.mem ∧ t.hm.snapWait = s.hm.snapWait ++ [(u.num, s.core.id)] ∧
      (∀ v ∈ t.hm.tasks, v.num = u.num → v.phase = .stopping) ∧ ∀ c ∈ t.cores, c.part.task = u.num → c.bound.preempt = true) ∧
  (∀ (s : State), s.core.part.status = .none → s.core.part.clean = false →
    exec .poolClearDone s = .next { s with core := { s.core with pool := [], poison := [], part := { s.core.part with clean := true } } }) ∧
  (∀ (s : State) (n : BitVec 64), s.hm.backlog = [] → s.hm.waiting = [] → s.hm.snapWait = [] → s.hm.lost = 0 →
    exec (.eventConsumerWrite n) s = .next { s with hm := { s.hm with consumer := n.toNat } })

/-- Promotions, write-backs, window fading, reclaim and the memory controllers follow their rules (R158, R167, R223, R224,
R248; log 75: sixteen controllers, 8 to 15 one for each Quay; log 5: ticks counted from time 0). PROMOTION_COMPLETE
validates the way unless abandoned; WRITE_BACK_ARRIVAL writes the row home; RECLAIM_DECREMENT takes one queued decrement and
lets a line at its last count die; LINE_FREE frees a dead line and queues its children; WINDOW_FADE_TICK counts a window
down and releases it at 0; MEMORY_REQUEST_SERVE serves a pending class of the greatest accumulator, lowest number first, and
updates the accumulators within their bounds. -/
def Obligations.MemorySystemEvents : Prop :=
  (∀ (s : State) (k : Nat) (p : Promotion), s.hot.promos[k]? = some p →
    exec (.promotionComplete k) s = .next { s with hot := { s.hot with
      promos := s.hot.promos.eraseIdx k
      ways := if p.dead then s.hot.ways else ⟨p.set, p.way, p.key, false, p.home, p.quay, p.group, p.data, p.bad⟩ :: s.hot.ways } }) ∧
  (∀ (s : State) (k a : Nat) (w : Way), s.hot.backs[k]? = some w → w.data ≠ [] → w.home = [(a, w.data.length)] →
    ∃ t, exec (.writeBackArrival k) s = .next t ∧ t.mem = s.mem.write a w.data ∧ (∀ x ∈ t.hot.backs, x.key ≠ w.key) ∧
      t.hot.ways = s.hot.ways) ∧
  (∀ (s : State) (n region : Nat) (mark : BitVec 128) (q : Quay) (r : List (Nat × BitVec 128)) (h : n < 8), q = s.quays.get ⟨n, h⟩ →
    q.queue = (region, mark) :: r →
    ∃ t, exec (.reclaimDecrement n) s = .next t ∧ t.quays.get ⟨n, h⟩ = { q with queue := r } ∧ t.mem = s.mem ∧
      t.bond.lines = s.bond.lines.map fun l =>
        if l.region = region ∧ l.mark = mark ∧ l.dying = false ∧ l.count ≠ 0xFFFFFF then
          (if l.count ≤ 1 then { l with count := 0, dying := true, since := s.hm.nextNum } else { l with count := l.count - 1 })
        else l) ∧
  (∀ (s : State) (region : Nat) (mark : BitVec 128) (l : Line), s.line region mark.toNat = some l → l.dying = true →
    (∀ c ∈ s.cores ++ s.hm.tasks.flatMap (·.saved), ∀ k ∈ c.copy.cmds, isBondOp k.op = true → l.since ≤ k.id) →
    ∃ t, exec (.lineFree region mark) s = .next t ∧ t.mem = s.mem ∧
      t.bond.lines = s.bond.lines.filter (fun x => !(x.region == region && x.mark == mark)) ∧
      (l.interior = false → t.quays = s.quays) ∧
      (l.interior = true → ∀ c : Nat, c < 8 → ∀ m : Nat, m = leVal ((l.data.drop (16 * c)).take 16) → m ≠ 0 →
        ∃ q : Fin 8, q.val = m / 2 ^ 8 % 8 ∧ (region, BitVec.ofNat 128 m) ∈ (t.quays.get q).queue)) ∧
  (∀ s : State, s.clock / 36 / 1000000 ≤ s.fades → exec .windowFadeTick s = .refused (.notEnabled "WINDOW_FADE_TICK")) ∧
  (∀ (s : State) (w : Window) (n : Nat), s.fades < s.clock / 36 / 1000000 → s.windows = [w] → n = (if w.hit then w.fade else w.count - 1) →
    (n ≠ 0 → exec .windowFadeTick s = .next { s with fades := s.fades + 1, windows := [{ w with count := n, hit := false }] }) ∧
    (n = 0 → ∃ t, exec .windowFadeTick s = .next t ∧ t.windows = [])) ∧
  (∀ (s : State) (ctrl : Fin 16) (pending : List (Requester × Nat)) (shares : Vector Nat 16), pending ≠ [] →
    shares = (if ctrl.val < 8 then s.pilot.hbm else s.pilot.lpddr) →
    ∃ (t : State) (c : Fin 16) (b : Nat), exec (.memoryRequestServe ctrl pending) s = .next t ∧
      (∃ r, (r, b) ∈ pending ∧ s.requestClass r = c.val) ∧
      (∀ p ∈ pending, ∀ d : Fin 16, s.requestClass p.1 = d.val → (s.ctrls.get ctrl).get d < (s.ctrls.get ctrl).get c ∨
        ((s.ctrls.get ctrl).get d = (s.ctrls.get ctrl).get c ∧ c.val ≤ d.val)) ∧
      (∀ i : Fin 16, (t.ctrls.get ctrl).get i =
        (if i = c then Max.max (Min.min ((s.ctrls.get ctrl).get i + (shares.get i * b : Nat)) (64 * 16384) - 64 * b) (-(64 * 16384))
         else Min.min ((s.ctrls.get ctrl).get i + (shares.get i * b : Nat)) (64 * 16384))) ∧
      (∀ j : Fin 16, j ≠ ctrl → t.ctrls.get j = s.ctrls.get j) ∧ t = { s with ctrls := t.ctrls }) ∧
  (∀ s : State, s.requestClass .host = 0 ∧ s.requestClass .pilot = 0 ∧ s.requestClass .bond = 0 ∧
    ∀ (u : Task) (c : Card), s.hm.tasks.find? (fun v => v.num == u.num) = some u → s.cardOf u.card = some c →
      s.requestClass (.task u.num) = c.raw.toNat / 2 ^ 272 % 16)

/-- Messages of exchanges, markers, revocations, remote accesses, barriers and path failures are handled as ruled (R180 to
R186, R188, R190, R208, R209, R446; log 66: a joined instance stands open and uses up the arrivals it has). An unmatched
count is kept and an unmatched payload held; a revoked key is counted and dropped; a matched count, payload or contribution
is recorded at its position, a payload written where its source's offset puts it. Acknowledgements, refusal reports,
complete marker sets and flush acknowledgements update what waits on them. A revocation fences every exchange of the key. A
remote access with a listed key is performed, another dropped. A joined arrival is recorded, or counts at the instance that
waits for it (log 66); a failed path's packets are sent again. A duplicate by its packet number is discarded. Header values,
second counts and paths are the model's (log 50 to 52 and 83 to 86). -/
def Obligations.FabricMessages : Prop :=
  (∀ (s : State) (p : XPkt), (p.module, p.psn) ∈ s.ferry.seen →
    exec (.countMessage p) s = .next s ∧ exec (.payloadMessage p) s = .next s ∧ exec (.fredContribution p) s = .next s ∧
      ∀ group inst, exec (.fabricBarrierArrival group ⟨p.module, p.psn⟩ inst) s = .next s) ∧
  (∀ (s : State) (p : XPkt) (seen : List (Nat × Nat)), s.pilot.recovery = false → (p.module, p.psn) ∉ s.ferry.seen →
    seen = (p.module, p.psn) :: s.ferry.seen →
    (p.key ∉ s.ferry.revoked → s.takers p = [] → s.savedTaker p = none →
      exec (.countMessage p) s = .next { s with ferry := { s.ferry with seen := seen, keptCount := s.ferry.keptCount ++ [p] } } ∧
      (p.module ≠ s.ferry.addr → ∀ f g : Ferry, f = { s.ferry with seen := seen, held := s.ferry.held ++ [p] } →
        g = { f with
          psn := f.psn + 1
          sent := f.sent ++ [.refusal p.module (f.header p.module p.key p.dest p.tag (BitVec.ofNat 32 p.seq)) ⟨p.tag, p.sender, p.dest, 0, 0, 0, 0⟩] } →
        exec (.payloadMessage p) s = .next { s with ferry := g } ∧ exec (.fredContribution p) s = .next { s with ferry := g })) ∧
    (p.key ∈ s.ferry.revoked →
      (∃ t, exec (.payloadMessage p) s = .next t ∧ t.ferry.keyErrors = s.ferry.keyErrors + 1 ∧ t.ferry.held = s.ferry.held ∧
        t.cores.map (·.pool) = s.cores.map (·.pool)) ∧
      ∃ t, exec (.fredContribution p) s = .next t ∧ t.ferry.keyErrors = s.ferry.keyErrors + 1)) ∧
  (∀ (s : State) (p : XPkt) (id : Nat) (k : Command) (x : Exchange) (ref : TileRef), s.pilot.recovery = false →
    (p.module, p.psn) ∉ s.ferry.seen → p.key ∉ s.ferry.revoked → p.core = s.core.id →
    s.takers p = [id] → s.cmd id = some k → k.fx = some x → p.src < x.table.length → p.key = (x.peer p.src).2.2 → x.disagrees p = false →
    p.module ≠ s.ferry.addr → k.stop = none → s.core.inject.get 3 = none →
    (x.red = false → s.ferry.held = [] → ref = k.dsts.getD 1 ⟨0, 0, 0⟩ → x.counts.getD p.src none = none →
      (∀ n, (x.setCount p.src (leVal (p.entries.getD 0 []))).total = some n → n ≤ 2 ^ 24) →
      ∃ t, exec (.countMessage p) s = .next t ∧ t.mem = s.mem ∧
        t.core.pool = s.core.pool.write (16384 * ref.base + 4 * p.src) (toBytes 4 (leVal (p.entries.getD 0 []))) ∧
        (∀ c ∈ t.core.copy.cmds, c.id = id → c.fx = some { x with counts := x.counts.set p.src (some (leVal (p.entries.getD 0 []))) })) ∧
    (x.red = false → ∀ (e : List Byte) (n cnt first : Nat), p.entries = [e] → x.total = some n →
      x.counts.getD p.src none = some cnt → x.gotFrom p.src + 1 ≤ cnt → p.seq + 1 ≤ cnt → (p.last = true → p.seq + 1 = cnt) →
      first = x.offOf p.src + p.seq → first < x.capw → e.length = x.esz → 0 < x.esz → ref = k.dsts.getD 0 ⟨0, 0, 0⟩ →
      ∃ t, exec (.payloadMessage p) s = .next t ∧ t.mem = s.mem ∧ t.core.pool = s.core.pool.write (16384 * ref.base + first * x.esz) e ∧
        t.ferry.held = s.ferry.held) ∧
    (x.red = true → (∀ q ∈ x.parts, q.1 ≠ p.src) → p.seq + p.entries.length ≤ x.esz →
      (p.last = true → p.seq + p.entries.length = x.esz) →
      ∃ t, exec (.fredContribution p) s = .next t ∧ t.mem = s.mem ∧ t.core.pool = s.core.pool ∧
        ∀ c ∈ t.core.copy.cmds, c.id = id → c.fx = some { x with parts := (p.src, p.seq, p.entries) :: x.parts })) ∧
  (∀ (s : State) (id : Nat) (c : Core) (x : Exchange), s.sender id = some (c, x) → 1 < x.unacked →
    ∃ t, exec (.payloadAck id) s = .next t ∧ t.mem = s.mem ∧ t.ferry = s.ferry ∧
      ∀ k ∈ t.core.copy.cmds, k.id = id → ∃ k' ∈ s.core.copy.cmds, k'.id = id ∧ k.fx = k'.fx.map fun (y : Exchange) => { y with unacked := y.unacked - 1 }) ∧
  (∀ (s : State) (module psn : Nat) (r : RefusalRpt) (c : Core) (k : Command) (x : Exchange), c ∈ s.cores → c.id = r.core → k ∈ c.copy.cmds →
    k.fx = some x → x.tag = r.tag →
    ((module, psn) ∈ s.ferry.seen → exec (.refusalReport ⟨⟨module, psn⟩, r⟩) s = .next s) ∧
    (s.pilot.recovery = false → (module, psn) ∉ s.ferry.seen →
      ∃ t, exec (.refusalReport ⟨⟨module, psn⟩, r⟩) s = .next t ∧ r ∈ t.ferry.reports ∧ (∀ y ∈ t.ferry.reports, y.core = r.core → y.tag = r.tag → y = r) ∧
        (module, psn) ∈ t.ferry.seen ∧ t.cores = s.cores ∧ t.mem = s.mem)) ∧
  (∀ (s : State) (m : MarkerPkt) (seen : List (Nat × Nat)), s.pilot.recovery = false → (m.module, m.psn) ∉ s.ferry.seen → seen = (m.module, m.psn) :: s.ferry.seen →
    m.key ∉ s.ferry.revoked → (∀ n ∈ s.ferry.markers, sameFlush m n = true ∧ n.paths = m.paths) →
    (s.ferry.markers.length < m.paths.toNat ∨
        (∃ p ∈ s.ferry.held, p.module = m.module ∧ p.key = m.key ∧ ∀ n ∈ m :: s.ferry.markers, p.psn < n.psn) →
      exec (.flushMarker m) s = .next { s with ferry := { s.ferry with seen := seen, markers := s.ferry.markers ++ [m] } }) ∧
    (m.paths.toNat ≤ s.ferry.markers.length → (∀ p ∈ s.ferry.held, p.module ≠ m.module ∨ p.key ≠ m.key) →
      ∀ f : Ferry, f = { s.ferry with seen := seen, markers := [] } →
      exec (.flushMarker m) s = .next { s with ferry := { f with
        psn := f.psn + 1, sent := f.sent ++ [.ack m.module (f.header m.module m.key 0 m.epoch 0) m.epoch] } })) ∧
  (∀ (s : State) (task module : Nat) (epoch : BitVec 32) (r : Release), s.core.part.task = task → r ∈ s.core.sync.rels →
    (module, epoch) ∈ r.waits →
    ∃ t, exec (.flushAck task module epoch) s = .next t ∧ t.mem = s.mem ∧ t.core.sync.rels.length = s.core.sync.rels.length ∧
      ∀ r' ∈ t.core.sync.rels, (module, epoch) ∉ r'.waits) ∧
  (∀ (s : State) (key : BitVec 32), s.ferry.held = [] →
    ∃ t, exec (.revocationNotice key) s = .next t ∧ key ∈ t.ferry.revoked ∧ t.mem = s.mem ∧
      (∀ p ∈ t.ferry.keptCount ++ t.ferry.keptData, p.key ≠ key) ∧
      ∀ c ∈ t.cores, ∀ k ∈ c.copy.cmds, ∀ x, k.fx = some x → ∀ e ∈ x.table, e.2.2 ≠ key) ∧
  (∀ (s : State) (p : RemotePkt) (seen : List (Nat × Nat)), s.pilot.recovery = false → (p.module, p.psn) ∉ s.ferry.seen →
    seen = (p.module, p.psn) :: s.ferry.seen → ∀ f : Ferry, f = { s.ferry with seen := seen } →
    (s.ferry.admits p.group p.key = false → ∃ t, exec (.remoteAccessPacket p) s = .next t ∧ t.ferry.keyErrors = s.ferry.keyErrors + 1) ∧
    (s.ferry.admits p.group p.key = true → s.inSpan p.addr (opSize p.op) = false → isDevice p.addr = true →
      isDevice (p.addr + opSize p.op - 1) = true →
      (∀ bs, p.op = .write bs → bs ≠ [] → ∃ t, exec (.remoteAccessPacket p) s = .next t ∧ t.mem = s.mem.write p.addr bs ∧
        t.ferry = f) ∧
      (poisonedIn s.poison p.addr (opSize p.op) = false →
        (∀ n, p.op = .read n → n ≠ 0 → ∃ t, exec (.remoteAccessPacket p) s = .next t ∧ t.mem = s.mem ∧
          t.ferry = { f with psn := f.psn + 1, sent := f.sent ++ [.reply (f.header p.module p.key p.src p.tag 0) (s.mem.read p.addr n)] }) ∧
        (∀ code wide v n, p.op = .atom code wide v → n = (if wide = true then 8 else 4) → code ≤ 11 →
          ∃ t, exec (.remoteAccessPacket p) s = .next t ∧
            t.mem = s.mem.write p.addr (toBytes n (Safety.atomTable code (8 * n) (leVal (s.mem.read p.addr n)) v.toNat)) ∧
            t.ferry = { f with psn := f.psn + 1, sent := f.sent ++ [.reply (f.header p.module p.key p.src p.tag 0) (s.mem.read p.addr n)] })))) ∧
  (∀ (s : State) (group module inst psn : Nat) (f : Ferry), s.pilot.recovery = false → (module, psn) ∉ s.ferry.seen →
    f = { s.ferry with seen := (module, psn) :: s.ferry.seen } →
    ((∀ c ∈ s.cores, c.part.status = .none ∨ c.fabGroup ≠ some group) → (∀ o ∈ s.ferry.opens, o.group = group → o.inst = inst → module ∉ o.missing) → (group, module, inst) ∉ s.ferry.joined →
      exec (.fabricBarrierArrival group ⟨module, psn⟩ inst) s = .next { s with ferry := { f with joined := (group, module, inst) :: f.joined } }) ∧
    (∀ o r, s.ferry.opens = o :: r → o.group = group → o.inst = inst → module ∈ o.missing →
      exec (.fabricBarrierArrival group ⟨module, psn⟩ inst) s = .next { s with ferry := { f with
        opens := if o.missing.erase module = [] then r else { o with missing := o.missing.erase module } :: r } })) ∧
  (∀ (s : State) (module : Nat) (path newPath : BitVec 4), path ≠ newPath →
    s.ferry.pathDown module path = false → s.ferry.pathDown module newPath = false →
    ∃ t, exec (.pathFailure module path newPath) s = .next t ∧ t.mem = s.mem ∧ t.cores = s.cores ∧
      t.ferry.downPaths = s.ferry.downPaths ++ [(module, path, newPath)] ∧
      ∀ p bs, p.op = .write bs → s.flushCovers module path p = false → Sent.remote module p path ∈ s.ferry.sent →
        Sent.remote module p newPath ∈ t.ferry.sent)

/-- Host reads, writes and AtomicOps reach populated device memory; SPDM requests get their answers (R210 to R212, R281,
R288, R289; log 12: SPDM's codes, fields and order; log 59: a partly populated BAR2 read answers all ones, and an AtomicOp
of an unknown kind is aborted). A BAR2 read answers the bytes with their poison, all ones where nothing is populated; a
write is performed or logged; an AtomicOp on a page with the attribute writes FetchAdd, Swap or CAS and answers the old
value, elsewhere it aborts. In recovery mode BAR2 does not answer. The responder answers version 1.3 and, after negotiation,
digests, the portion of the certificate asked for, signed challenge (refused in vendor-return) and measurements, signed on
request; with the pilot core down nothing answers. Response codes and the contents of certificates are the model's (log 12),
free where the spec gives none. -/
def Obligations.HostAndAttestation : Prop :=
  ((∀ (s : State) (off len pa : Nat), s.pilot.recovery = false → pa = s.host.bar2 + off → 0 < len → off + len ≤ 2 ^ 36 →
     ∃ t, exec (.hostBar2Read off len) s = .next t ∧ t.mem = s.mem ∧ t.cores = s.cores ∧
       t.host = { s.host with replies := s.host.replies ++ [
         if isDevice pa && isDevice (pa + len - 1) then .hostRead pa (s.mem.read pa len) (poisonedIn s.poison pa len)
         else .hostRead pa (List.replicate len 0xFF) false] }) ∧
   (∀ (s : State) (off pa : Nat) (bs : List Byte), s.pilot.recovery = false → pa = s.host.bar2 + off → bs ≠ [] → off + bs.length ≤ 2 ^ 36 →
     ∃ t, exec (.hostBar2Write off bs) s = .next t ∧
       (isDevice pa = true → isDevice (pa + bs.length - 1) = true → t.mem = s.mem.write pa bs ∧ t.host = s.host) ∧
       (isDevice pa = false → t.mem = s.mem ∧ t.host = { s.host with logged := s.host.logged ++ [pa] })) ∧
   (∀ (s : State) (addr n old new : Nat) (op : BitVec 2) (wide : Bool) (operand compare : Word), s.pilot.recovery = false → n = (if wide then 8 else 4) →
     old = leVal (s.mem.read addr n) →
     new = (if op = 0 then (old + operand.toNat) % 256 ^ n else if op = 1 then operand.toNat % 256 ^ n
       else if old = compare.toNat % 256 ^ n then operand.toNat % 256 ^ n else old) →
     ∃ t, exec (.hostAtomicop addr op wide operand compare) s = .next t ∧
       (isDevice addr = true → isDevice (addr + n - 1) = true → addr % n = 0 → addr / 65536 ∈ s.host.attr → op ≠ 3 →
         t.mem = s.mem.write addr (toBytes n new) ∧
         t.host = { s.host with replies := s.host.replies ++ [.atomicOld addr (BitVec.ofNat 64 old) (poisonedIn s.poison addr n)] }) ∧
       (addr / 65536 ∉ s.host.attr → t.mem = s.mem ∧
         t.host = { s.host with logged := s.host.logged ++ [addr], replies := s.host.replies ++ [.completerAbort addr] })) ∧
   (∀ (s : State) (off len : Nat), s.pilot.recovery = true → 0 < len → off + len ≤ 2 ^ 36 → exec (.hostBar2Read off len) s = .next s)) ∧
  (∀ (s : State), s.pilot.recovery = false →
     (s.pilot.down = true → exec .getVersion s = .next s ∧ exec .getCapabilities s = .next s ∧ exec .getDigests s = .next s) ∧
     (s.pilot.down = false → ∀ (r : SpdmReq),
       (∃ t, exec .getVersion s = .next t ∧ Safety.responded s 0x04 [0x00, 0x13] t ∧ t.pilot = { s.pilot with negotiated := false }) ∧
       (∃ t bs, exec .getCapabilities s = .next t ∧ Safety.responded s 0x61 bs t ∧ t.pilot = s.pilot) ∧
       (∃ t bs, exec (.negotiateAlgorithms true) s = .next t ∧ Safety.responded s 0x63 bs t ∧ t.pilot = { s.pilot with negotiated := true }) ∧
       (∃ t bs, exec (.negotiateAlgorithms false) s = .next t ∧ Safety.responded s 0x7F bs t ∧ t.pilot = s.pilot) ∧
       (s.pilot.negotiated = true →
         (∃ t, exec .getDigests s = .next t ∧ Safety.responded s 0x01 (0x01 :: sha512 (Config.certificate 0)) t ∧ t.pilot = s.pilot) ∧
         (∀ part rest : List Byte, r.slot = 0 → r.offset ≤ (Config.certificate 0).length → part = ((Config.certificate 0).drop r.offset).take r.length →
           rest = (Config.certificate 0).drop (r.offset + part.length) →
           ∃ t, exec (.getCertificate r) s = .next t ∧ t.pilot = s.pilot ∧
             Safety.responded s 0x02 (toBytes 2 part.length ++ toBytes 2 rest.length ++ part) t) ∧
         (r.slot = 0 → s.pilot.security ≠ .vendorReturn →
           ∃ t, exec (.challenge r) s = .next t ∧ Safety.responded s 0x03 (Config.spdmSign (r.nonce ++ sha512 (Config.certificate 0))) t ∧ t.pilot = s.pilot) ∧
         (∀ bs : List Byte, (r.index = 0 ∧ bs = [6]) ∨ (1 ≤ r.index ∧ r.index ≤ 6 ∧ bs = s.measurement r.index) →
           ∃ t, exec (.getMeasurements r) s = .next t ∧ t.pilot = s.pilot ∧ Safety.responded s 0x60
             (if r.sign then bs ++ (r.nonce ++ Config.spdmSign (r.nonce ++ bs)) else bs) t)) ∧
       (s.pilot.security = .vendorReturn → ∃ t bs, exec (.challenge r) s = .next t ∧ Safety.responded s 0x7F bs t ∧ t.pilot = s.pilot)))

/-- Each management message is applied and answered, or answered with an error and changes nothing (R17, R18, R210, R217,
R236, R249, R252, R283, R286, R289, R293; log 53, 54: what a region entry and a queue configuration must satisfy; log 72:
the error counts; log 73: the fuse; log 74: the forms of message 0x0A; log 76: when a region is in use). While the pilot
core answers: queue configurations, region entries, shares, power cap, C3 entry, hot-row cache, snapshot restore and retire,
maps, scan log, error counts, host attributes, event ring, debug tokens, firmware staging and overflow enlargement, each in
the case where the rules accept it and for several where they do not; an unknown code is an error. One answer and one
interrupt each (log 55, 56 and 59 name the model's choices). -/
def Obligations.ManagementMessages : Prop :=
  ∀ (s : State), s.pilot.down = false →
    (∀ (q : Nat) (c : QueueConfig), q < 64 →
      ((s.queue q).cfg.src = 0 → configLegal c = true → s.pilot.recovery = false →
        ∃ t, exec (.mgmtQueueConfig q c) s = .next t ∧ (t.queue q).cfg = c ∧ (∀ j, j ≠ q → t.queue j = s.queue j) ∧ Safety.answered s (.ok 1) t) ∧
      ((s.queue q).cfg.src ≠ 0 → c ≠ { (s.queue q).cfg with src := 0 } →
        ∃ t, exec (.mgmtQueueConfig q c) s = .next t ∧ t.hm = s.hm ∧ Safety.answered s (.error 1) t)) ∧
    (∀ (n : Nat) (e : RegionEntry) (h : n < 64), entryLegal e = true → s.bondBusy n = false →
      (∀ i, i < 64 → i ≠ n → spansOverlap e (s.region i) = false) →
      ∃ t, exec (.mgmtRegionEntry n e) s = .next t ∧ t.bond.regions.get ⟨n, h⟩ = e ∧
        (∀ i : Fin 64, i.val ≠ n → t.bond.regions.get i = s.bond.regions.get i) ∧ t.mem = s.mem ∧ Safety.answered s (.ok 2) t) ∧
    (∀ (hbm lpddr : List Nat), hbm.length = 16 → lpddr.length = 16 → hbm.sum ≤ 64 → lpddr.sum ≤ 64 →
      ∃ t, exec (.mgmtBandwidthShares hbm lpddr) s = .next t ∧ t.pilot.hbm.toList = hbm ∧ t.pilot.lpddr.toList = lpddr ∧ Safety.answered s (.ok 3) t) ∧
    (∀ (hbm lpddr : List Nat), 64 < hbm.sum ∨ 64 < lpddr.sum →
      ∃ t, exec (.mgmtBandwidthShares hbm lpddr) s = .next t ∧ t.pilot = s.pilot ∧ Safety.answered s (.error 3) t) ∧
    (∀ w, ∃ t, exec (.mgmtPowerCap w) s = .next t ∧
      (w ≤ 1700 → t.pilot = { s.pilot with cap := w } ∧ Safety.answered s (.ok 4) t) ∧ (1700 < w → t.pilot = s.pilot ∧ Safety.answered s (.error 4) t)) ∧
    (s.hm.cards = [] → s.hm.launches = [] → (∀ x ∈ s.hm.queues.toList, x.waits = false ∧ x.held = []) → (∀ c ∈ s.allCores, c.part.halted = false) →
      ∃ t, exec .mgmtC3Entry s = .next t ∧ t.pilot.power = .c3 ∧ Safety.answered s (.ok 4) t) ∧
    (∀ c slot, c = 0 ∨ (30 ≤ c ∧ c ≤ 38) → slot ∈ [128, 256, 512, 1024, 2048, 4096] → (∀ t ∈ s.hm.tasks, t.phase = .pooled ∨ t.phase = .over) →
      ∃ t, exec (.mgmtHotRowCache c slot) s = .next t ∧ t.hot.c = c ∧ t.hot.slot = slot ∧ t.hot.ways = [] ∧
        (∀ w ∈ s.hot.ways, w.dirty = true → w ∈ t.hot.backs) ∧ Safety.answered s (.ok 5) t) ∧
    (∀ (tid : Word) (budget : List Word) (u : Task), s.snapshotOf tid = some u → budget.length = u.cores.length → s.hm.snapWait = [] →
      ∃ t, exec (.mgmtSnapshotRestore tid budget) s = .next t ∧ Safety.answered s (.ok 6) t ∧ (∀ x ∈ t.hm.snaps, x.2 ≠ tid) ∧
        ∀ v ∈ t.hm.tasks, v.num = u.num → v.phase = .preempted ∧
          ∀ c ∈ v.saved, ∀ r, u.cores.findIdx (· == c.id) = r → r < budget.length →
            c.ctl.wbudget = if budget.getD r 0 = 0 then BitVec.allOnes 64 else budget.getD r 0) ∧
    (∀ (tid : Word) (u : Task), s.snapshotOf tid = some u → s.hm.snapWait = [] →
      ∃ t, exec (.mgmtSnapshotRetire tid) s = .next t ∧ Safety.answered s (.ok 6) t ∧ (∀ x ∈ t.hm.snaps, x.2 ≠ tid) ∧
        ∀ v ∈ t.hm.tasks, v.num = u.num → v.phase = .over ∧ v.status = 3) ∧
    (∀ (tid : Word) (budget : List Word), s.snapshotOf tid = none →
      ∃ t, exec (.mgmtSnapshotRestore tid budget) s = .next t ∧ t.hm = s.hm ∧ Safety.answered s (.error 6) t) ∧
    (∃ t, exec .mgmtReadLogicalMaps s = .next t ∧
      Safety.answered s (.numbers 7 ((s.maps.core.toList ++ s.maps.slice.toList).map fun x => x.getD 0xFFFF)) t) ∧
    (∃ t, exec .mgmtReadScanLog s = .next t ∧ Safety.answered s (.data 8 (s.pilot.scanLog.flatMap ScanRecord.bytes)) t) ∧
    (∃ t, exec .mgmtReadErrorCounts s = .next t ∧ t.links = s.links ∧
      t.pilot = { s.pilot with errors := s.pilot.errors + Config.corrected s.fresh } ∧
      Safety.answered s (.numbers 9 ((s.pilot.errors + Config.corrected s.fresh) :: s.links.flatMap fun l => l.num :: l.errs.flatMap fun e => [e.1, e.2])) t) ∧
    (∃ t, exec .mgmtClearErrorCounts s = .next t ∧ t.pilot = { s.pilot with errors := 0 } ∧ (∀ l ∈ t.links, l.errs = []) ∧ Safety.answered s (.ok 9) t) ∧
    (∀ page sa, isDevice (65536 * page) = true →
      ∃ t, exec (.mgmtHostAttributeMap (.page page) sa) s = .next t ∧ (∀ q, q ∈ t.host.attr ↔ (if q = page then sa = true else q ∈ s.host.attr)) ∧
        t.host.replies = s.host.replies ++ [.ok 0x0A]) ∧
    (∀ base sa, base % 2 ^ 36 = 0 → ∃ t, exec (.mgmtHostAttributeMap (.aperture base) sa) s = .next t ∧ t.host.bar2 = base ∧
      t.host.attr = s.host.attr ∧ t.mem = s.mem) ∧
    (∀ sa, ∃ t, exec (.mgmtHostAttributeMap .cxlCache sa) s = .next t ∧ t.host.cxl = sa ∧ t.mem = s.mem) ∧
    (∀ base k snapBase slots, (∀ x ∈ s.hm.queues.toList, x.cfg.src = 0) → 6 ≤ k → k ≤ 16 → base % 64 = 0 → snapBase % 4096 = 0 →
      1 ≤ slots → slots ≤ 256 → placeOf base = .host → placeOf (base + 64 * 2 ^ k - 1) = .host → placeOf snapBase = .host →
      placeOf (snapBase + 1024 * slots - 1) = .host → s.hm.backlog = [] → s.hm.waiting = [] → s.hm.snapWait = [] → s.hm.lost = 0 →
      ∃ t, exec (.mgmtEventRingSetup base k snapBase slots) s = .next t ∧
        t.hm = { s.hm with ringBase := base, ringK := k, snapBase := snapBase, snapNum := slots, consumer := 0 } ∧ Safety.answered s (.ok 0x0B) t) ∧
    (∀ d : DebugToken, d.signed = true → d.zaevo = false → d.key = s.pilot.customer → s.pilot.security = .production → d.queues.length ≤ 16 → (∀ q ∈ d.queues, q < 64) →
      ∃ t, exec (.mgmtDebugToken d) s = .next t ∧ t.pilot.security = .customerDebug ∧ t.pilot.halt = d.halt ∧ t.pilot.trace = d.trace ∧
        t.pilot.debugQs = d.queues ∧ t.mem = s.mem ∧ Safety.answered s (.ok 0x0C) t) ∧
    (∀ d : DebugToken, d.signed = true → d.zaevo = true → s.pilot.security = .production →
      ∃ t, exec (.mgmtDebugToken d) s = .next t ∧ t.pilot.security = .vendorReturn ∧
        t.pilot.fused = (s.pilot.fused || d.fuse) ∧ (∀ c ∈ t.mem, isDevice c.1 = false) ∧
        (∀ e ∈ t.bond.regions.toList, e.key = 0) ∧ (∀ c ∈ t.cores, c.pool = []) ∧ Safety.answered s (.ok 0x0C) t) ∧
    (∀ f, ∃ t, exec (.mgmtStageFirmware f) s = .next t ∧ t.pilot = { s.pilot with staged := f :: s.pilot.staged.filter (·.part != f.part) } ∧ Safety.answered s (.ok 0x0D) t) ∧
    (∀ (core : Nat) (tag : BitVec 32) (n : Nat), (∀ c ∈ s.allCores, c.id = core → ∀ k ∈ c.copy.cmds, k.overflowOf tag = none) →
      ∃ t, exec (.mgmtEnlargeOverflow core tag n) s = .next t ∧ t.cores = s.cores ∧ t.hm = s.hm ∧ Safety.answered s (.error 0x0E) t) ∧
    (∀ (tag : BitVec 32) (n old : Nat) (k : Command), s.allCores.filter (fun c => c.id == s.core.id) = [s.core] → s.core.copy.cmds = [k] →
      k.overflowOf tag = some old → old ≤ n → n < 2 ^ 32 → s.ferry.held = [] →
      ∃ t, exec (.mgmtEnlargeOverflow s.core.id tag n) s = .next t ∧ Safety.answered s (.ok 0x0E) t ∧
        ∀ k' ∈ t.core.copy.cmds, k'.overflowOf tag = some n) ∧
    (∀ code, code < 1 ∨ 0x0E < code → ∃ t, exec (.mgmtUnknown code) s = .next t ∧ t.hm = s.hm ∧ t.mem = s.mem ∧ Safety.answered s (.error code) t)

/-- Lanes, heartbeats, refresh and power states change as their rules say (R12, R281, R285, R286, R290; log 58: the pilot
core is down from the takeover, and the hand-back needs a beat within 250 microseconds; log 72: the threshold and the second
lane; log 86: the paths of a dead port). A replay counts one error of its lane. The repair of a lane over firmware's
threshold takes the spare; with the spare in use, or a second such lane, the link retrains, or else is dead, which is fatal
on the module for a die-to-die link and takes down the port of a Ferry link. A heartbeat marks every Quay; without one for
250 microseconds a Quay refreshes by itself and hands back after they resume. The takeover is stated for an event ring that
is unset or lies in host memory, as its setup message demands. P1 is entered over and left under the cap. Link numbers are
the model's (log 59). -/
def Obligations.LinksPowerAndSpares : Prop :=
  (∀ (s : State) (n lane : Nat), n < 43 → (s.link n).dead = false →
    (∃ t, exec (.flitReplay n lane) s = .next t ∧ (t.link n).errors lane = (s.link n).errors lane + 1 ∧
      (∀ m, m ≠ lane → (t.link n).errors m = (s.link n).errors m) ∧ (∀ m, m ≠ n → t.link m = s.link m) ∧ t.mem = s.mem ∧ t.cores = s.cores) ∧
    (∀ ok, lane ∈ (s.link n).failed → (s.link n).spared = false → (∀ l ∈ (s.link n).failed, l = lane) →
      ∃ t, exec (.laneRepair n lane ok) s = .next t ∧ (t.link n).spared = true ∧ (t.link n).dead = false ∧
        (t.link n).failed = [] ∧ t.mem = s.mem ∧ t.cores = s.cores) ∧
    (lane ∈ (s.link n).failed → ((s.link n).spared = true ∨ ∃ l ∈ (s.link n).failed, l ≠ lane) →
      (∃ t, exec (.laneRepair n lane true) s = .next t ∧ (t.link n).dead = false ∧ (t.link n).spared = true ∧
        (t.link n).failed = [] ∧ t.mem = s.mem ∧ t.cores = s.cores) ∧
      (35 ≤ n → ∃ t, exec (.laneRepair n lane false) s = .next t ∧ (t.link n).dead = true ∧ n - 35 ∈ t.ferry.downPorts ∧
        t.hm = { s.hm with tasks := t.hm.tasks } ∧ t.cores = s.cores ∧ t.mem = s.mem) ∧
      (n < 35 → ∃ t, exec (.laneRepair n lane false) s = .next t ∧ (t.link n).dead = true ∧
        ∀ v ∈ t.hm.tasks, v.phase = .running → v.status ≠ 0))) ∧
  (∀ s : State, ∃ t, exec .heartbeat s = .next t ∧ t.pilot = { s.pilot with down := false } ∧ t.mem = s.mem ∧
    ∀ i : Fin 8, t.quays.get i = { s.quays.get i with lastBeat := s.clock / 36 }) ∧
  (∀ (s : State) (i : Fin 8),
    ((s.quays.get i).auto = false → (s.quays.get i).lastBeat + 250000 ≤ s.clock / 36 →
      (s.hm.ringK = 0 ∨ placeOf s.hm.ringBase = .host ∧ placeOf (s.hm.ringBase + 64 * 2 ^ s.hm.ringK - 1) = .host) →
      ∃ t, exec (.quayRefreshTakeover i) s = .next t ∧ t.quays.get i = { s.quays.get i with auto := true } ∧ t.pilot.down = true ∧
        t.hm.queues = s.hm.queues ∧ ∀ j : Fin 8, j ≠ i → t.quays.get j = s.quays.get j) ∧
    ((s.quays.get i).auto = true → s.clock / 36 < (s.quays.get i).lastBeat + 250000 →
      ∃ t, exec (.refreshHandback i) s = .next t ∧ t.quays.get i = { s.quays.get i with auto := false } ∧ t.mem = s.mem)) ∧
  (∀ (s : State) (draw : Nat),
    (s.pilot.power = .p0 → s.pilot.cap < draw → exec (.p1Entry draw) s = .next { s with pilot := { s.pilot with power := .p1 } }) ∧
    (s.pilot.power = .p1 → draw < s.pilot.cap → exec (.p1Exit draw) s = .next { s with pilot := { s.pilot with power := .p0 } }))

/-- Module reset and D3 keep what survives them; scan tests and debug steps end as ruled (R284, R287, R289 to R291, R436;
log 12: the signature over Config.signedHash and the key's bytes; log 73: the fused debug state). MODULE_RESET leaves the
cores and the Harbourmaster at reset and keeps maps and fuses; a staged image is run if its key is the fused one, its svn is
not rolled back and its signature verifies, else the module is in recovery; leaving customer-debug zeroes device memory (log
57). D3COLD keeps the logical maps and the fuses and loses device memory, and no step is taken in D3 but the reset. After
200 microseconds STEST_PATTERN_END gives 0 and resumes, or takes a spare and gives 1, or ends the part when none is left; a
drain of more than 1 ms gives 2. DEBUG_STEP, its timeout and DEBUG_RESUME change only the debug state. -/
def Obligations.ResetScanTestAndDebug : Prop :=
  ((∀ s : State, ∃ t, exec .moduleReset s = .next t ∧ t.core = State.reset.core ∧ t.rest = State.reset.rest ∧ t.hm = State.reset.hm ∧
     t.maps = s.maps ∧ t.pilot.svn = s.pilot.svn ∧ t.pilot.keyHash = s.pilot.keyHash ∧ t.pilot.fused = s.pilot.fused ∧ t.pilot.power = .p0 ∧
     t.pilot.security = (if s.pilot.fused then .vendorReturn else .production) ∧
     (s.pilot.security = .customerDebug → ∀ a, isDevice a = true → t.mem.byte a = 0) ∧
     (∀ (f : FirmwareImage) (ok : Prop), s.pilot.staged = [f] → s.pilot.boot = [] →
       ok = (sha512 f.pubkey = toBytes 64 s.pilot.keyHash.toNat ∧ s.pilot.svn ≤ f.svn ∧
         pssVerifies f.pubkey f.signature (toBytes 64 (Config.signedHash f.version f.svn f.digest).toNat) = true) →
       (ok → t.pilot.recovery = false ∧ (f.part = .pilot → t.pilot.version = f.version ∧ t.pilot.digest = f.digest)) ∧
       (¬ ok → t.pilot.recovery = true)) ∧
     (s.pilot.staged = [] → s.pilot.boot = [] → t.pilot.recovery = false ∧ t.pilot.version = s.pilot.version)) ∧
   (∀ s : State, ∃ t, exec .d3cold s = .next t ∧ t.core = State.reset.core ∧ t.rest = State.reset.rest ∧ t.hm = State.reset.hm ∧
     t.maps.core = s.maps.core ∧ t.maps.slice = s.maps.slice ∧ t.pilot.svn = s.pilot.svn ∧ t.pilot.keyHash = s.pilot.keyHash ∧ t.pilot.power = .d3 ∧ ∀ a, isDevice a = true → t.mem.byte a = 0) ∧
   (∀ s : State, s.pilot.power = .d3 → (∀ r, s.agenda.head? = some r → r.move ≠ .event .moduleReset) → step s = .fault .poweredOff)) ∧
  ((∀ (s : State), s.core.part.status = .scanning → s.core.part.scan = 2 → s.core.part.scanAt + 200000 ≤ s.clock / 36 →
     s.core.bound.preempt = false →
     (∃ t, exec (.stestPatternEnd true) s = .next t ∧ t.core.part.status = .running ∧ t.core.part.scan = 0 ∧ t.core.getS 63 = 0 ∧
       (∀ r, r ≠ 63 → t.core.getS r = s.core.getS r) ∧ t.maps = s.maps ∧ t.pilot.scanIdx = (s.pilot.scanIdx + 1) % 1024) ∧
     (∀ p r, (if onDeckB s.core.id then s.maps.spareB else s.maps.spareA) = p :: r → s.core.id < 224 →
       ∃ t, exec (.stestPatternEnd false) s = .next t ∧ t.core.part.status = .running ∧ t.core.getS 63 = 1 ∧
         t.maps.core.toList.getD s.core.id none = some p) ∧
     ((if onDeckB s.core.id then s.maps.spareB else s.maps.spareA) = [] → s.core.id < 224 →
       ∃ t, exec (.stestPatternEnd false) s = .next t ∧ t.core.part.status = .ending true ∧ t.maps.core.toList.getD s.core.id none = none)) ∧
   (∀ (s : State), s.core.part.status = .scanning → s.core.part.scan = 1 → s.core.drained = false →
     s.core.part.scanAt + 1000000 < s.clock / 36 →
     ∃ t, exec .stestDrainTimeout s = .next t ∧ t.core.part.status = .running ∧ t.core.part.scan = 0 ∧ t.core.getS 63 = 2) ∧
   (∀ (s : State), s.core.part.halted = true →
     (s.core.part.status = .running → s.core.part.step = .none →
       exec (.debugStep none) s = .next { s with core := { s.core with part := { s.core.part with step := .bundle } } } ∧
       ∀ n, 1000 ≤ n → n ≤ 10 ^ 9 →
         exec (.debugStep (some n)) s = .next { s with core := { s.core with part := { s.core.part with step := .sync n } } }) ∧
     (∀ deadline since calls, s.core.part.step = .waiting deadline since calls → deadline ≤ s.clock / 36 →
       (∃ k ∈ s.core.copy.cmds, since ≤ k.id ∧ k.stop = none) →
       exec .debugStepTimeout s = .next { s with core := { s.core with part := { s.core.part with step := .none } } }) ∧
     exec .debugResume s = .next { s with core := { s.core with part := { s.core.part with halted := false, step := .none } } }))

/-- Words written out from the spec decode to the instructions they stand for, and reserved words to none (R69, R83, R140,
R382, R411). Twelve slot words of the scalar, vector, ring, command, loop, sync and region families and two micro-operations
decode as the spec's encodings say; a reserved major, a V word with a reserved format and a reserved micro-operation are
refused. -/
def Obligations.DecodeWords : Prop :=
  decodeTableWord 32 0x24008286 = some (.or ⟨⟨false, 0⟩, false, 4, 5, false, 6⟩) ∧
  decodeTableWord 32 0x2C0082C4 = some (.sar ⟨⟨false, 0⟩, false, 4, 5, true, 4⟩) ∧
  decodeTableWord 32 0x060101B1 = some (.atom ⟨⟨false, 0⟩, 8, 3, false, 3, 1⟩) ∧
  decodeTableWord 32 0x4C020441 = some (.vfma ⟨⟨false, 0⟩, false, 4, 1, 2, 1⟩) ∧
  decodeTableWord 32 0x68620441 = some (.vsel ⟨⟨false, 3⟩, false, 4, 1, 2, 1⟩) ∧
  decodeTableWord 32 0x9A010040 = some (.cbwait ⟨⟨false, 0⟩, 2, false, 1⟩) ∧
  decodeTableWord 32 0xBE030416 = some (.cupdRowwiseAdagrad ⟨⟨false, 0⟩, false, true, 4, 4, 5⟩) ∧
  decodeTableWord 32 0xDE001001 = some (.loop ⟨⟨false, 0⟩, 4, 1⟩) ∧
  decodeTableWord 32 0xE4020200 = some (.fence ⟨⟨false, 0⟩, 4⟩) ∧
  decodeTableWord 32 0xE8001050 = some (.ropen ⟨⟨false, 0⟩, 4, 5⟩) ∧
  decodeTableWord 32 0xE0000000 = some .nop ∧
  decodeTableWord 32 0xFE000000 = none ∧ decodeTableWord 32 0x42020440 = some (.vadd ⟨⟨false, 0⟩, false, 4, 1, 2, 0⟩) ∧
  decodeTableWord 32 0x4202044A = none ∧
  decodeTableWord 64 0x5080000000000010 = some (.setx 1 0x10) ∧ decodeTableWord 64 0x0000000000000000 = some .mxEnd ∧
  decodeTableWord 64 0x0000000000000001 = none

/-- Decoding an encoded well-formed instruction gives it back, and encoding a decoded word gives the word back (R67 to R84,
R140). For every slot operation and every micro-operation, at every value of every operand: decode (encode i) is i for a
well-formed i, and a word that decodes to i is well formed and encodes to that word. -/
def Obligations.EncodingRoundTrip : Prop :=
  (∀ (i : Instr) (w : SlotWord), wellFormed i = true → encode i = some w → decodeSlot w = .ok i) ∧
  (∀ (i : Instr) (w : SlotWord), decodeSlot w = .ok i → encode i = some w ∧ wellFormed i = true) ∧
  (∀ (i : Instr) (w : BitVec 64), wellFormed i = true → encodeMicro i = some w → decodeMicro w = .ok i) ∧
  (∀ (i : Instr) (w : BitVec 64), decodeMicro w = .ok i → encodeMicro i = some w ∧ wellFormed i = true)

/-- A step at a core's turn runs the bundle its bytes decode to, slot by slot through exec (R67, R68, R74, R85, R139; the
schedule is the model's (log 1, 10)). Before a bundle with FENCE, XINV or TRET the core's waiting pushes are performed as
far as they can be (log 81), and nothing else happens before one. At the turn of a running core with no boundary work: after
the due results land, the 16 bytes at pc that do not decode trap ILLEGAL_INSTRUCTION, a bundle that breaks composition
ILLEGAL_BUNDLE; otherwise each slot decodes to its instruction, and the step stalls, takes the trap the checks found, or is
exec of every slot in the model's order, KBIND and BSEL on the scratchpad as it stood before the bundle (R50), and the end
of the bundle. At the matrix unit's turn the step is exec of the routine's current micro-operation, at an event's turn exec
of the event at its core. The agenda is the model's (log 1). -/
def Obligations.StepRunsDecoded : Prop :=
  (∀ (s v u l : State) (r : List Turn), s.agenda = ⟨s.core.id, .issue⟩ :: r → s.pilot.power ≠ .d3 → v = { s with agenda := r } →
    v.core.part.status = .running → v.core.part.halted = false → u = v.beforeOrder →
    (v.core.pushes = [] ∨ v.core.ordersNext = false → u = v) ∧
    (u.core.part.halted = false → u.senderHeld = false → u.boundaryWork = none →
    u.core.fetch.replay = none → l = u.onCore Core.startBundle → l.pilot.trace = false →
    ∀ ws, ws = l.core.fetchWords l.core.fetch.pc → loopfBad l.core (headerOf ws) = false →
      (∀ e k, decodeBundle ws = .error (e, k) → step s = .next (l.trapAt 0x01 k).tick) ∧
      (∀ b k, decodeBundle ws = .ok b → composition l.core b.ops = some k → step s = .next (l.trapAt 0x02 k).tick) ∧
      (∀ b, decodeBundle ws = .ok b → composition l.core b.ops = none →
        (∀ p ∈ b.ops, ∃ w, ws[p.1]? = some w ∧ decodeSlot w = .ok p.2) ∧
        (l.checkBundle b.header b.ops = .stall → step s = .next (l.stallTick b.header b.ops)) ∧
        (∀ t, l.checkBundle b.header b.ops = .instead t → step s = .next t.tick) ∧
        (l.checkBundle b.header b.ops = .go → ∀ t,
          t = (inRank b.ops).foldl (Safety.slotRun l b.header b.ops) l →
          (t.core.issue.flow ≠ .moved → step s = .next (t.onCore fun c => c.finish (b.ops.any fun p => isBranch p.2)).tick) ∧
          (t.core.issue.flow = .moved → step s = .next t.tick))))) ∧
  (∀ (s u : State) (q : Run) (i : Instr) (r : List Turn), s.agenda = ⟨s.core.id, .matrix⟩ :: r → s.pilot.power ≠ .d3 →
    u = { s with agenda := r } → u.core.mx.pend = [] → u.core.mx.run = some q → u.core.mx.reloadFirst = false → q.done = false → q.prog[q.pc]? = some i →
    step s = exec i u) ∧
  (∀ (s u : State) (i : Instr) (c : Nat) (r : List Turn), s.agenda = ⟨c, .event i⟩ :: r → s.pilot.power ≠ .d3 ∨ i = .moduleReset →
    u = { s with agenda := r } → step s = exec i (u.focus c))

/-- Module reset leaves the values the spec states (R14, R64, R236, R248, R250, R252, R289). At State.reset memory is in its
canonical form, there are 224 cores, and on each the control registers with a reset value, the parameters, the rings and the
tile entries hold it; the time, the event numbers and the consumer count are 0, every queue is disabled, the accumulators
are 0, no region is declared, and the module is in production with halt and trace off. Values that only the model names (log
5) are not stated. -/
def Obligations.ResetState : Prop :=
  Safety.memWf State.reset = true ∧ State.reset.cores.map Core.id = List.range 224 ∧
  (∀ c ∈ State.reset.cores, c.ctl.cause = 0 ∧ c.ctl.epc = 0 ∧ c.ctl.rgn = 0 ∧ c.ctl.tdt = 0 ∧ c.ctl.vround = 0 ∧ c.ctl.abort = 0 ∧
    c.ctl.hist = 0 ∧ c.ctl.fault = 0 ∧ c.ctl.tvec = 0 ∧ c.ctl.lend = 0 ∧ c.fetch.ibank = false ∧
    (∀ j : Fin 8, c.regs.p.get j = 0) ∧ (∀ j : Fin 16, c.rings.get j = ⟨0, 0, 0, 0, 0⟩) ∧
    (∀ j : Fin 64, c.tiles.get j = ⟨0, 0, .empty⟩)) ∧
  State.reset.clock = 0 ∧ State.reset.hm.evno = 0 ∧ State.reset.hm.consumer = 0 ∧
  (∀ q : Fin 64, (State.reset.hm.queues.get q).cfg = QueueConfig.reset) ∧
  (∀ k j : Fin 16, (State.reset.ctrls.get k).get j = 0) ∧
  (∀ j : Fin 64, State.reset.bond.regions.get j = ⟨0, false, 0, 0⟩) ∧
  State.reset.pilot.security = .production ∧ State.reset.pilot.halt = false ∧ State.reset.pilot.trace = false

/-- Every step keeps memory in its canonical form (the model's Memory.wf (R193)). For every state whose memory is in
canonical form (addresses strictly rising, no entry equal to what an unlisted address reads as), if step answers a next
state then its memory is in that form: after any slot, micro-operation or event of any agent. -/
def Obligations.StepKeepsMemoryForm : Prop :=
  ∀ s t : State, Safety.memWf s = true → step s = .next t → Safety.memWf t = true

/-- Cores, slices, HBM channels and LPDDR rows take their spares or are retired (R17, R194, R283, R286). A failed core of no
task that is not over takes the next spare of its deck, or is retired when none is left, every other core as mapped before;
a slice of an idle module likewise; one HBM channel per stack and 64 LPDDR rows per Quay are remapped. Memory stays. -/
def Obligations.SparesAndRemaps : Prop :=
  (∀ (s : State) (c : Fin 224) (k : Core) (p : Nat) (r : List Nat), s.coreOf c = some k → k.part.status = .none →
    (∀ t ∈ s.hm.tasks, t.phase ≠ .over → c.val ∉ t.cores) → (s.maps.core.get c).isSome = true →
    ((if onDeckB c then s.maps.spareB else s.maps.spareA) = p :: r →
      ∃ t, exec (.coreSpareSwap c) s = .next t ∧ t.maps.core.get c = some p ∧
        (if onDeckB c then t.maps.spareB else t.maps.spareA) = r ∧ (∀ j : Fin 224, j ≠ c → t.maps.core.get j = s.maps.core.get j) ∧ t.mem = s.mem) ∧
    ((if onDeckB c then s.maps.spareB else s.maps.spareA) = [] →
      ∃ t, exec (.coreSpareSwap c) s = .next t ∧ t.maps.core.get c = none ∧ t.mem = s.mem)) ∧
  (∀ (s : State) (n : Fin 384), (∀ c ∈ s.cores, c.part.status = .none) →
    (∀ t ∈ s.hm.tasks, t.phase ≠ .running ∧ t.phase ≠ .stopping ∧ t.phase ≠ .loading) → (s.maps.slice.get n).isSome = true →
    ∃ t, exec (.sliceRehome n) s = .next t ∧ t = { s with maps := t.maps } ∧ (∀ j : Fin 384, j ≠ n → t.maps.slice.get j = s.maps.slice.get j) ∧
      ∀ l, l = (if n.val < 192 then s.maps.sliceA else s.maps.sliceB) → t.maps.slice.get n = l.head? ∧
        (if n.val < 192 then t.maps.sliceA else t.maps.sliceB) = l.drop 1) ∧
  (∀ (s : State) (stack channel : Nat), stack < 8 → (∀ c ∈ s.maps.channels, c.1 ≠ stack) →
    exec (.hbmChannelSpare stack channel) s = .next { s with maps := { s.maps with channels := (stack, channel) :: s.maps.channels } }) ∧
  (∀ (s : State) (i : Fin 8) (row : Nat), (s.quays.get i).remap.length < 64 → row ∉ (s.quays.get i).remap →
    ∃ t, exec (.lpddrRowRemap i row) s = .next t ∧ t.quays.get i = { s.quays.get i with remap := row :: (s.quays.get i).remap } ∧
      (∀ j : Fin 8, j ≠ i → t.quays.get j = s.quays.get j) ∧ t.mem = s.mem)
end

