-- ==== Sys2Proof/Laws/Memory.lean ====
section
/-! SUPPORT. The laws of sparse memory: a write keeps the canonical form, a read after a write gives the value written, and
a write leaves every other byte alone. -/

namespace Sys2Proof.Machine

theorem Mem.wfFrom_mono {lo lo' : Nat} (h : lo ≤ lo') : ∀ {m : Mem}, m.wfFrom lo' = true → m.wfFrom lo = true
  | [], _ => rfl
  | (a, b) :: r, hm => by
    simp only [Mem.wfFrom, Bool.and_eq_true, decide_eq_true_eq] at hm ⊢
    exact ⟨⟨by omega, hm.1.2⟩, hm.2⟩

theorem Mem.wfFrom_filter (p : Nat × Byte → Bool) : ∀ {m : Mem} {lo : Nat}, m.wfFrom lo = true → Mem.wfFrom lo (m.filter p) = true
  | [], _, _ => rfl
  | (a, b) :: r, lo, hm => by
    simp only [Mem.wfFrom, Bool.and_eq_true, decide_eq_true_eq] at hm
    have hr := Mem.wfFrom_filter p hm.2
    rw [List.filter_cons]
    split
    · simp only [Mem.wfFrom, Bool.and_eq_true, decide_eq_true_eq]
      exact ⟨hm.1, hr⟩
    · exact Mem.wfFrom_mono (by omega) hr

theorem Mem.wfFrom_append : ∀ {m n : Mem} {lo k : Nat}, lo ≤ k → m.wfFrom lo = true → (∀ c ∈ m, c.1 < k) → n.wfFrom k = true →
    Mem.wfFrom lo (m ++ n) = true
  | [], _, _, _, hk, _, _, hn => Mem.wfFrom_mono hk hn
  | (a, b) :: r, n, lo, k, _, hm, hlt, hn => by
    simp only [Mem.wfFrom, Bool.and_eq_true, decide_eq_true_eq] at hm
    have ha : a < k := hlt (a, b) (by simp)
    simp only [List.cons_append, Mem.wfFrom, Bool.and_eq_true, decide_eq_true_eq]
    exact ⟨hm.1, Mem.wfFrom_append (by omega) hm.2 (fun c hc => hlt c (by simp [hc])) hn⟩

theorem Mem.cells_wf : ∀ (a : Nat) (bs : List Byte), Mem.wfFrom a (Mem.cells a bs) = true
  | _, [] => rfl
  | a, b :: bs => by
    have h := Mem.cells_wf (a + 1) bs
    simp only [Mem.cells]
    split
    · exact Mem.wfFrom_mono (by omega) h
    · rename_i hb
      simp only [Mem.wfFrom, Bool.and_eq_true, decide_eq_true_eq, bne_iff_ne]
      exact ⟨⟨Nat.le_refl _, hb⟩, h⟩

theorem Mem.cells_range : ∀ (a : Nat) (bs : List Byte), ∀ c ∈ Mem.cells a bs, a ≤ c.1 ∧ c.1 < a + bs.length
  | _, [] => by simp [Mem.cells]
  | a, b :: bs => by
    intro c hc
    have ih := Mem.cells_range (a + 1) bs c
    simp only [Mem.cells] at hc
    simp only [List.length_cons]
    split at hc
    · have := ih hc; omega
    · rcases List.mem_cons.1 hc with h | h
      · subst h; simp
      · have := ih h; omega

/-- Cells at or beyond k are canonical from k on. -/
theorem Mem.wfFrom_ge (k : Nat) : ∀ {m : Mem} {lo : Nat}, m.wfFrom lo = true →
    Mem.wfFrom k (m.filter fun c => k ≤ c.1) = true
  | [], _, _ => rfl
  | (a, b) :: r, lo, hm => by
    simp only [Mem.wfFrom, Bool.and_eq_true, decide_eq_true_eq] at hm
    rw [List.filter_cons]
    split
    · rename_i h
      have h : k ≤ a := by simpa using h
      simp only [Mem.wfFrom, Bool.and_eq_true, decide_eq_true_eq]
      exact ⟨⟨h, hm.1.2⟩, Mem.wfFrom_filter _ hm.2⟩
    · exact Mem.wfFrom_ge k hm.2

/-- A write keeps the canonical form. -/
theorem Mem.write_wf {m : Mem} (h : m.wf = true) (a : Nat) (bs : List Byte) : (m.write a bs).wf = true := by
  simp only [Mem.wf, Mem.write] at *
  refine Mem.wfFrom_append (k := a) (Nat.zero_le _) (Mem.wfFrom_filter _ h) ?_ ?_
  · intro c hc
    simpa using (List.mem_filter.1 hc).2
  · refine Mem.wfFrom_append (k := a + bs.length) (by omega) (Mem.cells_wf a bs) ?_ (Mem.wfFrom_ge _ h)
    intro c hc
    exact (Mem.cells_range a bs c hc).2

theorem Mem.writeMasked_wf {m : Mem} (h : m.wf = true) (a : Nat) (bs : List Byte) (keep : Nat → Bool) :
    (m.writeMasked a bs keep).wf = true := Mem.write_wf h _ _

theorem Mem.nil_wf : Mem.wf [] = true := rfl

/-! ### Reading one byte -/

theorem Mem.find_none {m : Mem} {x : Nat} (h : ∀ c ∈ m, c.1 ≠ x) : m.find? (fun c => c.1 == x) = none := by
  simpa [List.find?_eq_none] using h

theorem Mem.find_filter {m : Mem} {x : Nat} (p : Nat × Byte → Bool) (h : ∀ b, p (x, b) = true) :
    (m.filter p).find? (fun c => c.1 == x) = m.find? (fun c => c.1 == x) := by
  induction m with
  | nil => rfl
  | cons c r ih =>
    obtain ⟨a, b⟩ := c
    by_cases hx : a = x
    · subst hx; simp [h b]
    · rw [List.filter_cons]
      split <;> simp [hx, ih]

/-- The byte that a list of cells holds at an address, unlisted ones being zero. -/
theorem Mem.byte_eq (m : Mem) (x : Nat) : m.byte x = ((m.find? fun c => c.1 == x).map Prod.snd).getD 0 := by
  unfold Mem.byte
  cases m.find? (fun c => c.1 == x) <;> rfl

theorem Mem.cells_byte : ∀ (a : Nat) (bs : List Byte) (x : Nat), a ≤ x → x < a + bs.length →
    Mem.byte (Mem.cells a bs) x = bs.getD (x - a) 0
  | a, [], x, h, h' => by simp at h'; omega
  | a, b :: bs, x, h, h' => by
    simp only [List.length_cons] at h'
    rw [Mem.byte_eq]
    by_cases hx : x = a
    · subst hx
      by_cases hb : b = 0
      · rw [Mem.cells, if_pos hb, Mem.find_none]
        · rw [hb, Nat.sub_self]; rfl
        · intro c hc; have := Mem.cells_range _ _ c hc; omega
      · rw [Mem.cells, if_neg hb, Nat.sub_self, List.find?_cons_of_pos (by simp)]; rfl
    · have ih := Mem.cells_byte (a + 1) bs x (by omega) (by omega)
      have hs : x - a = x - (a + 1) + 1 := by omega
      rw [hs, List.getD_cons_succ, ← ih, Mem.byte_eq]
      by_cases hb : b = 0
      · rw [Mem.cells, if_pos hb]
      · rw [Mem.cells, if_neg hb, List.find?_cons_of_neg (by simp; omega)]

theorem Mem.cells_find_none (a : Nat) (bs : List Byte) (x : Nat) (h : ¬ (a ≤ x ∧ x < a + bs.length)) :
    (Mem.cells a bs).find? (fun c => c.1 == x) = none :=
  Mem.find_none fun c hc => by have := Mem.cells_range _ _ c hc; omega

/-- A read after a write: the byte written inside the block, the old byte outside it. -/
theorem Mem.byte_write (m : Mem) (a : Nat) (bs : List Byte) (x : Nat) :
    (m.write a bs).byte x = if a ≤ x ∧ x < a + bs.length then bs.getD (x - a) 0 else m.byte x := by
  have lo : ∀ c ∈ m.filter (fun c => decide (c.1 < a)), c.1 < a := fun c hc => by
    simpa using (List.mem_filter.1 hc).2
  have hi : ∀ c ∈ m.filter (fun c => decide (a + bs.length ≤ c.1)), a + bs.length ≤ c.1 := fun c hc => by
    simpa using (List.mem_filter.1 hc).2
  rw [Mem.byte_eq, Mem.write, List.find?_append, List.find?_append]
  have eLo (h : a ≤ x) : (m.filter fun c => decide (c.1 < a)).find? (fun c => c.1 == x) = none :=
    Mem.find_none fun c hc => by have := lo c hc; omega
  have eHi (h : x < a + bs.length) : (m.filter fun c => decide (a + bs.length ≤ c.1)).find? (fun c => c.1 == x) = none :=
    Mem.find_none fun c hc => by have := hi c hc; omega
  by_cases h1 : x < a
  · rw [if_neg (by omega), eHi (by omega), Mem.find_filter _ (by simp [h1]), Mem.cells_find_none _ _ _ (by omega), Mem.byte_eq]
    simp
  · rw [eLo (by omega)]
    by_cases h2 : x < a + bs.length
    · rw [if_pos ⟨by omega, h2⟩, eHi h2, ← Mem.cells_byte a bs x (by omega) h2, Mem.byte_eq]
      simp
    · rw [if_neg (by omega), Mem.cells_find_none _ _ _ (by omega), Mem.find_filter _ (by simp; omega), Mem.byte_eq]
      simp

theorem Mem.byte_write_other (m : Mem) (a : Nat) (bs : List Byte) (x : Nat) (h : ¬ (a ≤ x ∧ x < a + bs.length)) :
    (m.write a bs).byte x = m.byte x := by
  rw [Mem.byte_write, if_neg h]

/-! ### A read is its bytes -/

theorem Mem.wfFrom_le : ∀ {m : Mem} {lo : Nat}, m.wfFrom lo = true → ∀ c ∈ m, lo ≤ c.1
  | [], _, _ => by simp
  | (a, b) :: r, lo, hm => by
    simp only [Mem.wfFrom, Bool.and_eq_true, decide_eq_true_eq] at hm
    intro c hc
    rcases List.mem_cons.1 hc with h | h
    · subst h; exact hm.1.1
    · have := Mem.wfFrom_le hm.2 c h; omega

theorem Mem.byte_cons (k : Nat) (b : Byte) (r : Mem) (x : Nat) : Mem.byte ((k, b) :: r) x = if k = x then b else Mem.byte r x := by
  rw [Mem.byte_eq, Mem.byte_eq]
  by_cases h : k = x
  · rw [if_pos h, List.find?_cons_of_pos (by simp [h])]; rfl
  · rw [if_neg h, List.find?_cons_of_neg (by simp [h])]

theorem Mem.spread_eq : ∀ (n a : Nat) (m : Mem), m.wfFrom a = true →
    Mem.spread n a m = (List.range n).map fun i => m.byte (a + i)
  | 0, _, _, _ => rfl
  | n + 1, a, [], _ => by
    rw [Mem.spread, Mem.spread_eq n (a + 1) [] rfl, List.range_succ_eq_map, List.map_cons, List.map_map]
    rfl
  | n + 1, a, (k, b) :: r, h => by
    have hk := h
    simp only [Mem.wfFrom, Bool.and_eq_true, decide_eq_true_eq] at hk
    rw [Mem.spread, List.range_succ_eq_map, List.map_cons, List.map_map]
    by_cases e : k = a
    · subst e
      rw [if_pos rfl, Mem.spread_eq n (k + 1) r hk.2, Mem.byte_cons, if_pos (by omega)]
      congr 1
      apply List.map_congr_left
      intro i _
      simp only [Function.comp_apply]
      rw [Mem.byte_cons, if_neg (by omega)]
      congr 1; omega
    · have h' : Mem.wfFrom (a + 1) ((k, b) :: r) = true := by
        simp only [Mem.wfFrom, Bool.and_eq_true, decide_eq_true_eq]
        exact ⟨⟨by omega, hk.1.2⟩, hk.2⟩
      rw [if_neg e, Mem.spread_eq n (a + 1) _ h', Mem.byte_cons, if_neg (by omega)]
      have z : Mem.byte r (a + 0) = 0 := by
        rw [Mem.byte_eq, Mem.find_none fun c hc => by have := Mem.wfFrom_le hk.2 c hc; omega]; rfl
      rw [z]
      congr 1
      apply List.map_congr_left
      intro i _
      simp only [Function.comp_apply]
      congr 1; omega

/-- A read of n bytes is the bytes at its addresses. -/
theorem Mem.read_eq {m : Mem} (h : m.wf = true) (a n : Nat) : m.read a n = (List.range n).map fun i => m.byte (a + i) := by
  have hf : Mem.wfFrom a (m.filter fun c => decide (a ≤ c.1) && decide (c.1 < a + n)) = true := by
    have hg := Mem.wfFrom_filter (fun c => decide (c.1 < a + n)) (Mem.wfFrom_ge a h)
    rwa [List.filter_filter, List.filter_congr (q := fun c => decide (a ≤ c.1) && decide (c.1 < a + n))] at hg
    intro c _; exact Bool.and_comm _ _
  rw [Mem.read, Mem.spread_eq n a _ hf]
  apply List.map_congr_left
  intro i hi
  have := List.mem_range.1 hi
  rw [Mem.byte_eq, Mem.byte_eq, Mem.find_filter]
  intro b; simp; omega

/-- A block written reads back, and reads disjoint from it are unchanged. -/
theorem Mem.read_write_same {m : Mem} (h : m.wf = true) (a : Nat) (bs : List Byte) : (m.write a bs).read a bs.length = bs := by
  rw [Mem.read_eq (Mem.write_wf h a bs)]
  apply List.ext_getElem
  · simp
  · intro i h1 h2
    rw [List.getElem_map, List.getElem_range, Mem.byte_write, if_pos (by omega)]
    simp [h2]

theorem Mem.read_write_other {m : Mem} (h : m.wf = true) (a : Nat) (bs : List Byte) (x n : Nat)
    (hd : x + n ≤ a ∨ a + bs.length ≤ x) : (m.write a bs).read x n = m.read x n := by
  rw [Mem.read_eq (Mem.write_wf h a bs), Mem.read_eq h]
  apply List.map_congr_left
  intro i hi
  have := List.mem_range.1 hi
  exact Mem.byte_write_other m a bs _ (by omega)

/-! ### The bytes of a number (R4) -/

@[simp] theorem toBytes_length : ∀ (n v : Nat), (toBytes n v).length = n
  | 0, _ => rfl
  | n + 1, v => by simp [toBytes, toBytes_length n]

theorem leVal_toBytes : ∀ (n v : Nat), leVal (toBytes n v) = v % 256 ^ n
  | 0, v => by simp [toBytes, leVal, Nat.mod_one]
  | n + 1, v => by
    simp only [toBytes, leVal, leVal_toBytes n, BitVec.toNat_ofNat]
    have : (2 : Nat) ^ 8 = 256 := rfl
    rw [this, Nat.pow_succ, Nat.mul_comm (256 ^ n) 256, Nat.mod_mul]

theorem leVal_zeros : ∀ n : Nat, leVal (List.replicate n (0 : Byte)) = 0
  | 0 => rfl
  | n + 1 => by
    have := leVal_zeros n
    simp only [List.replicate_succ, leVal, this]; rfl

/-! ### Memory that lists nothing -/

theorem Mem.spread_nil : ∀ (n a : Nat), Mem.spread n a [] = List.replicate n 0
  | 0, _ => rfl
  | n + 1, a => by rw [Mem.spread, Mem.spread_nil n (a + 1)]; rfl

theorem Mem.read_nil (a n : Nat) : Mem.read [] a n = List.replicate n 0 := Mem.spread_nil n a

end Sys2Proof.Machine
end

