-- ==== Sys2Proof/Laws/State.lean ====
section
/-! SUPPORT. What each update of the state leaves as it was: one lemma per field and update, so that no proof unfolds a
record update. -/

namespace Sys2Proof.Machine

/-! ### Updates of the focused core -/

@[simp] theorem State.onCore_core (s : State) (f : Core → Core) : (s.onCore f).core = f s.core := rfl
@[simp] theorem State.onCore_rest (s : State) (f : Core → Core) : (s.onCore f).rest = s.rest := rfl
@[simp] theorem State.onCore_agenda (s : State) (f : Core → Core) : (s.onCore f).agenda = s.agenda := rfl
@[simp] theorem State.onCore_fresh (s : State) (f : Core → Core) : (s.onCore f).fresh = s.fresh := rfl
@[simp] theorem State.onCore_clock (s : State) (f : Core → Core) : (s.onCore f).clock = s.clock := rfl
@[simp] theorem State.onCore_mem (s : State) (f : Core → Core) : (s.onCore f).mem = s.mem := rfl
@[simp] theorem State.onCore_poison (s : State) (f : Core → Core) : (s.onCore f).poison = s.poison := rfl
@[simp] theorem State.onCore_walkA (s : State) (f : Core → Core) : (s.onCore f).walkA = s.walkA := rfl
@[simp] theorem State.onCore_walkB (s : State) (f : Core → Core) : (s.onCore f).walkB = s.walkB := rfl
@[simp] theorem State.onCore_walkP (s : State) (f : Core → Core) : (s.onCore f).walkP = s.walkP := rfl
@[simp] theorem State.onCore_hm (s : State) (f : Core → Core) : (s.onCore f).hm = s.hm := rfl
@[simp] theorem State.onCore_quays (s : State) (f : Core → Core) : (s.onCore f).quays = s.quays := rfl
@[simp] theorem State.onCore_hot (s : State) (f : Core → Core) : (s.onCore f).hot = s.hot := rfl
@[simp] theorem State.onCore_windows (s : State) (f : Core → Core) : (s.onCore f).windows = s.windows := rfl
@[simp] theorem State.onCore_bond (s : State) (f : Core → Core) : (s.onCore f).bond = s.bond := rfl
@[simp] theorem State.onCore_ctrls (s : State) (f : Core → Core) : (s.onCore f).ctrls = s.ctrls := rfl
@[simp] theorem State.onCore_ferry (s : State) (f : Core → Core) : (s.onCore f).ferry = s.ferry := rfl
@[simp] theorem State.onCore_host (s : State) (f : Core → Core) : (s.onCore f).host = s.host := rfl
@[simp] theorem State.onCore_pilot (s : State) (f : Core → Core) : (s.onCore f).pilot = s.pilot := rfl
@[simp] theorem State.onCore_maps (s : State) (f : Core → Core) : (s.onCore f).maps = s.maps := rfl
@[simp] theorem State.onCore_links (s : State) (f : Core → Core) : (s.onCore f).links = s.links := rfl
@[simp] theorem State.onCore_fades (s : State) (f : Core → Core) : (s.onCore f).fades = s.fades := rfl
@[simp] theorem State.onCore_onCore (s : State) (f g : Core → Core) : (s.onCore f).onCore g = s.onCore fun c => g (f c) := rfl

/-! ### The outcome of a slot -/

@[simp] theorem State.flow_flow (s : State) (f : Flow) : (s.flow f).core.issue.flow = f := rfl
@[simp] theorem State.flow_rest (s : State) (f : Flow) : (s.flow f).rest = s.rest := rfl
@[simp] theorem State.flow_agenda (s : State) (f : Flow) : (s.flow f).agenda = s.agenda := rfl
@[simp] theorem State.flow_fresh (s : State) (f : Flow) : (s.flow f).fresh = s.fresh := rfl
@[simp] theorem State.flow_clock (s : State) (f : Flow) : (s.flow f).clock = s.clock := rfl
@[simp] theorem State.flow_mem (s : State) (f : Flow) : (s.flow f).mem = s.mem := rfl
@[simp] theorem State.flow_poison (s : State) (f : Flow) : (s.flow f).poison = s.poison := rfl
@[simp] theorem State.flow_walkA (s : State) (f : Flow) : (s.flow f).walkA = s.walkA := rfl
@[simp] theorem State.flow_walkB (s : State) (f : Flow) : (s.flow f).walkB = s.walkB := rfl
@[simp] theorem State.flow_walkP (s : State) (f : Flow) : (s.flow f).walkP = s.walkP := rfl
@[simp] theorem State.flow_hm (s : State) (f : Flow) : (s.flow f).hm = s.hm := rfl
@[simp] theorem State.flow_quays (s : State) (f : Flow) : (s.flow f).quays = s.quays := rfl
@[simp] theorem State.flow_hot (s : State) (f : Flow) : (s.flow f).hot = s.hot := rfl
@[simp] theorem State.flow_windows (s : State) (f : Flow) : (s.flow f).windows = s.windows := rfl
@[simp] theorem State.flow_bond (s : State) (f : Flow) : (s.flow f).bond = s.bond := rfl
@[simp] theorem State.flow_ctrls (s : State) (f : Flow) : (s.flow f).ctrls = s.ctrls := rfl
@[simp] theorem State.flow_ferry (s : State) (f : Flow) : (s.flow f).ferry = s.ferry := rfl
@[simp] theorem State.flow_host (s : State) (f : Flow) : (s.flow f).host = s.host := rfl
@[simp] theorem State.flow_pilot (s : State) (f : Flow) : (s.flow f).pilot = s.pilot := rfl
@[simp] theorem State.flow_maps (s : State) (f : Flow) : (s.flow f).maps = s.maps := rfl
@[simp] theorem State.flow_links (s : State) (f : Flow) : (s.flow f).links = s.links := rfl
@[simp] theorem State.flow_fades (s : State) (f : Flow) : (s.flow f).fades = s.fades := rfl
@[simp] theorem State.flow_core_regs (s : State) (f : Flow) : (s.flow f).core.regs = s.core.regs := rfl
@[simp] theorem State.flow_core_id (s : State) (f : Flow) : (s.flow f).core.id = s.core.id := rfl
@[simp] theorem State.flow_core_ctl (s : State) (f : Flow) : (s.flow f).core.ctl = s.core.ctl := rfl
@[simp] theorem State.flow_core_pool (s : State) (f : Flow) : (s.flow f).core.pool = s.core.pool := rfl
@[simp] theorem State.flow_core_poison (s : State) (f : Flow) : (s.flow f).core.poison = s.core.poison := rfl
@[simp] theorem State.flow_core_fetch (s : State) (f : Flow) : (s.flow f).core.fetch = s.core.fetch := rfl
@[simp] theorem State.flow_core_tiles (s : State) (f : Flow) : (s.flow f).core.tiles = s.core.tiles := rfl
@[simp] theorem State.flow_core_rings (s : State) (f : Flow) : (s.flow f).core.rings = s.core.rings := rfl
@[simp] theorem State.flow_core_copy (s : State) (f : Flow) : (s.flow f).core.copy = s.core.copy := rfl
@[simp] theorem State.flow_core_loops (s : State) (f : Flow) : (s.flow f).core.loops = s.core.loops := rfl
@[simp] theorem State.flow_core_pend (s : State) (f : Flow) : (s.flow f).core.pend = s.core.pend := rfl
@[simp] theorem State.flow_core_regions (s : State) (f : Flow) : (s.flow f).core.regions = s.core.regions := rfl
@[simp] theorem State.flow_core_twinS (s : State) (f : Flow) : (s.flow f).core.twinS = s.core.twinS := rfl
@[simp] theorem State.flow_core_twinV (s : State) (f : Flow) : (s.flow f).core.twinV = s.core.twinV := rfl
@[simp] theorem State.flow_core_flight (s : State) (f : Flow) : (s.flow f).core.flight = s.core.flight := rfl
@[simp] theorem State.flow_core_loads (s : State) (f : Flow) : (s.flow f).core.loads = s.core.loads := rfl
@[simp] theorem State.flow_core_handler (s : State) (f : Flow) : (s.flow f).core.handler = s.core.handler := rfl
@[simp] theorem State.flow_core_bound (s : State) (f : Flow) : (s.flow f).core.bound = s.core.bound := rfl
@[simp] theorem State.flow_core_sync (s : State) (f : Flow) : (s.flow f).core.sync = s.core.sync := rfl
@[simp] theorem State.flow_core_inject (s : State) (f : Flow) : (s.flow f).core.inject = s.core.inject := rfl
@[simp] theorem State.flow_core_mx (s : State) (f : Flow) : (s.flow f).core.mx = s.core.mx := rfl
@[simp] theorem State.flow_core_tlb (s : State) (f : Flow) : (s.flow f).core.tlb = s.core.tlb := rfl
@[simp] theorem State.flow_core_part (s : State) (f : Flow) : (s.flow f).core.part = s.core.part := rfl
@[simp] theorem State.flow_core_spoiled (s : State) (f : Flow) : (s.flow f).core.spoiled = s.core.spoiled := rfl
@[simp] theorem State.flow_issue_slot (s : State) (f : Flow) : (s.flow f).core.issue.slot = s.core.issue.slot := rfl
@[simp] theorem State.flow_issue_ext (s : State) (f : Flow) : (s.flow f).core.issue.ext = s.core.issue.ext := rfl
@[simp] theorem State.flow_issue_suppressed (s : State) (f : Flow) : (s.flow f).core.issue.suppressed = s.core.issue.suppressed := rfl
@[simp] theorem State.flow_issue_unit (s : State) (f : Flow) : (s.flow f).core.issue.unit = s.core.issue.unit := rfl
@[simp] theorem State.flow_issue_replay (s : State) (f : Flow) : (s.flow f).core.issue.replay = s.core.issue.replay := rfl
@[simp] theorem State.flow_issue_checked (s : State) (f : Flow) : (s.flow f).core.issue.checked = s.core.issue.checked := rfl

/-! ### Updates of every core and of a task -/

@[simp] theorem State.mapCores_core (s : State) (f : Core → Core) : (s.mapCores f).core = f s.core := rfl
@[simp] theorem State.mapCores_rest (s : State) (f : Core → Core) : (s.mapCores f).rest = s.rest.map f := rfl
@[simp] theorem State.mapCores_cores (s : State) (f : Core → Core) : (s.mapCores f).cores = s.cores.map f := rfl
@[simp] theorem State.mapCores_agenda (s : State) (f : Core → Core) : (s.mapCores f).agenda = s.agenda := rfl
@[simp] theorem State.mapCores_fresh (s : State) (f : Core → Core) : (s.mapCores f).fresh = s.fresh := rfl
@[simp] theorem State.mapCores_clock (s : State) (f : Core → Core) : (s.mapCores f).clock = s.clock := rfl
@[simp] theorem State.mapCores_mem (s : State) (f : Core → Core) : (s.mapCores f).mem = s.mem := rfl
@[simp] theorem State.mapCores_poison (s : State) (f : Core → Core) : (s.mapCores f).poison = s.poison := rfl
@[simp] theorem State.mapCores_walkA (s : State) (f : Core → Core) : (s.mapCores f).walkA = s.walkA := rfl
@[simp] theorem State.mapCores_walkB (s : State) (f : Core → Core) : (s.mapCores f).walkB = s.walkB := rfl
@[simp] theorem State.mapCores_walkP (s : State) (f : Core → Core) : (s.mapCores f).walkP = s.walkP := rfl
@[simp] theorem State.mapCores_hm (s : State) (f : Core → Core) : (s.mapCores f).hm = s.hm := rfl
@[simp] theorem State.mapCores_quays (s : State) (f : Core → Core) : (s.mapCores f).quays = s.quays := rfl
@[simp] theorem State.mapCores_hot (s : State) (f : Core → Core) : (s.mapCores f).hot = s.hot := rfl
@[simp] theorem State.mapCores_windows (s : State) (f : Core → Core) : (s.mapCores f).windows = s.windows := rfl
@[simp] theorem State.mapCores_bond (s : State) (f : Core → Core) : (s.mapCores f).bond = s.bond := rfl
@[simp] theorem State.mapCores_ctrls (s : State) (f : Core → Core) : (s.mapCores f).ctrls = s.ctrls := rfl
@[simp] theorem State.mapCores_ferry (s : State) (f : Core → Core) : (s.mapCores f).ferry = s.ferry := rfl
@[simp] theorem State.mapCores_host (s : State) (f : Core → Core) : (s.mapCores f).host = s.host := rfl
@[simp] theorem State.mapCores_pilot (s : State) (f : Core → Core) : (s.mapCores f).pilot = s.pilot := rfl
@[simp] theorem State.mapCores_maps (s : State) (f : Core → Core) : (s.mapCores f).maps = s.maps := rfl
@[simp] theorem State.mapCores_links (s : State) (f : Core → Core) : (s.mapCores f).links = s.links := rfl
@[simp] theorem State.mapCores_fades (s : State) (f : Core → Core) : (s.mapCores f).fades = s.fades := rfl
@[simp] theorem State.mapTask_tasks (s : State) (n : Nat) (f : Task → Task) :
    (s.mapTask n f).hm.tasks = s.hm.tasks.map fun t => if t.num = n then f t else t := rfl
@[simp] theorem State.mapTask_core (s : State) (n : Nat) (f : Task → Task) : (s.mapTask n f).core = s.core := rfl
@[simp] theorem State.mapTask_rest (s : State) (n : Nat) (f : Task → Task) : (s.mapTask n f).rest = s.rest := rfl
@[simp] theorem State.mapTask_agenda (s : State) (n : Nat) (f : Task → Task) : (s.mapTask n f).agenda = s.agenda := rfl
@[simp] theorem State.mapTask_fresh (s : State) (n : Nat) (f : Task → Task) : (s.mapTask n f).fresh = s.fresh := rfl
@[simp] theorem State.mapTask_clock (s : State) (n : Nat) (f : Task → Task) : (s.mapTask n f).clock = s.clock := rfl
@[simp] theorem State.mapTask_mem (s : State) (n : Nat) (f : Task → Task) : (s.mapTask n f).mem = s.mem := rfl
@[simp] theorem State.mapTask_poison (s : State) (n : Nat) (f : Task → Task) : (s.mapTask n f).poison = s.poison := rfl
@[simp] theorem State.mapTask_walkA (s : State) (n : Nat) (f : Task → Task) : (s.mapTask n f).walkA = s.walkA := rfl
@[simp] theorem State.mapTask_walkB (s : State) (n : Nat) (f : Task → Task) : (s.mapTask n f).walkB = s.walkB := rfl
@[simp] theorem State.mapTask_walkP (s : State) (n : Nat) (f : Task → Task) : (s.mapTask n f).walkP = s.walkP := rfl
@[simp] theorem State.mapTask_quays (s : State) (n : Nat) (f : Task → Task) : (s.mapTask n f).quays = s.quays := rfl
@[simp] theorem State.mapTask_hot (s : State) (n : Nat) (f : Task → Task) : (s.mapTask n f).hot = s.hot := rfl
@[simp] theorem State.mapTask_windows (s : State) (n : Nat) (f : Task → Task) : (s.mapTask n f).windows = s.windows := rfl
@[simp] theorem State.mapTask_bond (s : State) (n : Nat) (f : Task → Task) : (s.mapTask n f).bond = s.bond := rfl
@[simp] theorem State.mapTask_ctrls (s : State) (n : Nat) (f : Task → Task) : (s.mapTask n f).ctrls = s.ctrls := rfl
@[simp] theorem State.mapTask_ferry (s : State) (n : Nat) (f : Task → Task) : (s.mapTask n f).ferry = s.ferry := rfl
@[simp] theorem State.mapTask_host (s : State) (n : Nat) (f : Task → Task) : (s.mapTask n f).host = s.host := rfl
@[simp] theorem State.mapTask_pilot (s : State) (n : Nat) (f : Task → Task) : (s.mapTask n f).pilot = s.pilot := rfl
@[simp] theorem State.mapTask_maps (s : State) (n : Nat) (f : Task → Task) : (s.mapTask n f).maps = s.maps := rfl
@[simp] theorem State.mapTask_links (s : State) (n : Nat) (f : Task → Task) : (s.mapTask n f).links = s.links := rfl
@[simp] theorem State.mapTask_fades (s : State) (n : Nat) (f : Task → Task) : (s.mapTask n f).fades = s.fades := rfl

/-! ### A result in flight, and faults noted for the boundary -/

@[simp] theorem Core.send_regs (c : Core) (r : Result) (lat unit : Nat) (t : Twin) (d w : Bool) : (c.send r lat unit t d w).regs = c.regs := rfl
@[simp] theorem Core.send_id (c : Core) (r : Result) (lat unit : Nat) (t : Twin) (d w : Bool) : (c.send r lat unit t d w).id = c.id := rfl
@[simp] theorem Core.send_ctl (c : Core) (r : Result) (lat unit : Nat) (t : Twin) (d w : Bool) : (c.send r lat unit t d w).ctl = c.ctl := rfl
@[simp] theorem Core.send_pool (c : Core) (r : Result) (lat unit : Nat) (t : Twin) (d w : Bool) : (c.send r lat unit t d w).pool = c.pool := rfl
@[simp] theorem Core.send_poison (c : Core) (r : Result) (lat unit : Nat) (t : Twin) (d w : Bool) : (c.send r lat unit t d w).poison = c.poison := rfl
@[simp] theorem Core.send_fetch (c : Core) (r : Result) (lat unit : Nat) (t : Twin) (d w : Bool) : (c.send r lat unit t d w).fetch = c.fetch := rfl
@[simp] theorem Core.send_tiles (c : Core) (r : Result) (lat unit : Nat) (t : Twin) (d w : Bool) : (c.send r lat unit t d w).tiles = c.tiles := rfl
@[simp] theorem Core.send_rings (c : Core) (r : Result) (lat unit : Nat) (t : Twin) (d w : Bool) : (c.send r lat unit t d w).rings = c.rings := rfl
@[simp] theorem Core.send_copy (c : Core) (r : Result) (lat unit : Nat) (t : Twin) (d w : Bool) : (c.send r lat unit t d w).copy = c.copy := rfl
@[simp] theorem Core.send_loops (c : Core) (r : Result) (lat unit : Nat) (t : Twin) (d w : Bool) : (c.send r lat unit t d w).loops = c.loops := rfl
@[simp] theorem Core.send_pend (c : Core) (r : Result) (lat unit : Nat) (t : Twin) (d w : Bool) : (c.send r lat unit t d w).pend = c.pend := rfl
@[simp] theorem Core.send_regions (c : Core) (r : Result) (lat unit : Nat) (t : Twin) (d w : Bool) : (c.send r lat unit t d w).regions = c.regions := rfl
@[simp] theorem Core.send_twinS (c : Core) (r : Result) (lat unit : Nat) (t : Twin) (d w : Bool) : (c.send r lat unit t d w).twinS = c.twinS := rfl
@[simp] theorem Core.send_twinV (c : Core) (r : Result) (lat unit : Nat) (t : Twin) (d w : Bool) : (c.send r lat unit t d w).twinV = c.twinV := rfl
@[simp] theorem Core.send_loads (c : Core) (r : Result) (lat unit : Nat) (t : Twin) (d w : Bool) : (c.send r lat unit t d w).loads = c.loads := rfl
@[simp] theorem Core.send_handler (c : Core) (r : Result) (lat unit : Nat) (t : Twin) (d w : Bool) : (c.send r lat unit t d w).handler = c.handler := rfl
@[simp] theorem Core.send_bound (c : Core) (r : Result) (lat unit : Nat) (t : Twin) (d w : Bool) : (c.send r lat unit t d w).bound = c.bound := rfl
@[simp] theorem Core.send_sync (c : Core) (r : Result) (lat unit : Nat) (t : Twin) (d w : Bool) : (c.send r lat unit t d w).sync = c.sync := rfl
@[simp] theorem Core.send_inject (c : Core) (r : Result) (lat unit : Nat) (t : Twin) (d w : Bool) : (c.send r lat unit t d w).inject = c.inject := rfl
@[simp] theorem Core.send_mx (c : Core) (r : Result) (lat unit : Nat) (t : Twin) (d w : Bool) : (c.send r lat unit t d w).mx = c.mx := rfl
@[simp] theorem Core.send_tlb (c : Core) (r : Result) (lat unit : Nat) (t : Twin) (d w : Bool) : (c.send r lat unit t d w).tlb = c.tlb := rfl
@[simp] theorem Core.send_part (c : Core) (r : Result) (lat unit : Nat) (t : Twin) (d w : Bool) : (c.send r lat unit t d w).part = c.part := rfl
@[simp] theorem Core.send_issue (c : Core) (r : Result) (lat unit : Nat) (t : Twin) (d w : Bool) : (c.send r lat unit t d w).issue = c.issue := rfl
@[simp] theorem Core.send_spoiled (c : Core) (r : Result) (lat unit : Nat) (t : Twin) (d w : Bool) : (c.send r lat unit t d w).spoiled = c.spoiled := rfl
@[simp] theorem Core.send_flight (c : Core) (r : Result) (lat unit : Nat) (t : Twin) (d w : Bool) :
    (c.send r lat unit t d w).flight = c.flight ++ [⟨r, c.issueCycle + lat, unit, c.issueCycle, c.issue.slot, t, d, w⟩] := rfl
@[simp] theorem Core.fatal_regs (c : Core) (n : Nat) : (c.fatal n).regs = c.regs := rfl
@[simp] theorem Core.fatal_id (c : Core) (n : Nat) : (c.fatal n).id = c.id := rfl
@[simp] theorem Core.fatal_ctl (c : Core) (n : Nat) : (c.fatal n).ctl = c.ctl := rfl
@[simp] theorem Core.fatal_pool (c : Core) (n : Nat) : (c.fatal n).pool = c.pool := rfl
@[simp] theorem Core.fatal_poison (c : Core) (n : Nat) : (c.fatal n).poison = c.poison := rfl
@[simp] theorem Core.fatal_fetch (c : Core) (n : Nat) : (c.fatal n).fetch = c.fetch := rfl
@[simp] theorem Core.fatal_tiles (c : Core) (n : Nat) : (c.fatal n).tiles = c.tiles := rfl
@[simp] theorem Core.fatal_rings (c : Core) (n : Nat) : (c.fatal n).rings = c.rings := rfl
@[simp] theorem Core.fatal_copy (c : Core) (n : Nat) : (c.fatal n).copy = c.copy := rfl
@[simp] theorem Core.fatal_loops (c : Core) (n : Nat) : (c.fatal n).loops = c.loops := rfl
@[simp] theorem Core.fatal_pend (c : Core) (n : Nat) : (c.fatal n).pend = c.pend := rfl
@[simp] theorem Core.fatal_regions (c : Core) (n : Nat) : (c.fatal n).regions = c.regions := rfl
@[simp] theorem Core.fatal_twinS (c : Core) (n : Nat) : (c.fatal n).twinS = c.twinS := rfl
@[simp] theorem Core.fatal_twinV (c : Core) (n : Nat) : (c.fatal n).twinV = c.twinV := rfl
@[simp] theorem Core.fatal_flight (c : Core) (n : Nat) : (c.fatal n).flight = c.flight := rfl
@[simp] theorem Core.fatal_loads (c : Core) (n : Nat) : (c.fatal n).loads = c.loads := rfl
@[simp] theorem Core.fatal_handler (c : Core) (n : Nat) : (c.fatal n).handler = c.handler := rfl
@[simp] theorem Core.fatal_sync (c : Core) (n : Nat) : (c.fatal n).sync = c.sync := rfl
@[simp] theorem Core.fatal_inject (c : Core) (n : Nat) : (c.fatal n).inject = c.inject := rfl
@[simp] theorem Core.fatal_mx (c : Core) (n : Nat) : (c.fatal n).mx = c.mx := rfl
@[simp] theorem Core.fatal_tlb (c : Core) (n : Nat) : (c.fatal n).tlb = c.tlb := rfl
@[simp] theorem Core.fatal_part (c : Core) (n : Nat) : (c.fatal n).part = c.part := rfl
@[simp] theorem Core.fatal_issue (c : Core) (n : Nat) : (c.fatal n).issue = c.issue := rfl
@[simp] theorem Core.fatal_spoiled (c : Core) (n : Nat) : (c.fatal n).spoiled = c.spoiled := rfl

/-! ### Writes of registers -/

@[simp] theorem Core.setS_id (c : Core) (r : BitVec 6) (x : Word) : (c.setS r x).id = c.id := by unfold Core.setS; split <;> rfl
@[simp] theorem Core.setS_ctl (c : Core) (r : BitVec 6) (x : Word) : (c.setS r x).ctl = c.ctl := by unfold Core.setS; split <;> rfl
@[simp] theorem Core.setS_pool (c : Core) (r : BitVec 6) (x : Word) : (c.setS r x).pool = c.pool := by unfold Core.setS; split <;> rfl
@[simp] theorem Core.setS_poison (c : Core) (r : BitVec 6) (x : Word) : (c.setS r x).poison = c.poison := by unfold Core.setS; split <;> rfl
@[simp] theorem Core.setS_fetch (c : Core) (r : BitVec 6) (x : Word) : (c.setS r x).fetch = c.fetch := by unfold Core.setS; split <;> rfl
@[simp] theorem Core.setS_tiles (c : Core) (r : BitVec 6) (x : Word) : (c.setS r x).tiles = c.tiles := by unfold Core.setS; split <;> rfl
@[simp] theorem Core.setS_rings (c : Core) (r : BitVec 6) (x : Word) : (c.setS r x).rings = c.rings := by unfold Core.setS; split <;> rfl
@[simp] theorem Core.setS_copy (c : Core) (r : BitVec 6) (x : Word) : (c.setS r x).copy = c.copy := by unfold Core.setS; split <;> rfl
@[simp] theorem Core.setS_loops (c : Core) (r : BitVec 6) (x : Word) : (c.setS r x).loops = c.loops := by unfold Core.setS; split <;> rfl
@[simp] theorem Core.setS_pend (c : Core) (r : BitVec 6) (x : Word) : (c.setS r x).pend = c.pend := by unfold Core.setS; split <;> rfl
@[simp] theorem Core.setS_regions (c : Core) (r : BitVec 6) (x : Word) : (c.setS r x).regions = c.regions := by unfold Core.setS; split <;> rfl
@[simp] theorem Core.setS_twinS (c : Core) (r : BitVec 6) (x : Word) : (c.setS r x).twinS = c.twinS := by unfold Core.setS; split <;> rfl
@[simp] theorem Core.setS_twinV (c : Core) (r : BitVec 6) (x : Word) : (c.setS r x).twinV = c.twinV := by unfold Core.setS; split <;> rfl
@[simp] theorem Core.setS_flight (c : Core) (r : BitVec 6) (x : Word) : (c.setS r x).flight = c.flight := by unfold Core.setS; split <;> rfl
@[simp] theorem Core.setS_loads (c : Core) (r : BitVec 6) (x : Word) : (c.setS r x).loads = c.loads := by unfold Core.setS; split <;> rfl
@[simp] theorem Core.setS_handler (c : Core) (r : BitVec 6) (x : Word) : (c.setS r x).handler = c.handler := by unfold Core.setS; split <;> rfl
@[simp] theorem Core.setS_bound (c : Core) (r : BitVec 6) (x : Word) : (c.setS r x).bound = c.bound := by unfold Core.setS; split <;> rfl
@[simp] theorem Core.setS_sync (c : Core) (r : BitVec 6) (x : Word) : (c.setS r x).sync = c.sync := by unfold Core.setS; split <;> rfl
@[simp] theorem Core.setS_inject (c : Core) (r : BitVec 6) (x : Word) : (c.setS r x).inject = c.inject := by unfold Core.setS; split <;> rfl
@[simp] theorem Core.setS_mx (c : Core) (r : BitVec 6) (x : Word) : (c.setS r x).mx = c.mx := by unfold Core.setS; split <;> rfl
@[simp] theorem Core.setS_tlb (c : Core) (r : BitVec 6) (x : Word) : (c.setS r x).tlb = c.tlb := by unfold Core.setS; split <;> rfl
@[simp] theorem Core.setS_part (c : Core) (r : BitVec 6) (x : Word) : (c.setS r x).part = c.part := by unfold Core.setS; split <;> rfl
@[simp] theorem Core.setS_issue (c : Core) (r : BitVec 6) (x : Word) : (c.setS r x).issue = c.issue := by unfold Core.setS; split <;> rfl
@[simp] theorem Core.setS_spoiled (c : Core) (r : BitVec 6) (x : Word) : (c.setS r x).spoiled = c.spoiled := by unfold Core.setS; split <;> rfl
@[simp] theorem Core.setQ_id (c : Core) (r : BitVec 4) (x : Bool) : (c.setQ r x).id = c.id := by unfold Core.setQ; split <;> rfl
@[simp] theorem Core.setQ_ctl (c : Core) (r : BitVec 4) (x : Bool) : (c.setQ r x).ctl = c.ctl := by unfold Core.setQ; split <;> rfl
@[simp] theorem Core.setQ_pool (c : Core) (r : BitVec 4) (x : Bool) : (c.setQ r x).pool = c.pool := by unfold Core.setQ; split <;> rfl
@[simp] theorem Core.setQ_poison (c : Core) (r : BitVec 4) (x : Bool) : (c.setQ r x).poison = c.poison := by unfold Core.setQ; split <;> rfl
@[simp] theorem Core.setQ_fetch (c : Core) (r : BitVec 4) (x : Bool) : (c.setQ r x).fetch = c.fetch := by unfold Core.setQ; split <;> rfl
@[simp] theorem Core.setQ_tiles (c : Core) (r : BitVec 4) (x : Bool) : (c.setQ r x).tiles = c.tiles := by unfold Core.setQ; split <;> rfl
@[simp] theorem Core.setQ_rings (c : Core) (r : BitVec 4) (x : Bool) : (c.setQ r x).rings = c.rings := by unfold Core.setQ; split <;> rfl
@[simp] theorem Core.setQ_copy (c : Core) (r : BitVec 4) (x : Bool) : (c.setQ r x).copy = c.copy := by unfold Core.setQ; split <;> rfl
@[simp] theorem Core.setQ_loops (c : Core) (r : BitVec 4) (x : Bool) : (c.setQ r x).loops = c.loops := by unfold Core.setQ; split <;> rfl
@[simp] theorem Core.setQ_pend (c : Core) (r : BitVec 4) (x : Bool) : (c.setQ r x).pend = c.pend := by unfold Core.setQ; split <;> rfl
@[simp] theorem Core.setQ_regions (c : Core) (r : BitVec 4) (x : Bool) : (c.setQ r x).regions = c.regions := by unfold Core.setQ; split <;> rfl
@[simp] theorem Core.setQ_twinS (c : Core) (r : BitVec 4) (x : Bool) : (c.setQ r x).twinS = c.twinS := by unfold Core.setQ; split <;> rfl
@[simp] theorem Core.setQ_twinV (c : Core) (r : BitVec 4) (x : Bool) : (c.setQ r x).twinV = c.twinV := by unfold Core.setQ; split <;> rfl
@[simp] theorem Core.setQ_flight (c : Core) (r : BitVec 4) (x : Bool) : (c.setQ r x).flight = c.flight := by unfold Core.setQ; split <;> rfl
@[simp] theorem Core.setQ_loads (c : Core) (r : BitVec 4) (x : Bool) : (c.setQ r x).loads = c.loads := by unfold Core.setQ; split <;> rfl
@[simp] theorem Core.setQ_handler (c : Core) (r : BitVec 4) (x : Bool) : (c.setQ r x).handler = c.handler := by unfold Core.setQ; split <;> rfl
@[simp] theorem Core.setQ_bound (c : Core) (r : BitVec 4) (x : Bool) : (c.setQ r x).bound = c.bound := by unfold Core.setQ; split <;> rfl
@[simp] theorem Core.setQ_sync (c : Core) (r : BitVec 4) (x : Bool) : (c.setQ r x).sync = c.sync := by unfold Core.setQ; split <;> rfl
@[simp] theorem Core.setQ_inject (c : Core) (r : BitVec 4) (x : Bool) : (c.setQ r x).inject = c.inject := by unfold Core.setQ; split <;> rfl
@[simp] theorem Core.setQ_mx (c : Core) (r : BitVec 4) (x : Bool) : (c.setQ r x).mx = c.mx := by unfold Core.setQ; split <;> rfl
@[simp] theorem Core.setQ_tlb (c : Core) (r : BitVec 4) (x : Bool) : (c.setQ r x).tlb = c.tlb := by unfold Core.setQ; split <;> rfl
@[simp] theorem Core.setQ_part (c : Core) (r : BitVec 4) (x : Bool) : (c.setQ r x).part = c.part := by unfold Core.setQ; split <;> rfl
@[simp] theorem Core.setQ_issue (c : Core) (r : BitVec 4) (x : Bool) : (c.setQ r x).issue = c.issue := by unfold Core.setQ; split <;> rfl
@[simp] theorem Core.setQ_spoiled (c : Core) (r : BitVec 4) (x : Bool) : (c.setQ r x).spoiled = c.spoiled := by unfold Core.setQ; split <;> rfl
@[simp] theorem Core.setV_id (c : Core) (r : BitVec 5) (x : VReg) : (c.setV r x).id = c.id := rfl
@[simp] theorem Core.setV_ctl (c : Core) (r : BitVec 5) (x : VReg) : (c.setV r x).ctl = c.ctl := rfl
@[simp] theorem Core.setV_pool (c : Core) (r : BitVec 5) (x : VReg) : (c.setV r x).pool = c.pool := rfl
@[simp] theorem Core.setV_poison (c : Core) (r : BitVec 5) (x : VReg) : (c.setV r x).poison = c.poison := rfl
@[simp] theorem Core.setV_fetch (c : Core) (r : BitVec 5) (x : VReg) : (c.setV r x).fetch = c.fetch := rfl
@[simp] theorem Core.setV_tiles (c : Core) (r : BitVec 5) (x : VReg) : (c.setV r x).tiles = c.tiles := rfl
@[simp] theorem Core.setV_rings (c : Core) (r : BitVec 5) (x : VReg) : (c.setV r x).rings = c.rings := rfl
@[simp] theorem Core.setV_copy (c : Core) (r : BitVec 5) (x : VReg) : (c.setV r x).copy = c.copy := rfl
@[simp] theorem Core.setV_loops (c : Core) (r : BitVec 5) (x : VReg) : (c.setV r x).loops = c.loops := rfl
@[simp] theorem Core.setV_pend (c : Core) (r : BitVec 5) (x : VReg) : (c.setV r x).pend = c.pend := rfl
@[simp] theorem Core.setV_regions (c : Core) (r : BitVec 5) (x : VReg) : (c.setV r x).regions = c.regions := rfl
@[simp] theorem Core.setV_twinS (c : Core) (r : BitVec 5) (x : VReg) : (c.setV r x).twinS = c.twinS := rfl
@[simp] theorem Core.setV_twinV (c : Core) (r : BitVec 5) (x : VReg) : (c.setV r x).twinV = c.twinV := rfl
@[simp] theorem Core.setV_flight (c : Core) (r : BitVec 5) (x : VReg) : (c.setV r x).flight = c.flight := rfl
@[simp] theorem Core.setV_loads (c : Core) (r : BitVec 5) (x : VReg) : (c.setV r x).loads = c.loads := rfl
@[simp] theorem Core.setV_handler (c : Core) (r : BitVec 5) (x : VReg) : (c.setV r x).handler = c.handler := rfl
@[simp] theorem Core.setV_bound (c : Core) (r : BitVec 5) (x : VReg) : (c.setV r x).bound = c.bound := rfl
@[simp] theorem Core.setV_sync (c : Core) (r : BitVec 5) (x : VReg) : (c.setV r x).sync = c.sync := rfl
@[simp] theorem Core.setV_inject (c : Core) (r : BitVec 5) (x : VReg) : (c.setV r x).inject = c.inject := rfl
@[simp] theorem Core.setV_mx (c : Core) (r : BitVec 5) (x : VReg) : (c.setV r x).mx = c.mx := rfl
@[simp] theorem Core.setV_tlb (c : Core) (r : BitVec 5) (x : VReg) : (c.setV r x).tlb = c.tlb := rfl
@[simp] theorem Core.setV_part (c : Core) (r : BitVec 5) (x : VReg) : (c.setV r x).part = c.part := rfl
@[simp] theorem Core.setV_issue (c : Core) (r : BitVec 5) (x : VReg) : (c.setV r x).issue = c.issue := rfl
@[simp] theorem Core.setV_spoiled (c : Core) (r : BitVec 5) (x : VReg) : (c.setV r x).spoiled = c.spoiled := rfl
@[simp] theorem Core.setM_id (c : Core) (r : BitVec 3) (x : Mask) : (c.setM r x).id = c.id := by unfold Core.setM; split <;> rfl
@[simp] theorem Core.setM_ctl (c : Core) (r : BitVec 3) (x : Mask) : (c.setM r x).ctl = c.ctl := by unfold Core.setM; split <;> rfl
@[simp] theorem Core.setM_pool (c : Core) (r : BitVec 3) (x : Mask) : (c.setM r x).pool = c.pool := by unfold Core.setM; split <;> rfl
@[simp] theorem Core.setM_poison (c : Core) (r : BitVec 3) (x : Mask) : (c.setM r x).poison = c.poison := by unfold Core.setM; split <;> rfl
@[simp] theorem Core.setM_fetch (c : Core) (r : BitVec 3) (x : Mask) : (c.setM r x).fetch = c.fetch := by unfold Core.setM; split <;> rfl
@[simp] theorem Core.setM_tiles (c : Core) (r : BitVec 3) (x : Mask) : (c.setM r x).tiles = c.tiles := by unfold Core.setM; split <;> rfl
@[simp] theorem Core.setM_rings (c : Core) (r : BitVec 3) (x : Mask) : (c.setM r x).rings = c.rings := by unfold Core.setM; split <;> rfl
@[simp] theorem Core.setM_copy (c : Core) (r : BitVec 3) (x : Mask) : (c.setM r x).copy = c.copy := by unfold Core.setM; split <;> rfl
@[simp] theorem Core.setM_loops (c : Core) (r : BitVec 3) (x : Mask) : (c.setM r x).loops = c.loops := by unfold Core.setM; split <;> rfl
@[simp] theorem Core.setM_pend (c : Core) (r : BitVec 3) (x : Mask) : (c.setM r x).pend = c.pend := by unfold Core.setM; split <;> rfl
@[simp] theorem Core.setM_regions (c : Core) (r : BitVec 3) (x : Mask) : (c.setM r x).regions = c.regions := by unfold Core.setM; split <;> rfl
@[simp] theorem Core.setM_twinS (c : Core) (r : BitVec 3) (x : Mask) : (c.setM r x).twinS = c.twinS := by unfold Core.setM; split <;> rfl
@[simp] theorem Core.setM_twinV (c : Core) (r : BitVec 3) (x : Mask) : (c.setM r x).twinV = c.twinV := by unfold Core.setM; split <;> rfl
@[simp] theorem Core.setM_flight (c : Core) (r : BitVec 3) (x : Mask) : (c.setM r x).flight = c.flight := by unfold Core.setM; split <;> rfl
@[simp] theorem Core.setM_loads (c : Core) (r : BitVec 3) (x : Mask) : (c.setM r x).loads = c.loads := by unfold Core.setM; split <;> rfl
@[simp] theorem Core.setM_handler (c : Core) (r : BitVec 3) (x : Mask) : (c.setM r x).handler = c.handler := by unfold Core.setM; split <;> rfl
@[simp] theorem Core.setM_bound (c : Core) (r : BitVec 3) (x : Mask) : (c.setM r x).bound = c.bound := by unfold Core.setM; split <;> rfl
@[simp] theorem Core.setM_sync (c : Core) (r : BitVec 3) (x : Mask) : (c.setM r x).sync = c.sync := by unfold Core.setM; split <;> rfl
@[simp] theorem Core.setM_inject (c : Core) (r : BitVec 3) (x : Mask) : (c.setM r x).inject = c.inject := by unfold Core.setM; split <;> rfl
@[simp] theorem Core.setM_mx (c : Core) (r : BitVec 3) (x : Mask) : (c.setM r x).mx = c.mx := by unfold Core.setM; split <;> rfl
@[simp] theorem Core.setM_tlb (c : Core) (r : BitVec 3) (x : Mask) : (c.setM r x).tlb = c.tlb := by unfold Core.setM; split <;> rfl
@[simp] theorem Core.setM_part (c : Core) (r : BitVec 3) (x : Mask) : (c.setM r x).part = c.part := by unfold Core.setM; split <;> rfl
@[simp] theorem Core.setM_issue (c : Core) (r : BitVec 3) (x : Mask) : (c.setM r x).issue = c.issue := by unfold Core.setM; split <;> rfl
@[simp] theorem Core.setM_spoiled (c : Core) (r : BitVec 3) (x : Mask) : (c.setM r x).spoiled = c.spoiled := by unfold Core.setM; split <;> rfl

/-- s0 reads as zero (R43). -/
@[simp] theorem Core.getS_zero (c : Core) : c.getS 0 = 0 := rfl
/-- q0 reads as true (R43). -/
@[simp] theorem Core.getQ_zero (c : Core) : c.getQ 0 = true := rfl
/-- m0 reads as all ones (R46). -/
@[simp] theorem Core.getM_zero (c : Core) : c.getM 0 = BitVec.allOnes 256 := rfl
@[simp] theorem Core.setS_zero (c : Core) (x : Word) : c.setS 0 x = c := rfl
@[simp] theorem Core.setQ_zero (c : Core) (x : Bool) : c.setQ 0 x = c := rfl
@[simp] theorem Core.setM_zero (c : Core) (x : Mask) : c.setM 0 x = c := rfl

theorem vget_set {α : Type} {n : Nat} (v : Vector α n) (i : Nat) (h : i < n) (x : α) (j : Fin n) :
    (v.set i x h).get j = if i = j.val then x else v.get j := by
  show (v.set i x h)[j.val] = _
  rw [Vector.getElem_set]; rfl

/-- A read after a write of an S register: the value written, unless the register is s0; every other one as before. -/
theorem Core.getS_setS (c : Core) (r d : BitVec 6) (x : Word) :
    (c.setS d x).getS r = if r = d ∧ d ≠ 0 then x else c.getS r := by
  unfold Core.getS Core.setS
  by_cases hd : d = 0
  · rw [if_pos hd, if_neg (fun h : r = d ∧ d ≠ 0 => h.2 hd)]
  · rw [if_neg hd]
    by_cases hr : r = d
    · subst hr; rw [if_neg hd, if_pos ⟨rfl, hd⟩, vget_set]; exact if_pos rfl
    · have h : d.toNat ≠ r.toNat := fun h => hr (BitVec.eq_of_toNat_eq h.symm)
      rw [if_neg (fun h' : r = d ∧ d ≠ 0 => hr h'.1)]
      by_cases h0 : r = 0
      · rw [if_pos h0, if_pos h0]
      · rw [if_neg h0, if_neg h0, vget_set]; exact if_neg h

theorem Core.getQ_setQ (c : Core) (r d : BitVec 4) (x : Bool) :
    (c.setQ d x).getQ r = if r = d ∧ d ≠ 0 then x else c.getQ r := by
  unfold Core.getQ Core.setQ
  by_cases hd : d = 0
  · rw [if_pos hd, if_neg (fun h : r = d ∧ d ≠ 0 => h.2 hd)]
  · rw [if_neg hd]
    by_cases hr : r = d
    · subst hr; rw [if_neg hd, if_pos ⟨rfl, hd⟩, vget_set]; exact if_pos rfl
    · have h : d.toNat ≠ r.toNat := fun h => hr (BitVec.eq_of_toNat_eq h.symm)
      rw [if_neg (fun h' : r = d ∧ d ≠ 0 => hr h'.1)]
      by_cases h0 : r = 0
      · rw [if_pos h0, if_pos h0]
      · rw [if_neg h0, if_neg h0, vget_set]; exact if_neg h

theorem Core.getM_setM (c : Core) (r d : BitVec 3) (x : Mask) :
    (c.setM d x).getM r = if r = d ∧ d ≠ 0 then x else c.getM r := by
  unfold Core.getM Core.setM
  by_cases hd : d = 0
  · rw [if_pos hd, if_neg (fun h : r = d ∧ d ≠ 0 => h.2 hd)]
  · rw [if_neg hd]
    by_cases hr : r = d
    · subst hr; rw [if_neg hd, if_pos ⟨rfl, hd⟩, vget_set]; exact if_pos rfl
    · have h : d.toNat ≠ r.toNat := fun h => hr (BitVec.eq_of_toNat_eq h.symm)
      rw [if_neg (fun h' : r = d ∧ d ≠ 0 => hr h'.1)]
      by_cases h0 : r = 0
      · rw [if_pos h0, if_pos h0]
      · rw [if_neg h0, if_neg h0, vget_set]; exact if_neg h

theorem Core.getV_setV (c : Core) (r d : BitVec 5) (x : VReg) :
    (c.setV d x).getV r = if r = d then x else c.getV r := by
  unfold Core.getV Core.setV
  by_cases hr : r = d
  · subst hr; rw [if_pos rfl, vget_set]; exact if_pos rfl
  · rw [if_neg hr, vget_set]; exact if_neg fun h => hr (BitVec.eq_of_toNat_eq h.symm)

/-! ### The rule of every slot (R61, R85) -/

/-- A predicate-false slot has no effect. -/
theorem State.slot_off (s : State) (bad : Option Nat) (stall : Bool) (e : State → State) :
    s.slot false bad stall e = s.flow .ran := rfl

/-- A slot that passes its checks and does not stall takes effect. -/
theorem State.slot_runs (s : State) (e : State → State) : s.slot true none false e = e (s.flow .ran) := by
  unfold State.slot; cases s.core.issue.checked <;> rfl

/-- A slot of a bundle that has passed its checks takes effect. -/
theorem State.slot_checked {s : State} (h : s.core.issue.checked = true) (bad : Option Nat) (stall : Bool) (e : State → State) :
    s.slot true bad stall e = e (s.flow .ran) := by
  simp [State.slot, h]

/-- A failing check traps at issue. -/
theorem State.slot_traps {s : State} (h : s.core.issue.checked = false) (code : Nat) (stall : Bool) (e : State → State) :
    s.slot true (some code) stall e = s.trapAt code s.core.issue.slot := by
  simp [State.slot, h]

/-- A slot that stalls changes nothing. -/
theorem State.slot_stalls {s : State} (h : s.core.issue.checked = false) (e : State → State) :
    s.slot true none true e = s.flow .stalled := by
  simp [State.slot, h]

@[simp] theorem firstBad_nil : firstBad [] = none := rfl
@[simp] theorem firstBad_false (c : Nat) (r : List (Bool × Nat)) : firstBad ((false, c) :: r) = firstBad r := rfl
@[simp] theorem firstBad_true (c : Nat) (r : List (Bool × Nat)) : firstBad ((true, c) :: r) = some c := rfl
@[simp] theorem known_true (b : Option Nat) : known true b = none := rfl
@[simp] theorem known_false (b : Option Nat) : known false b = b := rfl

/-- No check fails exactly when each is false. -/
theorem firstBad_eq_none (l : List (Bool × Nat)) : firstBad l = none ↔ ∀ p ∈ l, p.1 = false := by
  induction l with
  | nil => simp
  | cons p r ih =>
    obtain ⟨b, c⟩ := p
    cases b <;> simp [firstBad, ih]

end Sys2Proof.Machine
end

