-- ==== Sys2Proof/Laws/Ops.lean ====
section
/-! SUPPORT. What the shared operations do, in the words of Safety: the results a slot sends, the addresses of the memory
forms, scratchpad stores; and that every memory operation keeps the canonical form. -/

namespace Sys2Proof.Machine

/-! ### Results in flight -/

/-- What `send` can do: one more result in flight. -/
theorem Core.send_eq (c : Core) (r : Result) (lat unit : Nat) (t : Twin) (d w : Bool) :
    c.send r lat unit t d w = Safety.withResult c r lat unit t d w := rfl

/-- A slot that only sends a result. -/
theorem State.send_eq (s : State) (r : Result) (lat unit : Nat) (t : Twin) (d w : Bool) :
    (s.flow .ran).onCore (fun c => c.send r lat unit t d w) = Safety.sent s r lat unit t d w := rfl

/-- A slot that only changes the core. -/
theorem State.flow_ran (s : State) : s.flow .ran = Safety.ranTo s s.core := rfl

/-- The stall of an S3-form slot is absent when none of its registers waits (R31). -/
theorem freeS3_stall {c : Core} {x : S3} (h : Safety.freeS3 c x) :
    (c.pending x.a || (!x.i && c.pending x.b) || c.pendingW x.d || (false && c.pending x.d)) = false := by
  obtain ⟨ha, hb, hd⟩ := h
  cases hi : x.i <;> simp_all

/-- What an S3-form slot can do when it is on, passes its check and finds its registers: it sends its result (R296). -/
theorem State.execS3_sends (s : State) (x : S3) (cls lat : Nat) (div : Bool) (f : Core → Word → Word → Word)
    (h : Safety.freeS3 s.core x) :
    s.execS3 x true none cls lat div f =
      .next (Safety.sentS3 s x (f (s.flow .ran).core (s.core.src 0 x.a) (s.core.opB x)) cls lat div) := by
  simp only [State.execS3, freeS3_stall h, State.slot_runs]
  rfl

/-! ### Addresses (R72, R77) -/

theorem sext_toNat {w : Nat} (x : BitVec (w + 1)) : sext (w + 1) x.toNat = x.toInt := by
  have hx := x.isLt
  unfold sext
  rw [BitVec.toInt_eq_toNat_cond, Nat.mod_eq_of_lt hx]
  have h2 : (2 : Nat) ^ (w + 1) = 2 * 2 ^ w := by rw [Nat.pow_succ, Nat.mul_comm]
  by_cases h : x.toNat < 2 ^ w
  · have : x.toNat / 2 ^ w = 0 := Nat.div_eq_of_lt h
    rw [Nat.add_sub_cancel, this, if_neg (by decide), if_pos (by omega)]
  · have : x.toNat / 2 ^ w = 1 := by
      apply Nat.div_eq_of_lt_le <;> omega
    rw [Nat.add_sub_cancel, this, if_pos (by decide), if_neg (by omega)]

theorem lent_append {w : Nat} (e : BitVec 23) (x : BitVec w) : lent e w x = (e ++ x).toNat := by
  rw [BitVec.toNat_append, lent, Nat.mul_comm, Nat.two_pow_add_eq_or_of_lt x.isLt, Nat.shiftLeft_eq, Nat.mul_comm]

/-- The offset of a memory form is the signed field times the size. -/
theorem Core.opOff_eq (c : Core) (size : BitVec 2) (off : BitVec 4) :
    c.opOff size off = BitVec.ofInt 64 (Safety.offset c size off) := by
  unfold Core.opOff Safety.offset
  cases c.issue.ext with
  | none => revert off size; decide
  | some e =>
    have h : sext 27 (lent e 4 off) = (e ++ off).toInt := by rw [lent_append]; exact sext_toNat (w := 26) _
    simp only [h, sizeBytes]
    rw [Int.mul_comm]; norm_cast

/-- The effective address of a slot that is not replayed. -/
theorem Core.address_eq {c : Core} (h : c.issue.replay = none) (x : SMem) : c.address x = Safety.addr c x := by
  simp only [Core.address, Safety.addr, h, Core.opOff_eq]

theorem Core.postInc_eq (c : Core) (x : SMem) : c.postInc x = Safety.withPost c x := by
  simp only [Core.postInc, Safety.withPost, Core.opOff_eq]; rfl

/-! ### The scratchpad (R50, R192) -/

theorem Core.windowBad_of_share {c : Core} {va : Word} {n : Nat} (h : Safety.inWindowShare c va n) : c.windowBad va n = false := by
  obtain ⟨-, h2⟩ := h
  simp only [Safety.windowOff] at h2
  simp [Core.windowBad, Core.inShare, Core.spBytes, h2]

theorem range_getD (bs : List Byte) : (List.range bs.length).map (fun i => bs.getD i 0) = bs := by
  apply List.ext_getElem
  · simp
  · intro i h1 h2; simp [h2]

/-- What a scratchpad write can do: the bytes and the poison of the granules they cover. -/
theorem Core.spWrite_eq (c : Core) (off : Nat) {bs : List Byte} (h : bs ≠ []) :
    c.spWrite off bs = Safety.withScratch c off bs := by
  simp [Core.spWrite, Core.poolWrite, Safety.withScratch, h]

/-! ### The canonical form of a core's memories -/

/-- It depends on the pool and the two instruction banks alone. -/
theorem coreMem_congr {c d : Core} (h1 : d.pool = c.pool) (h2 : d.fetch.bank0 = c.fetch.bank0)
    (h3 : d.fetch.bank1 = c.fetch.bank1) : Safety.coreMem d = Safety.coreMem c := by
  simp only [Safety.coreMem, h1, h2, h3]

theorem coreMem_iff (c : Core) :
    Safety.coreMem c = true ↔ c.pool.wf = true ∧ c.fetch.bank0.wf = true ∧ c.fetch.bank1.wf = true := by
  simp [Safety.coreMem, and_assoc]

theorem coreMem_reset (n : Nat) : Safety.coreMem (Core.reset n) = true := rfl

theorem coreMem_pool {c : Core} (h : Safety.coreMem c = true) (a : Nat) (bs : List Byte) (p : List Nat) :
    Safety.coreMem { c with pool := c.pool.write a bs, poison := p } = true := by
  rw [coreMem_iff] at *
  exact ⟨Mem.write_wf h.1 a bs, h.2⟩

theorem Core.poolWrite_wf {c : Core} (h : Safety.coreMem c = true) (a : Nat) (bs : List Byte) (bad : Bool) :
    Safety.coreMem (c.poolWrite a bs bad) = true := by
  unfold Core.poolWrite
  split
  · exact h
  · exact coreMem_pool h _ _ _

theorem Core.spWrite_wf {c : Core} (h : Safety.coreMem c = true) (off : Nat) (bs : List Byte) (bad : Bool) :
    Safety.coreMem (c.spWrite off bs bad) = true := Core.poolWrite_wf h _ _ _

theorem Core.spPut_wf {c : Core} (h : Safety.coreMem c = true) (off : Nat) (bs : List Byte) (keep : Nat → Bool) :
    Safety.coreMem (c.spPut off bs keep) = true := coreMem_pool h _ _ _

theorem Core.caught_wf {c : Core} (h : Safety.coreMem c = true) (why code : Nat) :
    Safety.coreMem (c.caught why code) = true := by
  unfold Core.caught
  split
  · split <;> exact h
  · exact h

theorem Core.logAppend_wf {c d : Core} (h : Safety.coreMem c = true) {k l : Nat} {bs : List Byte}
    (e : c.logAppend k l bs = some d) : Safety.coreMem d = true := by
  unfold Core.logAppend at e
  simp only [] at e
  split at e
  · cases e
  · cases e; exact Core.spWrite_wf h _ _ _

theorem Core.logAll_wf : ∀ {c : Core} (rs : List (Nat × Nat × List Byte)), Safety.coreMem c = true →
    Safety.coreMem (c.logAll rs).1 = true
  | _, [], h => h
  | c, (k, l, d) :: r, h => by
    unfold Core.logAll
    split
    · exact Core.caught_wf h _ _
    · rename_i e; exact Core.logAll_wf r (Core.logAppend_wf h e)

theorem Core.spPuts_wf : ∀ (ps : List (Nat × List Byte × (Nat → Bool))) {c : Core}, Safety.coreMem c = true →
    Safety.coreMem (ps.foldl (fun c p => c.spPut p.1 p.2.1 p.2.2) c) = true
  | [], _, h => h
  | p :: r, _, h => Core.spPuts_wf r (Core.spPut_wf h p.1 p.2.1 p.2.2)

theorem Core.spStore_wf {c : Core} (h : Safety.coreMem c = true) (ps : List (Nat × List Byte × (Nat → Bool))) :
    Safety.coreMem (c.spStore ps) = true := by
  unfold Core.spStore
  by_cases hd : c.depth > 0
  · simp only [hd, if_true]
    have hl := Core.logAll_wf (ps.map fun p => (0, p.1, c.spRead p.1 p.2.1.length)) h
    split
    · exact Core.spPuts_wf ps hl
    · exact hl
  · simp only [hd, if_false, if_true]
    exact Core.spPuts_wf ps h

theorem Core.monitorHit_wf {c : Core} (h : Safety.coreMem c = true) (pa n : Nat) :
    Safety.coreMem (c.monitorHit pa n) = true := by
  unfold Core.monitorHit
  split
  · split <;> exact h
  · exact h

/-! ### The canonical form of the module's memories -/

theorem memWf_iff (s : State) : Safety.memWf s = true ↔
    s.mem.wf = true ∧ Safety.coreMem s.core = true ∧ (∀ c ∈ s.rest, Safety.coreMem c = true) ∧
    ∀ t ∈ s.hm.tasks, ∀ c ∈ t.saved, Safety.coreMem c = true := by
  simp [Safety.memWf, State.cores, and_assoc]

/-- The memories of the state after reset. -/
theorem memWf_reset : Safety.memWf State.reset = true := by
  rw [memWf_iff]
  refine ⟨rfl, rfl, ?_, by simp [State.reset, Harbour.reset]⟩
  intro c hc
  simp only [State.reset, List.mem_map] at hc
  obtain ⟨i, -, rfl⟩ := hc
  rfl

/-- It depends on memory, the cores and the tasks alone. -/
theorem memWf_congr {s t : State} (h : Safety.memWf s = true) (h1 : t.mem = s.mem) (h2 : t.core = s.core)
    (h3 : t.rest = s.rest) (h4 : t.hm.tasks = s.hm.tasks) : Safety.memWf t = true := by
  rw [memWf_iff] at *
  rw [h1, h2, h3, h4]; exact h

theorem State.onCore_wf {s : State} {f : Core → Core} (h : Safety.memWf s = true)
    (hf : ∀ c, Safety.coreMem c = true → Safety.coreMem (f c) = true) : Safety.memWf (s.onCore f) = true := by
  rw [memWf_iff] at *
  exact ⟨h.1, hf _ h.2.1, h.2.2⟩

theorem State.flow_wf {s : State} (h : Safety.memWf s = true) (f : Flow) : Safety.memWf (s.flow f) = true :=
  State.onCore_wf h fun _ hc => hc

theorem State.mapCores_wf {s : State} {f : Core → Core} (h : Safety.memWf s = true)
    (hf : ∀ c, Safety.coreMem c = true → Safety.coreMem (f c) = true) : Safety.memWf (s.mapCores f) = true := by
  rw [memWf_iff] at *
  refine ⟨h.1, hf _ h.2.1, ?_, h.2.2.2⟩
  intro c hc
  obtain ⟨d, hd, rfl⟩ := List.mem_map.1 hc
  exact hf d (h.2.2.1 d hd)

theorem State.mapTask_wf {s : State} {n : Nat} {f : Task → Task} (h : Safety.memWf s = true)
    (hf : ∀ t, (∀ c ∈ t.saved, Safety.coreMem c = true) → ∀ c ∈ (f t).saved, Safety.coreMem c = true) :
    Safety.memWf (s.mapTask n f) = true := by
  rw [memWf_iff] at *
  refine ⟨h.1, h.2.1, h.2.2.1, ?_⟩
  intro t ht
  obtain ⟨u, hu, rfl⟩ := List.mem_map.1 ht
  by_cases hn : u.num = n
  · rw [if_pos hn]; exact hf u (h.2.2.2 u hu)
  · rw [if_neg hn]; exact h.2.2.2 u hu

/-- Focusing another core only moves it. -/
theorem State.focus_wf {s : State} (h : Safety.memWf s = true) (n : Nat) : Safety.memWf (s.focus n) = true := by
  unfold State.focus
  split
  · exact h
  · split
    · exact h
    · rename_i k hk
      rw [memWf_iff] at *
      refine ⟨h.1, h.2.2.1 k (List.mem_of_find?_eq_some hk), ?_, h.2.2.2⟩
      intro c hc
      obtain ⟨d, hd, rfl⟩ := List.mem_map.1 hc
      split
      · exact h.2.1
      · exact h.2.2.1 d hd

/-- An access to a Quay's lines changes its cache alone. -/
theorem State.cached_only (s : State) (pa n : Nat) (alloc : Option Nat) : ∃ q, s.cached pa n alloc = { s with quays := q } := by
  unfold State.cached State.mapQuay
  split
  · exact ⟨s.quays, rfl⟩
  · split
    · split
      · exact ⟨_, rfl⟩
      · exact ⟨s.quays, rfl⟩
    · exact ⟨s.quays, rfl⟩

/-- What an access hits changes caches and pinned windows alone. -/
theorem State.touch_only (s : State) (pa n : Nat) : ∃ q w, s.touch pa n = { s with quays := q, windows := w } := by
  unfold State.touch
  split
  · exact ⟨s.quays, s.windows, rfl⟩
  · obtain ⟨q, hq⟩ := s.cached_only pa n none
    exact ⟨q, _, by rw [hq]⟩

theorem State.touch_wf {s : State} (h : Safety.memWf s = true) (pa n : Nat) : Safety.memWf (s.touch pa n) = true := by
  obtain ⟨q, w, e⟩ := s.touch_only pa n
  rw [e]; exact memWf_congr h rfl rfl rfl rfl

theorem State.touch_mem (s : State) (pa n : Nat) : (s.touch pa n).mem = s.mem := by
  obtain ⟨q, w, e⟩ := s.touch_only pa n
  rw [e]

/-- A write performed in memory keeps the form. -/
theorem State.store_wf {s : State} (h : Safety.memWf s = true) (pa : Nat) (bs : List Byte) (bad : Bool) :
    Safety.memWf (s.store pa bs bad) = true := by
  unfold State.store
  split
  · exact h
  · refine State.mapCores_wf ?_ fun c hc => Core.monitorHit_wf hc _ _
    have ht := State.touch_wf h pa bs.length
    rw [memWf_iff] at *
    exact ⟨Mem.write_wf h.1 pa bs, ht.2.1, ht.2.2.1, ht.2.2.2⟩

/-- The bytes of memory after a write: those written, every other as before. -/
theorem State.store_byte (s : State) (pa : Nat) (bs : List Byte) (bad : Bool) (a : Nat) :
    (s.store pa bs bad).mem.byte a = if pa ≤ a ∧ a < pa + bs.length then bs.getD (a - pa) 0 else s.mem.byte a := by
  unfold State.store
  cases bs with
  | nil =>
    have h : ¬ (pa ≤ a ∧ a < pa + ([] : List Byte).length) := fun h => by have := h.2; simp only [List.length_nil] at this; omega
    show s.mem.byte a = _
    rw [if_neg h]
  | cons b r => exact Mem.byte_write s.mem pa (b :: r) a

theorem State.foldl_wf {α : Type} {f : State → α → State} (hf : ∀ s a, Safety.memWf s = true → Safety.memWf (f s a) = true) :
    ∀ (l : List α) {s : State}, Safety.memWf s = true → Safety.memWf (l.foldl f s) = true
  | [], _, h => h
  | a :: r, _, h => State.foldl_wf hf r (hf _ a h)

theorem State.touchWalk_wf {s : State} (h : Safety.memWf s = true) (t : Option Task) (root va : Nat) :
    Safety.memWf (s.touchWalk t root va) = true := by
  unfold State.touchWalk
  split
  · exact h
  · exact State.foldl_wf (fun _ a hs => State.touch_wf hs a 8) _ h

/-- Writing a row at its Quay keeps the form. -/
theorem State.storeRow_wf {s : State} (h : Safety.memWf s = true) (home : List (Nat × Nat)) (data : List Byte) (bad : List Nat) :
    Safety.memWf (s.storeRow home data bad) = true := by
  have hr : ∀ (l : List (Nat × Nat)) (a : State × List Byte), Safety.memWf a.1 = true →
      Safety.memWf (l.foldl (fun a r => (a.1.store r.1 (a.2.take r.2), a.2.drop r.2)) a).1 = true := by
    intro l
    induction l with
    | nil => exact fun _ h => h
    | cons r l ih => exact fun a h => ih _ (State.store_wf h _ _ _)
  unfold State.storeRow
  exact memWf_congr (hr home (s, data) h) rfl rfl rfl rfl

theorem State.performRow_wf {s : State} (h : Safety.memWf s = true) (r : StagedRow) : Safety.memWf (s.performRow r) = true := by
  unfold State.performRow
  dsimp only
  split
  · exact memWf_congr h rfl rfl rfl rfl
  · refine memWf_congr (s := if r.hot then _ else s) ?_ rfl rfl rfl rfl
    split
    · refine State.storeRow_wf ?_ _ _ _
      exact memWf_congr h rfl rfl rfl rfl
    · exact h

theorem State.commit_wf {s : State} (h : Safety.memWf s = true) (n : Nat) : Safety.memWf (s.commit n) = true := by
  unfold State.commit
  split
  · exact h
  · exact State.mapTask_wf (State.foldl_wf (fun _ r hs => State.performRow_wf hs r) _
      (State.foldl_wf (f := State.performPoison) (fun _ _ hs => memWf_congr hs rfl rfl rfl rfl) _
        (State.foldl_wf (fun _ (p : Nat × Byte) hs => State.store_wf hs p.1 [p.2] false) _ h))) fun _ ht => ht

theorem State.uncontain_wf {s : State} (h : Safety.memWf s = true) (n : Nat) : Safety.memWf (s.uncontain n) = true := by
  unfold State.uncontain
  split
  · exact h
  · split
    · exact State.mapTask_wf (State.commit_wf h n) fun _ ht => ht
    · exact h

theorem State.taskStore_wf {s : State} (h : Safety.memWf s = true) (pa : Nat) (bs : List Byte) (bad : Bool) :
    Safety.memWf (s.taskStore pa bs bad) = true := by
  unfold State.taskStore
  split
  · exact State.store_wf h _ _ _
  · split
    · simp only []
      split
      · exact State.store_wf (State.uncontain_wf h _) _ _ _
      · refine State.mapCores_wf (State.mapTask_wf h fun _ ht => ht) fun c hc => ?_
        split
        · exact Core.monitorHit_wf hc _ _
        · exact hc
    · exact State.store_wf h _ _ _

/-- Translation changes cached translations, and what its walk hits. -/
theorem State.xlat_wf {s : State} (h : Safety.memWf s = true) (via : Via) (va : Nat) : Safety.memWf (s.xlat via va).1 = true := by
  have tlb {s : State} (h : Safety.memWf s = true) (x : Xlat) :
      Safety.memWf { s with core := { s.core with tlb := x :: s.core.tlb } } = true :=
    State.onCore_wf (f := fun c => { c with tlb := x :: c.tlb }) h fun _ hc => hc
  have walked (t : Option Task) (root : Nat) := State.touchWalk_wf h t root va
  unfold State.xlat
  dsimp only
  split
  · exact h
  · split
    · exact h
    · split
      · split
        · exact h
        · split
          · exact memWf_congr (walked _ _) rfl rfl rfl rfl
          · exact walked _ _
      · split
        · exact h
        · split
          · exact memWf_congr (walked _ _) rfl rfl rfl rfl
          · exact walked _ _
      · split
        · exact h
        · split
          · exact tlb h _
          · split
            · split
              · exact memWf_congr (tlb (walked _ _) _) rfl rfl rfl rfl
              · exact memWf_congr (tlb (walked _ _) _) rfl rfl rfl rfl
            · exact walked _ _

theorem State.pieces_wf : ∀ (fuel : Nat) {s : State} (via : Via) (write : Bool) (va len : Nat), Safety.memWf s = true →
    Safety.memWf (s.pieces via write fuel va len).1 = true
  | 0, _, _, _, _, _, h => h
  | fuel + 1, s, via, write, va, len, h => by
    have hx := State.xlat_wf h via va
    unfold State.pieces
    split
    · exact h
    · split
      · rename_i e; rw [e] at hx; exact hx
      · rename_i s' x e
        rw [e] at hx
        split
        · exact hx
        · split
          · exact hx
          · have hp := State.pieces_wf fuel via write (va + min len (x.size - va % x.size)) (len - min len (x.size - va % x.size)) hx
            simp only []
            split <;> (rename_i e'; rw [e'] at hp; exact hp)

theorem State.sendRemote_wf {s : State} (h : Safety.memWf s = true) (m a : Nat) (op : RemoteOp) :
    Safety.memWf (s.sendRemote m a op) = true := by
  unfold State.sendRemote
  exact State.mapTask_wf (s := { s with ferry := _ }) (memWf_congr h rfl rfl rfl rfl) fun _ ht => ht

theorem State.readPiece_wf {s : State} (h : Safety.memWf s = true) (p : Piece) : Safety.memWf (s.readPiece p).1 = true := by
  unfold State.readPiece
  split
  · exact State.touch_wf h _ _
  · split
    · exact h
    · split
      · exact h
      · have hf : Safety.memWf { s with fresh := s.fresh + p.len + 1 } = true := memWf_congr h rfl rfl rfl rfl
        exact State.sendRemote_wf hf _ _ _
    · exact State.touch_wf h _ _

theorem State.readPieces_wf : ∀ (ps : List Piece) {s : State}, Safety.memWf s = true → Safety.memWf (s.readPieces ps).1 = true
  | [], _, h => h
  | p :: ps, s, h => by
    have hp := State.readPiece_wf h p
    unfold State.readPieces
    split
    · rename_i e; rw [e] at hp; exact hp
    · rename_i s' bs e
      rw [e] at hp
      have hr := State.readPieces_wf ps hp
      split <;> (rename_i e'; rw [e'] at hr; exact hr)

theorem State.readOwn_wf : ∀ (ps : List Piece) {s : State}, Safety.memWf s = true → Safety.memWf (s.readOwn ps).1 = true
  | [], _, h => h
  | p :: ps, s, h => by
    unfold State.readOwn
    generalize e : (if p.x.bond then (s.touch p.x.pa 40, s.readView s.task s.core.waiting p)
      else match s.readPiece p with
        | (s, .error e) => (s, .error e)
        | (s, .ok bs) => (s, .ok (s.core.underOwn p bs)) : State × Except MemErr (List Byte)) = one
    have ho : Safety.memWf one.1 = true := by
      rw [← e]
      split
      · exact State.touch_wf h _ _
      · have hp := State.readPiece_wf h p
        split <;> (rename_i e'; rw [e'] at hp; exact hp)
    dsimp only
    split
    · exact ho
    · have hr := State.readOwn_wf ps ho
      split <;> (rename_i e'; rw [e'] at hr; exact hr)

theorem State.readVa_wf {s : State} (h : Safety.memWf s = true) (via : Via) (va len : Nat) :
    Safety.memWf (s.readVa via va len).1 = true := by
  have hp := State.pieces_wf (len + 1) via false va len h
  unfold State.readVa
  split
  · rename_i e; rw [e] at hp; exact hp
  · rename_i s' ps e
    rw [e] at hp
    have hr := State.readPieces_wf ps hp
    dsimp only
    split
    · rename_i e'; rw [e'] at hr; exact hr
    · exact hr

theorem State.writePiece_wf {s : State} (h : Safety.memWf s = true) (p : Piece) (bs : List Byte) (bad : Bool) :
    Safety.memWf (s.writePiece p bs bad).1 = true := by
  unfold State.writePiece
  split
  · exact h
  · split
    · exact h
    · split
      · exact h
      · have hf : Safety.memWf { s with fresh := s.fresh + 1 } = true := memWf_congr h rfl rfl rfl rfl
        exact State.sendRemote_wf (State.uncontain_wf hf _) _ _ _
  · exact State.store_wf (State.uncontain_wf h _) _ _ _
  · exact State.taskStore_wf h _ _ _

theorem State.writePieces_wf (bad : Bool) : ∀ (ps : List Piece) {s : State} (bs : List Byte), Safety.memWf s = true →
    Safety.memWf (s.writePieces bad ps bs).1 = true
  | [], _, _, h => h
  | p :: ps, s, bs, h => by
    have hp := State.writePiece_wf h p (bs.take p.len) bad
    unfold State.writePieces
    split
    · rename_i e; rw [e] at hp; exact hp
    · rename_i e; rw [e] at hp; exact State.writePieces_wf bad ps _ hp

theorem State.writeVa_wf {s : State} (h : Safety.memWf s = true) (via : Via) (va : Nat) (bs : List Byte) (bad : Bool) :
    Safety.memWf (s.writeVa via va bs bad).1 = true := by
  have hp := State.pieces_wf (bs.length + 1) via true va bs.length h
  unfold State.writeVa
  split
  · rename_i e; rw [e] at hp; exact hp
  · rename_i e; rw [e] at hp; exact State.writePieces_wf bad _ _ hp

end Sys2Proof.Machine
end

