-- ==== Sys2Proof/Laws/Streams.lean ====
section
/-! SUPPORT. The stream, region and FENCE bookkeeping of a core: what each update leaves as it was, and what the shared store does. -/

namespace Sys2Proof.Machine

/-! ### Updates -/

@[simp] theorem Core.setStream_id (c : Core) (w : BitVec 3) (x : Stream) : (c.setStream w x).id = c.id := rfl
@[simp] theorem Core.setStream_regs (c : Core) (w : BitVec 3) (x : Stream) : (c.setStream w x).regs = c.regs := rfl
@[simp] theorem Core.setStream_ctl (c : Core) (w : BitVec 3) (x : Stream) : (c.setStream w x).ctl = c.ctl := rfl
@[simp] theorem Core.setStream_pool (c : Core) (w : BitVec 3) (x : Stream) : (c.setStream w x).pool = c.pool := rfl
@[simp] theorem Core.setStream_poison (c : Core) (w : BitVec 3) (x : Stream) : (c.setStream w x).poison = c.poison := rfl
@[simp] theorem Core.setStream_fetch (c : Core) (w : BitVec 3) (x : Stream) : (c.setStream w x).fetch = c.fetch := rfl
@[simp] theorem Core.setStream_tiles (c : Core) (w : BitVec 3) (x : Stream) : (c.setStream w x).tiles = c.tiles := rfl
@[simp] theorem Core.setStream_rings (c : Core) (w : BitVec 3) (x : Stream) : (c.setStream w x).rings = c.rings := rfl
@[simp] theorem Core.setStream_loops (c : Core) (w : BitVec 3) (x : Stream) : (c.setStream w x).loops = c.loops := rfl
@[simp] theorem Core.setStream_pend (c : Core) (w : BitVec 3) (x : Stream) : (c.setStream w x).pend = c.pend := rfl
@[simp] theorem Core.setStream_regions (c : Core) (w : BitVec 3) (x : Stream) : (c.setStream w x).regions = c.regions := rfl
@[simp] theorem Core.setStream_twinS (c : Core) (w : BitVec 3) (x : Stream) : (c.setStream w x).twinS = c.twinS := rfl
@[simp] theorem Core.setStream_twinV (c : Core) (w : BitVec 3) (x : Stream) : (c.setStream w x).twinV = c.twinV := rfl
@[simp] theorem Core.setStream_flight (c : Core) (w : BitVec 3) (x : Stream) : (c.setStream w x).flight = c.flight := rfl
@[simp] theorem Core.setStream_loads (c : Core) (w : BitVec 3) (x : Stream) : (c.setStream w x).loads = c.loads := rfl
@[simp] theorem Core.setStream_handler (c : Core) (w : BitVec 3) (x : Stream) : (c.setStream w x).handler = c.handler := rfl
@[simp] theorem Core.setStream_bound (c : Core) (w : BitVec 3) (x : Stream) : (c.setStream w x).bound = c.bound := rfl
@[simp] theorem Core.setStream_sync (c : Core) (w : BitVec 3) (x : Stream) : (c.setStream w x).sync = c.sync := rfl
@[simp] theorem Core.setStream_inject (c : Core) (w : BitVec 3) (x : Stream) : (c.setStream w x).inject = c.inject := rfl
@[simp] theorem Core.setStream_mx (c : Core) (w : BitVec 3) (x : Stream) : (c.setStream w x).mx = c.mx := rfl
@[simp] theorem Core.setStream_tlb (c : Core) (w : BitVec 3) (x : Stream) : (c.setStream w x).tlb = c.tlb := rfl
@[simp] theorem Core.setStream_part (c : Core) (w : BitVec 3) (x : Stream) : (c.setStream w x).part = c.part := rfl
@[simp] theorem Core.setStream_issue (c : Core) (w : BitVec 3) (x : Stream) : (c.setStream w x).issue = c.issue := rfl
@[simp] theorem Core.setStream_spoiled (c : Core) (w : BitVec 3) (x : Stream) : (c.setStream w x).spoiled = c.spoiled := rfl
@[simp] theorem Core.holdAccess_id (c : Core) (after : List Nat) (op : FencedOp) : (c.holdAccess after op).id = c.id := rfl
@[simp] theorem Core.holdAccess_regs (c : Core) (after : List Nat) (op : FencedOp) : (c.holdAccess after op).regs = c.regs := rfl
@[simp] theorem Core.holdAccess_ctl (c : Core) (after : List Nat) (op : FencedOp) : (c.holdAccess after op).ctl = c.ctl := rfl
@[simp] theorem Core.holdAccess_pool (c : Core) (after : List Nat) (op : FencedOp) : (c.holdAccess after op).pool = c.pool := rfl
@[simp] theorem Core.holdAccess_poison (c : Core) (after : List Nat) (op : FencedOp) : (c.holdAccess after op).poison = c.poison := rfl
@[simp] theorem Core.holdAccess_fetch (c : Core) (after : List Nat) (op : FencedOp) : (c.holdAccess after op).fetch = c.fetch := rfl
@[simp] theorem Core.holdAccess_tiles (c : Core) (after : List Nat) (op : FencedOp) : (c.holdAccess after op).tiles = c.tiles := rfl
@[simp] theorem Core.holdAccess_rings (c : Core) (after : List Nat) (op : FencedOp) : (c.holdAccess after op).rings = c.rings := rfl
@[simp] theorem Core.holdAccess_loops (c : Core) (after : List Nat) (op : FencedOp) : (c.holdAccess after op).loops = c.loops := rfl
@[simp] theorem Core.holdAccess_pend (c : Core) (after : List Nat) (op : FencedOp) : (c.holdAccess after op).pend = c.pend := rfl
@[simp] theorem Core.holdAccess_regions (c : Core) (after : List Nat) (op : FencedOp) : (c.holdAccess after op).regions = c.regions := rfl
@[simp] theorem Core.holdAccess_twinS (c : Core) (after : List Nat) (op : FencedOp) : (c.holdAccess after op).twinS = c.twinS := rfl
@[simp] theorem Core.holdAccess_twinV (c : Core) (after : List Nat) (op : FencedOp) : (c.holdAccess after op).twinV = c.twinV := rfl
@[simp] theorem Core.holdAccess_flight (c : Core) (after : List Nat) (op : FencedOp) : (c.holdAccess after op).flight = c.flight := rfl
@[simp] theorem Core.holdAccess_loads (c : Core) (after : List Nat) (op : FencedOp) : (c.holdAccess after op).loads = c.loads := rfl
@[simp] theorem Core.holdAccess_handler (c : Core) (after : List Nat) (op : FencedOp) : (c.holdAccess after op).handler = c.handler := rfl
@[simp] theorem Core.holdAccess_bound (c : Core) (after : List Nat) (op : FencedOp) : (c.holdAccess after op).bound = c.bound := rfl
@[simp] theorem Core.holdAccess_sync (c : Core) (after : List Nat) (op : FencedOp) : (c.holdAccess after op).sync = c.sync := rfl
@[simp] theorem Core.holdAccess_inject (c : Core) (after : List Nat) (op : FencedOp) : (c.holdAccess after op).inject = c.inject := rfl
@[simp] theorem Core.holdAccess_mx (c : Core) (after : List Nat) (op : FencedOp) : (c.holdAccess after op).mx = c.mx := rfl
@[simp] theorem Core.holdAccess_tlb (c : Core) (after : List Nat) (op : FencedOp) : (c.holdAccess after op).tlb = c.tlb := rfl
@[simp] theorem Core.holdAccess_part (c : Core) (after : List Nat) (op : FencedOp) : (c.holdAccess after op).part = c.part := rfl
@[simp] theorem Core.holdAccess_issue (c : Core) (after : List Nat) (op : FencedOp) : (c.holdAccess after op).issue = c.issue := rfl
@[simp] theorem Core.holdAccess_spoiled (c : Core) (after : List Nat) (op : FencedOp) : (c.holdAccess after op).spoiled = c.spoiled := rfl
@[simp] theorem Core.fenceHere_id (c : Core) : (c.fenceHere).id = c.id := rfl
@[simp] theorem Core.fenceHere_regs (c : Core) : (c.fenceHere).regs = c.regs := rfl
@[simp] theorem Core.fenceHere_ctl (c : Core) : (c.fenceHere).ctl = c.ctl := rfl
@[simp] theorem Core.fenceHere_pool (c : Core) : (c.fenceHere).pool = c.pool := rfl
@[simp] theorem Core.fenceHere_poison (c : Core) : (c.fenceHere).poison = c.poison := rfl
@[simp] theorem Core.fenceHere_fetch (c : Core) : (c.fenceHere).fetch = c.fetch := rfl
@[simp] theorem Core.fenceHere_tiles (c : Core) : (c.fenceHere).tiles = c.tiles := rfl
@[simp] theorem Core.fenceHere_rings (c : Core) : (c.fenceHere).rings = c.rings := rfl
@[simp] theorem Core.fenceHere_loops (c : Core) : (c.fenceHere).loops = c.loops := rfl
@[simp] theorem Core.fenceHere_pend (c : Core) : (c.fenceHere).pend = c.pend := rfl
@[simp] theorem Core.fenceHere_regions (c : Core) : (c.fenceHere).regions = c.regions := rfl
@[simp] theorem Core.fenceHere_twinS (c : Core) : (c.fenceHere).twinS = c.twinS := rfl
@[simp] theorem Core.fenceHere_twinV (c : Core) : (c.fenceHere).twinV = c.twinV := rfl
@[simp] theorem Core.fenceHere_flight (c : Core) : (c.fenceHere).flight = c.flight := rfl
@[simp] theorem Core.fenceHere_loads (c : Core) : (c.fenceHere).loads = c.loads := rfl
@[simp] theorem Core.fenceHere_handler (c : Core) : (c.fenceHere).handler = c.handler := rfl
@[simp] theorem Core.fenceHere_bound (c : Core) : (c.fenceHere).bound = c.bound := rfl
@[simp] theorem Core.fenceHere_sync (c : Core) : (c.fenceHere).sync = c.sync := rfl
@[simp] theorem Core.fenceHere_inject (c : Core) : (c.fenceHere).inject = c.inject := rfl
@[simp] theorem Core.fenceHere_mx (c : Core) : (c.fenceHere).mx = c.mx := rfl
@[simp] theorem Core.fenceHere_tlb (c : Core) : (c.fenceHere).tlb = c.tlb := rfl
@[simp] theorem Core.fenceHere_part (c : Core) : (c.fenceHere).part = c.part := rfl
@[simp] theorem Core.fenceHere_issue (c : Core) : (c.fenceHere).issue = c.issue := rfl
@[simp] theorem Core.fenceHere_spoiled (c : Core) : (c.fenceHere).spoiled = c.spoiled := rfl
@[simp] theorem Core.putLate_id (c : Core) (atomic : Bool) (d : BitVec 6) (f : Load → Load) : (c.putLate atomic d f).id = c.id := rfl
@[simp] theorem Core.putLate_regs (c : Core) (atomic : Bool) (d : BitVec 6) (f : Load → Load) : (c.putLate atomic d f).regs = c.regs := rfl
@[simp] theorem Core.putLate_ctl (c : Core) (atomic : Bool) (d : BitVec 6) (f : Load → Load) : (c.putLate atomic d f).ctl = c.ctl := rfl
@[simp] theorem Core.putLate_pool (c : Core) (atomic : Bool) (d : BitVec 6) (f : Load → Load) : (c.putLate atomic d f).pool = c.pool := rfl
@[simp] theorem Core.putLate_poison (c : Core) (atomic : Bool) (d : BitVec 6) (f : Load → Load) : (c.putLate atomic d f).poison = c.poison := rfl
@[simp] theorem Core.putLate_fetch (c : Core) (atomic : Bool) (d : BitVec 6) (f : Load → Load) : (c.putLate atomic d f).fetch = c.fetch := rfl
@[simp] theorem Core.putLate_tiles (c : Core) (atomic : Bool) (d : BitVec 6) (f : Load → Load) : (c.putLate atomic d f).tiles = c.tiles := rfl
@[simp] theorem Core.putLate_rings (c : Core) (atomic : Bool) (d : BitVec 6) (f : Load → Load) : (c.putLate atomic d f).rings = c.rings := rfl
@[simp] theorem Core.putLate_copy (c : Core) (atomic : Bool) (d : BitVec 6) (f : Load → Load) : (c.putLate atomic d f).copy = c.copy := rfl
@[simp] theorem Core.putLate_loops (c : Core) (atomic : Bool) (d : BitVec 6) (f : Load → Load) : (c.putLate atomic d f).loops = c.loops := rfl
@[simp] theorem Core.putLate_pend (c : Core) (atomic : Bool) (d : BitVec 6) (f : Load → Load) : (c.putLate atomic d f).pend = c.pend := rfl
@[simp] theorem Core.putLate_regions (c : Core) (atomic : Bool) (d : BitVec 6) (f : Load → Load) : (c.putLate atomic d f).regions = c.regions := rfl
@[simp] theorem Core.putLate_twinS (c : Core) (atomic : Bool) (d : BitVec 6) (f : Load → Load) : (c.putLate atomic d f).twinS = c.twinS := rfl
@[simp] theorem Core.putLate_twinV (c : Core) (atomic : Bool) (d : BitVec 6) (f : Load → Load) : (c.putLate atomic d f).twinV = c.twinV := rfl
@[simp] theorem Core.putLate_flight (c : Core) (atomic : Bool) (d : BitVec 6) (f : Load → Load) : (c.putLate atomic d f).flight = c.flight := rfl
@[simp] theorem Core.putLate_handler (c : Core) (atomic : Bool) (d : BitVec 6) (f : Load → Load) : (c.putLate atomic d f).handler = c.handler := rfl
@[simp] theorem Core.putLate_bound (c : Core) (atomic : Bool) (d : BitVec 6) (f : Load → Load) : (c.putLate atomic d f).bound = c.bound := rfl
@[simp] theorem Core.putLate_sync (c : Core) (atomic : Bool) (d : BitVec 6) (f : Load → Load) : (c.putLate atomic d f).sync = c.sync := rfl
@[simp] theorem Core.putLate_inject (c : Core) (atomic : Bool) (d : BitVec 6) (f : Load → Load) : (c.putLate atomic d f).inject = c.inject := rfl
@[simp] theorem Core.putLate_mx (c : Core) (atomic : Bool) (d : BitVec 6) (f : Load → Load) : (c.putLate atomic d f).mx = c.mx := rfl
@[simp] theorem Core.putLate_tlb (c : Core) (atomic : Bool) (d : BitVec 6) (f : Load → Load) : (c.putLate atomic d f).tlb = c.tlb := rfl
@[simp] theorem Core.putLate_part (c : Core) (atomic : Bool) (d : BitVec 6) (f : Load → Load) : (c.putLate atomic d f).part = c.part := rfl
@[simp] theorem Core.putLate_issue (c : Core) (atomic : Bool) (d : BitVec 6) (f : Load → Load) : (c.putLate atomic d f).issue = c.issue := rfl
@[simp] theorem Core.putLate_spoiled (c : Core) (atomic : Bool) (d : BitVec 6) (f : Load → Load) : (c.putLate atomic d f).spoiled = c.spoiled := rfl
@[simp] theorem Core.arm_id (c : Core) (line : Nat) (nothing : Bool) (num : Nat) : (c.arm line nothing num).id = c.id := rfl
@[simp] theorem Core.arm_regs (c : Core) (line : Nat) (nothing : Bool) (num : Nat) : (c.arm line nothing num).regs = c.regs := rfl
@[simp] theorem Core.arm_ctl (c : Core) (line : Nat) (nothing : Bool) (num : Nat) : (c.arm line nothing num).ctl = c.ctl := rfl
@[simp] theorem Core.arm_pool (c : Core) (line : Nat) (nothing : Bool) (num : Nat) : (c.arm line nothing num).pool = c.pool := rfl
@[simp] theorem Core.arm_poison (c : Core) (line : Nat) (nothing : Bool) (num : Nat) : (c.arm line nothing num).poison = c.poison := rfl
@[simp] theorem Core.arm_fetch (c : Core) (line : Nat) (nothing : Bool) (num : Nat) : (c.arm line nothing num).fetch = c.fetch := rfl
@[simp] theorem Core.arm_tiles (c : Core) (line : Nat) (nothing : Bool) (num : Nat) : (c.arm line nothing num).tiles = c.tiles := rfl
@[simp] theorem Core.arm_rings (c : Core) (line : Nat) (nothing : Bool) (num : Nat) : (c.arm line nothing num).rings = c.rings := rfl
@[simp] theorem Core.arm_copy (c : Core) (line : Nat) (nothing : Bool) (num : Nat) : (c.arm line nothing num).copy = c.copy := rfl
@[simp] theorem Core.arm_loops (c : Core) (line : Nat) (nothing : Bool) (num : Nat) : (c.arm line nothing num).loops = c.loops := rfl
@[simp] theorem Core.arm_pend (c : Core) (line : Nat) (nothing : Bool) (num : Nat) : (c.arm line nothing num).pend = c.pend := rfl
@[simp] theorem Core.arm_regions (c : Core) (line : Nat) (nothing : Bool) (num : Nat) : (c.arm line nothing num).regions = c.regions := rfl
@[simp] theorem Core.arm_twinS (c : Core) (line : Nat) (nothing : Bool) (num : Nat) : (c.arm line nothing num).twinS = c.twinS := rfl
@[simp] theorem Core.arm_twinV (c : Core) (line : Nat) (nothing : Bool) (num : Nat) : (c.arm line nothing num).twinV = c.twinV := rfl
@[simp] theorem Core.arm_flight (c : Core) (line : Nat) (nothing : Bool) (num : Nat) : (c.arm line nothing num).flight = c.flight := rfl
@[simp] theorem Core.arm_loads (c : Core) (line : Nat) (nothing : Bool) (num : Nat) : (c.arm line nothing num).loads = c.loads := rfl
@[simp] theorem Core.arm_handler (c : Core) (line : Nat) (nothing : Bool) (num : Nat) : (c.arm line nothing num).handler = c.handler := rfl
@[simp] theorem Core.arm_bound (c : Core) (line : Nat) (nothing : Bool) (num : Nat) : (c.arm line nothing num).bound = c.bound := rfl
@[simp] theorem Core.arm_inject (c : Core) (line : Nat) (nothing : Bool) (num : Nat) : (c.arm line nothing num).inject = c.inject := rfl
@[simp] theorem Core.arm_mx (c : Core) (line : Nat) (nothing : Bool) (num : Nat) : (c.arm line nothing num).mx = c.mx := rfl
@[simp] theorem Core.arm_tlb (c : Core) (line : Nat) (nothing : Bool) (num : Nat) : (c.arm line nothing num).tlb = c.tlb := rfl
@[simp] theorem Core.arm_part (c : Core) (line : Nat) (nothing : Bool) (num : Nat) : (c.arm line nothing num).part = c.part := rfl
@[simp] theorem Core.arm_issue (c : Core) (line : Nat) (nothing : Bool) (num : Nat) : (c.arm line nothing num).issue = c.issue := rfl
@[simp] theorem Core.arm_spoiled (c : Core) (line : Nat) (nothing : Bool) (num : Nat) : (c.arm line nothing num).spoiled = c.spoiled := rfl
@[simp] theorem Core.holdStore_id (c : Core) (num depth : Nat) (ps : List Piece) (bs : List Byte) (cost : Nat) : (c.holdStore num depth ps bs cost).id = c.id := rfl
@[simp] theorem Core.holdStore_regs (c : Core) (num depth : Nat) (ps : List Piece) (bs : List Byte) (cost : Nat) : (c.holdStore num depth ps bs cost).regs = c.regs := rfl
@[simp] theorem Core.holdStore_ctl (c : Core) (num depth : Nat) (ps : List Piece) (bs : List Byte) (cost : Nat) : (c.holdStore num depth ps bs cost).ctl = c.ctl := rfl
@[simp] theorem Core.holdStore_pool (c : Core) (num depth : Nat) (ps : List Piece) (bs : List Byte) (cost : Nat) : (c.holdStore num depth ps bs cost).pool = c.pool := rfl
@[simp] theorem Core.holdStore_poison (c : Core) (num depth : Nat) (ps : List Piece) (bs : List Byte) (cost : Nat) : (c.holdStore num depth ps bs cost).poison = c.poison := rfl
@[simp] theorem Core.holdStore_fetch (c : Core) (num depth : Nat) (ps : List Piece) (bs : List Byte) (cost : Nat) : (c.holdStore num depth ps bs cost).fetch = c.fetch := rfl
@[simp] theorem Core.holdStore_tiles (c : Core) (num depth : Nat) (ps : List Piece) (bs : List Byte) (cost : Nat) : (c.holdStore num depth ps bs cost).tiles = c.tiles := rfl
@[simp] theorem Core.holdStore_rings (c : Core) (num depth : Nat) (ps : List Piece) (bs : List Byte) (cost : Nat) : (c.holdStore num depth ps bs cost).rings = c.rings := rfl
@[simp] theorem Core.holdStore_copy (c : Core) (num depth : Nat) (ps : List Piece) (bs : List Byte) (cost : Nat) : (c.holdStore num depth ps bs cost).copy = c.copy := rfl
@[simp] theorem Core.holdStore_loops (c : Core) (num depth : Nat) (ps : List Piece) (bs : List Byte) (cost : Nat) : (c.holdStore num depth ps bs cost).loops = c.loops := rfl
@[simp] theorem Core.holdStore_pend (c : Core) (num depth : Nat) (ps : List Piece) (bs : List Byte) (cost : Nat) : (c.holdStore num depth ps bs cost).pend = c.pend := rfl
@[simp] theorem Core.holdStore_twinS (c : Core) (num depth : Nat) (ps : List Piece) (bs : List Byte) (cost : Nat) : (c.holdStore num depth ps bs cost).twinS = c.twinS := rfl
@[simp] theorem Core.holdStore_twinV (c : Core) (num depth : Nat) (ps : List Piece) (bs : List Byte) (cost : Nat) : (c.holdStore num depth ps bs cost).twinV = c.twinV := rfl
@[simp] theorem Core.holdStore_flight (c : Core) (num depth : Nat) (ps : List Piece) (bs : List Byte) (cost : Nat) : (c.holdStore num depth ps bs cost).flight = c.flight := rfl
@[simp] theorem Core.holdStore_loads (c : Core) (num depth : Nat) (ps : List Piece) (bs : List Byte) (cost : Nat) : (c.holdStore num depth ps bs cost).loads = c.loads := rfl
@[simp] theorem Core.holdStore_handler (c : Core) (num depth : Nat) (ps : List Piece) (bs : List Byte) (cost : Nat) : (c.holdStore num depth ps bs cost).handler = c.handler := rfl
@[simp] theorem Core.holdStore_bound (c : Core) (num depth : Nat) (ps : List Piece) (bs : List Byte) (cost : Nat) : (c.holdStore num depth ps bs cost).bound = c.bound := rfl
@[simp] theorem Core.holdStore_sync (c : Core) (num depth : Nat) (ps : List Piece) (bs : List Byte) (cost : Nat) : (c.holdStore num depth ps bs cost).sync = c.sync := rfl
@[simp] theorem Core.holdStore_inject (c : Core) (num depth : Nat) (ps : List Piece) (bs : List Byte) (cost : Nat) : (c.holdStore num depth ps bs cost).inject = c.inject := rfl
@[simp] theorem Core.holdStore_mx (c : Core) (num depth : Nat) (ps : List Piece) (bs : List Byte) (cost : Nat) : (c.holdStore num depth ps bs cost).mx = c.mx := rfl
@[simp] theorem Core.holdStore_tlb (c : Core) (num depth : Nat) (ps : List Piece) (bs : List Byte) (cost : Nat) : (c.holdStore num depth ps bs cost).tlb = c.tlb := rfl
@[simp] theorem Core.holdStore_part (c : Core) (num depth : Nat) (ps : List Piece) (bs : List Byte) (cost : Nat) : (c.holdStore num depth ps bs cost).part = c.part := rfl
@[simp] theorem Core.holdStore_issue (c : Core) (num depth : Nat) (ps : List Piece) (bs : List Byte) (cost : Nat) : (c.holdStore num depth ps bs cost).issue = c.issue := rfl
@[simp] theorem Core.holdStore_spoiled (c : Core) (num depth : Nat) (ps : List Piece) (bs : List Byte) (cost : Nat) : (c.holdStore num depth ps bs cost).spoiled = c.spoiled := rfl
@[simp] theorem Core.asAt_id (c : Core) (num : Nat) : (c.asAt num).id = c.id := rfl
@[simp] theorem Core.asAt_regs (c : Core) (num : Nat) : (c.asAt num).regs = c.regs := rfl
@[simp] theorem Core.asAt_ctl (c : Core) (num : Nat) : (c.asAt num).ctl = c.ctl := rfl
@[simp] theorem Core.asAt_pool (c : Core) (num : Nat) : (c.asAt num).pool = c.pool := rfl
@[simp] theorem Core.asAt_poison (c : Core) (num : Nat) : (c.asAt num).poison = c.poison := rfl
@[simp] theorem Core.asAt_fetch (c : Core) (num : Nat) : (c.asAt num).fetch = c.fetch := rfl
@[simp] theorem Core.asAt_tiles (c : Core) (num : Nat) : (c.asAt num).tiles = c.tiles := rfl
@[simp] theorem Core.asAt_rings (c : Core) (num : Nat) : (c.asAt num).rings = c.rings := rfl
@[simp] theorem Core.asAt_loops (c : Core) (num : Nat) : (c.asAt num).loops = c.loops := rfl
@[simp] theorem Core.asAt_pend (c : Core) (num : Nat) : (c.asAt num).pend = c.pend := rfl
@[simp] theorem Core.asAt_twinS (c : Core) (num : Nat) : (c.asAt num).twinS = c.twinS := rfl
@[simp] theorem Core.asAt_twinV (c : Core) (num : Nat) : (c.asAt num).twinV = c.twinV := rfl
@[simp] theorem Core.asAt_flight (c : Core) (num : Nat) : (c.asAt num).flight = c.flight := rfl
@[simp] theorem Core.asAt_loads (c : Core) (num : Nat) : (c.asAt num).loads = c.loads := rfl
@[simp] theorem Core.asAt_handler (c : Core) (num : Nat) : (c.asAt num).handler = c.handler := rfl
@[simp] theorem Core.asAt_bound (c : Core) (num : Nat) : (c.asAt num).bound = c.bound := rfl
@[simp] theorem Core.asAt_sync (c : Core) (num : Nat) : (c.asAt num).sync = c.sync := rfl
@[simp] theorem Core.asAt_inject (c : Core) (num : Nat) : (c.asAt num).inject = c.inject := rfl
@[simp] theorem Core.asAt_mx (c : Core) (num : Nat) : (c.asAt num).mx = c.mx := rfl
@[simp] theorem Core.asAt_tlb (c : Core) (num : Nat) : (c.asAt num).tlb = c.tlb := rfl
@[simp] theorem Core.asAt_part (c : Core) (num : Nat) : (c.asAt num).part = c.part := rfl
@[simp] theorem Core.asAt_issue (c : Core) (num : Nat) : (c.asAt num).issue = c.issue := rfl
@[simp] theorem Core.asAt_spoiled (c : Core) (num : Nat) : (c.asAt num).spoiled = c.spoiled := rfl
@[simp] theorem Core.setStream_copy_aq0 (c : Core) (w : BitVec 3) (x : Stream) : (c.setStream w x).copy.aq0 = c.copy.aq0 := rfl
@[simp] theorem Core.setStream_copy_aq1 (c : Core) (w : BitVec 3) (x : Stream) : (c.setStream w x).copy.aq1 = c.copy.aq1 := rfl
@[simp] theorem Core.setStream_copy_dq0 (c : Core) (w : BitVec 3) (x : Stream) : (c.setStream w x).copy.dq0 = c.copy.dq0 := rfl
@[simp] theorem Core.setStream_copy_dq1 (c : Core) (w : BitVec 3) (x : Stream) : (c.setStream w x).copy.dq1 = c.copy.dq1 := rfl
@[simp] theorem Core.setStream_copy_cmds (c : Core) (w : BitVec 3) (x : Stream) : (c.setStream w x).copy.cmds = c.copy.cmds := rfl
@[simp] theorem Core.setStream_copy_fences (c : Core) (w : BitVec 3) (x : Stream) : (c.setStream w x).copy.fences = c.copy.fences := rfl
@[simp] theorem Core.setStream_copy_fence (c : Core) (w : BitVec 3) (x : Stream) : (c.setStream w x).copy.fence = c.copy.fence := rfl
@[simp] theorem Core.setStream_copy_fenced (c : Core) (w : BitVec 3) (x : Stream) : (c.setStream w x).copy.fenced = c.copy.fenced := rfl
@[simp] theorem Core.holdAccess_copy_streams (c : Core) (after : List Nat) (op : FencedOp) : (c.holdAccess after op).copy.streams = c.copy.streams := rfl
@[simp] theorem Core.holdAccess_copy_aq0 (c : Core) (after : List Nat) (op : FencedOp) : (c.holdAccess after op).copy.aq0 = c.copy.aq0 := rfl
@[simp] theorem Core.holdAccess_copy_aq1 (c : Core) (after : List Nat) (op : FencedOp) : (c.holdAccess after op).copy.aq1 = c.copy.aq1 := rfl
@[simp] theorem Core.holdAccess_copy_dq0 (c : Core) (after : List Nat) (op : FencedOp) : (c.holdAccess after op).copy.dq0 = c.copy.dq0 := rfl
@[simp] theorem Core.holdAccess_copy_dq1 (c : Core) (after : List Nat) (op : FencedOp) : (c.holdAccess after op).copy.dq1 = c.copy.dq1 := rfl
@[simp] theorem Core.holdAccess_copy_cmds (c : Core) (after : List Nat) (op : FencedOp) : (c.holdAccess after op).copy.cmds = c.copy.cmds := rfl
@[simp] theorem Core.holdAccess_copy_fences (c : Core) (after : List Nat) (op : FencedOp) : (c.holdAccess after op).copy.fences = c.copy.fences := rfl
@[simp] theorem Core.holdAccess_copy_fence (c : Core) (after : List Nat) (op : FencedOp) : (c.holdAccess after op).copy.fence = c.copy.fence := rfl
@[simp] theorem Core.fenceHere_copy_fenced (c : Core) : c.fenceHere.copy.fenced = c.copy.fenced := rfl
@[simp] theorem Core.fenceHere_copy_streams (c : Core) : c.fenceHere.copy.streams = c.copy.streams := rfl
@[simp] theorem Core.fenceHere_copy_fence (c : Core) : c.fenceHere.copy.fence = c.unperformed := rfl
@[simp] theorem Core.holdAccess_copy_fenced (c : Core) (after : List Nat) (op : FencedOp) :
    (c.holdAccess after op).copy.fenced = c.copy.fenced ++ [⟨c.stamp, after, op⟩] := rfl
@[simp] theorem Core.arm_monitor (c : Core) (line : Nat) (nothing : Bool) (num : Nat) :
    (c.arm line nothing num).sync = { c.sync with monitor := some ⟨line, nothing, false, num⟩ } := rfl
/-- What giving up held accesses does. -/
theorem Core.dropHeld_eq (c : Core) (kind : FencedOp → Bool) :
    c.dropHeld kind = { c with copy := { c.copy with fenced := c.copy.fenced.filter fun f => !kind f.op } } := by
  unfold Core.dropHeld
  split
  · rfl
  · rename_i h
    have : c.copy.fenced.filter (fun f => !kind f.op) = c.copy.fenced := List.filter_eq_self.2 fun f hf => by
      cases hk : kind f.op
      · rfl
      · exact absurd (List.any_eq_true.2 ⟨f, hf, hk⟩) h
    rw [this]
@[simp] theorem Core.holdStore_buf (c : Core) (num depth : Nat) (ps : List Piece) (bs : List Byte) (cost : Nat) :
    (c.holdStore num depth ps bs cost).regions.buf = c.regions.buf ++ bufferParts num depth ps bs cost := rfl
@[simp] theorem Core.holdStore_filled (c : Core) (num depth : Nat) (ps : List Piece) (bs : List Byte) (cost : Nat) :
    (c.holdStore num depth ps bs cost).regions.filled = c.regions.filled := rfl
@[simp] theorem Core.setStream_stream (c : Core) (w : BitVec 3) (x : Stream) : (c.setStream w x).stream w = x := by
  unfold Core.setStream Core.stream; rw [vget_set]; simp

/-! ### A core with nothing to write -/

theorem Core.fenceLeft_none {c : Core} (h : c.copy.fence = []) : c.fenceLeft = [] := by simp [Core.fenceLeft, h]

/-- Nothing waits behind a FENCE, so nothing is released. -/
theorem State.releaseAll_none {s : State} (h : s.core.copy.fenced = []) : s.releaseAll = s := by
  unfold State.releaseAll; rw [h]; rfl

/-- No push is left in any stream. -/
theorem Core.pushes_none {c : Core} (h : ∀ w, (c.stream w).pushed = []) : c.pushes = [] := by
  unfold Core.pushes
  rw [List.flatMap_eq_nil_iff]
  intro x hx
  obtain ⟨i, hi, rfl⟩ := List.mem_iff_getElem.mp hx
  have hi : i < 8 := by simpa using hi
  have := h (BitVec.ofFin ⟨i, hi⟩)
  simpa [Core.stream, Vector.get] using this

/-- With no store of the core waiting, a flush changes nothing. -/
theorem State.flushStreams_none {s : State} (h : Safety.noPushes s) : s.flushStreams = s := by
  have hp : s.core.pushes = [] := Core.pushes_none h.1
  unfold State.flushStreams State.flushBefore
  rw [hp]
  exact State.releaseAll_none h.2

/-- Without a waiting push, or before a bundle with no FENCE, XINV or TRET, nothing goes ahead of the bundle. -/
theorem State.beforeOrder_none {s : State} (h : s.core.pushes = [] ∨ s.core.ordersNext = false) : s.beforeOrder = s := by
  unfold State.beforeOrder
  rcases h with h | h <;> simp [h]

/-! ### A command or a matrix item meets an error (R271, R291) -/

/-- It is caught as any error is; the rollback that it begins is marked. -/
theorem Core.unitCaught_eq (c : Core) (why code : Nat) :
    c.unitCaught why code = { c.caught why code with bound := { (c.caught why code).bound with
      byUnit := if c.depth > 0 ∧ c.bound.rollback = none then true else c.bound.byUnit } } := by
  unfold Core.unitCaught Core.caught Core.fatal
  by_cases h : c.depth > 0 <;> cases hr : c.bound.rollback <;> simp [h, hr]
  rw [← hr]

/-! ### The shared store (R204, R268, R269) -/

theorem State.ownStore_overflow {s : State} {ps : List Piece} {bs : List Byte} {cost : Nat} (h : 0 < s.core.depth)
    (full : 512 < s.core.buffered + cost) : s.ownStore ps bs cost = s.onCore fun c => c.caught 4 0 := by
  simp [State.ownStore, h, full]

theorem State.ownStore_region {s : State} {ps : List Piece} {bs : List Byte} {cost : Nat} (h : 0 < s.core.depth)
    (room : s.core.buffered + cost ≤ 512) : s.ownStore ps bs cost = s.onCore fun c => c.holdStore c.stamp c.depth ps bs cost := by
  simp [State.ownStore, h, Nat.not_lt.mpr room]

theorem State.ownStore_fenced {s : State} {ps : List Piece} {bs : List Byte} {cost : Nat} (h : s.core.depth = 0)
    (behind : s.core.fenceLeft ≠ []) :
    s.ownStore ps bs cost = s.onCore fun c => c.holdAccess c.fenceLeft (.store (bufferParts c.stamp 0 ps bs cost)) := by
  simp [State.ownStore, h, behind]

theorem State.ownStore_direct {s : State} {ps : List Piece} {bs : List Byte} {cost : Nat} (h : s.core.depth = 0)
    (free : s.core.fenceLeft = []) : s.ownStore ps bs cost =
      (ps.foldl (fun s p => s.onCore fun c => c.supersede c.stamp p.va p.len) s).performStore s.core.stamp ps bs := by
  simp [State.ownStore, h, free]

end Sys2Proof.Machine
end

