-- ==== Sys2Proof/Tests/Slice0.lean ====
section
/-! SUPPORT. The package's own tests: for every statement with hypotheses a concrete
state and operands that meet them all (witness_<statement>), the decoding of words
written out from chapter 04's encodings, the worked examples of the instruction
chapters, and ill-formed terms that WellFormed refuses. -/

namespace Sys2Proof.Tests
open Sys2Proof.Machine

/-- A core that runs a task: shares rf 2, sp 4, acc 2; s3 = 128, s4 = 64, s5 = 3. -/
def base : Core :=
  { Core.reset 0 with
    ctl := { Ctl.reset with part := 33282, frame := 61440, tvec := 0x1000, wbudget := BitVec.allOnes 64 }
    regs := { Regs.reset with s := Vector.ofFn fun i : Fin 64 => if i.val = 3 then 128 else if i.val = 4 then 64 else if i.val = 5 then 3 else 0 }
    part := { (Core.reset 0).part with status := .running, task := 1 } }

/-- w1 holds a push that a translation fault has stopped, which stands before a FENCE. -/
def behindFence (c : Core) : Core :=
  let c := c.setStream 1 ⟨some ⟨true, false, 0, [(1, 256)], false, 0, 0⟩, 1, 0, [⟨0, false, 1, 0, false, 7, 0, [], 0⟩], [], some (0x13, 0), false, 0, []⟩
  { c with copy := { c.copy with fence := [7] } }

def always : Guard := ⟨false, 0⟩
def all : LaneMask := ⟨false, 0⟩
def page : List Xlat := [⟨0, 0, 2 ^ 21, 0, true, false, false⟩]

/-- A module of that one core, with the first 2 MiB mapped to Deck A. -/
def one (f : Core → Core) : State := { State.reset with core := f { base with tlb := page }, rest := [], walkP := page }

def mem1 : SMem := ⟨always, 6, 4, false, 3, 1⟩
/-- s4 points into the scratchpad window. -/
def win (f : Core → Core) : State := one fun c => f (c.setS 4 (BitVec.ofNat 64 windowBase))

theorem witness_AluResults : ∃ (x : S3) (s : State), s.core.active x.g = true ∧ Safety.freeS3 s.core x :=
  ⟨⟨always, false, 4, 5, false, 6⟩, one id, by decide, by unfold Safety.freeS3; decide⟩

theorem witness_MulDivResults : ∃ (x : S3) (s t : State), s.core.active x.g = true ∧ Safety.freeS3 s.core x ∧
    s.core.divBusy x.dup = false ∧ t.core.active x.g = true ∧ Safety.freeS3 t.core x ∧ t.core.divBusy x.dup = true ∧
    t.core.issue.checked = false :=
  ⟨⟨always, false, 4, 5, false, 6⟩, one id, one fun c => { c with flight := [⟨.s 7 0, 20, 0, 0, 0, .none, true, false⟩] }, by decide,
    by unfold Safety.freeS3; decide, by decide, by decide, by unfold Safety.freeS3; decide, by decide, by decide⟩

theorem witness_BitFieldAndMoveResults_BitResults : ∃ (x : S3) (y : S2) (s : State), s.core.active x.g = true ∧ Safety.freeS3 s.core x ∧
    s.core.pending x.d = false ∧ s.core.active y.g = true ∧ s.core.pending y.a = false ∧ s.core.pendingW y.d = false :=
  ⟨⟨always, false, 4, 5, true, 63⟩, ⟨always, false, 4, 5⟩, one id, by decide, by unfold Safety.freeS3; decide, by decide⟩

theorem witness_BitFieldAndMoveResults_MoveResults : ∃ (x : SMovi) (y : SLea) (z : S3) (s : State), s.core.active x.g = true ∧ s.core.pendingW x.d = false ∧
    s.core.active y.g = true ∧ s.core.pending y.base = false ∧ s.core.pendingW y.d = false ∧ s.core.issue.suppressed = false ∧
    Safety.freeS3 s.core z :=
  ⟨⟨always, false, 4, 0x1FFF⟩, ⟨always, false, 4, 5, 3, 15⟩, ⟨⟨true, 1⟩, false, 4, 5, false, 6⟩, one id, by decide, by decide, by decide,
    by decide, by decide, by decide, by unfold Safety.freeS3; decide⟩

theorem witness_PredicateResults : ∃ (x : SCmp) (y : SPlog) (s : State), s.core.active x.g = true ∧ s.core.pending x.a = false ∧
    (s.core.issue.ext = none → s.core.pending x.b = false) ∧ x.cc.toNat ≤ 6 ∧ s.core.active y.g = true :=
  ⟨⟨always, false, 1, 6, 4, 5⟩, ⟨always, false, 1, 2, 3, 15⟩, one id, by decide⟩

theorem witness_PredicateResults_ChkEffect : ∃ (x : SChk) (s : State), s.core.active x.g = true ∧ x.pair.toNat ≤ 1 := ⟨⟨always, 1⟩, one id, by decide, by decide⟩

/-- The address forms of loads, stores and atomics: the last 8 bytes of the share, and its end. -/
theorem witness_LoadIssues : ∃ (x : SMem) (s t : State), s.core.active x.g = true ∧ s.core.issue.replay = none ∧
    s.core.pending x.base = false ∧ s.core.pendingW x.d = false ∧ Safety.inWindowShare s.core (Safety.addr s.core x) (Safety.width x) ∧
    inWindow (Safety.addr t.core x).toNat = true ∧ t.core.issue.checked = false ∧
    ¬ Safety.inWindowShare t.core (Safety.addr t.core x) (Safety.width x) :=
  ⟨mem1, win fun c => c.setS 4 (BitVec.ofNat 64 (windowBase + 65520)), win fun c => c.setS 4 (BitVec.ofNat 64 (windowBase + 65528)),
    by decide, by decide, by decide, by decide, by unfold Safety.inWindowShare; decide, by decide, by decide,
    by unfold Safety.inWindowShare; decide⟩

theorem witness_LoadIssues_memory : ∃ (x : SMem) (s s1 s2 : State) (ps : List Piece) (bs : List Byte), s.core.active x.g = true ∧
    s.core.issue.replay = none ∧ inWindow (Safety.addr s.core x).toNat = false ∧
    ((s.flow .ran).flushStreams).pieces .deck false (Safety.width x + 1) (Safety.addr s.core x).toNat (Safety.width x) = (s1, .ok ps) ∧
    s1.core.fenceLeft = [] ∧ s1.readOwn ps = (s2, .ok bs) :=
  ⟨mem1, one id, ((one id).flow .ran), ((one id).flow .ran), [⟨72, 72, 8, ⟨0, 0, 2 ^ 21, 0, true, false, false⟩⟩], List.replicate 8 0,
    by decide, by decide, by decide, rfl, by decide, rfl⟩

theorem witness_LoadIssues_fenced : ∃ (x : SMem) (s s1 : State) (ps : List Piece), s.core.active x.g = true ∧
    s.core.issue.replay = none ∧ s.core.pendingW x.d = false ∧ inWindow (Safety.addr s.core x).toNat = false ∧
    ((s.flow .ran).flushStreams).pieces .deck false (Safety.width x + 1) (Safety.addr s.core x).toNat (Safety.width x) = (s1, .ok ps) ∧
    s1.core.fenceLeft ≠ [] :=
  ⟨mem1, one behindFence, (one behindFence).flow .ran, [⟨72, 72, 8, ⟨0, 0, 2 ^ 21, 0, true, false, false⟩⟩],
    by decide, by decide, by decide, by decide, rfl, by decide⟩

def px : Xlat := ⟨0, 0, 2 ^ 21, 0, true, false, false⟩
/-- One open recovery region whose log is the 64 bytes from 8192 on. -/
def region (c : Core) : Core := { c with regions := ⟨[⟨0, 8192, 0⟩], 8192, 8256, 8192, [], []⟩ }
/-- s4 names no address (2^60). -/
def far (c : Core) : Core := c.setS 4 (BitVec.ofNat 64 (2 ^ 60))
def unmapped : State := one far

theorem witness_StoreToScratchpad : ∃ (x : SMem) (s t : State), s.core.active x.g = true ∧ s.core.issue.replay = none ∧
    s.core.pending x.base = false ∧ s.core.pending x.d = false ∧ Safety.inWindowShare s.core (Safety.addr s.core x) (Safety.width x) ∧
    s.core.depth = 0 ∧ Safety.inWindowShare t.core (Safety.addr t.core x) (Safety.width x) ∧ 0 < t.core.depth ∧
    t.core.regions.logPos + (logRecord 0 (Safety.windowOff (Safety.addr t.core x))
      (t.core.spRead (Safety.windowOff (Safety.addr t.core x)) (Safety.width x))).length ≤ t.core.regions.logEnd :=
  ⟨mem1, win id, win region, by decide, by decide, by decide, by decide, by unfold Safety.inWindowShare; decide, by decide,
    by unfold Safety.inWindowShare; decide, by decide, by decide⟩

theorem witness_StoreToMemory : ∃ (x : SMem) (s s1 : State) (ps : List Piece), s.core.active x.g = true ∧ s.core.issue.replay = none ∧
    inWindow (Safety.addr s.core x).toNat = false ∧
    ((s.flow .ran).flushBefore s.core.stamp).pieces .deck true (Safety.width x + 1) (Safety.addr s.core x).toNat (Safety.width x) = (s1, .ok ps) ∧
    s1.core.depth = 0 ∧ (∀ p ∈ ps, isDevice p.pa = true) ∧ Safety.performsDirect s1 ∧ s1.core.fenceLeft = [] :=
  ⟨mem1, one id, (one id).flow .ran, [⟨72, 72, 8, px⟩], by decide, by decide, by decide, rfl, by decide, by decide,
    (by intro t h; cases h), by decide⟩

theorem witness_StoreToMemory_region : ∃ (x : SMem) (s s1 : State) (ps : List Piece), s.core.active x.g = true ∧ s.core.issue.replay = none ∧
    inWindow (Safety.addr s.core x).toNat = false ∧ s.core.pending x.d = false ∧
    ((s.flow .ran).flushBefore s.core.stamp).pieces .deck true (Safety.width x + 1) (Safety.addr s.core x).toNat (Safety.width x) = (s1, .ok ps) ∧
    0 < s1.core.depth :=
  ⟨mem1, one region, (one region).flow .ran, [⟨72, 72, 8, px⟩], by decide, by decide, by decide, by decide, rfl, by decide⟩

theorem witness_StoreToMemory_fault : ∃ (x : SMem) (s s1 : State) (code a : Nat), s.core.active x.g = true ∧ s.core.issue.replay = none ∧
    inWindow (Safety.addr s.core x).toNat = false ∧
    ((s.flow .ran).flushBefore s.core.stamp).pieces .deck true (Safety.width x + 1) (Safety.addr s.core x).toNat (Safety.width x) =
      (s1, .error (.trans code a)) :=
  ⟨mem1, unmapped, unmapped.flow .ran, 0x13, 2 ^ 60 + 8, by decide, by decide, by decide, rfl⟩

theorem witness_AtomicOperations_AtomicOnScratchpad : ∃ (x : SMem) (s : State), s.core.active x.g = true ∧ s.core.issue.replay = none ∧ x.size.toNat ≥ 2 ∧
    s.core.pool.wf = true ∧ Safety.inWindowShare s.core (Safety.addr s.core x) (Safety.width x) ∧ (Safety.addr s.core x).toNat % Safety.width x = 0 ∧
    s.core.pending x.base = false ∧ s.core.pending x.d = false ∧ s.core.pending (x.d + 1) = false ∧ s.core.depth = 0 ∧
    (s.core.getS (x.d + 1)).toNat % 16 < 12 :=
  ⟨mem1, win fun c => c.setS 7 11, by decide, by decide, by decide, by decide, by unfold Safety.inWindowShare; decide, by decide⟩

theorem witness_IllegalOperandsTrap_AtomicTraps : ∃ (x : SMem) (s t : State), s.core.active x.g = true ∧ s.core.issue.replay = none ∧
    s.core.issue.checked = false ∧ (s.core.getS (x.d + 1)).toNat % 16 ≥ 12 ∧
    t.core.active x.g = true ∧ (t.core.getS (x.d + 1)).toNat % 16 < 12 ∧ (Safety.addr t.core x).toNat % Safety.width x ≠ 0 :=
  ⟨mem1, win fun c => c.setS 7 12, win fun c => (c.setS 7 11).setS 4 (BitVec.ofNat 64 (windowBase + 4)), by decide⟩

theorem witness_AtomicOperations_AtomicOnMemory : ∃ (x : SMem) (s s1 s2 t u : State) (ps : List Piece) (bs : List Byte), s.core.active x.g = true ∧
    s.core.issue.replay = none ∧ inWindow (Safety.addr s.core x).toNat = false ∧
    (Safety.addr s.core x).toNat % Safety.width x = 0 ∧ s.core.depth = 0 ∧
    ((s.flow .ran).flushBefore s.core.stamp).pieces .deck true (Safety.width x + 1) (Safety.addr s.core x).toNat (Safety.width x) = (s1, .ok ps) ∧
    (∀ p ∈ ps, isDevice p.pa = true) ∧ (s1.uncontain s1.core.part.task).core.fenceLeft = [] ∧ (s1.uncontain s1.core.part.task).readOwn ps = (s2, .ok bs) ∧
    leVal bs = (s.core.getS x.d).toNat % 2 ^ (8 * Safety.width x) ∧ (s.core.getS (x.d + 1)).toNat % 16 < 12 ∧
    (s2.onCore fun c => c.supersede c.stamp 72 8).writePieces false ps (toBytes 8 0) = (t, none) ∧
    (s2.onCore fun c => c.supersede c.stamp 72 8).writePieces false ps (toBytes 8 1) = (u, none) :=
  ⟨mem1, one id, (one id).flow .ran, (one id).flow .ran, ((one id).flow .ran).store 72 (toBytes 8 0), ((one id).flow .ran).store 72 (toBytes 8 1),
    [⟨72, 72, 8, px⟩], List.replicate 8 0, by decide, by decide, by decide, by decide, by decide, rfl, by decide, by decide, rfl, by decide,
    by decide, rfl, rfl⟩

/-- The V forms: one state serves them all. -/
theorem witness_vector : ∃ s : State, Safety.freeV s.core [4, 1, 2, 5, 6, 7, 8, 9] ∧ s.core.rounding.mode = 0 ∧ s.core.pending 3 = false ∧
    fmtIsInt 4 = true ∧ fmtIsInt 1 = false :=
  ⟨one id, by unfold Safety.freeV; decide, by decide⟩

/-- The same with stochastic rounding, whose random bits v9 supplies. -/
theorem witness_vector_stochastic : ∃ s : State, Safety.freeV s.core [4, 1, 2, 9] ∧ s.core.rounding.mode = 5 ∧ s.core.rounding.rvec = 9 :=
  ⟨one fun c => { c with ctl := { c.ctl with vround := 149 } }, by unfold Safety.freeV; decide, by decide, by decide⟩

/-- The ten forms of VectorFormsComplete, under stochastic rounding. -/
theorem witness_VectorFormsComplete : ∃ (s : State) (c : VC) (e : VCv) (x : V2) (r : VR) (g : VG) (k : VK), s.core.rounding.mode = 5 ∧
    Safety.freeV s.core [c.a, c.b] ∧ Safety.freeV s.core [e.d, e.a, s.core.rounding.rvec] ∧ Safety.freeV s.core [x.d, x.a, s.core.rounding.rvec] ∧
    Safety.freeV s.core [r.d, r.a, s.core.rounding.rvec] ∧ Safety.freeV s.core [g.d, g.d + 1, g.a, g.a + 1, g.b, g.b + 1] ∧
    Safety.freeV s.core [k.d, k.d + 1, k.a] :=
  ⟨one fun c => { c with ctl := { c.ctl with vround := 149 } }, ⟨all, false, 3, 2, 1, 2, 1⟩, ⟨all, true, 4, 1, 11, 1⟩, ⟨all, false, 4, 1, 1⟩,
    ⟨all, true, 4, 1, 0, 1⟩, ⟨false, 30, 28, 26, true⟩, ⟨all, false, 30, 1, 31, false, 1⟩, by unfold Safety.freeV; decide⟩

theorem witness_VectorLoads : ∃ (x : VMem) (y : VX) (s t u : State), Safety.freeV s.core [x.v] ∧ s.core.pending x.base = false ∧
    Safety.vectorOff s.core x % 64 = 0 ∧ Safety.vectorOff s.core x + 256 ≤ s.core.sp * 16384 ∧ s.core.depth = 0 ∧
    t.core.issue.checked = false ∧ Safety.vectorOff t.core x % 64 ≠ 0 ∧
    Safety.vectorOff u.core x % 64 = 0 ∧ ¬ Safety.vectorOff u.core x + 256 ≤ u.core.sp * 16384 ∧
    Safety.freeV s.core [y.d, y.a] ∧ (s.core.src 0 y.base).toNat % 2 ^ y.size.toNat = 0 ∧
    (∀ i, Safety.vxOn s.core y i → Safety.element s.core y i + 2 ^ y.size.toNat ≤ s.core.sp * 16384) ∧
    ∀ i, Safety.vxOn s.core y i → poisonedIn s.core.poison (s.core.spBase + Safety.element s.core y i) (2 ^ y.size.toNat) = false :=
  ⟨⟨all, 4, 4, true, 1⟩, ⟨all, 4, 1, 4, 3⟩, one fun c => c.setS 4 (BitVec.ofNat 64 65024), one fun c => c.setS 4 5,
    one fun c => c.setS 4 (BitVec.ofNat 64 65088),
    by unfold Safety.freeV; decide, by decide, by decide, by decide, by decide, by decide, by decide, by decide, by decide,
    by unfold Safety.freeV; decide, by decide,
    fun i h => (by decide +kernel : ∀ i, i < 32 → Safety.element (one fun c => c.setS 4 (BitVec.ofNat 64 65024)).core ⟨all, 4, 1, 4, 3⟩ i + 8 ≤ 65536) i h.1,
    fun i h => (by decide +kernel : ∀ i, i < 32 → poisonedIn [] (65536 + Safety.element (one fun c => c.setS 4 (BitVec.ofNat 64 65024)).core ⟨all, 4, 1, 4, 3⟩ i) 8 = false) i h.1⟩

/-- A vector offset below 0, a misaligned base, and an element past the share. -/
theorem witness_VectorLoads_traps : ∃ (x : VMem) (y : VX) (s t u : State), Safety.vectorOff s.core x % 64 = 0 ∧ Safety.vectorOff s.core x < 0 ∧
    s.core.issue.checked = false ∧ Safety.freeV t.core [y.d, y.a] ∧ t.core.pending y.base = false ∧ (t.core.src 0 y.base).toNat % 2 ^ y.size.toNat ≠ 0 ∧
    (u.core.src 0 y.base).toNat % 2 ^ y.size.toNat = 0 ∧ Safety.vxOn u.core y 0 ∧ u.core.sp * 16384 < Safety.element u.core y 0 + 2 ^ y.size.toNat :=
  ⟨⟨all, 4, 4, true, 127⟩, ⟨all, 4, 1, 4, 3⟩, one id, one fun c => c.setS 4 5, one fun c => c.setS 4 65536, by decide, by decide, by decide,
    by unfold Safety.freeV; decide, by decide, by decide, by decide, by unfold Safety.vxOn; decide, by decide +kernel⟩

/-- A load from an address that no page maps, and a core at its boundary with such a load. -/
theorem witness_LoadFaults : ∃ (x : SMem) (s s1 t : State) (l : Load), s.core.active x.g = true ∧ s.core.issue.replay = none ∧
    s.core.pending x.base = false ∧ s.core.pendingW x.d = false ∧ x.d ≠ 0 ∧ inWindow (Safety.addr s.core x).toNat = false ∧
    ((s.flow .ran).flushStreams).pieces .deck false (Safety.width x + 1) (Safety.addr s.core x).toNat (Safety.width x) =
      (s1, .error (.trans 0x13 (2 ^ 60 + 8))) ∧
    t.dueFatal = none ∧ t.core.rollbackDue = none ∧ t.core.loads = [l] ∧ l.fault = some (0x13, 64) ∧ t.core.handler.active = false ∧
    t.core.handler.loads = [] ∧ t.core.ctl.tvec ≠ 0 ∧ t.core.flight = [] ∧ t.core.fetch.replay = none ∧ t.core.fetch.pc < 0x8000 ∧
    t.core.loops.length ≤ 6 ∧ l.unit < 8 ∧ l.bidx < 2 ^ 11 ∧ l.slot < 4 ∧ l.dest ≠ 0 :=
  ⟨mem1, unmapped, unmapped.flow .ran, one fun c => { c with loads := [⟨6, false, 64, 3, 0, some (0x13, 64), false, 5, false, 1, 1, false⟩] },
    ⟨6, false, 64, 3, 0, some (0x13, 64), false, 5, false, 1, 1, false⟩, by decide, by decide, by decide, by decide, by decide, by decide, rfl,
    rfl, rfl, rfl, rfl, rfl, rfl, by decide, rfl, rfl, by decide⟩

/-- An open recovery region whose log holds n bytes. -/
def logOf (n : Nat) : State := one fun c => { c with regions := ⟨[⟨0, 8192, 0⟩], 8192, 8192 + n, 8192, [], []⟩ }
/-- The undo records of a VST and of a VSTX with every lane on. -/
def vstUndo (c : Core) : List (List Byte) := [logRecord 0 64 (c.spRead 64 256)]
def vstxUndo (c : Core) (x : VX) : List (List Byte) :=
  ((List.range (256 / 8)).filter fun i => (c.laneMask x.m).getLsbD (i * 8)).map
    fun i => logRecord 0 (Safety.element c x i) (c.spRead (Safety.element c x i) 8)

/-- VST outside regions, in one whose log takes its record, and in one whose log does not. -/
theorem witness_VectorStores : ∃ (x : VMem) (s t u : State), Safety.freeV s.core [x.v] ∧ s.core.pending x.base = false ∧
    Safety.vectorOff s.core x = 64 ∧ s.core.pool.wf = true ∧ s.core.depth = 0 ∧ Safety.vectorOff t.core x = 64 ∧ 0 < t.core.depth ∧
    Safety.logFits t.core (vstUndo t.core) ∧ Safety.vectorOff u.core x = 64 ∧ ¬ Safety.logFits u.core (vstUndo u.core) :=
  ⟨⟨all, 4, 4, true, 0⟩, one id, logOf 1024, logOf 100, by unfold Safety.freeV; decide, by decide, by decide, by decide, by decide,
    by decide, by decide, .inr (by decide +kernel), by decide, by rintro (h | h) <;> revert h <;> decide +kernel⟩

/-- The element forms with every lane on: v1 is zero, so that each lane names the element at s(base). -/
theorem witness_VectorStores_elements : ∃ (x : VX) (s t u : State), Safety.freeV s.core [x.d, x.a] ∧ s.core.pending x.base = false ∧
    s.core.depth = 0 ∧ Safety.vxOn s.core x 31 ∧ (∀ i, i < 32 → Safety.element s.core x i + 2 ^ x.size.toNat ≤ s.core.sp * 16384) ∧
    0 < t.core.depth ∧ Safety.logFits t.core (vstxUndo t.core x) ∧
    1 < (vstxUndo u.core x).length ∧ Safety.logFits u.core ((vstxUndo u.core x).take 1) ∧ ¬ Safety.logFits u.core ((vstxUndo u.core x).take 2) :=
  ⟨⟨all, 4, 1, 4, 3⟩, one id, logOf 1024, logOf 30, by unfold Safety.freeV; decide, by decide, by decide, by unfold Safety.vxOn; decide,
    by decide +kernel, by decide, .inr (by decide +kernel), by decide +kernel, .inr (by decide +kernel),
    by rintro (h | h) <;> revert h <;> decide +kernel⟩

def str : VStr := ⟨all, 4, 2⟩
/-- w2 bound to 6 elements of 256 bytes. -/
def bound (w sp : Bool) (pos : Nat) (fifo : List StreamElem) : State :=
  one fun c => c.setStream 2 ⟨some ⟨w, sp, 512, [(3, 256), (2, 1024)], false, 0, 0⟩, pos, 0, fifo, [], none, false, 0, []⟩

/-- A region whose buffer has none of its 512 entries left, and w2 bound as above, its last vectors padding or not. -/
def tight (pad : Bool) : State :=
  one fun c => { (c.setStream 2 ⟨some ⟨true, false, 512, [(3, 256), (2, 1024)], pad, 1, 0⟩, 5, 0, [], [], none, false, 0, []⟩) with
    regions := ⟨[⟨0, 8192, 0⟩], 8192, 8256, 8192, [⟨0, 0, [], 512, 0, 1⟩], []⟩ }

/-- A push that fits the region's buffer because it is padding, and one that does not; pushes bound to the scratchpad that the
log takes and does not take; a full FIFO; a move against the binding's direction. -/
theorem witness_StreamMoves_regions :
    (∃ b, ((tight true).core.stream 2).bind = some b ∧ b.write = true ∧ b.sp = false ∧ 5 < b.total ∧ b.padded 5 = true ∧
      0 < (tight true).core.depth ∧ (tight true).core.buffered + 0 ≤ 512 ∧ 512 < (tight true).core.buffered + 1) ∧
    (∃ b, ((tight false).core.stream 2).bind = some b ∧ b.padded 5 = false ∧ (tight false).core.laneMask all ≠ 0 ∧
      512 < (tight false).core.buffered + 1) ∧
    (bound true true 5 []).core.pool.wf = true ∧ Safety.logFits (bound true true 5 []).core (vstUndo (bound true true 5 []).core) ∧
    ¬ Safety.logFits ((bound true true 5 []).onCore region).core (vstUndo ((bound true true 5 []).onCore region).core) ∧
    8 * (bound true false 5 []).core.rf ≤ ((bound true false 5 (List.replicate 16 ⟨0, false, 0, 0, false, 0, 0, [], 0⟩)).core.stream 2).pushed.length ∧
    (∃ b, ((bound true false 5 []).core.stream 2).bind = some b ∧ b.write = true) ∧
    ∃ b, ((bound false false 5 []).core.stream 2).bind = some b ∧ b.write = false :=
  ⟨⟨_, rfl, by decide⟩, ⟨_, rfl, by decide, by decide +kernel, by decide⟩, by decide,
    .inl (by decide), by rintro (h | h) <;> revert h <;> decide +kernel, by decide, ⟨_, rfl, rfl⟩, _, rfl, rfl⟩

theorem witness_StreamMoves : ∃ (b : StreamBind) (e : StreamElem), b.total = 6 ∧
    ((bound false false 5 [e]).core.stream 2).bind = some b ∧ Safety.freeV (bound false false 5 [e]).core [4] ∧
    (bound false false 5 []).core.issue.checked = false ∧ ((bound false false 5 []).core.stream 2).fifo = [] ∧
    ((bound true false 5 []).core.stream 2).pushed.length < 8 * (bound true false 5 []).core.rf ∧
    (bound true true 5 []).core.depth = 0 ∧ ((bound true true 6 []).core.stream 2).pos ≥ 6 ∧ ((bound false true 6 []).core.stream 2).pos ≥ 6 ∧
    ((one id).core.stream 2).bind = none :=
  ⟨⟨false, false, 512, [(3, 256), (2, 1024)], false, 0, 0⟩, ⟨0, false, 0, 0, false, 0, 0, [], 0⟩, by decide, by decide, by unfold Safety.freeV; decide,
    by decide⟩

def lent (n : Nat) : State := one fun c => { c with ctl := { c.ctl with lend := BitVec.ofNat 64 n } }

theorem witness_LentBanksAndHistogram : ∃ (x : MBank) (y : GReg), (one id).core.active x.g = true ∧ (one id).core.handler.active = false ∧
    (one id).core.flight = [] ∧ (one id).core.ctl.lend.getLsbD 2 = false ∧ (lent 7).core.ctl.lend.toNat % 4 = x.bank.toNat ∧
    (lent 6).core.ctl.lend.getLsbD 2 = true ∧ (lent 6).core.ctl.lend.toNat % 4 ≠ x.bank.toNat ∧ (lent 6).core.issue.checked = false ∧
    (lent 7).core.active x.g = true ∧
    (lent 7).core.ctl.lend = BitVec.ofNat 64 (x.bank.toNat + 4) ∧ (lent 7).core.callHolds x.bank.toNat = false ∧
    (lent 7).core.issue.checked = false ∧ (one id).core.active y.g = true ∧ (one id).core.pending y.a = false ∧
    ((one id).core.src 0 y.a).toNat % 8 = 0 ∧ ((one id).core.src 0 y.a).toNat + 136 ≤ (one id).core.sp * 16384 ∧ (one id).core.depth = 0 :=
  ⟨⟨always, 3⟩, ⟨always, 4⟩, by decide⟩

/-- A result on its way into bank 3, a call that holds it, and a register of it named by a V slot. -/
theorem witness_LentBanksAndHistogram_traps : ∃ (s t : State) (k : Call) (y : V2), (∃ f ∈ s.core.flight, ∃ v ∈ f.res.vregs, v / 8 = 3) ∧
    s.core.active always = true ∧ s.core.handler.active = false ∧ s.core.issue.checked = false ∧
    t.core.mx.queue = [.call k] ∧ k.lend.getLsbD 2 = true ∧ k.lend.toNat % 4 = 3 ∧ t.core.issue.checked = false ∧
    (lent 7).core.issue.suppressed = false ∧ (lent 7).core.handler.active = false ∧ (lent 7).core.ctl.lend.toNat % 4 = y.d.toNat / 8 :=
  ⟨one fun c => { c with flight := [⟨.v 24 0 0, 20, 0, 0, 0, .none, false, false⟩] },
    one fun c => { c with mx := { c.mx with queue := [.call { base.bareCall with lend := 7 }] } }, { base.bareCall with lend := 7 },
    ⟨all, false, 24, 1, 1⟩, by decide, by decide, by decide, by decide, rfl, by decide⟩

/-- Tile 1 in the accumulator share, tiles 2 and 3 in the scratchpad share; the first parameters name descriptor 0. -/
def tiled (a b : TileState) : State :=
  one fun c => { c with tiles := ((c.tiles.set 1 ⟨2, 2, a⟩).set 2 ⟨4, 1, b⟩).set 3 ⟨5, 2, a⟩ }

theorem empty_routine : ∀ w ∈ (tiled .empty .ready).core.routineWords 2, w = 0 := by
  intro w h
  have e : (tiled .empty .ready).core.tileRead ((tiled .empty .ready).core.tileRef (2 : BitVec 6).toNat) 0 512 = List.replicate 512 0 := Mem.read_nil _ 512
  simp only [Core.routineWords, e, List.drop_replicate, List.take_replicate, leVal_zeros, List.mem_map] at h
  obtain ⟨_, _, rfl⟩ := h; rfl

theorem witness_MatrixQueueItems : ∃ (x : MCallF) (y : MLoadF) (z : MCompF) (s : State), s.core.active x.g = true ∧ s = s.readReload ∧
    s.core.routineValid x.routine.toNat = true ∧ (s.core.tile x.tile).size ≠ 0 ∧ s.core.mx.queue.length < 8 ∧
    (s.core.tile x.tile).state = (if x.flags.getLsbD 0 then .empty else .ready) ∧ x.flags.getLsbD 3 = false ∧
    s.core.active y.g = true ∧ (s.core.tile y.tile).size ≠ 0 ∧ (s.core.tile y.tile).state = .ready ∧ s.core.accTile y.tile.toNat = false ∧
    (∀ w ∈ s.core.routineWords y.tile, ∃ i, decodeMicro w = .ok i) ∧ s.core.mx.queue = [] ∧
    s.core.active z.g = true ∧ (s.core.tile z.td).size ≠ 0 ∧ (s.core.tile z.ts).size ≠ 0 ∧
    64 * (s.core.tile z.ts).size.toNat * (256 * (ratioOf z.nm).1 / (ratioOf z.nm).2 + 64) ≤ 16384 * (s.core.tile z.td).size.toNat ∧
    (s.core.tile z.td).state = .empty ∧ (s.core.tile z.ts).state = .ready ∧
    s.core.accTile z.td.toNat = false ∧ s.core.accTile z.ts.toNat = false :=
  ⟨⟨always, 0, 1, 3⟩, ⟨always, 64, 2⟩, ⟨always, 3, 2, 0, 11⟩, tiled .empty .ready, by decide, rfl, by decide, by decide, by decide, by decide,
    by decide, by decide, by decide, by decide, by decide,
    fun w h => ⟨.mxEnd, by rw [empty_routine w h]; decide⟩, by decide⟩

theorem witness_MatrixQueueItems_stops : ∃ (x : MLoadF) (s t : State), s.core.active x.g = true ∧ (s.core.tile x.tile).size ≠ 0 ∧
    (s.core.tile x.tile).state = .ready ∧ (∃ w ∈ s.core.routineWords x.tile, ∀ i, decodeMicro w ≠ .ok i) ∧ s.core.issue.checked = false ∧
    s.core.accTile x.tile.toNat = false ∧ s.core.accTile 1 = true ∧ t.core.mx.queue ≠ [] ∧ t.core.issue.checked = false :=
  ⟨⟨always, 64, 2⟩, (tiled .empty .ready).onCore fun c => c.poolWrite 65536 [1], one fun c => { c with mx := { c.mx with queue := [.mswap 0] } },
    by decide, by decide, by decide,
    ⟨1, by decide +kernel, by intro i; have e : decodeMicro 1 = .error .nonzeroField := by decide
                              rw [e]; simp⟩, by decide⟩

/-- Descriptor 0: 32 rows and 32 columns of f32 with a scale tile at address 4096, in the core's copy and at s4 in the scratchpad. -/
def descWord : Nat := 32 * 2 ^ 64 + 32 * 2 ^ 96 + 128 * 2 ^ 128 + 2 ^ 176 + 2 ^ 181 + 4096 * 2 ^ 256
def described : State :=
  one fun c => { c.poolWrite 65600 (toBytes 64 descWord) with mx := { c.mx with descs := c.mx.descs.set 0 (BitVec.ofNat 512 descWord) } }

set_option exponentiation.threshold 600 in
set_option maxRecDepth 20000 in
theorem witness_ScalesAndDescriptors_load : ∃ (x : ScldF) (s f : State) (bs : List Byte), s.core.active x.g = true ∧ s = s.readReload ∧
    s.core.handler.active = false ∧
    x.desc.toNat ≤ s.core.ctl.tdt.toNat % 256 ∧ (s.core.descAt x.desc.toNat).bscale = true ∧
    (s.core.descAt x.desc.toNat).scaleBytes ≤ 65536 ∧ (s.flow .ran).flushStreams.readScales ((s.core.descAt x.desc.toNat).scaleTile x.desc) = (f, .ok bs) ∧
    (s.flow .ran).flushStreams.core.pushesBefore = [] :=
  ⟨⟨always, 0, true⟩, described, _, [0], by decide +kernel, rfl, by decide +kernel, by decide +kernel, by decide +kernel, by decide +kernel,
    Prod.ext rfl (by decide +kernel), by decide +kernel⟩

/-- The same behind a push that a translation fault has stopped. -/
def describedLate : State := described.onCore behindFence

set_option exponentiation.threshold 600 in
set_option maxRecDepth 20000 in
theorem witness_ScalesAndDescriptors_waits : ∃ (x : ScldF) (s : State), s.core.active x.g = true ∧ s = s.readReload ∧
    s.core.handler.active = false ∧ x.desc.toNat ≤ s.core.ctl.tdt.toNat % 256 ∧ (s.core.descAt x.desc.toNat).bscale = true ∧
    (s.core.descAt x.desc.toNat).scaleBytes ≤ 65536 ∧ (s.flow .ran).flushStreams.core.pushesBefore ≠ [] :=
  ⟨⟨always, 0, true⟩, describedLate, by decide +kernel, rfl, by decide +kernel, by decide +kernel, by decide +kernel, by decide +kernel,
    by decide +kernel⟩

set_option exponentiation.threshold 600 in
set_option maxRecDepth 20000 in
theorem witness_ScalesAndDescriptors_write : ∃ (x : TdsetF) (s f : State) (ps : List Piece), s.core.active x.g = true ∧
    s.core.pending x.a = false ∧ s.core.issue.replay = none ∧ (s.core.src 0 x.a).toNat % 64 = 0 ∧ (s.core.src 0 x.a).toNat + 64 ≤ s.core.sp * 16384 ∧
    x.desc.toNat ≤ s.core.ctl.tdt.toNat % 256 ∧ (descOf (leVal (s.core.spRead (s.core.src 0 x.a).toNat 64))).fmt ≠ 10 ∧
    (descOf (leVal (s.core.spRead (s.core.src 0 x.a).toNat 64))).sptr % 128 = 0 ∧
    ((s.flow .ran).onCore fun c => Safety.consumed c (poisonedIn c.poison (c.spBase + (s.core.src 0 x.a).toNat) 64)).flushStreams.pieces .deck true 65 (s.core.ctl.tdt.toNat / 4096 * 4096 + 64 * x.desc.toNat) 64 = (f, .ok ps) :=
  ⟨⟨always, 0, 4⟩, described, _, [⟨0, 0, 64, px⟩], by decide +kernel, by decide +kernel, by decide +kernel, by decide +kernel, by decide +kernel, by decide +kernel,
    by decide +kernel, by decide +kernel, Prod.ext rfl (by decide +kernel)⟩

/-- The same with its scales where no page is; the tile of a load that is still to be read; a descriptor past the table. -/
def describedFar : State := described.onCore fun c => { c with mx := { c.mx with
  descs := c.mx.descs.set 0 (BitVec.ofNat 512 (descWord + (2 ^ 56 - 4096) * 2 ^ 256)) } }

set_option exponentiation.threshold 600 in
set_option maxRecDepth 20000 in
theorem witness_ScalesAndDescriptors_fault : ∃ (x : ScldF) (s f : State) (code va : Nat), s.core.active x.g = true ∧ s = s.readReload ∧
    s.core.handler.active = false ∧ x.desc.toNat ≤ s.core.ctl.tdt.toNat % 256 ∧ (s.core.descAt x.desc.toNat).bscale = true ∧
    (s.core.descAt x.desc.toNat).scaleBytes ≤ 65536 ∧ (s.flow .ran).flushStreams.core.pushesBefore = [] ∧
    (s.flow .ran).flushStreams.readScales ((s.core.descAt x.desc.toNat).scaleTile x.desc) = (f, .error (.trans code va)) :=
  ⟨⟨always, 0, true⟩, describedFar, _, 0x10, 2 ^ 56, by decide +kernel, rfl, by decide +kernel, by decide +kernel, by decide +kernel, by decide +kernel,
    by decide +kernel, Prod.ext rfl (by decide +kernel)⟩

def waitingScales : ScaleTile := ⟨0, 0, 4096, 1, 1, none⟩
def unread : State := one fun c => { c with mx := { c.mx with pend := [(waitingScales, [])], scaleL := some waitingScales } }

set_option maxRecDepth 20000 in
theorem witness_ScalesAndDescriptors_pending : ∃ (t : State) (x : TdsetF), unread.core.mx.pend = [(waitingScales, [])] ∧ unread.core.mx.stop = none ∧
    unread.readScales waitingScales = (t, .ok [0]) ∧ t.core.mx.scaleL = some waitingScales ∧
    unread.core.active x.g = true ∧ unread.core.issue.checked = false ∧ unread.core.ctl.tdt.toNat % 256 < x.desc.toNat :=
  ⟨_, ⟨always, 1, 4⟩, rfl, rfl, Prod.ext rfl (by decide +kernel), by decide +kernel, by decide⟩

/-- A ring of four slots over tiles 8 to 11, with two of them filled. -/
def ringed : State := one fun c => { c with rings := c.rings.set 2 ⟨8, 4, 1, 0xFFFF, 0⟩ }

theorem witness_TilesAndRings : ∃ (x : TlSetF) (y : CbAdvF) (z : CbWaitF), (one id).core.active x.g = true ∧
    (one id).core.pending x.a = false ∧ (one id).core.tileBad (bitsOf ((one id).core.src 0 x.a).toNat 6 0) (bitsOf ((one id).core.src 0 x.a).toNat 13 7) = false ∧
    ((one id).core.tile x.t).state = .empty ∧ ((tiled .filling .draining).core.tile 1).state = .filling ∧
    (one id).core.tileBad 1 1 = true ∧ (one id).core.issue.checked = false ∧
    ringed.core.active y.g = true ∧ (ringed.core.ring y.h).n ≠ 0 ∧ (ringed.core.ring y.h).count + (y.k.toNat + 1) ≤ (ringed.core.ring y.h).n.toNat ∧
    y.k.toNat + 1 ≤ (ringed.core.ring y.h).count ∧
    (∀ i, i < y.k.toNat + 1 → (ringed.core.tileAt ((ringed.core.ring y.h).slotTile (((ringed.core.ring y.h).cons.toNat + i) % 65536))).state ≠ .filling) ∧
    ringed.core.active z.g = true ∧ ringed.core.part.abort = false ∧ z.count.toNat ≤ (ringed.core.ring z.h).n.toNat ∧
    z.count.toNat ≤ (ringed.core.ring z.h).n.toNat - (ringed.core.ring z.h).count ∧ (ringed.core.ring z.h).count < 3 :=
  ⟨⟨always, 1, 0, true⟩, ⟨always, 2, 1⟩, ⟨always, 2, true, 2⟩, by decide⟩

/-- A ring whose tiles are filling, one that is not bound, and a count above n. -/
theorem witness_TilesAndRings_traps : ∃ (s : State) (y : CbAdvF) (z : CbWaitF),
    (s.core.tileAt ((s.core.ring y.h).slotTile (((s.core.ring y.h).cons.toNat + 0) % 65536))).state = .filling ∧ 0 < y.k.toNat + 1 ∧ (s.core.ring y.h).n ≠ 0 ∧
    s.core.active y.g = true ∧ s.core.issue.checked = false ∧ ((one id).core.ring y.h).n = 0 ∧ (one id).core.active y.g = true ∧
    (one id).core.part.abort = false ∧ (s.core.ring z.h).n.toNat < z.count.toNat ∧ s.core.part.abort = false :=
  ⟨ringed.onCore fun c => { c with tiles := Vector.replicate 64 ⟨5, 1, .filling⟩ }, ⟨always, 2, 1⟩, ⟨always, 2, true, 5⟩, by decide⟩

/-- aq0 holds 63 addresses, dq0 two rows of which the second faulted. -/
def gathers : State :=
  one fun c => { c with copy := { c.copy with
    aq0 := List.replicate 63 ⟨0, [], 0, 8, 0⟩, dq0 := [⟨⟨0, [], 0, 8, 0⟩, zeros 8, none, false⟩, ⟨⟨0, [], 0, 8, 0⟩, zeros 8, some (0x10, 0), false⟩] } }

theorem witness_GatherQueues : ∃ (x : KaqF) (y : KdqF), gathers.core.active x.g = true ∧ gathers.core.pending x.b = false ∧
    gathers.core.pending (x.b + 1) = false ∧ (gathers.core.src 1 (x.b + 1)).toNat = 0 ∧ gathers.core.isLent x.a = false ∧
    gathers.core.copy.aq0.length + 1 ≤ 64 ∧ ¬ gathers.core.copy.aq0.length + 2 ≤ 64 ∧ x.nb = true ∧ gathers.core.issue.checked = false ∧
    gathers.core.active y.g = true ∧ gathers.core.handler.active = false ∧ y.cnt.toNat + 1 = 1 ∧ gathers.core.isLent y.d = false ∧
    (∀ r ∈ gathers.core.copy.dq0.take 1, r.fault = none) ∧ (gathers.core.copy.dq0[1]?.map (·.fault)) = some (some (0x10, 0)) ∧
    gathers.core.issue.replay = none ∧ gathers.core.copy.dq0.length < 3 :=
  ⟨⟨always, false, true, 1, 1, 6⟩, ⟨always, false, 4, 0⟩, by decide⟩

/-- s4 names a stream block: 3 elements of 256 bytes from address 4096 on; s8 a misaligned one. -/
def blocked : State := one fun c => (c.setS 8 8).poolWrite 65600
  (toBytes 64 (4096 + 256 * 2 ^ 72 + 3 * 2 ^ 96 + 256 * 2 ^ 128 + 2 ^ 160 + 2 ^ 224 + 2 ^ 288))

theorem witness_StreamBindingAndBarrier : ∃ (x : KBindF) (y : KBarF), blocked.core.active x.g = true ∧ blocked.core.pending x.a = false ∧
    firstBad (blocked.core.bindBad (blocked.core.src 0 x.a).toNat (leVal (blocked.core.spRead (blocked.core.src 0 x.a).toNat 64))) = none ∧
    blocked.core.active y.g = true ∧ blocked.core.issue.checked = false ∧ (blocked.core.src 0 8).toNat % 64 ≠ 0 :=
  ⟨⟨always, 1, 4⟩, ⟨always, 7⟩, by decide, by decide, by decide +kernel, by decide⟩

def cmd : Cmd := ⟨always, false, false, 0, 4, 0⟩

theorem witness_CommandsAccepted : ∃ (i : Instr) (x : Cmd) (s : State), Safety.cmdOf i = some x ∧ s.core.active x.g = true ∧
    s.core.issue.checked = true :=
  ⟨.kcopy cmd, cmd, one fun c => { c with issue := { c.issue with checked := true } }, rfl, by decide, by decide⟩

/-- The block at s4 fits; s5 = 3 is no block and no sync object; s8 names a block that reaches the frame. -/
theorem witness_IllegalOperandsTrap_CommandTraps : ∃ (i : Instr) (x : Cmd) (s t : State), Safety.cmdOf i = some x ∧ s.core.active x.g = true ∧
    s.core.issue.checked = false ∧ s.core.pending x.cb = false ∧ s.core.pending x.so = false ∧ (s.core.src 0 5).toNat % 64 ≠ 0 ∧
    s.core.ctl.frame.toNat < (s.core.src 0 8).toNat + 64 ∧ (s.core.src 0 x.cb).toNat % 64 = 0 ∧
    (s.core.src 0 x.cb).toNat + 64 ≤ s.core.ctl.frame.toNat ∧ (s.core.src 0 x.cb).toNat + 64 ≤ s.core.sp * 16384 ∧
    s.core.src 1 5 ≠ 0 ∧ s.core.src 1 x.so = 0 ∧ 0 < t.core.depth ∧ Safety.regionOk i = false :=
  ⟨.cupdSgd cmd, cmd, one fun c => c.setS 8 61440, one region, rfl, by decide, by decide, by decide, by decide, by decide, by decide,
    by decide, by decide, by decide, by decide, by decide, by decide, rfl⟩

/-- Branch operands: the last bundle, and the address past it. -/
def jump (pc target : Nat) : State := one fun c => { c.setS 8 (BitVec.ofNat 64 target) with fetch := { c.fetch with pc := pc } }

theorem witness_Branches : ∃ (x : BrF) (y : JmpF) (z : GReg) (s : State), s.core.active x.g = true ∧
    (0x7FF0 : Int) = s.core.fetch.pc + 16 * x.off.toInt ∧ (0x7FF0 : Int) = s.core.fetch.pc + 16 * y.off.toInt ∧ s.core.active z.g = true ∧
    s.core.pending z.a = false ∧ 0x7FF0 = (s.core.src 0 z.a).toNat ∧ s.core.pendingW 63 = false ∧ s.core.fetch.written = false ∧
    0x7FF0 = (((s.onCore fun c => c.setS 63 0x7FF0)).core.src 0 63).toNat :=
  ⟨⟨always, 3⟩, ⟨always, 3⟩, ⟨always, 8⟩, jump 0x7FC0 0x7FF0, by decide⟩

theorem witness_IllegalOperandsTrap_BranchTargetTraps : ∃ (x : BrF) (z : GReg) (s t : State), s.core.issue.checked = false ∧ s.core.active x.g = true ∧
    (0x7FF0 : Int) < s.core.fetch.pc + 16 * x.off.toInt ∧ s.core.fetch.pc < 0x8000 ∧ s.core.active z.g = true ∧ s.core.pending z.a = false ∧
    s.core.pending 63 = false ∧ 0x7FF0 < (s.core.src 0 z.a).toNat ∧ t.core.fetch.written = true ∧ t.core.active z.g = true ∧
    (∃ k ∈ t.core.copy.cmds, k.bank = true) :=
  ⟨⟨always, 1⟩, ⟨always, 8⟩, jump 0x7FF0 0x8000, one fun c => { c with
      fetch := { c.fetch with written := true }
      copy := { c.copy with cmds := [⟨0, .kcopy cmd, 0, 0, 0, false, false, 0, 0, 0, [], [], [], 0, 0, [], none, none, false, true, [], [], false, false, []⟩] } },
    by decide⟩

/-- A bucket table at s4: two buckets of 16 and 64 rows, entries 0x100, 0x200 and, for the rest, 0x300. -/
def buckets : State := one fun c => (c.setS 8 16).poolWrite 65600
  (toBytes 64 (2 + 16 * 2 ^ 32 + 64 * 2 ^ 64 + 0x100 * 2 ^ 288 + 0x200 * 2 ^ 304 + 0x300 * 2 ^ 320))

theorem witness_BucketSelectAndLoopEntry_BucketSelect : ∃ (x : GReg2) (s : State), s.core.active x.g = true ∧ s.core.pending x.a = false ∧ s.core.pending x.b = false ∧
    (s.core.src 1 x.b).toNat % 64 = 0 ∧ (s.core.src 1 x.b).toNat + 64 ≤ s.core.sp * 16384 ∧
    bselBad (leVal (s.core.spRead (s.core.src 1 x.b).toNat 64)) = false ∧ (s.core.src 0 x.a).toInt = 16 ∧
    leVal (s.core.spRead (s.core.src 1 x.b).toNat 64) / 2 ^ 32 % 2 ^ 32 = 16 :=
  ⟨⟨always, 8, 4⟩, buckets, by decide, by decide, by decide, by decide, by decide, by decide +kernel, by decide, by decide +kernel⟩

/-- A loop block at s4: five iterations, s5 advancing by 8. -/
def looped : State := one fun c => c.poolWrite 65600 (toBytes 64 (5 + 2 ^ 32 + 5 * 2 ^ 64 + 8 * 2 ^ 72))

theorem witness_BucketSelectAndLoopEntry_LoopEntry : ∃ (x : LoopF) (s : State), s.core.active x.g = true ∧ s.core.pending x.a = false ∧ s.core.loops.length < 6 ∧
    (s.core.src 0 x.a).toNat % 64 = 0 ∧ (s.core.src 0 x.a).toNat + 64 ≤ s.core.sp * 16384 ∧
    loopBlockBad (leVal (s.core.spRead (s.core.src 0 x.a).toNat 64)) = false ∧ s.core.fetch.pc + 16 * (x.body.toNat + 1) ≤ 0x7FF0 ∧
    s.core.loops.getLast? = none :=
  ⟨⟨always, 4, 1⟩, looped, by decide, by decide, by decide, by decide, by decide, by decide +kernel, by decide, by decide⟩

theorem witness_clean : ∃ (g : Guard) (s : State), s.core.active g = true ∧ Safety.cleanEnd (s.flow .ran).flushStreams ∧
    s.core.depth = 0 ∧ s.core.handler.active = false ∧ s.core.ctl.lend.getLsbD 2 = false ∧ s.core.ctl.tvec ≠ 0 ∧
    Safety.cleanEnd (s.flow .ran) ∧ s.haltDebug = false ∧ s.core.copy.cmds = [] ∧ s.core.pendingW 63 = false :=
  ⟨always, one id, by decide, by unfold Safety.cleanEnd; decide, by decide, by decide, by decide, by decide, by unfold Safety.cleanEnd; decide,
    by decide, rfl, by decide⟩

theorem witness_AbortAndSoftwareTraps_SoftwareTraps_halt : ∃ s : State, s.core.active always = true ∧ Safety.cleanEnd (s.flow .ran) ∧ s.core.handler.active = false ∧
    s.core.ctl.tvec ≠ 0 ∧ s.haltDebug = true :=
  ⟨{ one id with pilot := { Pilot.reset with security := .vendorReturn, halt := true } }, by decide, by unfold Safety.cleanEnd; decide,
    by decide⟩

/-- A core at a boundary that samples its abort line, which is set. -/
def aborting : State := one fun c => { c with bound := ⟨none, false, [], [], false, true⟩, part := { c.part with abort := true } }

theorem witness_AbortAndSoftwareTraps_AbortLine : ∃ (x : Imm16F) (s t : State) (c d : Core), s.core.active x.g = true ∧
    c ∈ s.rest ∧ s.core.sameCluster c = true ∧ d ∈ s.rest ∧ s.core.sameCluster d = false ∧
    t.core.part.status = .running ∧ t.core.part.halted = false ∧ t.core.part.abort = true ∧ t.senderHeld = false ∧
    t.core.pushes = [] ∧
    t.core.bound = ⟨none, false, [], [], false, true⟩ ∧ (∀ l ∈ t.core.loads, l.fault = none) ∧ t.core.unreported = none :=
  ⟨⟨always, 7⟩, { one id with rest := [{ base with id := 1 }, Core.reset 2] }, aborting, { base with id := 1 }, Core.reset 2, by decide,
    .head _, by decide, .tail _ (.head _), by decide, rfl, rfl, rfl, by decide, rfl, rfl, (by intro l h; cases h), by decide⟩

/-- A core in handler state whose frame is all zeros. -/
def handling : State := one fun c => { c with handler := ⟨true, [], [], 0, false, none, [], []⟩ }

/-- The same with the redirect flag of the frame set and 0x7FE1 as its target. -/
def handlingRedirect : State := handling.onCore fun c => c.poolWrite (c.spBase + 61440) (zeros 24 ++ [1] ++ zeros 7 ++ [0xE1, 0x7F])
/-- What a TRET of a state ends its bundle with. -/
def tretEnd (s : State) : Core := ((s.flow .ran).flushStreams).core.finish false false

theorem witness_TrapReturn : ∃ (g : Guard) (s t : State), s.core.active g = true ∧ s.core.handler.active = true ∧ s.core.bound.faulted = [] ∧
    (s.flow .ran).flushStreams.core.bound.faulted = [] ∧ (s.flow .ran).flushStreams.core.bound.rollback = none ∧
    (tretEnd s).bound.rollback = none ∧ Safety.frameNat (tretEnd s) 0 64 / 2 ^ 206 % 2 ^ 8 = 0 ∧
    (Safety.frameNat (tretEnd s) 0 64).testBit 192 = false ∧
    (∀ i < 6, badLoopEdit ((tretEnd s).spRead ((tretEnd s).ctl.frame.toNat + (0x200 + 64 * i)) 64) = false) ∧
    (Safety.frameNat (tretEnd t) 0 64).testBit 192 = true ∧ Safety.frameNat (tretEnd t) 0 64 / 2 ^ 256 % 2 ^ 64 = 0x7FE1 ∧
    Safety.frameNat (tretEnd t) 0 64 / 2 ^ 206 % 2 ^ 8 = 0 :=
  ⟨always, handling, handlingRedirect, by decide, by decide, by decide, by decide, by decide, by decide, by decide +kernel, by decide +kernel,
    by decide +kernel, by decide +kernel, by decide +kernel, by decide +kernel⟩

/-- s4 names a zero sync object: a free LOCK. -/
def sync : SyncF := ⟨always, 4, 1⟩
set_option exponentiation.threshold 600 in
set_option maxRecDepth 20000 in
theorem witness_AcquireSemantics : ∃ (x : SyncF) (s s1 t u : State) (p : Piece) (o : SyncObj), s.core.active x.g = true ∧
    s.core.pending x.a = false ∧ s.core.issue.flow = .ran ∧ Safety.objAddr (s.core.srcAddr x.a) ∧
    s.flushStreams.acqProbe (s.core.srcAddr x.a).toNat x.scope.toNat = (s1, .take p o) ∧ o.mode = 0 ∧ isDevice p.pa = true ∧ Safety.performsDirect s1 ∧
    t.flushStreams.acqProbe (t.core.srcAddr x.a).toNat x.scope.toNat = (u, .wait) ∧ t.core.issue.checked = false :=
  ⟨sync, one id, one id, { one id with mem := Mem.write [] 64 (toBytes 64 (2 ^ 65)) }, _, ⟨64, 64, 64, px⟩, ⟨0, 0, 0, 0, 0⟩,
    by decide, by decide, by decide, by unfold Safety.objAddr; decide, Prod.ext rfl (by decide +kernel), by decide, by decide,
    (by intro t h; cases h), Prod.ext rfl (by decide +kernel), by decide⟩

/-- One outstanding release of the object at 64 with the object's bytes. -/
def releasing (object : Nat) : State :=
  { one fun c => { c with sync := { c.sync with rels := [⟨64, 64, 1, [], false, [], 0⟩] } } with mem := Mem.write [] 64 (toBytes 64 object) }

set_option exponentiation.threshold 600 in
set_option maxRecDepth 20000 in
theorem witness_ReleaseSemantics : ∃ (x : SyncF) (s f : State) (p : Piece) (r : Release), s.core.active x.g = true ∧
    s.core.pending x.a = false ∧ s.core.depth = 0 ∧ Safety.objAddr (s.core.srcAddr x.a) ∧
    (s.flow .ran).flushStreams.syncPiece (s.core.srcAddr x.a).toNat x.scope.toNat = (f, .ok p) ∧ p.x.w = true ∧
    (releasing (2 ^ 64)).core.sync.rels[0]? = some r ∧ r.waits = [] ∧
    (∀ n ∈ (releasing (2 ^ 64)).core.unperformed, n ∉ r.after) ∧ r.scope.toNat ≠ 4 ∧ isDevice r.pa = true ∧
    (releasing (2 ^ 64)).windows = [] ∧ Safety.seesMemory (releasing (2 ^ 64)) ∧
    syncOf (leVal ((releasing (2 ^ 64)).mem.read r.pa 64)) = ⟨0, 0, (releasing (2 ^ 64)).core.id + 1, (releasing (2 ^ 64)).ferry.addr, 0⟩ ∧
    syncOf (leVal ((releasing (2 ^ 65)).mem.read r.pa 64)) = ⟨0, 0, 2, 0, 0⟩ ∧
    (releasing (2 ^ 64)).poisonedAt [⟨r.va.toNat, r.pa, 64, ⟨0, 0, 64, 0, true, false, false⟩⟩] = false ∧
    { releasing (2 ^ 64) with poison := [2] }.poisonedAt [⟨r.va.toNat, r.pa, 64, ⟨0, 0, 64, 0, true, false, false⟩⟩] = true :=
  ⟨sync, one id, _, ⟨64, 64, 64, px⟩, ⟨64, 64, 1, [], false, [], 0⟩, by decide, by decide, by decide, by unfold Safety.objAddr; decide,
    Prod.ext rfl (by decide +kernel), by decide, by decide, by decide, by decide, by decide, by decide, by decide, (by intro t h; cases h),
    by decide +kernel, by decide +kernel, by decide, by decide⟩

theorem witness_FencesMonitorsAndCounts_FenceAndCounts_fence : ∃ (x : FenceF) (s t : State), s.core.active x.g = true ∧ s.core.depth = 0 ∧ t.core.active x.g = true ∧
    0 < t.core.depth ∧ t.core.issue.checked = false :=
  ⟨⟨always, 4⟩, one id, one region, by decide⟩

set_option exponentiation.threshold 600 in
set_option maxRecDepth 20000 in
theorem witness_FencesMonitorsAndCounts_FenceAndCounts_counts : ∃ (x : LcntF) (s s1 s2 s3 s4 : State) (p : Piece) (o : SyncObj) (ps : List Piece) (bs : List Byte),
    s.core.active x.g = true ∧ s.core.pending x.a = false ∧ s.core.pending x.b = false ∧ s.core.issue.flow = .ran ∧
    Safety.objAddr (s.core.srcAddr x.a) ∧ (s.core.src 1 x.b).toNat % 32 = 0 ∧ inWindow (s.core.src 1 x.b).toNat = false ∧
    s.flushStreams.acqProbe (s.core.srcAddr x.a).toNat 3 = (s1, .take p o) ∧ s1.pieces .deck false 33 (s.core.src 1 x.b).toNat 32 = (s2, .ok ps) ∧
    s2.acquire p o = (s3, none) ∧ s3.readOwn ps = (s4, .ok bs) :=
  ⟨⟨always, 4, 3, 5⟩, one id, one id, one id, _, _, ⟨64, 64, 64, px⟩, ⟨0, 0, 0, 0, 0⟩, [⟨128, 128, 32, px⟩], zeros 32, by decide, by decide,
    by decide, by decide, by unfold Safety.objAddr; decide, by decide, by decide, Prod.ext rfl (by decide +kernel), Prod.ext rfl (by decide +kernel),
    Prod.ext rfl (by decide +kernel), Prod.ext rfl (by decide +kernel)⟩

def watching (m : Option Monitor) (restored : Bool) : State :=
  one fun c => { c with sync := { c.sync with monitor := m, restored := restored } }

theorem witness_FencesMonitorsAndCounts_MonitorAndWait : ∃ (x : GReg) (f : State) (p : Xlat), (win id).core.active x.g = true ∧ (win id).core.pending x.a = false ∧
    inWindow ((win id).core.src 0 x.a).toNat = true ∧ inWindow ((one id).core.src 0 x.a).toNat = false ∧
    ((one id).flow .ran).flushStreams.xlat .deck ((one id).core.src 0 x.a).toNat = (f, .ok p) ∧ p.bond = false ∧
    isDevice (p.pa + ((one id).core.src 0 x.a).toNat % p.size) = true ∧
    (watching none true).core.pendingW x.a = false ∧ (watching none true).core.part.abort = false ∧ (watching none true).core.sync.restored = true ∧
    (watching none false).core.sync.monitor = none ∧ (watching (some ⟨0, false, true, 0⟩) false).core.sync.restored = false ∧
    (watching (some ⟨0, false, false, 0⟩) false).core.issue.checked = false :=
  ⟨⟨always, 4⟩, (one id).flow .ran, px, by decide, by decide, by decide, by decide, rfl, by decide⟩

/-- A MON behind a push that a translation fault has stopped, and a MWAIT whose MON has not armed yet. -/
theorem witness_FencesMonitorsAndCounts_MonitorAndWait_held : ∃ (x : GReg) (s f t : State) (p : Xlat), s.core.active x.g = true ∧ s.core.pending x.a = false ∧
    inWindow (s.core.srcAddr x.a).toNat = false ∧ (s.flow .ran).flushStreams.xlat .deck (s.core.srcAddr x.a).toNat = (f, .ok p) ∧ p.bond = false ∧
    isDevice (p.pa + (s.core.srcAddr x.a).toNat % p.size) = true ∧ (Safety.noHeldMonitor f.core).unperformed ≠ [] ∧
    (Safety.noHeldMonitor (one id).core).unperformed = [] ∧
    t.core.active x.g = true ∧ t.core.pendingW x.a = false ∧ t.core.part.abort = false ∧ t.core.sync.restored = false ∧
    t.core.heldMonitor.isSome = true ∧ t.core.issue.checked = false :=
  ⟨⟨always, 4⟩, one behindFence, (one behindFence).flow .ran, one fun c => { c with copy := { c.copy with fenced := [⟨5, [], .monitor 0⟩] } }, px,
    by decide, by decide, by decide, rfl, by decide⟩

/-- Two cores of one berth, ranks 0 and 1; level 1 joins both. -/
def pair (dom : Nat) : State :=
  let one' := one fun c => { c with ctl := { c.ctl with dom := c.ctl.dom.set 1 256 } }
  { one' with rest := [{ one'.core with
      id := 1
      ctl := { one'.core.ctl with core := 257, dom := one'.core.ctl.dom.set 1 (BitVec.ofNat 64 dom) }
      sync := { one'.core.sync with arrivals := one'.core.sync.arrivals.set 1 [BitVec.ofNat 64 dom] } }] }

theorem witness_BarrierArrival : ∃ (x : DbarF), (pair 256).core.active x.g = true ∧ (pair 256).core.part.abort = false ∧
    (pair 256).core.ctl.dom.get x.level.toFin = 256 ∧ domFab 256 = false ∧ (pair 256).core.sync.waiting = [] ∧
    (pair 256).domMismatch x.level.toNat 1 256 = false ∧ (pair 257).domMismatch x.level.toNat 1 256 = true :=
  ⟨⟨always, 1⟩, by decide⟩

/-- s3 = 128 and s8 name a log of 256 bytes from 128 on. -/
def logged : State := one fun c => c.setS 8 (BitVec.ofNat 64 (128 + 256 * 2 ^ 32))

theorem witness_RecoveryRegions_open : ∃ (x y : GReg2) (s t : State), s.core.active x.g = true ∧ s.core.pending x.a = false ∧
    s.core.pending x.b = false ∧ s.core.handler.active = false ∧ (s.core.src 1 x.b).toNat ≤ 0x7FF0 ∧ (s.core.src 1 x.b).toNat % 16 = 0 ∧
    (s.flow .ran).flushStreams.core.depth = s.core.depth ∧ s.core.bound.rollback = none ∧ s.core.depth = 0 ∧ s.core.logBad (s.core.src 0 x.a).toNat = false ∧
    (∀ e ∈ (s.flow .ran).flushStreams.core.pushes, e.depth = 0) ∧
    t.core.active y.g = true ∧ 0 < t.core.depth ∧ t.core.depth < 4 ∧ (t.core.src 0 y.a).toNat = 0 ∧ (t.core.src 1 y.b).toNat % 16 = 0 ∧
    (t.flow .ran).flushStreams.core.depth = t.core.depth :=
  ⟨⟨always, 8, 4⟩, ⟨always, 0, 4⟩, logged, one region, by decide⟩

/-- An open region that holds one buffered store to device memory. -/
def buffered : State := one fun c => { region c with regions := { (region c).regions with buf := [⟨64, 64, [1], 8, 0, 1⟩] } }

theorem witness_RecoveryRegions_keep_close : ∃ (x : RkeepF) (s t u : State), s.core.active x.g = true ∧ s.core.handler.active = false ∧
    0 < s.core.depth ∧ s.core.pending x.a = false ∧ (s.core.src 0 x.a).toNat = 3 ∧ s.core.pending 0 = false ∧ s.core.pending 1 = false ∧
    (∀ k, k < 4 → x.vb.getLsbD k = true → s.core.bankLent k = false) ∧
    s.core.depth = 1 ∧ s.core.bound.rollback = none ∧ (s.flow .ran).flushStreams.core.regions.buf = [] ∧ t.core.depth = 1 ∧
    (t.flow .ran).flushStreams.core.regions.buf = [⟨64, 64, [1], 8, 0, 1⟩] ∧ (t.flow .ran).flushStreams.core.fenceLeft = [] ∧ isDevice 64 = true ∧ Safety.performsDirect (t.flow .ran).flushStreams ∧
    1 < u.core.depth ∧ u.core.depth ≤ 4 ∧ (u.flow .ran).flushStreams.core.depth = u.core.depth :=
  ⟨⟨always, 5, 1⟩, one region, buffered, one fun c => { c with regions := { c.regions with stack := [⟨0, 0, 0⟩, ⟨0, 0, 0⟩] } }, by decide, by decide, by decide,
    by decide, by decide, by decide, by decide, by decide, by decide, by decide, by decide, by decide, by decide, by decide, by decide,
    (by intro t h; cases h), by decide⟩

theorem witness_IllegalOperandsTrap_RegionTraps : ∃ (s t u v : State) (x : GReg2), s.core.issue.checked = false ∧ s.core.active x.g = true ∧ s.core.pending x.a = false ∧
    s.core.pending x.b = false ∧ s.core.handler.active = true ∧ t.core.handler.active = false ∧ t.core.depth = 4 ∧ t.core.issue.checked = false ∧
    u.core.depth = 0 ∧ u.core.handler.active = false ∧ 0 < v.core.depth ∧ v.core.issue.checked = false :=
  ⟨handling, one fun c => { c with regions := { c.regions with stack := List.replicate 4 ⟨0, 0, 0⟩ } }, one id, one region, ⟨always, 8, 4⟩,
    by decide⟩

def ctl (n : Nat) : CtlF := ⟨always, 4, BitVec.ofNat 10 n⟩

theorem witness_ControlRegisters_ControlRegisterReads : (one id).core.active (ctl 0).g = true ∧ (one id).core.pendingW (ctl 0).r = false ∧
    (one id).core.issue.ext = none ∧ (0x17, (one id).core.ctl.lend) ∈ Safety.namedCtl (one id).core ∧ (ctl 0x17).ctl.toNat = 0x17 ∧
    (ctl 0x06).ctl.toNat = 0x06 ∧ (ctl 0x47).ctl.toNat = 0x40 + (7 : Fin 8) ∧ (ctl 0x5F).ctl.toNat = 0x50 + (15 : Fin 16) ∧
    (ctl 0xBF).ctl.toNat = 0x80 + (63 : Fin 64) ∧ 0x18 ≤ (ctl 0x18).ctl.toNat ∧ 0x48 ≤ (ctl 0x48).ctl.toNat ∧ 0x60 ≤ (ctl 0x7F).ctl.toNat ∧
    0xC0 ≤ (ctl 0xC0).ctl.toNat ∧ (one id).core.issue.checked = false := by decide

/-- A control number lent by LEND, and what CWR refuses: mode 6, a domain that names a fabric group below level 3, a ring past tl63. -/
theorem witness_ControlRegisters_traps : ∃ s : State, s.core.issue.ext = some 1 ∧
    (s.core.issue.ext.map fun e => e.toNat % 4 * 1024).getD 0 + (ctl 0x10).ctl.toNat = 0x410 ∧ s.core.active always = true ∧ s.core.issue.checked = false ∧
    5 < (6 : Word).toNat % 8 ∧ (one fun c => c.setS 4 6).core.src 0 (ctl 0x0A).r = 6 ∧
    (one id).core.domBad 0 (BitVec.ofNat 64 (2 ^ 16)) = true ∧ (one id).core.ringBad 15 191 = true :=
  ⟨one fun c => { c with issue := { c.issue with ext := some 1 } }, by decide⟩

theorem witness_ControlRegisters_ControlRegisterWrites : (one id).core.active (ctl 0).g = true ∧ (one id).core.pending (ctl 0).r = false ∧
    (ctl 0x17).ctl.toNat ∈ [0x00, 0x02, 0x03, 0x04, 0x05, 0x06, 0x07, 0x0B, 0x11, 0x13, 0x14, 0x16, 0x17] ∧
    ((one id).core.src 0 (ctl 0x0A).r).toNat % 8 ≤ 5 ∧ (one id).core.domBad 3 0 = false ∧ (one id).core.ringBad 15 0 = false ∧
    (one id).core.mx.queue.length < 8 ∧ ((one id).flow .ran).flushStreams.core.pushesBefore = [] ∧
    ((one behindFence).flow .ran).flushStreams.core.pushesBefore ≠ [] := by decide

set_option exponentiation.threshold 600 in
set_option maxRecDepth 20000 in
theorem witness_ControlRegisters_ControlRegisterWrites_table : ∃ f tab, ((one id).flow .ran).flushStreams.readTable (64 &&& 0x1FFFFFFFFFFF0FF) = (f, .ok tab) :=
  ⟨_, _, rfl⟩

theorem witness_InjectInvalidateLaunch : ∃ (x : EinjF) (y : GReg) (s t : State), s.core.active x.g = true ∧ s.core.pending x.a = false ∧
    s.core.active y.g = true ∧ s.core.pending y.a = false ∧ inWindow (s.core.src 0 y.a).toNat = true ∧ inWindow (t.core.src 0 y.a).toNat = false :=
  ⟨⟨always, 3, 4⟩, ⟨always, 4⟩, win id, one id, by decide⟩

/-- Queue 5 takes launches from memory. -/
def queued : State :=
  { one id with hm := { Harbour.reset with queues := Harbour.reset.queues.set 5 ⟨{ QueueConfig.reset with src := 3 }, 0, 0, 0, []⟩ } }

set_option exponentiation.threshold 600 in
set_option maxRecDepth 20000 in
theorem witness_InjectInvalidateLaunch_launch : ∃ (x : LaunchF) (s1 s2 : State) (ps : List Piece) (raw : List Byte), queued.core.active x.g = true ∧ (s1.uncontain s1.core.part.task).core.unperformed = [] ∧
    queued.core.depth = 0 ∧ queued.core.pending x.a = false ∧ s2.canNumber = true ∧ s2.hm.launches = [] ∧ (queued.core.srcAddr x.a).toNat % 128 = 0 ∧ (queued.queue x.queue.toNat).cfg.src = 3 ∧
    (queued.queue x.queue.toNat).cfg.key = (queued.task.map (·.key)).getD 0 ∧
    (queued.flow .ran).flushStreams.pieces .deck false 129 (queued.core.srcAddr x.a).toNat 128 = (s1, .ok ps) ∧
    (s1.uncontain s1.core.part.task).readOwn ps = (s2, .ok raw) ∧ s2.poisonedOwn ps = false :=
  ⟨⟨always, 3, 5⟩, queued.flow .ran, queued.flow .ran, [⟨128, 128, 128, px⟩], zeros 128, by decide, by decide, by decide, by decide, by decide, rfl, by decide, by decide, by decide,
    rfl, rfl, by decide⟩

set_option exponentiation.threshold 600 in
set_option maxRecDepth 20000 in
/-- The same with a poisoned card. -/
theorem witness_InjectInvalidateLaunch_poisoned : ∃ (x : LaunchF) (s s1 s2 : State) (ps : List Piece) (raw : List Byte), s.core.active x.g = true ∧
    (s.flow .ran).flushStreams.pieces .deck false 129 (s.core.srcAddr x.a).toNat 128 = (s1, .ok ps) ∧
    (s.queue x.queue.toNat).cfg.src = 3 ∧ (s1.uncontain s1.core.part.task).readOwn ps = (s2, .ok raw) ∧ s2.poisonedOwn ps = true :=
  ⟨⟨always, 3, 5⟩, { queued with poison := [4] }, { queued with poison := [4] }.flow .ran, { queued with poison := [4] }.flow .ran,
    [⟨128, 128, 128, px⟩], zeros 128, by decide, rfl, by decide, rfl, by decide⟩

/-- The same behind a push that a translation fault has stopped. -/
theorem witness_InjectInvalidateLaunch_held : ∃ (x : LaunchF) (s s1 : State) (ps : List Piece), s.core.active x.g = true ∧ s.core.pending x.a = false ∧
    s.core.depth = 0 ∧ (s.core.srcAddr x.a).toNat % 128 = 0 ∧ inWindow (s.core.srcAddr x.a).toNat = false ∧ (s.queue x.queue.toNat).cfg.src = 3 ∧
    (s.queue x.queue.toNat).cfg.key = (s.task.map (·.key)).getD 0 ∧
    (s.flow .ran).flushStreams.pieces .deck false 129 (s.core.srcAddr x.a).toNat 128 = (s1, .ok ps) ∧
    (s1.uncontain s1.core.part.task).core.unperformed ≠ [] :=
  ⟨⟨always, 3, 5⟩, queued.onCore behindFence, (queued.onCore behindFence).flow .ran, [⟨128, 128, 128, px⟩], by decide, by decide, by decide,
    by decide, by decide, by decide, by decide, rfl, by decide⟩

/-- The backlog is full: no event can be numbered. -/
theorem witness_InjectInvalidateLaunch_waits :
    { queued with hm := { queued.hm with backlog := List.replicate 1024 ⟨0, 0, 0, 0, 0, 0⟩ } }.canNumber = false := by decide +kernel

def isOk {α : Type} : Except MemErr α → Bool
  | .ok _ => true
  | .error _ => false

theorem ok_of {α : Type} : ∀ {r : State × Except MemErr α}, isOk r.2 = true → ∃ s x, r = (s, .ok x)
  | (s, .ok x), _ => ⟨s, x, rfl⟩

/-- A reference to tile 1 under descriptor `d`. -/
def ref1 (d : Nat) : Word := BitVec.ofNat 64 (d + 2 ^ 8 + 2 ^ 14)

/-- Descriptors 0 f32, 1 f64 and 2 n4, all of no rows: every element lies out of range and is zero. -/
def callDescs : Vector (BitVec 512) 256 :=
  ((Vector.replicate 256 0).set 0 (BitVec.ofNat 512 (2 ^ 176))).set 2 (BitVec.ofNat 512 (11 * 2 ^ 176))

/-- A running call whose primary tile and tile 1 are accumulator granules 2 and 3; x0 names the f32 accumulator, x1 an f32 operand, x2 an
n4 operand, x3 a tile that is not bound. -/
def running : Run :=
  { call := { (base).bareCall with
      tile := ⟨1, 2, 1⟩, descs := callDescs, count := 2
      tiles := (Vector.replicate 64 ⟨0, 0, .empty⟩).set 1 ⟨2, 1, .filling⟩ }
    prog := [.mxNop, .mxNop, .mxEnd], pc := 0
    x := (((Vector.replicate 16 0).set 0 (ref1 0)).set 1 (ref1 0)).set 2 (ref1 2)
    scale := 0x3F800000, mode := 0, sat := false, seed := 0, steps := 0, done := false }

def micro (f : Matrix → Matrix) : State := one fun c => { c with mx := f { c.mx with run := some running, queue := [.call running.call] } }

theorem witness_ControlMicroOps : ∃ (s : State) (r : Run), Safety.microRunning s r := ⟨micro id, running, rfl, rfl, rfl, by decide⟩

theorem witness_ControlMicroOps_MicroRunaway : ∃ (s : State) (r : Run), s.core.mx.run = some r ∧ r.done = false ∧ s.core.mx.stop = none ∧
    r.steps + 1 = 2 ^ 24 ∧ r.pc + 1 < r.prog.length :=
  ⟨micro fun m => { m with run := some { running with steps := 2 ^ 24 - 1 } }, { running with steps := 2 ^ 24 - 1 }, rfl, rfl, rfl, by decide,
    by decide⟩

/-- Row 63 of the accumulator, and one row more than it has. -/
theorem witness_AccumulatorMicroOps : ∃ (s : State) (r : Run) (o : Operand) (s2 : State) (rows : List (List Machine.Num)), Safety.microRunning s r ∧
    s.core.accAt r.call (mrefOf (r.x.get 0)) 64 = some 32768 ∧ s.core.accAt r.call (mrefOf (r.x.get 3)) 1 = none ∧
    s.core.operand r.call (r.x.get 1) = some o ∧ o.desc.fmt = 1 ∧ s.scalesFor r.call false o o.ref.col0 = (s, .ok Scales.none) ∧
    s.elemRows o Scales.none (fun _ => false) 64 o.ref.col0 1 o.ref.row0 = (s2, .ok rows) := by
  obtain ⟨s2, rows, h⟩ := ok_of (show isOk ((micro id).elemRows ⟨mrefOf (ref1 0), descOf (2 ^ 176), ⟨1, 2, 1⟩, 0⟩ Scales.none (fun _ => false) 64 0 1 0).2 = true by
    decide +kernel)
  exact ⟨micro id, running, _, s2, rows, ⟨rfl, rfl, rfl, by decide⟩, by decide, by decide, by decide +kernel, by decide, rfl, h⟩

theorem witness_WeightBankMicroOps : ∃ (s : State) (r : Run) (o p : Operand) (s2 s3 : State) (w cs : List (List Machine.Num)), Safety.microRunning s r ∧
    s.core.mx.active = none ∧ s.core.operand r.call (r.x.get 1) = some o ∧ (s.core.mx.bank false).state ≠ .draining ∧
    s.scalesFor r.call true o o.ref.row0 = (s, .ok Scales.none) ∧ s.elemRows o Scales.none (fun _ => false) 64 o.ref.col0 64 o.ref.row0 = (s2, .ok w) ∧
    s.core.operand r.call (r.x.get 2) = some p ∧ p.ref.kind = 1 ∧ p.ref.t = false ∧ 11 ≤ p.desc.fmt ∧ p.ref.col0 = 0 ∧
    s.scalesFor r.call true p p.ref.col0 = (s, .ok Scales.none) ∧ s.sparseColumns p 0 Scales.none 64 p.ref.row0 = (s3, .ok cs) := by
  obtain ⟨s2, w, h⟩ := ok_of (show isOk ((micro id).elemRows ⟨mrefOf (ref1 0), descOf (2 ^ 176), ⟨1, 2, 1⟩, 0⟩ Scales.none (fun _ => false) 64 0 64 0).2 = true by
    decide +kernel)
  obtain ⟨s3, cs, k⟩ := ok_of (show isOk ((micro id).sparseColumns ⟨mrefOf (ref1 2), descOf (11 * 2 ^ 176), ⟨1, 2, 1⟩, 0⟩ 0 Scales.none 64 0).2 = true by
    decide +kernel)
  exact ⟨micro id, running, _, _, s2, s3, w, cs, ⟨rfl, rfl, rfl, by decide⟩, by decide, by decide +kernel, by decide, rfl, h, by decide +kernel,
    by decide, by decide, by decide, by decide, rfl, k⟩

def bankOf (w : List (List Machine.Num)) : WBank := ⟨.active, true, 1, w, true⟩

theorem witness_StreamedRows : ∃ (s s2 : State) (r : Run) (o : Operand) (rows : List (List Machine.Num)), Safety.microRunning s r ∧
    s.core.mx.active = some false ∧ (s.core.mx.bank false).valid = true ∧ (s.core.mx.bank false).fmt = 1 ∧ (s.core.mx.bank false).w.length ≤ 128 ∧
    s.core.operand r.call (r.x.get 1) = some o ∧ o.desc.fmt = 1 ∧ s.core.accAt r.call (mrefOf (r.x.get 0)) 1 = some 32768 ∧
    s.scalesFor r.call false o o.ref.col0 = (s, .ok Scales.none) ∧
    s.elemRows o Scales.none (o.padRow r.call) (s.core.mx.bank false).w.length o.ref.col0 1 o.ref.row0 = (s2, .ok rows) := by
  obtain ⟨s2, rows, h⟩ := ok_of (show isOk ((micro fun m => { m with active := some false, bankA := bankOf [[.fin false 1 0]] }).elemRows
      ⟨mrefOf (ref1 0), descOf (2 ^ 176), ⟨1, 2, 1⟩, 0⟩ Scales.none (Operand.padRow ⟨mrefOf (ref1 0), descOf (2 ^ 176), ⟨1, 2, 1⟩, 0⟩ running.call) 1 0 1 0).2 = true by
    decide +kernel)
  exact ⟨_, s2, running, _, rows, ⟨rfl, rfl, rfl, by decide⟩, by decide, by decide, by decide, by decide, by decide +kernel, by decide, by decide,
    rfl, h⟩

/-- Tile 2 in the scratchpad share is the drain's destination: x4 names it under descriptor 3, one row of four f32 columns. -/
def draining : Run :=
  { running with
    call := { running.call with
      descs := callDescs.set 3 (BitVec.ofNat 512 (2 ^ 64 + 4 * 2 ^ 96 + 16 * 2 ^ 128 + 2 ^ 176)), count := 3
      tiles := running.call.tiles.set 2 ⟨4, 1, .filling⟩ }
    x := running.x.set 4 (BitVec.ofNat 64 (3 + 2 * 2 ^ 8 + 2 ^ 14)) }

theorem witness_DrainedTile : ∃ (s : State) (r : Run) (o : Operand), Safety.microRunning s r ∧ s.core.operand r.call (r.x.get 4) = some o ∧
    s.core.accAt r.call (mrefOf (r.x.get 0)) 1 = some 32768 ∧ o.desc.fmt = 1 ∧ o.ref.kind = 1 ∧ o.ref.t = false ∧
    r.call.flags.getLsbD 0 = false ∧ 0 ≤ o.desc.rstr ∧ (o.desc.cols : Int) * 4 ≤ o.desc.rstr ∧ (o.desc.rows : Int) * o.desc.rstr ≤ o.tile.bytes ∧
    32768 + 64 * 4 * 1 ≤ o.tile.start ∧ poisonedIn s.core.poison 32768 256 = false ∧ o.ref.row0 < o.desc.rows ∧ o.ref.col0 + 3 < o.desc.cols ∧
    o.padRow r.call o.ref.row0 = false :=
  ⟨one fun c => { c with mx := { c.mx with run := some draining, queue := [.call draining.call] } }, draining,
    ⟨mrefOf (BitVec.ofNat 64 (3 + 2 * 2 ^ 8 + 2 ^ 14)), descOf (2 ^ 64 + 4 * 2 ^ 96 + 16 * 2 ^ 128 + 2 ^ 176), ⟨2, 4, 1⟩, 0⟩,
    ⟨rfl, rfl, rfl, by decide⟩, by decide +kernel, by decide⟩

def flying (f : List Flight) : State := one fun c => { c with flight := f }
def res (r : Result) (slot : Nat) : Flight := ⟨r, 0, 0, 0, slot, .none, false, false⟩

theorem witness_ResultsAndLoadsLand : ∃ (s t : State) (f g : Flight) (l : Load), s.core.fetch.replay = none ∧ t.core.fetch.replay = none ∧ s.core.flight = [f] ∧ f.land ≤ s.core.fetch.cycle ∧ f.twin = .none ∧
    (∀ d xs p, f.res = .rows d xs p → d.toNat + xs.length ≤ 32) ∧ t.core.flight = [g, f] ∧ f.slot < g.slot ∧ g.res = .s 4 2 ∧ f.res = .s 4 1 ∧
    (∀ h ∈ (flying [{ f with land := 1 }]).core.flight, (0 : Nat) < h.land) ∧
    (one fun c => { c with loads := [l] }).core.loads[0]? = some l ∧ l.fault = none ∧ l.late = false :=
  ⟨flying [res (.s 4 1) 0], flying [res (.s 4 2) 1, res (.s 4 1) 0], res (.s 4 1) 0, res (.s 4 2) 1, ⟨4, false, 64, 3, 5, none, false, 0, false, 0, 0, false⟩,
    rfl, rfl, rfl, by decide, rfl, (by intro d xs p h; cases h), rfl, by decide, rfl, rfl, (by intro h e; simp [flying, one] at e; simp [e]), rfl, rfl, rfl⟩

def aCommand (op : Instr) : Command := ⟨9, op, 0, 0, 0, false, false, 0, 0, 0, [], [], [], 0, 0, [], none, none, false, false, [], [], false, false, []⟩
def commanded (k : Command) : State := one fun c => { c with copy := { c.copy with cmds := [k] } }

/-- A card and its running task 1; `contain` is bit 257 of the card. -/
def aCard (contain : Bool) : Card := ⟨1, if contain then BitVec.ofNat 1024 (2 ^ 257) else 0, 5, 0, 0, [], 1, 0, 0, 0, 0, 0, false, false, false, none⟩
def aTask (p : TaskPhase) : Task := ⟨1, 1, 0, 0, 0, 0, 7, p, [0], 0, 0, none, 0, 0, none, [], [], [], [], [], false, 0, [], [], []⟩
def tasked (contain : Bool) (p : TaskPhase) (f : Core → Core) : State :=
  { one f with hm := { Harbour.reset with
      cards := [aCard contain], tasks := [aTask p], queues := Harbour.reset.queues.set 5 ⟨{ QueueConfig.reset with src := 3, maxrq := 2 }, 0, 0, 0, []⟩ } }

def dying (code : Nat) (contain : Bool) : State := tasked contain .running fun c => { c with bound := { c.bound with fatal := [code] } }

set_option exponentiation.threshold 2000 in
theorem witness_FaultEvents : ∃ (s t u : State) (k : Command), s.core.part.halted = false ∧ t.core.part.halted = false ∧ u.core.part.halted = false ∧
    s.core.handler.active = false ∧ s.core.part.status = .running ∧
    s.core.bound.rollback = none ∧ s.core.copy.cmds.find? (fun c => c.stop.isSome && !c.told) = some k ∧ k.stop = some (0x10, 64) ∧
    s.core.ctl.tvec ≠ 0 ∧
    t.core.bound.fatal = [0x14A] ∧ t.task = some (aTask .running) ∧ (aTask .running).status = 0 ∧ (aTask .running).phase ≠ .over ∧
    t.core.part.status ≠ .none ∧ t.contained (aTask .running) = false ∧
    u.core.bound.fatal = [0x14A] ∧ u.task = some (aTask .running) ∧ u.contained (aTask .running) = true ∧ u.cardOf 1 = some (aCard true) ∧
    (aCard true).nrq + 1 ≤ (u.queue 5).cfg.maxrq.toNat :=
  ⟨commanded { aCommand (.kcopy cmd) with stop := some (0x10, 64) }, dying 0x14A false, dying 0x14A true, _, rfl, rfl, rfl, by decide, by decide, by decide,
    rfl, rfl, by decide, rfl, rfl, rfl, by decide, by decide, by decide, rfl, rfl, by decide +kernel, rfl, by decide⟩

/-- A region whose log holds one record: the old 8 bytes of scratchpad offset 64. -/
def rolling (empty : Bool) : State := one fun c =>
  { (if empty then c else c.spWrite 8192 (toBytes 8 (64 + 8 * 2 ^ 32) ++ toBytes 8 77)) with
      regions := ⟨[⟨0x100, 8192, 0⟩], 8192, 8256, if empty then 8192 else 8208, [], [(1, 3)]⟩
      bound := { c.bound with rollback := some 2 } }

set_option exponentiation.threshold 600 in
set_option maxRecDepth 20000 in
theorem witness_FaultEvents_rollback : ∃ (s t : State) (r : Region) (old : List Byte), s.core.bound.rollback = some 2 ∧
    s.core.regions.stack = [r] ∧ s.core.mx.queue = [] ∧ s.core.part.halted = false ∧ s.core.copy.fenced = [] ∧
    ({ s.core with part := { s.core.part with halted := true } } : Core).bound.byUnit = false ∧ (1, 3) ∈ s.core.regions.filled ∧ s.core.regions.logPos = r.logMark ∧
    t.core.bound.rollback = some 2 ∧ t.core.regions.stack = [r] ∧ t.core.regions.logPos = r.logMark + 8 + padTo8 old.length ∧ old ≠ [] ∧
    old.length < 4096 ∧ r.logMark < 2 ^ 21 ∧ leVal (t.core.spRead r.logMark 8) = 64 + old.length * 2 ^ 32 ∧
    t.core.spRead (r.logMark + 8) old.length = old :=
  ⟨rolling true, rolling false, ⟨0x100, 8192, 0⟩, toBytes 8 77, by decide, by decide, by decide, by decide, by decide, by decide, by decide, by decide, by decide, by decide,
    by decide, by decide, by decide, by decide, by decide +kernel, by decide +kernel⟩

def filling (b : StreamBind) : State := one fun c => c.setStream 2 ⟨some b, 0, 0, [], [], none, false, 0, []⟩
def readBind (sp : Bool) (pad : Nat) : StreamBind := ⟨false, sp, 256, [(1, 256)], pad != 0, pad, 0⟩

theorem witness_EngineEvents_CopyUnitEvents_rows : ∃ (s s1 u u1 : State) (g h : GatherAddr) (bs : List Byte), s.core.copy.aq0 = [g] ∧ s.core.copy.dq0.length < 64 ∧
    g.after = [] ∧ s.readHinted .deck g.addr g.len g.hint.toNat = (s1, .ok (bs, false)) ∧
    u.core.copy.aq0 = [h] ∧ h.after = [] ∧ u.readHinted .deck h.addr h.len h.hint.toNat = (u1, .error (.trans 0x13 (2 ^ 57))) :=
  ⟨one fun c => { c with copy := { c.copy with aq0 := [⟨0, [], 64, 8, 0⟩] } }, one fun c => { c with copy := { c.copy with aq0 := [⟨0, [], 64, 8, 0⟩] } },
    one fun c => { c with copy := { c.copy with aq0 := [⟨0, [], 2 ^ 57, 8, 0⟩] } }, one fun c => { c with copy := { c.copy with aq0 := [⟨0, [], 2 ^ 57, 8, 0⟩] } },
    ⟨0, [], 64, 8, 0⟩, ⟨0, [], 2 ^ 57, 8, 0⟩, zeros 8, rfl, by decide, rfl, rfl, rfl, rfl, rfl⟩

set_option maxRecDepth 20000 in
theorem witness_EngineEvents_CopyUnitEvents_streams : ∃ (s1 : State) (ps : List Piece), ((filling (readBind false 0)).core.stream 2).bind = some (readBind false 0) ∧
    (readBind false 0).total = 1 ∧ ((filling (readBind false 0)).core.stream 2).fifo.length < 8 * (filling (readBind false 0)).core.rf ∧
    (∀ cls, (filling (readBind false 0)).core.fenced cls = []) ∧ (∀ n ∈ ((filling (readBind false 0)).core.stream 2).after,
      n ∉ (filling (readBind false 0)).core.outstanding) ∧ (readBind false 1).padded 0 = true ∧ (readBind true 0).padded 0 = false ∧
    (readBind false 0).padded 0 = false ∧ (filling (readBind false 0)).pieces .deck false 257 ((readBind false 0).addr 0) 256 = (s1, .ok ps) ∧
    s1.readPieces ps = (s1, .ok (zeros 256)) :=
  ⟨filling (readBind false 0), [⟨256, 256, 256, px⟩], rfl, by decide, by decide, by decide, by decide, by decide, by decide, by decide, rfl,
    Prod.ext rfl (by decide +kernel)⟩

def pushing (keep : Mask) : State :=
  one fun c => c.setStream 2 ⟨some ⟨true, false, 256, [(1, 256)], false, 0, 0⟩, 1, 0, [⟨256, false, keep, 77, false, 0, 0, [], 0⟩], [], none, false, 0, []⟩

/-- A store that stood behind a FENCE, and that nothing keeps back any more. -/
def waitingStore : State := one fun c => { c with copy := { c.copy with fence := [7], fenced := [⟨9, [7], .store [⟨64, 64, [1], 1, 9, 0⟩]⟩] } }

theorem witness_EngineEvents_CopyUnitEvents_drain : ∃ (s1 : State), ((pushing (BitVec.allOnes 256)).core.stream 2).pushed = [⟨256, false, BitVec.allOnes 256, 77, false, 0, 0, [], 0⟩] ∧ (pushing (BitVec.allOnes 256)).core.copy.fenced = [] ∧
    (∀ f ∈ (pushing (BitVec.allOnes 256)).core.pushes, ¬ f.num < 0) ∧
    ((pushing 0).core.stream 2).pushed = [⟨256, false, 0, 77, false, 0, 0, [], 0⟩] ∧ ((pushing 0).core.stream 2).stop = none ∧
    (pushing (BitVec.allOnes 256)).pieces .deck true 257 256 256 = (s1, .ok [⟨256, 256, 256, px⟩]) ∧ isDevice 256 = true ∧ Safety.performsDirect s1 ∧
    (one id).core.drainable ((one id).core.stream 2) = false ∧ (one id).core.fencedReady = false ∧
    waitingStore.core.drainable (waitingStore.core.stream 2) = false ∧ waitingStore.core.fencedReady = true :=
  ⟨pushing (BitVec.allOnes 256), rfl, rfl, (by intro f _; exact Nat.not_lt_zero _), rfl, rfl, rfl, by decide, (by intro t h; cases h), by decide⟩

/-- A KPEER of 64 bytes from tile 1 to ring h2 of core 1. -/
def peering : State :=
  let k := { aCommand (.kpeer cmd) with block := BitVec.ofNat 512 (2 ^ 8 + 2 * 2 ^ 16 + 64 * 2 ^ 32), srcs := [⟨1, 2, 1⟩] }
  { commanded k with rest := [{ (one id).core with id := 1, rings := base.rings.set 2 ⟨8, 4, 0, 0, 0⟩, tiles := base.tiles.set 8 ⟨4, 1, .empty⟩ }] }

set_option exponentiation.threshold 600 in
theorem witness_EngineEvents_CopyUnitEvents_peer : ∃ (k : Command) (d : Core), peering.cmd 9 = some k ∧ k.op = .kpeer cmd ∧ k.sig = false ∧ k.stop = none ∧
    k.after = [] ∧ k.srcs = [⟨1, 2, 1⟩] ∧ k.block.toNat / 2 ^ 8 % 2 ^ 8 = 1 ∧ BitVec.ofNat 4 (k.block.toNat / 2 ^ 16) = 2 ∧
    k.block.toNat / 2 ^ 32 % 2 ^ 21 = 64 ∧ peering.coreOf 1 = some d ∧ (d.ring 2).n ≠ 0 ∧
    (d.tileAt ((d.ring 2).slotTile (d.ring 2).prod.toNat)).state = .empty ∧
    d.accTile ((d.ring 2).slotTile (d.ring 2).prod.toNat) = false ∧
    64 ≤ 16384 * (d.tileAt ((d.ring 2).slotTile (d.ring 2).prod.toNat)).size.toNat ∧ peering.core.inject.get 3 = none ∧
    peering.core.tilePoison ⟨1, 2, 1⟩ (k.block.toNat / 2 ^ 64 % 2 ^ 21) 64 = false :=
  ⟨_, _, rfl, rfl, rfl, rfl, rfl, rfl, by decide +kernel, by decide +kernel, by decide +kernel, rfl, by decide, by decide, by decide, by decide, by decide,
    by decide +kernel⟩

/-- A KCOPY of 32 bytes from scratchpad offset 0 to offset 64, and one that has only its signal left. -/
def copying : State :=
  commanded { aCommand (.kcopy cmd) with block := BitVec.ofNat 512 (64 * 2 ^ 64 + 2 ^ 128 + 2 ^ 130 + 32 * 2 ^ 160 + 0 * 2 ^ 192) }
def signalling (so : Word) : State :=
  (commanded { aCommand (.kcopy cmd) with sig := true, so := so, dsts := [⟨1, 2, 1⟩], cons := [2] }).onCore fun c =>
    { c with tiles := (c.tiles.set 1 ⟨2, 1, .filling⟩).set 2 ⟨3, 1, .draining⟩ }

set_option exponentiation.threshold 600 in
theorem witness_EngineEvents_CopyUnitEvents_complete : ∃ (k m : Command), (signalling 0).cmd 9 = some k ∧ k.stop = none ∧ k.after = [] ∧
    (signalling 0).core.part.status = .running ∧ (signalling 0).core.part.scan = 0 ∧ k.so = 0 ∧ k.sig = true ∧ k.waits = [] ∧
    (∀ r ∈ k.dsts, r.idx < 64) ∧ (∀ n ∈ k.cons, n < 64) ∧
    copying.cmd 9 = some m ∧ m.sig = false ∧ m.prog = 0 ∧ m.op = .kcopy cmd ∧ (copyBlock m.block.toNat).skind = 1 ∧
    (copyBlock m.block.toNat).dkind = 1 ∧ (copyBlock m.block.toNat).rows = 1 ∧ (copyBlock m.block.toNat).bucket = false ∧
    0 < (copyBlock m.block.toNat).len ∧ (copyBlock m.block.toNat).len ≤ 4096 ∧
    poisonedIn copying.core.poison (copying.core.spBase + (copyBlock m.block.toNat).src) (copyBlock m.block.toNat).len = false :=
  ⟨_, _, rfl, rfl, rfl, rfl, rfl, rfl, rfl, rfl, by decide, by decide, rfl, rfl, rfl, rfl, by decide +kernel, by decide +kernel, by decide +kernel,
    by decide +kernel, by decide +kernel, by decide +kernel, by decide +kernel⟩

set_option exponentiation.threshold 600 in
set_option maxRecDepth 20000 in
theorem witness_EngineEvents_CopyUnitEvents_signal : ∃ (k : Command) (f : State) (p : Piece), (signalling 64).cmd 9 = some k ∧ k.rel = false ∧ k.so ≠ 0 ∧ (∀ r ∈ (signalling 64).core.sync.rels, r.num ∉ k.rels) ∧
    ((signalling 64).onCore fun c => c.mapCmd k.id fun x => { x with sig := true }).syncPiece k.so.toNat 0 = (f, .ok p) ∧ p.x.w = true ∧
    isDevice p.pa = true ∧ p.x.bond = false ∧ p.len = 64 ∧ Safety.seesMemory f ∧ f.windows = [] ∧ f.poisonedAt [p] = false ∧
    syncOf (leVal (f.mem.read p.pa 64)) = ⟨0, 0, 0, 0, 0⟩ :=
  ⟨_, _, ⟨64, 64, 64, px⟩, rfl, rfl, by decide, (by intro r h; cases h), Prod.ext rfl (by decide +kernel), by decide, by decide, by decide, by decide, (by intro t h; cases h),
    rfl, by decide, by decide +kernel⟩

def queueing (q : List MxItem) (r : Option Run) : State := one fun c => { c with mx := { c.mx with queue := q, run := r } }

theorem witness_EngineEvents_MatrixUnitEvents : (queueing [.call running.call] (some { running with done := true })).core.mx.stop = none ∧
    (queueing [.call running.call] (some { running with done := true })).core.part.scan = 0 ∧
    (queueing [.mload 64 [] 0] none).core.mx.queue = [.mload 64 [] 0] ∧ (queueing [.mswap 0] none).core.mx.active = none ∧
    (queueing [.call running.call] (some running)).core.mx.run = some running ∧ running.done = false ∧
    (queueing [.reload 0 (some (Vector.replicate 256 0)) [] []] none).core.mx.queue = [.reload 0 (some (Vector.replicate 256 0)) [] []] ∧
    ((one fun c => { c with mx := { c.mx with bankA := ⟨.draining, true, 1, [], true⟩ } }).core.mx.bank false).state = .draining ∧
    ((one fun c => { c with mx := { c.mx with bankA := ⟨.draining, true, 1, [], true⟩ } }).core.mx.bank true).state ≠ .draining :=
  ⟨rfl, rfl, rfl, rfl, rfl, rfl, rfl, by decide, by decide⟩

/-- Queue 3 holds x. -/
def withQueue (x : Queue) : State := { one id with hm := { Harbour.reset with queues := Harbour.reset.queues.set 3 x } }
def ring (src seq : Nat) (rbase : BitVec 56) : Queue :=
  ⟨{ QueueConfig.reset with src := BitVec.ofNat 2 src, lsize := 4, seq := BitVec.ofNat 32 seq, rbase := rbase }, 0, 1, 0, []⟩

theorem witness_QueueEvents : ∃ (s t u v w : State), (1 - (ring 1 0 0).consumed).toNat ≤ 2 ^ (ring 1 0 0).cfg.lsize.toNat ∧
    2 ^ (ring 1 0 0).cfg.lsize.toNat < (17 - (ring 1 0 0).consumed).toNat ∧
    s.mayConsume = true ∧ s.hm.launches = [] ∧ poisonedIn s.poison 0 128 = false ∧ s.queue 3 = ring 1 0 0 ∧ (ring 1 0 0).prod ≠ (ring 1 0 0).consumed ∧ ringReaches 0 = true ∧ (∀ j, j < 4 → ringReaches ((ring 1 0 0).cfg.consa.toNat + j) = true) ∧
    leVal ((s.mem.read 0 128).drop 124) = 0 ∧
    t.mayConsume = true ∧ t.queue 3 = ring 1 1 0 ∧ ringReaches 128 = true ∧ leVal ((t.mem.read 128 128).drop 124) ≠ 1 ∧
    u.mayConsume = true ∧ u.queue 3 = { ring 1 1 0 with rereads := 8 } ∧
    v.mayConsume = true ∧ v.queue 3 = ring 1 0 (BitVec.ofNat 56 (2 ^ 55)) ∧ ringReaches (2 ^ 55) = false ∧
    w.queue 3 = ring 2 0 0 ∧ w.poolFull = false ∧ w.canNumber = true :=
  ⟨withQueue (ring 1 0 0), withQueue (ring 1 1 0), withQueue { ring 1 1 0 with rereads := 8 }, withQueue (ring 1 0 (BitVec.ofNat 56 (2 ^ 55))),
    withQueue (ring 2 0 0), by decide, by decide, by decide, rfl, by decide, rfl, by decide, by decide, by decide, by decide +kernel, by decide, rfl, by decide,
    by decide +kernel, by decide, rfl, by decide, rfl, by decide, rfl, by decide, by decide⟩

/-- The Ferry has received the packet 1 of module 4. -/
def seenOne : State := { one id with ferry := { State.reset.ferry with seen := [(4, 1)] } }

/-- The packets whose stamps are 0 and 1, for a queue whose next stamp is 0 and whose key is 0. -/
theorem witness_QueueEvents_packets : ∃ (p q r : LaunchPkt), p.tag.toNat % 64 = 3 ∧ q.tag.toNat % 64 = 3 ∧ r.key ≠ 0 ∧ p.key = 0 ∧ q.key = 0 ∧
    leVal (p.record.drop 124) = 0 ∧ leVal (q.record.drop 124) = 1 ∧ (withQueue (ring 2 0 0)).ferry.revoked = [] ∧
    ((withQueue (ring 2 0 0)).queue 3).held = [] ∧ (withQueue (ring 2 0 0)).pilot.recovery = false ∧
    (p.src, p.psn) ∉ (withQueue (ring 2 0 0)).ferry.seen ∧ (q.src, q.psn) ∈ seenOne.ferry.seen :=
  ⟨⟨0, 0, 0, 3, []⟩, ⟨4, 1, 0, 3, zeros 124 ++ [1]⟩, ⟨0, 2, 1, 3, []⟩, by decide, by decide, by decide, rfl, rfl, by decide, by decide, rfl, rfl,
    rfl, by decide, by decide⟩

/-- Card c and its task t, and core 0 changed by f. -/
def carded (c : Card) (t : Task) (f : Core → Core) : State :=
  { one f with hm := { Harbour.reset with cards := [c], tasks := [t] }, clock := 36 }
def freed (c : Core) : Core := { c with part := (Core.reset 0).part }
/-- The core's part of task 1, saved. -/
def onBerth : Core := { base with part := { base.part with status := .saved } }

set_option exponentiation.threshold 2000 in
set_option maxRecDepth 20000 in
theorem witness_TaskEvents_dispatch : ∃ (s t : State), s.canNumber = true ∧ (aCard false).ragged = false ∧ s.firstReady = some (aCard false, aTask .pooled) ∧
    placeBerth (aCard false).berth s.freeCores = some [0] ∧ s.resident (aCard false) = none ∧
    t.canNumber = true ∧ t.firstReady = some (aCard false, { aTask .preempted with saved := [onBerth] }) ∧ (∀ n ∈ [0], n ∈ t.freeCores) ∧
    (∀ k ∈ [onBerth], ∀ l ∈ k.loads, l.fault = none) ∧
    (∃ c ∈ t.cores, ∃ k, [onBerth].find? (fun k => k.id == c.id) = some k ∧ k.part.status = .saved ∧ k.part.task = (aTask .preempted).num) :=
  ⟨carded (aCard false) (aTask .pooled) freed, carded (aCard false) { aTask .preempted with saved := [onBerth] } freed, by decide, rfl, rfl,
    by decide +kernel, by decide, by decide, rfl, by decide +kernel, by decide, _, .head _, onBerth, rfl, rfl, rfl⟩

def imageBytes : List Byte := toBytes 64 (0x5A454349 + 2 ^ 40 + 16 * 2 ^ 64 + 2 ^ 96)
def imaged : State := { carded (aCard false) (aTask .loading) id with mem := Mem.write [] 0 (imageBytes ++ nopBundle) }

set_option exponentiation.threshold 2000 in
set_option maxRecDepth 20000 in
theorem witness_TaskEvents_load : ∃ (s1 s2 t1 : State) (e : MemErr) (im : CodeImage), imaged.taskOf 1 = some (aTask .loading) ∧
    imaged.cardOf 1 = some (aCard false) ∧ (aCard false).bits 256 256 = 0 ∧
    imaged.hmRead ⟨0, 0, none⟩ ((aCard false).bits 56 0) 64 = (s1, .ok imageBytes) ∧ imageHead imageBytes = some ⟨0, 16, 1, 0, 0⟩ ∧
    s1.hmRead ⟨0, 0, none⟩ ((aCard false).bits 56 0 + 64) 16 = (s2, .ok nopBundle) ∧ s2.untranslatable imageBytes = false ∧
    expandImage (imageBytes ++ nopBundle) true = some im ∧ launchEntry (aCard false) (imageBytes ++ nopBundle) im = some 0 ∧ [0].Nodup ∧
    imaged.hmRead ⟨0, 0, none⟩ (2 ^ 56) 64 = (t1, .error e) :=
  ⟨_, _, _, .trans 0x10 (2 ^ 56), ⟨nopBundle, 0, 1, none⟩, rfl, rfl, by decide, Prod.ext rfl (by decide +kernel), by decide +kernel,
    Prod.ext rfl (by decide +kernel), by decide +kernel, by decide +kernel, by decide +kernel, by decide, Prod.ext rfl (by decide +kernel)⟩

def lateCard : Card := { aCard false with raw := BitVec.ofNat 1024 (2 ^ 258) }
def closedCard : Card := { aCard false with closed := true, status := 1 }
def ended (a : Bool) (c : Core) : Core := { c with part := { c.part with status := .ending a } }

set_option exponentiation.threshold 2000 in
theorem witness_TaskEvents_ends : ∃ (s t u v x y z n n1 : State), s.core.bound.preempt = true ∧ s.core.part.status = .running ∧ s.core.loads = [] ∧
    t.taskOf 1 = some (aTask .stopping) ∧ t.allEnded 1 = false ∧
    (∀ c ∈ (t.cores.filter fun c => c.part.task == 1 && c.part.status != .none),
      c.part.status ≠ .running ∧ c.part.status ≠ .scanning ∧ c.sync.rels = [] ∧ ∀ k ∈ c.copy.cmds, k.runsOut = true → c.commandReady k = false) ∧ s.beforePreemption = false ∧ t.hm.snapWait = [] ∧
    u.cardOf 1 = some lateCard ∧ lateCard.late = true ∧ lateCard.noDeadline = false ∧ lateCard.deadline < u.time ∧ aTask .pooled ∈ u.hm.tasks ∧
    v.core.part.status = .ending false ∧ v.core.finished = true ∧ v.taskOf v.core.part.task = none ∧
    x.core.finished = true ∧ x.taskOf x.core.part.task = some (aTask .running) ∧
    { x with core := { x.core with part := { x.core.part with status := .ended true, clean := false } } }.allEnded x.core.part.task = true ∧
    y.cardOf 1 = some closedCard ∧ y.canNumber = true ∧ closedCard.cso = 0 ∧ n = y.number ⟨1, 5, closedCard.taskId 0, BitVec.ofNat 64 closedCard.cpl⟩ ∧
    n.hmWrite (y.hmFor closedCard) closedCard.cpl (toBytes 32 1) = (n1, none) ∧
    z.task = some (aTask .running) ∧ z.core.ctl.wbudget = 0 ∧ z.core.part.status = .running :=
  ⟨one fun c => { c with bound := { c.bound with preempt := true } }, carded (aCard false) (aTask .stopping) fun c => { c with part := { c.part with status := .saved } },
    carded lateCard (aTask .pooled) id, one (ended false), carded (aCard false) (aTask .running) (ended true), carded closedCard (aTask .running) id,
    carded (aCard false) (aTask .running) fun c => { c with ctl := { c.ctl with wbudget := 0 } }, _, _, rfl, rfl, rfl, rfl, by decide, by decide, by decide, rfl,
    rfl, by decide +kernel, by decide +kernel, by decide +kernel, by decide, rfl, by decide, rfl, by decide, rfl, by decide, rfl, by decide,
    by decide +kernel, rfl, Prod.ext rfl (by decide +kernel), rfl, rfl, rfl⟩

def hot (h : HotRows) : State := { one id with hot := h }
def aWay : Way := ⟨0, 0, 64, true, [(64, 2)], 0, 0, [1, 2], []⟩
def aLine (interior : Bool) : Line := ⟨3, 256, interior, toBytes 128 (2 ^ 8 + 1), 1, true, 5⟩
def lined (l : Line) : State := { one id with bond := { State.reset.bond with lines := [l] } }
def aWindow (count : Nat) : Window := ⟨0, [], 4, count, 0, 0, 0, false⟩

set_option exponentiation.threshold 2000 in
theorem witness_MemorySystemEvents : ∃ (s t u v w : State) (p : Promotion), s.hot.promos[0]? = some p ∧ t.hot.backs[0]? = some aWay ∧ aWay.data ≠ [] ∧
    aWay.home = [(64, aWay.data.length)] ∧
    (u.quays.get ⟨0, by decide⟩).queue = [(3, 256)] ∧
    v.line 3 (256 : BitVec 128).toNat = some (aLine true) ∧ (aLine true).dying = true ∧
    (∀ c ∈ v.cores ++ v.hm.tasks.flatMap (·.saved), ∀ k ∈ c.copy.cmds, isBondOp k.op = true → (aLine true).since ≤ k.id) ∧
    leVal (((aLine true).data.drop 0).take 16) ≠ 0 ∧
    w.fades < w.clock / 36 / 1000000 ∧ w.windows = [aWindow 2] ∧ (aWindow 2).hit = false ∧ (aWindow 2).count - 1 ≠ 0 ∧
    (aWindow 1).hit = false ∧ (aWindow 1).count - 1 = 0 ∧ ¬ (one id).fades < (one id).clock / 36 / 1000000 ∧
    [(Requester.task 1, (64 : Nat))] ≠ [] ∧ u.requestClass (.task 1) = 0 :=
  ⟨hot ⟨4, 64, [], [⟨0, 0, 64, [(64, 2)], 0, 0, [1, 2], [], false⟩], []⟩, hot ⟨4, 64, [], [], [aWay]⟩,
    { lined { aLine false with dying := false } with quays := State.reset.quays.set 0 ⟨Vector.replicate 16 ⟨0, 0, 0, []⟩, [(3, 256)], 0, false, [], []⟩ },
    lined (aLine true), { one id with windows := [aWindow 2], clock := 36000000 },
    ⟨0, 0, 64, [(64, 2)], 0, 0, [1, 2], [], false⟩, rfl, rfl, by decide, rfl, rfl, rfl, rfl, by decide,
    by decide +kernel, by decide, rfl, by decide⟩

/-- An exchange of one position, whose peer is core 0 of module 7, and its receive counts. -/
def anExchange (red : Bool) (counts : List (Option Nat)) : Exchange := ⟨red, 5, 0, [(7, 0, 9)], 4, if red then 2 else 0, 2, counts, 8, 0, 0, [], 0, [], 0⟩
def exchanging (red : Bool) (counts : List (Option Nat)) : State :=
  commanded { aCommand (.fxch cmd) with dsts := [⟨1, 2, 1⟩, ⟨2, 3, 1⟩], fx := some (anExchange red counts) }
def aPacket (last : Bool) (es : List (List Byte)) : XPkt := ⟨7, 3, [], 9, 0, 0, 0, 0, 5, 0, last, 1, 4, 0, es⟩

theorem witness_FabricMessages_takers : ∃ (s t u : State) (k : Command), (one id).takers (aPacket true []) = [] ∧
    (one id).savedTaker (aPacket true []) = none ∧ (one id).ferry.revoked = [] ∧ (one id).ferry.held = [] ∧
    { (one id) with ferry := { State.reset.ferry with revoked := [9] } }.ferry.revoked = [9] ∧
    s.takers (aPacket true [[1, 0, 0, 0]]) = [9] ∧ s.cmd 9 = some k ∧ k.fx = some (anExchange false [none]) ∧ k.stop = none ∧
    (aPacket true []).core = s.core.id ∧ (aPacket true []).key = ((anExchange false [none]).peer 0).2.2 ∧
    (anExchange false [none]).disagrees (aPacket true [[1, 0, 0, 0]]) = false ∧ ((anExchange false [none]).peer 0).1 ≠ s.ferry.addr ∧
    s.core.inject.get 3 = none ∧ ((anExchange false [none]).setCount 0 1).total = some 1 ∧
    t.takers (aPacket true [[1, 0, 0, 0]]) = [9] ∧ (anExchange false [some 1]).total = some 1 ∧ (anExchange false [some 1]).offOf 0 = 0 ∧
    u.takers (aPacket true (List.replicate 4 [1, 0, 0, 0])) = [9] ∧ (∀ q ∈ (anExchange true []).parts, q.1 ≠ 0) :=
  ⟨exchanging false [none], exchanging false [some 1], exchanging true [], _, by decide, by decide, rfl, rfl, rfl, by decide, rfl, rfl, rfl, rfl, rfl,
    by decide, by decide, rfl, rfl, by decide, rfl, rfl, by decide, by decide⟩

/-- An instance of group 1 that this module has joined and module 2 has not. -/
def anOpen : OpenJoin := ⟨1, 3, 1, [2]⟩
def aMarker : MarkerPkt := ⟨4, 9, 7, 0, 1, 2, 0⟩
def aRelease : Release := ⟨64, 64, 4, [(7, 1)], true, [], 0⟩
def admitting : State := { one id with ferry := { State.reset.ferry with keyLists := [(0, [9])] } }

theorem witness_FabricMessages_rest : ∃ (s t : State) (c : Core) (k : Command), s.sender 9 = some (c, anExchange false [none]) ∧
    1 < (anExchange false [none]).unacked ∧ c ∈ s.cores ∧ k ∈ c.copy.cmds ∧ k.fx = some (anExchange false [none]) ∧
    aMarker.key ∉ s.ferry.revoked ∧ s.ferry.markers.filter (sameFlush aMarker) = [] ∧ ([] : List MarkerPkt).length = aMarker.paths.toNat ∧
    0 < ({ aMarker with paths := 1 } : MarkerPkt).paths.toNat ∧
    t.core.sync.rels = [aRelease] ∧ ((7 : Nat), (1 : BitVec 32)) ∈ aRelease.waits ∧ s.ferry.held = [] ∧
    admitting.ferry.admits 0 9 = true ∧ admitting.ferry.admits 0 8 = false ∧ isDevice 64 = true ∧ isDevice (64 + 8 - 1) = true ∧
    poisonedIn admitting.poison 64 8 = false ∧ (∀ c ∈ s.cores, c.part.status = .none ∨ c.fabGroup ≠ some 1) ∧ s.pilot.recovery = false ∧
    ((2 : Nat), (5 : Nat)) ∉ s.ferry.seen ∧ ((1 : Nat), (2 : Nat), (3 : Nat)) ∉ s.ferry.joined ∧ s.ferry.opens = [] ∧
    s.ferry.pathDown 7 1 = false ∧ s.ferry.pathDown 7 2 = false ∧ (2 : Nat) ∈ anOpen.missing ∧ [anOpen] ≠ [] :=
  ⟨exchanging false [none], one fun c => { c with sync := { c.sync with rels := [aRelease] } }, _, _, rfl, by decide, by simp [State.cores], List.mem_singleton.2 rfl, rfl,
    by decide, by decide, by decide, by decide, rfl, by decide, rfl, by decide, by decide, by decide, by decide, by decide, by decide, rfl, by decide, by decide, rfl, rfl, rfl, by decide, by decide⟩

/-- What the transport's numbers, a flush and a remote access need. -/
theorem witness_FabricMessages_order : ∃ (s d f g : State) (p : XPkt) (m : MarkerPkt) (r a : RemotePkt), p = aPacket true [[1, 0, 0, 0]] ∧
    (p.module, p.psn) ∈ d.ferry.seen ∧ (p.module, p.psn) ∉ s.ferry.seen ∧ p.src < (anExchange false [some 1]).table.length ∧
    (p.src, p.seq, 1) ∉ (anExchange false [some 1]).got ∧ (anExchange false [some 1]).counts.getD p.src none = some 1 ∧ p.seq + 1 = 1 ∧
    (anExchange false [some 1]).offOf p.src + p.seq < (anExchange false [some 1]).capw ∧ ([1, 0, 0, 0] : List Byte).length = (anExchange false [some 1]).esz ∧
    (m.module, m.psn) ∉ f.ferry.seen ∧ (∀ n ∈ f.ferry.markers, sameFlush m n = true ∧ n.paths = m.paths) ∧
    f.ferry.markers.length < m.paths.toNat ∧ (∀ n ∈ g.ferry.markers, sameFlush m n = true ∧ n.paths = m.paths) ∧
    m.paths.toNat ≤ g.ferry.markers.length ∧ (∀ q ∈ g.ferry.held, q.module ≠ m.module ∨ q.key ≠ m.key) ∧
    admitting.pilot.recovery = false ∧ (r.module, r.psn) ∉ admitting.ferry.seen ∧ r.op = .write [1] ∧ admitting.ferry.admits r.group r.key = true ∧
    admitting.inSpan r.addr (opSize r.op) = false ∧ isDevice (r.addr + opSize r.op - 1) = true ∧
    a.op = .atom 0 true 1 ∧ poisonedIn admitting.poison a.addr (opSize a.op) = false ∧ (1 : BitVec 4) ≠ 2 ∧ admitting.flushCovers 7 1 r = false :=
  let m : MarkerPkt := { aMarker with paths := 1 }
  ⟨one id, { one id with ferry := { State.reset.ferry with seen := [(7, 3)] } }, one id,
    { one id with ferry := { State.reset.ferry with markers := [{ m with path := 3, psn := 5 }] } }, _, m, ⟨9, 7, 3, 0, 0, 0, 64, .write [1]⟩,
    ⟨9, 7, 3, 0, 0, 0, 64, .atom 0 true 1⟩, rfl, by decide⟩

def hosting : State := { one id with host := ⟨2 ^ 30, false, [0], [], [], [], []⟩ }

theorem witness_HostAndAttestation_HostAccesses : ∃ s : State, s.pilot.recovery = false ∧
    { s with pilot := { s.pilot with recovery := true } }.pilot.recovery = true ∧ 64 + 8 ≤ 2 ^ 36 ∧ isDevice (s.host.bar2 + 64) = true ∧ isDevice (s.host.bar2 + 64 + 8 - 1) = true ∧
    isDevice (s.host.bar2 + (2 ^ 36 - 8)) = true ∧ isDevice 64 = true ∧ isDevice (64 + 8 - 1) = true ∧ 64 / 65536 ∈ s.host.attr ∧
    65536 / 65536 ∉ s.host.attr ∧ isDevice ({ s with host := { s.host with bar2 := 2 ^ 55 } }.host.bar2 + 0) = false :=
  ⟨hosting, rfl, rfl, by decide⟩

def aRegion : RegionEntry := ⟨0, true, 0, 65536⟩
def snapTask : Task := { aTask .snapshot with saved := [base] }
def snapped : State := { carded (aCard false) snapTask id with hm := { (carded (aCard false) snapTask id).hm with snaps := [(0, 7)] } }

set_option maxRecDepth 20000 in
theorem witness_ManagementMessages : ∃ (s t : State) (u : Task) (d e : DebugToken), s.pilot.down = false ∧ (s.queue 3).cfg.src = 0 ∧
    configLegal { QueueConfig.reset with src := 1, lsize := 16 } = true ∧ s.pilot.recovery = false ∧
    ((withQueue (ring 1 0 0)).queue 3).cfg.src ≠ 0 ∧ QueueConfig.reset ≠ { ((withQueue (ring 1 0 0)).queue 3).cfg with src := 0 } ∧
    entryLegal aRegion = true ∧ s.bondBusy 3 = false ∧ (∀ i, i < 64 → i ≠ 3 → spansOverlap aRegion (s.region i) = false) ∧
    (List.replicate 16 4).length = 16 ∧ (List.replicate 16 4).sum ≤ 64 ∧ 64 < (65 :: List.replicate 15 0).sum ∧
    s.hm.cards = [] ∧ s.hm.launches = [] ∧ (∀ x ∈ s.hm.queues.toList, x.waits = false ∧ x.held = []) ∧ (∀ c ∈ s.allCores, c.part.halted = false) ∧
    (∀ t ∈ s.hm.tasks, t.phase = .pooled ∨ t.phase = .over) ∧
    t.pilot.down = false ∧ t.snapshotOf 7 = some u ∧ [(5 : Word)].length = u.cores.length ∧ t.hm.snapWait = [] ∧ s.snapshotOf 7 = none ∧
    isDevice (65536 * 3) = true ∧ (∀ x ∈ s.hm.queues.toList, x.cfg.src = 0) ∧
    d.signed = true ∧ d.zaevo = false ∧ d.key = s.pilot.customer ∧ s.pilot.security = .production ∧ d.queues.length ≤ 16 ∧ (∀ q ∈ d.queues, q < 64) ∧
    e.signed = true ∧ e.zaevo = true :=
  ⟨one id, snapped, snapTask, ⟨false, true, 0, false, true, true, [0, 63]⟩, ⟨true, true, 0, true, true, true, []⟩, rfl, rfl, by decide, rfl, by decide, by decide,
    by decide, by decide, by decide +kernel, by decide, by decide, by decide, rfl, rfl, by decide +kernel, by decide, by decide,
    rfl, rfl, rfl, rfl, rfl, by decide, by decide +kernel, rfl, rfl, rfl, rfl, by decide, by decide, rfl, rfl⟩

/-- The host window's first bytes hold the event ring, and snapshots after it; core 0 has an exchange with an overflow region. -/
theorem witness_ManagementMessages_rest : ∃ (s : State) (base k : Nat) (c : Command), s.pilot.down = false ∧ 6 ≤ k ∧ k ≤ 16 ∧
    base % 64 = 0 ∧ (base + 4096) % 4096 = 0 ∧
    placeOf base = .host ∧ placeOf (base + 64 * 2 ^ k - 1) = .host ∧ placeOf (base + 4096) = .host ∧ placeOf (base + 4096 + 1024 * 256 - 1) = .host ∧
    s.hm.backlog = [] ∧ s.hm.waiting = [] ∧ s.hm.snapWait = [] ∧ s.hm.lost = 0 ∧ (2 ^ 36 * 3) % 2 ^ 36 = 0 ∧
    s.allCores.filter (fun c => c.id == s.core.id) = [s.core] ∧ s.core.copy.cmds = [c] ∧ c.overflowOf 0 = some 0 ∧ s.ferry.held = [] ∧
    c.overflowOf 6 = none :=
  ⟨exchanging false [none], 2 ^ 54, 6, _, by decide, by decide, by decide, by decide, by decide, by decide, by decide, by decide, by decide,
    rfl, rfl, rfl, rfl, by decide, rfl, rfl, by decide +kernel, rfl, by decide +kernel⟩

theorem witness_HostAndAttestation_SpdmRequests : ∃ (s t : State) (r q : SpdmReq), s.pilot.recovery = false ∧ s.pilot.down = true ∧ t.pilot.recovery = false ∧
    t.pilot.down = false ∧ t.pilot.negotiated = true ∧ t.pilot.security ≠ .vendorReturn ∧ r.slot = 0 ∧ r.offset ≤ (Config.certificate 0).length ∧ r.index = 0 ∧ q.index = 6 ∧
    { t with pilot := { t.pilot with security := .vendorReturn } }.pilot.security = .vendorReturn :=
  ⟨{ one id with pilot := { Pilot.reset with down := true } }, { one id with pilot := { Pilot.reset with negotiated := true } }, ⟨0, 0, 0, 1, true, []⟩, ⟨0, 6, 0, 0, false, []⟩,
    rfl, rfl, rfl, rfl, rfl, by decide, rfl, Nat.zero_le _, rfl, rfl, rfl⟩

def linked (n : Nat) : State := { one id with links := [⟨n, [], 0, [], [5], true, false⟩], pilot := { Pilot.reset with power := .p1 } }
def idled : State := { one freed with clock := 36 * 250000, quays := State.reset.quays.set 1 ⟨Vector.replicate 16 ⟨0, 0, 0, []⟩, [], 250000, true, [], []⟩, links := [⟨3, [], 0, [], [5], false, false⟩] }

theorem witness_LinksPowerAndSpares_links : ∃ s t : State, (s.link 42).dead = false ∧ (s.link 42).spared = true ∧ 5 ∈ (s.link 42).failed ∧
    ((linked 0).link 0).dead = false ∧ ((linked 0).link 0).spared = true ∧ 5 ∈ ((linked 0).link 0).failed ∧
    (t.link 3).spared = false ∧ (t.link 3).dead = false ∧ 5 ∈ (t.link 3).failed ∧ (∀ l ∈ (t.link 3).failed, l = 5) ∧
    (t.quays.get 0).auto = false ∧ (t.quays.get 0).lastBeat + 250000 ≤ t.clock / 36 ∧ t.hm.ringK = 0 ∧
    (t.quays.get 1).auto = true ∧ t.clock / 36 < (t.quays.get 1).lastBeat + 250000 ∧
    t.pilot.power = .p0 ∧ t.pilot.cap < 1701 ∧ s.pilot.power = .p1 ∧ 1699 < s.pilot.cap :=
  ⟨linked 42, idled, by decide⟩

theorem witness_LinksPowerAndSpares : ∃ (t : State) (k : Core), t.coreOf 0 = some k ∧ k.part.status = .none ∧
    (∀ u ∈ t.hm.tasks, u.phase ≠ .over → 0 ∉ u.cores) ∧ (t.maps.core.get 0).isSome = true ∧
    t.maps.spareA = 112 :: [113, 114, 115, 116, 117, 118, 119] ∧ { t with maps := { t.maps with spareA := [] } }.maps.spareA = [] ∧
    (∀ c ∈ t.cores, c.part.status = .none) ∧ (∀ u ∈ t.hm.tasks, u.phase ≠ .running ∧ u.phase ≠ .stopping ∧ u.phase ≠ .loading) ∧
    (t.maps.slice.get 383).isSome = true ∧ (∀ c ∈ t.maps.channels, c.1 ≠ 7) ∧ (t.quays.get 7).remap.length < 64 ∧ 5 ∉ (t.quays.get 7).remap :=
  ⟨idled, _, rfl, by decide, by decide, by decide +kernel, by decide +kernel, rfl, by decide, by decide, by decide +kernel, by decide⟩

theorem witness_ResetScanTestAndDebug_ResetAndPowerLoss : ∃ (s : State) (f : FirmwareImage), s.pilot.security = .customerDebug ∧ s.pilot.staged = [f] ∧ s.pilot.boot = [] ∧
    ¬ s.pilot.svn ≤ f.svn ∧ s.pilot.power = .d3 ∧ (∀ r, s.agenda.head? = some r → r.move ≠ .event .moduleReset) :=
  ⟨{ one id with pilot := { Pilot.reset with security := .customerDebug, staged := [⟨.pilot, 1, 0, 0, [], []⟩], svn := 1, power := .d3 } }, ⟨.pilot, 1, 0, 0, [], []⟩,
    rfl, rfl, rfl, by decide, rfl, by intro r h; cases h⟩

def scanning (scan : Nat) (f : Core → Core) : State :=
  { one fun c => f { c with part := { c.part with status := .scanning, scan := scan } } with clock := 36 * 1000001 }
def halted (step : DebugStep) : State :=
  (commanded (aCommand (.kcopy cmd))).onCore fun c => { c with part := { c.part with halted := true, step := step } }

theorem witness_ResetScanTestAndDebug_ScanTestAndDebug : ∃ (s t : State), s.core.part.status = .scanning ∧ s.core.part.scan = 2 ∧
    s.core.part.scanAt + 200000 ≤ s.clock / 36 ∧ s.core.bound.preempt = false ∧ t.core.part.scanAt + 1000000 < t.clock / 36 ∧
    s.maps.spareA = 112 :: [113, 114, 115, 116, 117, 118, 119] ∧ onDeckB s.core.id = false ∧ s.core.id < 224 ∧
    t.core.part.status = .scanning ∧ t.core.part.scan = 1 ∧ t.core.drained = false ∧
    (halted .none).core.part.halted = true ∧ (halted .none).core.part.status = .running ∧ (halted .none).core.part.step = .none ∧
    (halted (.waiting 0 9 false)).core.part.halted = true ∧ (halted (.waiting 0 9 false)).core.part.step = .waiting 0 9 false ∧
    (∃ k ∈ (halted (.waiting 0 9 false)).core.copy.cmds, 9 ≤ k.id ∧ k.stop = none) :=
  ⟨scanning 2 id, scanning 1 fun c => { c with copy := { c.copy with cmds := [aCommand (.kcopy cmd)] } }, rfl, rfl, by decide, rfl, by decide, by decide +kernel, by decide, by decide,
    rfl, rfl, by decide, rfl, rfl, rfl, rfl, rfl, by decide⟩

theorem witness_SwitchedOffSlots : ∃ (i j : Instr) (g : Guard) (s t : State), Safety.guardOf i = some g ∧ s.core.issue.replay = none ∧
    s.core.getQ g.q = g.neg ∧ Safety.unguarded j = true ∧ t.core.issue.suppressed = true :=
  ⟨.movi ⟨⟨true, 0⟩, false, 4, 5⟩, .vabs ⟨all, false, 4, 1, 1⟩, ⟨true, 0⟩, one id, one fun c => { c with issue := { c.issue with suppressed := true } },
    rfl, rfl, by decide, rfl, rfl⟩

/-- A core about to trap with one result in flight. -/
def trapping : State := flying [{ res (.s 4 77) 0 with land := 5 }]

theorem witness_TrapEntry : ∃ (s t u : State), s.core.handler.active = true ∧ t.core.handler.active = false ∧ t.core.ctl.tvec = 0 ∧
    u.core.handler.active = false ∧ u.core.ctl.tvec ≠ 0 ∧ u.core.handler.loads = [] ∧ u.core.loads = [] ∧ (∀ f ∈ u.core.copy.fenced, f.op.isLoad = false) ∧ u.core.fetch.replay = none ∧
    u.core.fetch.pc < 0x8000 ∧ u.core.loops.length ≤ 6 ∧ u.core.flight = [{ res (.s 4 77) 0 with land := 5 }] ∧
    (∀ f ∈ u.core.flight, u.core.fetch.cycle < f.land ∧ f.land < u.core.fetch.cycle + 32) ∧ (res (.s 4 77) 0).twin = .none ∧ (res (.s 4 77) 0).unit < 2 :=
  ⟨one fun c => { c with handler := ⟨true, [], [], 0, false, none, [], []⟩ }, one fun c => { c with ctl := { c.ctl with tvec := 0 } }, trapping, rfl, rfl, rfl, rfl, by decide, rfl,
    rfl, (by intro f h; cases h), rfl, by decide, by decide, rfl, by decide, rfl, by decide⟩

theorem witness_EncodingRoundTrip : ∃ (i j : Instr) (w : SlotWord) (v : BitVec 64), wellFormed i = true ∧ encode i = some w ∧ decodeSlot w = .ok i ∧
    wellFormed j = true ∧ encodeMicro j = some v ∧ decodeMicro v = .ok j :=
  ⟨.or ⟨⟨false, 0⟩, false, 4, 5, false, 6⟩, .setx 1 0x10, 0x24008286, 0x5080000000000010, by decide⟩

/-- Core 0 is about to issue the bundle at its pc, all NOPs but slot 0. -/
def issuing (w : BitVec 32) (pend : Bool) : State :=
  { one fun c => { c with
      fetch := { c.fetch with bank0 := Mem.write [] 0 (toBytes 4 w.toNat ++ nopWord ++ nopWord ++ nopWord) }
      loads := if pend then [⟨5, false, 64, 3, 5, none, false, 0, false, 0, 0, false⟩] else [] } with agenda := [⟨0, .issue⟩] }

/-- OR s4, s5, s6; OR s5, s5, s6 while s5 waits for a load; a reserved major; two C operations of one bundle need no witness of their own: a bundle
whose LOOP has no count. -/
def words (s : State) : List (BitVec 32) := (s.onCore Core.startBundle).core.fetchWords 0
def noTurn (s : State) : State := { s with agenda := [] }

theorem witness_StepRunsDecoded : ∃ (s : State) (b b' : Bundle), s.agenda = [⟨s.core.id, .issue⟩] ∧ s.pilot.power ≠ .d3 ∧ (noTurn s).core.part.status = .running ∧
    (noTurn s).core.part.halted = false ∧ (noTurn s).core.pushes = [] ∧ (noTurn s).senderHeld = false ∧ (noTurn s).boundaryWork = none ∧ (noTurn s).core.fetch.replay = none ∧
    s.pilot.trace = false ∧ loopfBad s.core (headerOf (words s)) = false ∧ decodeBundle (words s) = .ok b ∧
    composition s.core b.ops = none ∧ (noTurn s).checkBundle b.header b.ops = .go ∧
    decodeBundle (words (issuing 0x24008286 true)) = .ok b' ∧ (issuing 0x24008286 true).checkBundle b'.header b'.ops = .stall ∧
    (∃ e, decodeBundle (words (issuing 0xFE000000 false)) = .error (e, 0)) :=
  ⟨issuing 0x24008286 false, _, _, rfl, by decide, rfl, rfl, rfl, by decide, by decide +kernel, rfl, rfl, by decide +kernel, rfl, by decide +kernel, by decide +kernel,
    rfl, by decide +kernel, ⟨_, rfl⟩⟩

theorem witness_StepRunsDecoded_micro : ∃ (s : State) (q : Run) (i : Instr), s.agenda = [⟨s.core.id, .matrix⟩] ∧ s.pilot.power ≠ .d3 ∧
    (noTurn s).core.mx.pend = [] ∧ (noTurn s).core.mx.run = some q ∧ (noTurn s).core.mx.reloadFirst = false ∧ q.done = false ∧ q.prog[q.pc]? = some i :=
  ⟨{ micro id with agenda := [⟨0, .matrix⟩] }, running, .mxNop, rfl, by decide, rfl, rfl, by decide, rfl, rfl⟩

theorem witness_StepKeepsMemoryForm : ∃ s : State, Safety.memWf s = true ∧ ∃ t, step s = .next t :=
  ⟨{ one id with agenda := [⟨0, .event .heartbeat⟩] }, by decide +kernel, _, rfl⟩

set_option maxRecDepth 20000 in
theorem test_decode_scalar_1 :
    decodeTableWord 32 0x015C296D = some (.add ⟨⟨true, 5⟩, true, 33, 18, true, 45⟩) ∧
    decodeTableWord 32 0x035C296D = some (.and ⟨⟨true, 5⟩, true, 33, 18, true, 45⟩) ∧
    decodeTableWord 32 0x055C296D = some (.andn ⟨⟨true, 5⟩, true, 33, 18, true, 45⟩) ∧
    decodeTableWord 32 0x075101F9 = some (.atom ⟨⟨true, 5⟩, 8, 3, true, 3, 9⟩) ∧
    decodeTableWord 32 0x095C296D = some (.bfi ⟨⟨true, 5⟩, true, 33, 18, true, 45⟩) ∧
    decodeTableWord 32 0x0B5C296D = some (.bfx ⟨⟨true, 5⟩, true, 33, 18, true, 45⟩) ∧
    decodeTableWord 32 0x0D5101F9 = some (.cas ⟨⟨true, 5⟩, 8, 3, true, 3, 9⟩) ∧
    decodeTableWord 32 0x0F520000 = some (.chk ⟨⟨true, 5⟩, 1⟩) ∧
    decodeTableWord 32 0x115C3F00 = some (.clz ⟨⟨true, 5⟩, true, 33, 62⟩) ∧
    decodeTableWord 32 0x135CE87E = some (.cmp ⟨⟨true, 5⟩, true, 9, 6, 33, 62⟩) ∧
    decodeTableWord 32 0x155C296D = some (.div ⟨⟨true, 5⟩, true, 33, 18, true, 45⟩) ∧
    decodeTableWord 32 0x1757A1EF = some (.ld ⟨⟨true, 5⟩, 61, 3, true, 2, 15⟩) := by decide

set_option maxRecDepth 20000 in
theorem test_decode_scalar_2 :
    decodeTableWord 32 0x195FA19C = some (.lea ⟨⟨true, 5⟩, true, 61, 3, 1, 12⟩) ∧
    decodeTableWord 32 0x1B5C296D = some (.max ⟨⟨true, 5⟩, true, 33, 18, true, 45⟩) ∧
    decodeTableWord 32 0x1D5C296D = some (.min ⟨⟨true, 5⟩, true, 33, 18, true, 45⟩) ∧
    decodeTableWord 32 0x1F5FBABC = some (.movi ⟨⟨true, 5⟩, true, 61, 0x1ABC⟩) ∧
    decodeTableWord 32 0x215C296D = some (.mul ⟨⟨true, 5⟩, true, 33, 18, true, 45⟩) ∧
    decodeTableWord 32 0x235C296D = some (.mulh ⟨⟨true, 5⟩, true, 33, 18, true, 45⟩) ∧
    decodeTableWord 32 0x255C296D = some (.or ⟨⟨true, 5⟩, true, 33, 18, true, 45⟩) ∧
    decodeTableWord 32 0x275C9E30 = some (.plog ⟨⟨true, 5⟩, true, 9, 3, 12, 6⟩) ∧
    decodeTableWord 32 0x295C3F00 = some (.popc ⟨⟨true, 5⟩, true, 33, 62⟩) ∧
    decodeTableWord 32 0x2B5C296D = some (.rem ⟨⟨true, 5⟩, true, 33, 18, true, 45⟩) ∧
    decodeTableWord 32 0x2D5C296D = some (.sar ⟨⟨true, 5⟩, true, 33, 18, true, 45⟩) ∧
    decodeTableWord 32 0x2F5C296D = some (.sel ⟨⟨true, 5⟩, true, 33, 18, true, 45⟩) := by decide

set_option maxRecDepth 20000 in
theorem test_decode_scalar_3 :
    decodeTableWord 32 0x315C296D = some (.shl ⟨⟨true, 5⟩, true, 33, 18, true, 45⟩) ∧
    decodeTableWord 32 0x335C296D = some (.shr ⟨⟨true, 5⟩, true, 33, 18, true, 45⟩) ∧
    decodeTableWord 32 0x3557A1EF = some (.st ⟨⟨true, 5⟩, 61, 3, true, 2, 15⟩) ∧
    decodeTableWord 32 0x375C296D = some (.sub ⟨⟨true, 5⟩, true, 33, 18, true, 45⟩) ∧
    decodeTableWord 32 0x395C296D = some (.xor ⟨⟨true, 5⟩, true, 33, 18, true, 45⟩) := by decide

set_option maxRecDepth 20000 in
theorem test_decode_vector_1 :
    decodeTableWord 32 0x41DF4408 = some (.vabs ⟨⟨true, 6⟩, true, 30, 17, 8⟩) ∧
    decodeTableWord 32 0x43DF4527 = some (.vadd ⟨⟨true, 6⟩, true, 30, 17, 9, 7⟩) ∧
    decodeTableWord 32 0x45DF5815 = some (.vbcast ⟨⟨true, 6⟩, true, 30, 44, 21⟩) ∧
    decodeTableWord 32 0x47DB4527 = some (.vcmp ⟨⟨true, 6⟩, true, 5, 2, 17, 9, 7⟩) ∧
    decodeTableWord 32 0x49DF444C = some (.vcvt ⟨⟨true, 6⟩, true, 30, 17, 2, 12⟩) ∧
    decodeTableWord 32 0x4BDF4403 = some (.vexp ⟨⟨true, 6⟩, true, 30, 17, 3⟩) ∧
    decodeTableWord 32 0x4DDF4527 = some (.vfma ⟨⟨true, 6⟩, true, 30, 17, 9, 7⟩) ∧
    decodeTableWord 32 0x4FCF2CDB = some (.vld ⟨⟨true, 6⟩, 30, 44, true, 0x5B⟩) ∧
    decodeTableWord 32 0x4FCF4500 = some (.vldStream ⟨⟨true, 6⟩, 30, 5⟩) ∧
    decodeTableWord 32 0x51CF46C8 = some (.vldx ⟨⟨true, 6⟩, 30, 17, 44, 2⟩) ∧
    decodeTableWord 32 0x53DF4403 = some (.vlog ⟨⟨true, 6⟩, true, 30, 17, 3⟩) ∧
    decodeTableWord 32 0x55DF4527 = some (.vmax ⟨⟨true, 6⟩, true, 30, 17, 9, 7⟩) := by decide

set_option maxRecDepth 20000 in
theorem test_decode_vector_2 :
    decodeTableWord 32 0x561F4910 = some (.vmerge ⟨true, 30, 18, 8, true⟩) ∧
    decodeTableWord 32 0x59DF4527 = some (.vmin ⟨⟨true, 6⟩, true, 30, 17, 9, 7⟩) ∧
    decodeTableWord 32 0x5BDF4408 = some (.vmov ⟨⟨true, 6⟩, true, 30, 17, 8⟩) ∧
    decodeTableWord 32 0x5DDF4527 = some (.vmul ⟨⟨true, 6⟩, true, 30, 17, 9, 7⟩) ∧
    decodeTableWord 32 0x5FDF4527 = some (.vperm ⟨⟨true, 6⟩, true, 30, 17, 9, 7⟩) ∧
    decodeTableWord 32 0x61DF4403 = some (.vrcp ⟨⟨true, 6⟩, true, 30, 17, 3⟩) ∧
    decodeTableWord 32 0x63DF4446 = some (.vred ⟨⟨true, 6⟩, true, 30, 17, 2, 6⟩) ∧
    decodeTableWord 32 0x65DF4403 = some (.vrsq ⟨⟨true, 6⟩, true, 30, 17, 3⟩) ∧
    decodeTableWord 32 0x67DF4446 = some (.vscan ⟨⟨true, 6⟩, true, 30, 17, 2, 6⟩) ∧
    decodeTableWord 32 0x69DF4527 = some (.vsel ⟨⟨true, 6⟩, true, 30, 17, 9, 7⟩) ∧
    decodeTableWord 32 0x6BDF4527 = some (.vshf ⟨⟨true, 6⟩, true, 30, 17, 9, 7⟩) ∧
    decodeTableWord 32 0x6DCF2CDB = some (.vst ⟨⟨true, 6⟩, 30, 44, true, 0x5B⟩) := by decide

set_option maxRecDepth 20000 in
theorem test_decode_vector_3 :
    decodeTableWord 32 0x6DCF4500 = some (.vstStream ⟨⟨true, 6⟩, 30, 5⟩) ∧
    decodeTableWord 32 0x6FCF46C8 = some (.vstx ⟨⟨true, 6⟩, 30, 17, 44, 2⟩) ∧
    decodeTableWord 32 0x71DF4527 = some (.vsub ⟨⟨true, 6⟩, true, 30, 17, 9, 7⟩) ∧
    decodeTableWord 32 0x73DF4692 = some (.vtopk ⟨⟨true, 6⟩, true, 30, 17, 20, true, 2⟩) := by decide

set_option maxRecDepth 20000 in
theorem test_decode_matrix :
    decodeTableWord 32 0x81540000 = some (.bklend ⟨⟨true, 5⟩, 2⟩) ∧
    decodeTableWord 32 0x81550000 = some (.bklendRet ⟨⟨true, 5⟩, 2⟩) ∧
    decodeTableWord 32 0x83558000 = some (.hstrd ⟨⟨true, 5⟩, 44⟩) ∧
    decodeTableWord 32 0x8556442A = some (.mcall ⟨⟨true, 5⟩, 200, 33, 0xA⟩) ∧
    decodeTableWord 32 0x87542955 = some (.mcomp ⟨⟨true, 5⟩, 33, 18, 2, 21⟩) ∧
    decodeTableWord 32 0x89564420 = some (.mload ⟨⟨true, 5⟩, 200, 33⟩) ∧
    decodeTableWord 32 0x8B500000 = some (.mswap ⟨true, 5⟩) ∧
    decodeTableWord 32 0x8D500000 = some (.msync ⟨true, 5⟩) ∧
    decodeTableWord 32 0x8F564400 = some (.scld ⟨⟨true, 5⟩, 200, true⟩) ∧
    decodeTableWord 32 0x91564580 = some (.tdset ⟨⟨true, 5⟩, 200, 44⟩) := by decide

set_option maxRecDepth 20000 in
theorem test_decode_copy :
    decodeTableWord 32 0x99549080 = some (.cbadvProd ⟨⟨true, 5⟩, 9, 33⟩) ∧
    decodeTableWord 32 0x9954D080 = some (.cbadvCons ⟨⟨true, 5⟩, 9, 33⟩) ∧
    decodeTableWord 32 0x9B54D000 = some (.cbwait ⟨⟨true, 5⟩, 9, true, 64⟩) ∧
    decodeTableWord 32 0x9D5731B0 = some (.kaq ⟨⟨true, 5⟩, true, true, 9, 17, 44⟩) ∧
    decodeTableWord 32 0x9F550000 = some (.kbar ⟨⟨true, 5⟩, 5⟩) ∧
    decodeTableWord 32 0xA155B000 = some (.kbind ⟨⟨true, 5⟩, 5, 44⟩) ∧
    decodeTableWord 32 0xA354E1B0 = some (.kcopy ⟨⟨true, 5⟩, true, false, 3, 33, 44⟩) ∧
    decodeTableWord 32 0xA5563C00 = some (.kdq ⟨⟨true, 5⟩, true, 17, 7⟩) ∧
    decodeTableWord 32 0xA754E1B0 = some (.kpeer ⟨⟨true, 5⟩, true, false, 3, 33, 44⟩) ∧
    decodeTableWord 32 0xA9542940 = some (.tlset ⟨⟨true, 5⟩, 33, 18, true⟩) := by decide

set_option maxRecDepth 20000 in
theorem test_decode_engine_1 :
    decodeTableWord 32 0xB154E1B0 = some (.bcopy ⟨⟨true, 5⟩, true, false, 3, 33, 44⟩) ∧
    decodeTableWord 32 0xB154E1B1 = some (.bcopyVerify ⟨⟨true, 5⟩, true, false, 3, 33, 44⟩) ∧
    decodeTableWord 32 0xB354E1B0 = some (.bdrop ⟨⟨true, 5⟩, true, false, 3, 33, 44⟩) ∧
    decodeTableWord 32 0xB554E1B0 = some (.bholdList ⟨⟨true, 5⟩, true, false, 3, 33, 44⟩) ∧
    decodeTableWord 32 0xB554E1B1 = some (.bholdRoot ⟨⟨true, 5⟩, true, false, 3, 33, 44⟩) ∧
    decodeTableWord 32 0xB754E1B0 = some (.blookLeaf ⟨⟨true, 5⟩, true, false, 3, 33, 44⟩) ∧
    decodeTableWord 32 0xB754E1B1 = some (.blookInterior ⟨⟨true, 5⟩, true, false, 3, 33, 44⟩) ∧
    decodeTableWord 32 0xB954E1B0 = some (.bread ⟨⟨true, 5⟩, true, false, 3, 33, 44⟩) ∧
    decodeTableWord 32 0xB954E1B1 = some (.breadVerify ⟨⟨true, 5⟩, true, false, 3, 33, 44⟩) ∧
    decodeTableWord 32 0xBB54E1B0 = some (.bswap ⟨⟨true, 5⟩, true, false, 3, 33, 44⟩) ∧
    decodeTableWord 32 0xBD54E1B0 = some (.bwalkLeaf ⟨⟨true, 5⟩, true, false, 3, 33, 44⟩) ∧
    decodeTableWord 32 0xBD54E1B1 = some (.bwalkElement ⟨⟨true, 5⟩, true, false, 3, 33, 44⟩) := by decide

set_option maxRecDepth 20000 in
theorem test_decode_engine_2 :
    decodeTableWord 32 0xBF54E1B0 = some (.cupdSgd ⟨⟨true, 5⟩, true, false, 3, 33, 44⟩) ∧
    decodeTableWord 32 0xBF54E1B1 = some (.cupdAdagrad ⟨⟨true, 5⟩, true, false, 3, 33, 44⟩) ∧
    decodeTableWord 32 0xBF54E1B2 = some (.cupdRowwiseAdagrad ⟨⟨true, 5⟩, true, false, 3, 33, 44⟩) ∧
    decodeTableWord 32 0xBF54E1B3 = some (.cupdAdam ⟨⟨true, 5⟩, true, false, 3, 33, 44⟩) ∧
    decodeTableWord 32 0xC154E1B0 = some (.fbktMod ⟨⟨true, 5⟩, true, false, 3, 33, 44⟩) ∧
    decodeTableWord 32 0xC154E1B1 = some (.fbktRange ⟨⟨true, 5⟩, true, false, 3, 33, 44⟩) ∧
    decodeTableWord 32 0xC154E1B2 = some (.fbktHash ⟨⟨true, 5⟩, true, false, 3, 33, 44⟩) ∧
    decodeTableWord 32 0xC354E1B0 = some (.fredAll ⟨⟨true, 5⟩, true, false, 3, 33, 44⟩) ∧
    decodeTableWord 32 0xC354E1B1 = some (.fredRoot ⟨⟨true, 5⟩, true, false, 3, 33, 44⟩) ∧
    decodeTableWord 32 0xC554E1B0 = some (.fxch ⟨⟨true, 5⟩, true, false, 3, 33, 44⟩) ∧
    decodeTableWord 32 0xC554E1B1 = some (.fxchPayload ⟨⟨true, 5⟩, true, false, 3, 33, 44⟩) ∧
    decodeTableWord 32 0xC754E1B0 = some (.hrctlSetGroup ⟨⟨true, 5⟩, true, false, 3, 33, 44⟩) := by decide

set_option maxRecDepth 20000 in
theorem test_decode_engine_3 :
    decodeTableWord 32 0xC754E1B1 = some (.hrctlInvalidateTable ⟨⟨true, 5⟩, true, false, 3, 33, 44⟩) ∧
    decodeTableWord 32 0xC754E1B2 = some (.hrctlWriteBack ⟨⟨true, 5⟩, true, false, 3, 33, 44⟩) ∧
    decodeTableWord 32 0xC754E1B3 = some (.hrctlClearSketch ⟨⟨true, 5⟩, true, false, 3, 33, 44⟩) ∧
    decodeTableWord 32 0xC954E1B0 = some (.l2opUpdate ⟨⟨true, 5⟩, true, false, 3, 33, 44⟩) ∧
    decodeTableWord 32 0xC954E1B1 = some (.l2opGather ⟨⟨true, 5⟩, true, false, 3, 33, 44⟩) ∧
    decodeTableWord 32 0xCB54E1B0 = some (.qgath ⟨⟨true, 5⟩, true, false, 3, 33, 44⟩) ∧
    decodeTableWord 32 0xCD54E1B0 = some (.qpoolSplit ⟨⟨true, 5⟩, true, false, 3, 33, 44⟩) ∧
    decodeTableWord 32 0xCD54E1B1 = some (.qpoolOrdered ⟨⟨true, 5⟩, true, false, 3, 33, 44⟩) ∧
    decodeTableWord 32 0xCF54E1B0 = some (.skrd ⟨⟨true, 5⟩, true, false, 3, 33, 44⟩) ∧
    decodeTableWord 32 0xD154E1B0 = some (.wpin ⟨⟨true, 5⟩, true, false, 3, 33, 44⟩) ∧
    decodeTableWord 32 0xD154E1B1 = some (.wpinLoad ⟨⟨true, 5⟩, true, false, 3, 33, 44⟩) ∧
    decodeTableWord 32 0xD354E1B0 = some (.wunpin ⟨⟨true, 5⟩, true, false, 3, 33, 44⟩) := by decide

set_option maxRecDepth 20000 in
theorem test_decode_control_1 :
    decodeTableWord 32 0xD957ABCD = some (.br ⟨⟨true, 5⟩, 0x7ABCD⟩) ∧
    decodeTableWord 32 0xDB507ABC = some (.jmp ⟨⟨true, 5⟩, 0x7ABC⟩) ∧
    decodeTableWord 32 0xDB50D800 = some (.jmpReg ⟨⟨true, 5⟩, 44⟩) ∧
    decodeTableWord 32 0xDB517ABC = some (.call ⟨⟨true, 5⟩, 0x7ABC⟩) ∧
    decodeTableWord 32 0xDB51D800 = some (.callReg ⟨⟨true, 5⟩, 44⟩) ∧
    decodeTableWord 32 0xDB520000 = some (.ret ⟨true, 5⟩) ∧
    decodeTableWord 32 0xDD50B210 = some (.bsel ⟨⟨true, 5⟩, 44, 33⟩) ∧
    decodeTableWord 32 0xDF50B2BC = some (.loop ⟨⟨true, 5⟩, 44, 0x2BC⟩) ∧
    decodeTableWord 32 0xDF51B21A = some (.lcnt ⟨⟨true, 5⟩, 44, 33, 5⟩) ∧
    decodeTableWord 32 0xE0000000 = some .nop ∧
    decodeTableWord 32 0xE1510000 = some (.tend ⟨true, 5⟩) ∧
    decodeTableWord 32 0xE1530000 = some (.yield ⟨true, 5⟩) := by decide

set_option maxRecDepth 20000 in
theorem test_decode_control_2 :
    decodeTableWord 32 0xE152ABCD = some (.cabort ⟨⟨true, 5⟩, 0xABCD⟩) ∧
    decodeTableWord 32 0xE154ABCD = some (.brkpt ⟨⟨true, 5⟩, 0xABCD⟩) ∧
    decodeTableWord 32 0xE3500000 = some (.ifence ⟨true, 5⟩) ∧
    decodeTableWord 32 0xE351B000 = some (.ibank ⟨⟨true, 5⟩, 44⟩) ∧
    decodeTableWord 32 0xE550B180 = some (.acq ⟨⟨true, 5⟩, 44, 3⟩) ∧
    decodeTableWord 32 0xE551B200 = some (.rel ⟨⟨true, 5⟩, 44, 4⟩) ∧
    decodeTableWord 32 0xE5520100 = some (.fence ⟨⟨true, 5⟩, 2⟩) ∧
    decodeTableWord 32 0xE750B000 = some (.mon ⟨⟨true, 5⟩, 44⟩) ∧
    decodeTableWord 32 0xE751B000 = some (.mwait ⟨⟨true, 5⟩, 44⟩) ∧
    decodeTableWord 32 0xE7528000 = some (.dbar ⟨⟨true, 5⟩, 2⟩) ∧
    decodeTableWord 32 0xE950B210 = some (.ropen ⟨⟨true, 5⟩, 44, 33⟩) ∧
    decodeTableWord 32 0xE951B240 = some (.rkeep ⟨⟨true, 5⟩, 44, 9⟩) := by decide

set_option maxRecDepth 20000 in
theorem test_decode_control_3 :
    decodeTableWord 32 0xE9520000 = some (.rclose ⟨true, 5⟩) ∧
    decodeTableWord 32 0xEB503B00 = some (.einj ⟨⟨true, 5⟩, 3, 44⟩) ∧
    decodeTableWord 32 0xEB510000 = some (.stest ⟨true, 5⟩) ∧
    decodeTableWord 32 0xED50ABCD = some (.trap ⟨⟨true, 5⟩, 0xABCD⟩) ∧
    decodeTableWord 32 0xED510000 = some (.tret ⟨true, 5⟩) ∧
    decodeTableWord 32 0xED52B210 = some (.launch ⟨⟨true, 5⟩, 44, 33⟩) ∧
    decodeTableWord 32 0xEF50B2BC = some (.crd ⟨⟨true, 5⟩, 44, 0x2BC⟩) ∧
    decodeTableWord 32 0xEF51B2BC = some (.cwr ⟨⟨true, 5⟩, 44, 0x2BC⟩) ∧
    decodeTableWord 32 0xEF52B000 = some (.xinvPage ⟨⟨true, 5⟩, 44⟩) ∧
    decodeTableWord 32 0xEF52B100 = some (.xinvAll ⟨⟨true, 5⟩, 44⟩) := by decide

set_option maxRecDepth 20000 in
theorem test_decode_micro_1 :
    decodeTableWord 64 0x0000000000000000 = some .mxEnd ∧
    decodeTableWord 64 0x0800000000000000 = some .mxNop ∧
    decodeTableWord 64 0x14C2000000000000 = some (.zacc 9 33) ∧
    decodeTableWord 64 0x1CAC200000000000 = some (.ldacc 9 5 33) ∧
    decodeTableWord 64 0x2480000000000000 = some (.ldw 9) ∧
    decodeTableWord 64 0x24E0000000000000 = some (.ldwSparse 9 2) ∧
    decodeTableWord 64 0x2800000000000000 = some .mxSwap ∧
    decodeTableWord 64 0x34AC200000000000 = some (.strm 9 5 33) ∧
    decodeTableWord 64 0x3CAC200000000000 = some (.drain 9 5 33) ∧
    decodeTableWord 64 0x4480000000000000 = some (.sets 9) ∧
    decodeTableWord 64 0x4DC8000000000000 = some (.setr 5 true 9) ∧
    decodeTableWord 64 0x54DABCDEF0123456 = some (.setx 9 0x5ABCDEF0123456) := by decide

set_option maxRecDepth 20000 in
theorem test_decode_micro_2 :
    decodeTableWord 64 0x5CA8000000000000 = some (.movx 9 5) ∧
    decodeTableWord 64 0x64C00000FFFFFFF0 = some (.addx 9 2 0xFFFFFFF0) ∧
    decodeTableWord 64 0x6CA1000000000000 = some (.loopx 9 33) := by decide

/-! ### The spec's worked encodings (chapters 04, 10 and 14 to 17) -/

/-- The words the reference entries give for scalar instructions. -/
theorem test_spec_words_scalar :
    decodeTableWord 32 0x0000C341 = some (.add ⟨always, false, 6, 6, true, 1⟩) ∧
    decodeTableWord 32 0x02002170 = some (.and ⟨always, false, 1, 2, true, 0x30⟩) ∧
    decodeTableWord 32 0x04008205 = some (.andn ⟨always, false, 4, 4, false, 5⟩) ∧
    decodeTableWord 32 0x0A004184 = some (.bfx ⟨always, false, 2, 3, false, 4⟩) ∧
    decodeTableWord 32 0x0C014120 = some (.cas ⟨always, 10, 2, false, 2, 0⟩) ∧
    decodeTableWord 32 0x0E020000 = some (.chk ⟨always, 1⟩) ∧
    decodeTableWord 32 0x10006200 = some (.clz ⟨always, false, 3, 4⟩) ∧
    decodeTableWord 32 0x12012146 = some (.cmp ⟨always, false, 2, 2, 5, 6⟩) ∧
    decodeTableWord 32 0x140082C7 = some (.div ⟨always, false, 4, 5, true, 7⟩) ∧
    decodeTableWord 32 0x1600E121 = some (.ld ⟨always, 7, 2, false, 2, 1⟩) ∧
    decodeTableWord 32 0x180081B3 = some (.lea ⟨always, false, 4, 3, 3, 3⟩) ∧
    decodeTableWord 32 0x1E007FFF = some (.movi ⟨always, false, 3, 0x1FFF⟩) ∧
    decodeTableWord 32 0x26018940 = some (.plog ⟨always, false, 3, 1, 2, 8⟩) ∧
    decodeTableWord 32 0x2F208286 = some (.sel ⟨⟨true, 2⟩, false, 4, 5, false, 6⟩) ∧
    decodeTableWord 32 0x3430E161 = some (.st ⟨⟨false, 3⟩, 7, 2, true, 2, 1⟩) := by decide

/-- Those of the vector and matrix instructions. -/
theorem test_spec_words_vector_matrix :
    decodeTableWord 32 0x44020E01 = some (.vbcast ⟨all, false, 4, 7, 1⟩) ∧
    decodeTableWord 32 0x46070441 = some (.vcmp ⟨all, false, 3, 2, 1, 2, 1⟩) ∧
    decodeTableWord 32 0x4E020302 = some (.vld ⟨all, 4, 3, false, 2⟩) ∧
    decodeTableWord 32 0x4E024200 = some (.vldStream ⟨all, 4, 2⟩) ∧
    decodeTableWord 32 0x50020438 = some (.vldx ⟨all, 4, 1, 3, 2⟩) ∧
    decodeTableWord 32 0x56040050 = some (.vmerge ⟨false, 8, 0, 2, true⟩) ∧
    decodeTableWord 32 0x72051051 = some (.vtopk ⟨all, false, 10, 4, 2, true, 1⟩) ∧
    decodeTableWord 32 0x80050000 = some (.bklendRet ⟨always, 2⟩) ∧
    decodeTableWord 32 0x82008000 = some (.hstrd ⟨always, 4⟩) ∧
    decodeTableWord 32 0x840008A9 = some (.mcall ⟨always, 1, 5, 9⟩) ∧
    decodeTableWord 32 0x8600812E = some (.mcomp ⟨always, 4, 2, 1, 14⟩) ∧
    decodeTableWord 32 0x880280C0 = some (.mload ⟨always, 80, 6⟩) ∧
    decodeTableWord 32 0x8E002C00 = some (.scld ⟨always, 5, true⟩) ∧
    decodeTableWord 32 0x90002880 = some (.tdset ⟨always, 5, 4⟩) ∧
    decodeTableWord 64 0x3017E00000000000 = some (.strm 0 2 63) ∧
    decodeTableWord 64 0x390FE00000000000 = some (.drain 2 1 63) := by decide

/-- Those of the copy units, the engines and the control instructions. -/
theorem test_spec_words_control :
    decodeTableWord 32 0x98014000 = some (.cbadvCons ⟨always, 2, 0⟩) ∧
    decodeTableWord 32 0x9C000320 = some (.kaq ⟨always, false, false, 0, 3, 8⟩) ∧
    decodeTableWord 32 0xA4028C00 = some (.kdq ⟨always, false, 20, 3⟩) ∧
    decodeTableWord 32 0x9E040000 = some (.kbar ⟨always, 4⟩) ∧
    decodeTableWord 32 0xA0021000 = some (.kbind ⟨always, 2, 4⟩) ∧
    decodeTableWord 32 0xA8010240 = some (.tlset ⟨always, 8, 4, true⟩) ∧
    decodeTableWord 32 0xB004C61D = some (.bcopyVerify ⟨always, true, false, 3, 6, 7⟩) ∧
    decodeTableWord 32 0xBA06CA2C = some (.bswap ⟨always, true, true, 3, 10, 11⟩) ∧
    decodeTableWord 32 0xBE068827 = some (.cupdAdam ⟨always, true, true, 2, 8, 9⟩) ∧
    decodeTableWord 32 0xCC04C414 = some (.qpoolSplit ⟨always, true, false, 3, 4, 5⟩) ∧
    decodeTableWord 32 0xD827FFFB = some (.br ⟨⟨false, 2⟩, 0x7FFFB⟩) ∧
    decodeTableWord 32 0xDA010030 = some (.call ⟨always, 0x30⟩) ∧
    decodeTableWord 32 0xDA009200 = some (.jmpReg ⟨always, 9⟩) ∧
    decodeTableWord 32 0xDC001C80 = some (.bsel ⟨always, 7, 8⟩) ∧
    decodeTableWord 32 0xDE011054 = some (.lcnt ⟨always, 4, 5, 2⟩) ∧
    decodeTableWord 32 0xE0041234 = some (.brkpt ⟨always, 0x1234⟩) ∧
    decodeTableWord 32 0xE6028000 = some (.dbar ⟨always, 2⟩) ∧
    decodeTableWord 32 0xEE01240A = some (.cwr ⟨always, 9, 10⟩) := by decide

/-- R67's bundle of the first encoding example: the four words at their slots, and the LEND example's header. -/
theorem test_spec_bundles :
    (decodeBundle [0xE0000000, 0x4C420441, 0x1630A1F2, 0x0000C341]).toOption.map (·.ops) =
      some [(0, .nop), (1, .vfma ⟨⟨false, 2⟩, false, 4, 1, 2, 1⟩), (2, .ld ⟨⟨false, 3⟩, 5, 3, true, 3, 2⟩), (3, .add ⟨always, false, 6, 6, true, 1⟩)] ∧
    (decodeBundle [0xF0891A2B, 0x1E00E789, 0xE0000000, 0xE0000000]).toOption.map (·.ops) =
      some [(1, .movi ⟨always, false, 7, 0x789⟩), (2, .nop), (3, .nop)] := by decide

/-! ### Ill-formed terms: one for each check of wellFormed -/

theorem test_ill_formed :
    [Instr.atom ⟨always, 7, 3, false, 3, 0⟩, .cas ⟨always, 8, 3, false, 1, 0⟩, .chk ⟨always, 2⟩, .cmp ⟨always, false, 1, 7, 2, 3⟩,
      .vabs ⟨all, false, 1, 2, 10⟩, .vadd ⟨all, false, 1, 2, 3, 10⟩, .vfma ⟨all, false, 1, 2, 3, 11⟩, .vmax ⟨all, false, 1, 2, 3, 31⟩,
      .vmin ⟨all, false, 1, 2, 3, 10⟩, .vmul ⟨all, false, 1, 2, 3, 10⟩, .vsub ⟨all, false, 1, 2, 3, 10⟩, .vexp ⟨all, false, 1, 2, 4⟩,
      .vlog ⟨all, false, 1, 2, 4⟩, .vrcp ⟨all, false, 1, 2, 9⟩, .vrsq ⟨all, false, 1, 2, 4⟩, .vred ⟨all, false, 1, 2, 3, 1⟩,
      .vscan ⟨all, false, 1, 2, 0, 10⟩, .vtopk ⟨all, false, 1, 2, 3, false, 1⟩, .vtopk ⟨all, false, 2, 2, 3, false, 4⟩,
      .vmerge ⟨false, 1, 2, 4, false⟩, .vmerge ⟨false, 2, 1, 4, false⟩, .vmerge ⟨false, 2, 4, 1, false⟩, .mcall ⟨always, 1, 5, 3⟩,
      .mcomp ⟨always, 1, 2, 3, 14⟩, .mcomp ⟨always, 1, 2, 0, 1⟩, .mload ⟨always, 63, 5⟩, .cbwait ⟨always, 2, false, 65⟩,
      .kaq ⟨always, false, true, 0, 1, 3⟩, .kaq ⟨always, false, false, 1, 1, 2⟩, .kbar ⟨always, 0⟩, .kdq ⟨always, false, 31, 1⟩,
      .kcopy ⟨always, false, false, 5, 1, 2⟩, .acq ⟨always, 1, 5⟩, .rel ⟨always, 1, 6⟩, .fence ⟨always, 7⟩, .lcnt ⟨always, 1, 2, 6⟩,
      .einj ⟨always, 4, 1⟩, .ldwSparse 1 3, .setr 6 false 1, .addx 1 3 0].all (fun i => !wellFormed i) = true := by decide

/-! ### Results worked in the spec -/

/-- The results a step put in flight. -/
def sentBy (o : Outcome) : List Result := match o with | .next t => t.core.flight.map (·.res) | _ => []
def set5 (a b : Word) : State := one fun c => (c.setS 5 a).setS 6 b

/-- Chapter 14, AND: s2 = 0x1237 AND −16 is 0x1230. -/
theorem test_and_example : sentBy (exec (.and ⟨always, false, 1, 2, true, 0x30⟩) (one fun c => c.setS 2 0x1237)) = [.s 1 0x1230] := by decide

/-- Addition wraps at 2^64 (R297). -/
theorem test_add_wraps : sentBy (exec (.add ⟨always, false, 4, 5, false, 6⟩) (set5 0xFFFFFFFFFFFFFFFF 2)) = [.s 4 1] := by decide

/-- Chapter 14, BFX and BFI. -/
theorem test_bit_field_examples :
    sentBy (exec (.bfx ⟨always, false, 2, 5, false, 6⟩) (set5 0xABCD00 0x2C8)) = [.s 2 0xBCD] ∧
    sentBy (exec (.bfx ⟨always, false, 2, 5, false, 6⟩) (set5 0xABCD00 0x12C8)) = [.s 2 0xFFFFFFFFFFFFFBCD] ∧
    sentBy (exec (.bfi ⟨always, false, 2, 5, false, 6⟩) (one fun c => ((c.setS 5 0x123).setS 6 0x1C4).setS 2 0xFFFFFFFFFFFFFFFF)) =
      [.s 2 0xFFFFFFFFFFFFF23F] := by decide

/-- Chapters 14 and 16, CLZ and POPC. -/
theorem test_count_examples :
    sentBy (exec (.clz ⟨always, false, 3, 5⟩) (set5 0x10000 0)) = [.s 3 47] ∧ sentBy (exec (.popc ⟨always, false, 3, 5⟩) (set5 0xF0F0 0)) = [.s 3 8] := by
  decide

set_option maxRecDepth 20000 in
/-- Chapter 15, DIV of −7 by 7, MAX and MIN of −1 and 3; REM takes the sign of s(a) (R382). -/
theorem test_signed_examples :
    sentBy (exec (.div ⟨always, false, 4, 5, true, 7⟩) (set5 (-7) 0)) = [.s 4 (-1)] ∧
    sentBy (exec (.rem ⟨always, false, 4, 5, true, 4⟩) (set5 (-7) 0)) = [.s 4 (-3)] ∧
    sentBy (exec (.max ⟨always, false, 4, 5, false, 6⟩) (set5 (-1) 3)) = [.s 4 3] ∧
    sentBy (exec (.min ⟨always, false, 4, 5, false, 6⟩) (set5 (-1) 3)) = [.s 4 (-1)] := by decide

set_option maxRecDepth 20000 in
/-- Chapter 14, CMP.ltn q1, s4, 100 under LEND with s4 = −1 is false; chapter 16, SEL with q2 true and its inverse. -/
theorem test_condition_examples :
    sentBy (exec (.cmp ⟨always, false, 1, 4, 5, 36⟩) ((set5 (-1) 0).onCore fun c => { c with issue := { c.issue with ext := some 1 } })) = [.q 1 false] ∧
    sentBy (exec (.sel ⟨⟨false, 2⟩, false, 4, 5, false, 6⟩) ((set5 1 9).onCore fun c => c.setQ 2 true)) = [.s 4 1] ∧
    sentBy (exec (.sel ⟨⟨true, 2⟩, false, 4, 5, false, 6⟩) ((set5 1 9).onCore fun c => c.setQ 2 true)) = [.s 4 9] := by decide

set_option maxRecDepth 20000 in
/-- Chapter 04: MOVI s7 with the 23 lent bits of the LEND example. -/
theorem test_lent_movi :
    sentBy (exec (.movi ⟨always, false, 7, 0x789⟩) (one fun c => { c with issue := { c.issue with ext := some 0x91A2B } })) = [.s 7 0x123456789] := by
  decide

/-- Chapter 14, CALL: the return address is pc + 32 and the target 0x30 bundles on. -/
theorem test_call_example :
    (match exec (.call ⟨always, 0x30⟩) (one fun c => { c with fetch := { c.fetch with pc := 0x100 } }) with
      | .next t => decide (t.core.fetch.redirect = some ⟨0x400, false⟩ ∧ t.core.flight.map (·.res) = [.s 63 0x120])
      | _ => false) = true := by decide

/-- Chapter 05's rounding example: 0x3F99999A to b8p4s under RNE, RTZ and SR with two random words (8 bits of width). -/
theorem test_rounding_example :
    round 14 0 false 8 0 (decodeNum 1 0x3F99999A) = 0x42 ∧ round 14 1 false 8 0 (decodeNum 1 0x3F99999A) = 0x41 ∧
    round 14 5 false 8 0x66 (decodeNum 1 0x3F99999A) = 0x41 ∧ round 14 5 false 8 0x67 (decodeNum 1 0x3F99999A) = 0x42 := by decide

/-- Chapter 05's drain table: 232, 233, 300 and −300 into b8p4s and b8p4f, without and with saturation. -/
theorem test_drain_example :
    let v (a : Nat) (c : Nat) (sat : Bool) : Nat := drainValue (decodeNum 1 a) (f32Num 0x3F800000) c 0 sat 0
    [0x43680000, 0x43690000, 0x43960000, 0xC3960000].map (fun a => [v a 14 false, v a 14 true, v a 21 false, v a 21 true]) =
      [[0x7E, 0x7E, 0x7E, 0x7E], [0x7F, 0x7E, 0x7F, 0x7F], [0x7F, 0x7E, 0x80, 0x7F], [0xFF, 0xFE, 0x80, 0xFF]] := by decide

/-- Chapter 05: the tree over f16 lanes 2048, 1, 1, 0 gives 2048, and so does each running value. -/
theorem test_reduction_example :
    redTree 0 2 ⟨0, false, 0⟩ 0 8 1 [some 0x6800, some 0x3C00, some 0x3C00, some 0] = some 0x6800 ∧
    scanLanes 0 2 ⟨0, false, 0⟩ 0 0 none [some 0x6800, some 0x3C00, some 0x3C00, some 0] = [0x6800, 0x6800, 0x6800, 0x6800] := by decide

/-- Chapter 05's merge of (2, 1.5), (5, −2.0) with (2, −1.5), (7, 3.0). -/
theorem test_merge_example :
    mergeRuns true 64 [(2, 0x3FC00000), (5, 0xC0000000)] [(2, 0xBFC00000), (7, 0x40400000)] = [(2, 0), (5, 0xC0000000), (7, 0x40400000)] ∧
    mergeRuns false 64 [(2, 0x3FC00000), (5, 0xC0000000)] [(2, 0xBFC00000), (7, 0x40400000)] = [(5, 0xC0000000), (7, 0x40400000)] := by decide

/-- Chapter 02's ragged groups 300, 40, 0 and 16. -/
theorem test_ragged_example :
    splitGroup 4 300 0 = [(0, 0), (128, 0), (256, 20)] ∧ splitGroup 4 40 0 = [(0, 24)] ∧ splitGroup 4 0 0 = [] ∧ splitGroup 4 16 0 = [(0, 0)] := by
  decide

/-- Chapter 04's tagged body: mask 0b1110 with three words, then a run of two NOP bundles. -/
theorem test_image_example :
    let body : List Byte := [0x0E, 0x41, 0x04, 0x42, 0x4C, 0xF2, 0xA1, 0x30, 0x16, 0x41, 0xC3, 0, 0, 0x10]
    expandTags 15 3 body = ([nopWord ++ (body.drop 1).take 12, nopBundle, nopBundle], [], true) := by decide

/-- Chapter 14, CAS.b32 of 7 and 9: a word of 7 becomes 9, a word of 8 stays. -/
theorem test_cas_example :
    let s (v : Nat) : State := win fun c => ((c.setS 10 7).setS 11 9).spWrite 8 (toBytes 4 v)
    (match exec (.cas ⟨always, 10, 4, false, 2, 2⟩) (s 7) with | .next t => t.core.spRead 8 4 | _ => []) = [9, 0, 0, 0] ∧
    (match exec (.cas ⟨always, 10, 4, false, 2, 2⟩) (s 8) with | .next t => t.core.spRead 8 4 | _ => []) = [8, 0, 0, 0] := by decide

/-- Chapter 14, CWR ctl.vround with 0x5D: mode SR, saturation, random bits from v5. -/
theorem test_vround_example :
    (match exec (.cwr ⟨always, 5, 10⟩) (set5 0x5D 0) with | .next t => some (vroundOf t.core.ctl.vround) | _ => none) = some ⟨5, true, 5⟩ := by decide

/-- R299: a reserved operation code traps with ILLEGAL_OPERATION. -/
theorem test_trap_causes :
    (match exec (.atom mem1) (win fun c => c.setS 7 12) with | .next t => (t.core.ctl.cause.toNat % 2 ^ 16, t.core.fetch.pc) | _ => (0, 0)) =
      (cIllegalOperation, 0x1000) := by decide

end Sys2Proof.Tests
end

section
/-! PROOFS. The S class without multiplication, division and memory: a slot whose only effect is one S or predicate result
sends it, the words and conditions of the model are those of the spec's tables, and CHK clears its latch. From these the
statements AluResults, BitFieldAndMoveResults and PredicateResults. -/

namespace Sys2Proof.Machine

/-! ### Slots that send one result -/

/-- A slot that is on and does not stall, whose effect is one S result of class 0, sends it (R62, R76). -/
theorem State.slot_sendS {s : State} {on stall : Bool} (hon : on = true) (hstall : stall = false) (dup : Bool)
    (d : BitVec 6) (v : Core → Word) :
    (s.slot on none stall fun s => s.onCore fun c => c.sendS dup d (v c) 0 1) =
      Safety.sentS s dup d (v (s.flow .ran).core) := by
  rw [hon, hstall, State.slot_runs]; rfl

/-- The same for a predicate result (R329, R383). -/
theorem State.slot_sendQ {s : State} {on stall : Bool} (hon : on = true) (hstall : stall = false) (dup : Bool)
    (d : BitVec 4) (v : Core → Bool) :
    (s.slot on none stall fun s => s.onCore fun c => c.sendQ dup d (v c)) =
      Safety.sentQ s dup d (v (s.flow .ran).core) := by
  rw [hon, hstall, State.slot_runs]; rfl

/-- An ALU slot that is on and finds its registers sends f(s(a), B) with latency 1 (R296). -/
theorem State.execAlu_sends {s : State} {x : S3} {a b v : Word} {f : Word → Word → Word}
    (hon : s.core.active x.g = true) (hfree : Safety.freeS3 s.core x) (ha : a = s.core.src 0 x.a)
    (hb : b = s.core.opB x) (hv : f a b = v) : s.execAlu x f = .next (Safety.sentS3 s x v 0 1) := by
  rw [State.execAlu, hon, State.execS3_sends _ _ _ _ _ _ hfree, ← ha, ← hb, hv]

/-- An S3-form slot that also reads s(d) sends its result when that register too is free (R305). -/
theorem State.execS3_old_sends {s : State} {x : S3} (cls lat : Nat) (div : Bool) (f : Core → Word → Word → Word)
    (hfree : Safety.freeS3 s.core x) (hd : s.core.pending x.d = false) :
    s.execS3 x true none cls lat div f true =
      .next (Safety.sentS3 s x (f (s.flow .ran).core (s.core.src 0 x.a) (s.core.opB x)) cls lat div) := by
  rw [← State.execS3_sends s x cls lat div f hfree]
  simp only [State.execS3, hd, Bool.and_false]

/-- An S2-form slot that is on and finds its registers sends f(s(a)) with latency 1. -/
theorem State.execS2_sends {s : State} {x : S2} {v : Word} (f : Word → Word) (hon : s.core.active x.g = true)
    (ha : s.core.pending x.a = false) (hd : s.core.pendingW x.d = false) (hv : f (s.core.src 0 x.a) = v) :
    s.execS2 x f = .next (Safety.sentS s x.dup x.d v) := by
  subst hv
  exact congrArg _ (State.slot_sendS hon (by rw [ha, hd]; rfl) x.dup x.d fun c => f (c.src 0 x.a))

/-! ### Shifts, MAX and MIN as arithmetic on the signed and unsigned values (R370, R382) -/

theorem shiftLeft_eq_ofNat (a : Word) (n : Nat) : a <<< n = BitVec.ofNat 64 (a.toNat * 2 ^ n) :=
  congrArg (BitVec.ofNat 64) (Nat.shiftLeft_eq a.toNat n)

theorem ushiftRight_eq_ofNat (a : Word) (n : Nat) : a >>> n = BitVec.ofNat 64 (a.toNat / 2 ^ n) := by
  rw [← Nat.shiftRight_eq_div_pow, ← BitVec.toNat_ushiftRight, BitVec.ofNat_toNat, BitVec.setWidth_eq]

theorem sshiftRight_eq_ofInt (a : Word) (n : Nat) : a.sshiftRight n = BitVec.ofInt 64 (a.toInt / 2 ^ n) := by
  rw [← BitVec.ofInt_toInt (x := a.sshiftRight n), BitVec.toInt_sshiftRight, Int.shiftRight_eq_div_pow]
  norm_cast

theorem ite_slt_eq_ofInt_max (a b : Word) : (if a.slt b then b else a) = BitVec.ofInt 64 (max a.toInt b.toInt) := by
  by_cases h : a.toInt < b.toInt
  · simp [BitVec.slt_eq_decide, h, max_eq_right h.le]
  · simp [BitVec.slt_eq_decide, h, max_eq_left (not_lt.1 h)]

theorem ite_slt_eq_ofInt_min (a b : Word) : (if b.slt a then b else a) = BitVec.ofInt 64 (min a.toInt b.toInt) := by
  by_cases h : b.toInt < a.toInt
  · simp [BitVec.slt_eq_decide, h, min_eq_right h.le]
  · simp [BitVec.slt_eq_decide, h, min_eq_left (not_lt.1 h)]

/-! ### Bit fields and counts (R304, R305, R328, R384) -/

theorem sext_toNat_of_pos : ∀ {n : Nat} (y : BitVec n), 0 < n → sext n y.toNat = y.toInt
  | _ + 1, y, _ => sext_toNat y

/-- BFX takes the field as a word of its own width and extends it with its top bit or with zeros. -/
theorem bfxWord_eq (a ctl : Word) {pos len : Nat} (hpos : pos = (ctl.extractLsb' 0 6).toNat)
    (hlen : len = (ctl.extractLsb' 6 6).toNat + 1) :
    bfxWord a ctl = if ctl.getLsbD 12 = true ∧ len < 64 then (a.extractLsb' pos len).signExtend 64
      else (a.extractLsb' pos len).setWidth 64 := by
  have hfield : a.toNat / 2 ^ pos % 2 ^ len = (a.extractLsb' pos len).toNat := by
    rw [BitVec.extractLsb'_toNat, Nat.shiftRight_eq_div_pow]
  simp only [bfxWord, ← hpos, ← hlen, hfield, sext_toNat_of_pos _ (show 0 < len by omega), BitVec.ofNat_toNat]
  rfl

/-- The bits of BFX: the field below `len`, its top bit or zero above (R305). -/
theorem bfxWord_getLsbD (a ctl : Word) {pos len k : Nat} (hpos : pos = (ctl.extractLsb' 0 6).toNat)
    (hlen : len = (ctl.extractLsb' 6 6).toNat + 1) (hk : k < 64) :
    (bfxWord a ctl).getLsbD k =
      if k < len then a.getLsbD (pos + k) else (ctl.getLsbD 12 && a.getLsbD (pos + len - 1)) := by
  have htop : (a.extractLsb' pos len).msb = a.getLsbD (pos + len - 1) := by
    rw [BitVec.msb_eq_getLsbD_last, BitVec.getLsbD_extractLsb', ← Nat.add_sub_assoc (by omega)]
    simp [show len - 1 < len by omega]
  rw [bfxWord_eq a ctl hpos hlen]
  split
  next hs =>
    rw [BitVec.getLsbD_signExtend, BitVec.getLsbD_extractLsb', htop, hs.1]
    by_cases h : k < len <;> simp [h, hk]
  next hs =>
    rw [BitVec.getLsbD_setWidth, BitVec.getLsbD_extractLsb']
    by_cases h : k < len
    · simp [h, hk]
    · have hsx : ctl.getLsbD 12 = false := by
        by_contra hsx
        exact hs ⟨Bool.eq_true_of_not_eq_false hsx, by omega⟩
      rw [if_neg h, hsx]; simp [h]

/-- The bits of BFI: the low bits of s(a) inside the field, those of s(d) outside (R305). -/
theorem bfiWord_getLsbD (d a ctl : Word) {pos len k : Nat} (hpos : pos = (ctl.extractLsb' 0 6).toNat)
    (hlen : len = (ctl.extractLsb' 6 6).toNat + 1) (hk : k < 64) :
    (bfiWord d a ctl).getLsbD k = if pos ≤ k ∧ k < pos + len then a.getLsbD (k - pos) else d.getLsbD k := by
  have hmask : (BitVec.ofNat 64 ((2 ^ len - 1) * 2 ^ pos)).getLsbD k = decide (pos ≤ k ∧ k < pos + len) := by
    rw [BitVec.getLsbD_ofNat, Nat.testBit_mul_two_pow, Nat.testBit_two_pow_sub_one, Bool.eq_iff_iff]
    simp only [Bool.and_eq_true, decide_eq_true_eq]
    omega
  simp only [bfiWord, ← hpos, ← hlen, BitVec.getLsbD_or, BitVec.getLsbD_and, BitVec.getLsbD_not,
    BitVec.getLsbD_shiftLeft, hmask]
  by_cases h : pos ≤ k ∧ k < pos + len
  · simp [h, hk]
  · simp [h, hk]

/-- CLZ over the low n bits of a word that has no higher one. -/
theorem clzFrom_eq (x : Word) : ∀ {n : Nat}, x.toNat < 2 ^ n →
    clzFrom n x = if x = 0 then n else n - 1 - Nat.log2 x.toNat
  | 0, h => by
    have hx : x = 0 := BitVec.eq_of_toNat_eq (by simpa using h)
    rw [if_pos hx]; rfl
  | n + 1, h => by
    rw [clzFrom]
    by_cases hbit : x.getLsbD n = true
    · have hlow : 2 ^ n ≤ x.toNat := Nat.ge_two_pow_of_testBit hbit
      have hne : x.toNat ≠ 0 := by have := Nat.two_pow_pos n; omega
      have hx : x ≠ 0 := fun e => hne (by rw [e]; rfl)
      have hlog : Nat.log2 x.toNat = n := (Nat.log2_eq_iff hne).2 ⟨hlow, h⟩
      rw [if_pos hbit, if_neg hx, hlog]; omega
    · have hlt : x.toNat < 2 ^ n := by
        refine Nat.lt_pow_two_of_testBit _ fun j hj => ?_
        obtain rfl | hj := hj.eq_or_lt
        · exact Bool.eq_false_of_not_eq_true hbit
        · exact Nat.testBit_lt_two_pow (h.trans_le (Nat.pow_le_pow_right (by decide) hj))
      rw [if_neg hbit, clzFrom_eq x hlt]
      by_cases hx : x = 0
      · rw [if_pos hx, if_pos hx]
      · have hne : x.toNat ≠ 0 := fun e => hx (BitVec.eq_of_toNat_eq e)
        have hlog := (Nat.log2_lt hne).2 hlt
        rw [if_neg hx, if_neg hx]; omega

/-- POPC counts the set bits. -/
theorem popcFrom_eq (x : Word) : ∀ n, popcFrom n x = ((List.range n).filter fun k => x.getLsbD k).length
  | 0 => rfl
  | n + 1 => by
    rw [popcFrom, popcFrom_eq x n, List.range_succ, List.filter_append, List.length_append]
    cases h : x.getLsbD n <;> simp [h]

/-! ### Immediates with LEND's bits, and conditions (R72, R329, R330, R376, R383) -/

/-- LEND's bits above a field, read as one signed number. -/
theorem sext_lent {w : Nat} (e : BitVec 23) (x : BitVec w) : sext (23 + w) (lent e w x) = (e ++ x).toInt := by
  rw [lent_append, sext_toNat_of_pos _ (by omega)]

theorem Core.opMovi_eq (c : Core) (x : SMovi) : c.opMovi x =
    BitVec.ofInt 64 (match c.issue.ext with | none => x.imm.toInt | some e => (e ++ x.imm).toInt) := by
  unfold Core.opMovi
  cases c.issue.ext with
  | none => rfl
  | some e => exact congrArg (BitVec.ofInt 64) (sext_lent e x.imm)

theorem Core.opCmp_eq (c : Core) (x : SCmp) : c.opCmp x =
    match c.issue.ext with | none => c.src 1 x.b | some e => BitVec.ofInt 64 (e ++ x.b).toInt := by
  unfold Core.opCmp
  cases c.issue.ext with
  | none => rfl
  | some e => exact congrArg (BitVec.ofInt 64) (sext_lent e x.b)

/-- The conditions of CMP on the signed and unsigned values (R330). -/
theorem cmpCond_eq (cc : BitVec 3) (a b : Word) : cmpCond cc a b =
    match cc.toNat with
    | 0 => decide (a = b)
    | 1 => decide (a ≠ b)
    | 2 => decide (a.toInt < b.toInt)
    | 3 => decide (a.toInt ≤ b.toInt)
    | 4 => decide (a.toNat < b.toNat)
    | 5 => decide (a.toNat ≤ b.toNat)
    | _ => decide (a &&& b ≠ 0) := by
  unfold cmpCond
  match cc.toNat with
  | 0 => rfl
  | 1 => exact (decide_not ..).symm
  | 2 => rfl
  | 3 => rfl
  | 4 => rfl
  | 5 => rfl
  | _ + 6 => exact (decide_not ..).symm

/-- The bit of PLOG's table as an arithmetic index (R383). -/
theorem plogTable_eq (tt : BitVec 4) (a b : Bool) : plogTable tt a b = tt.getLsbD (2 * a.toNat + b.toNat) := by
  cases a <;> cases b <;> rfl

/-! ### CHK (R326, R327) -/

/-- What a caught error can do: set the rollback inside a region, unless one is set already, and record a fatal fault
outside every region (R271, R266). -/
theorem Core.caught_eq (c : Core) (why code : Nat) : c.caught why code = { c with bound := { c.bound with
    rollback := if decide (c.depth > 0) && c.bound.rollback.isNone then some why else c.bound.rollback
    fatal := if c.depth == 0 then c.bound.fatal ++ [code] else c.bound.fatal } } := by
  unfold Core.caught Core.fatal
  by_cases hd : c.depth > 0
  · have h0 : (c.depth == 0) = false := by simpa using Nat.ne_of_gt hd
    cases hr : c.bound.rollback.isNone with
    | true => simp [hd, h0, Option.isNone_iff_eq_none.1 hr]
    | false => simp [hd, h0, Option.isNone_eq_false_iff.1 hr]
  · have h0 : c.depth = 0 := by omega
    simp [h0]

/-- Is the twin latch of a pair valid (R76)? -/
def Core.latchValid (c : Core) (pair : BitVec 2) : Bool := if pair = 0 then c.twinS.valid else c.twinV.valid

/-- Do its two halves agree? -/
def Core.latchSame (c : Core) (pair : BitVec 2) : Bool :=
  if pair = 0 then decide (c.twinS.primary = c.twinS.twin) else decide (c.twinV.primary = c.twinV.twin)

/-- The core with the latch of a pair cleared. -/
def Core.latchCleared (c : Core) (pair : BitVec 2) : Core :=
  { c with twinS := { c.twinS with valid := c.twinS.valid && pair != 0 }
           twinV := { c.twinV with valid := c.twinV.valid && pair == 0 } }

theorem Core.latchValid_S (c : Core) : c.latchValid 0 = c.twinS.valid := rfl

theorem Core.latchValid_V (c : Core) {pair : BitVec 2} (h : pair ≠ 0) : c.latchValid pair = c.twinV.valid := if_neg h

theorem Core.latchSame_S (c : Core) : c.latchSame 0 = decide (c.twinS.primary = c.twinS.twin) := rfl

theorem Core.latchSame_V (c : Core) {pair : BitVec 2} (h : pair ≠ 0) :
    c.latchSame pair = decide (c.twinV.primary = c.twinV.twin) := if_neg h

theorem Core.latchCleared_S (c : Core) : c.latchCleared 0 = { c with twinS := { c.twinS with valid := false } } := by
  simp [Core.latchCleared]

theorem Core.latchCleared_V (c : Core) {pair : BitVec 2} (h : pair ≠ 0) :
    c.latchCleared pair = { c with twinV := { c.twinV with valid := false } } := by
  simp only [Core.latchCleared, bne, beq_eq_false_iff_ne.2 h, Bool.not_false, Bool.and_true, Bool.and_false]

/-- Clearing a latch that is not valid changes nothing. -/
theorem Core.latchCleared_of_invalid {c : Core} {pair : BitVec 2} (h : c.latchValid pair = false) :
    c.latchCleared pair = c := by
  by_cases hp : pair = 0
  · subst hp
    rw [Core.latchValid_S] at h
    rw [Core.latchCleared_S, ← h]
  · rw [Core.latchValid_V c hp] at h
    rw [Core.latchCleared_V c hp, ← h]

/-- The core after CHK: the latch of its pair cleared, a mismatch of a valid latch caught. -/
def Core.chkDone (c : Core) (pair : BitVec 2) : Core :=
  if c.latchValid pair && !c.latchSame pair then (c.latchCleared pair).caught 2 cChkFail else c.latchCleared pair

/-- What CHK changes: the two valid bits and, on a mismatch, the rollback or the fatal fault. -/
theorem Core.chkDone_eq (c : Core) (pair : BitVec 2) : c.chkDone pair = { c.latchCleared pair with bound := { c.bound with
    rollback := if c.latchValid pair && !c.latchSame pair && decide (c.depth > 0) && c.bound.rollback.isNone then some 2
      else c.bound.rollback
    fatal := if c.latchValid pair && !c.latchSame pair && c.depth == 0 then c.bound.fatal ++ [cChkFail]
      else c.bound.fatal } } := by
  unfold Core.chkDone
  cases c.latchValid pair && !c.latchSame pair with
  | false => rfl
  | true => rw [if_pos rfl, Core.caught_eq]; rfl

/-- CHK looks at the latch of its pair alone, and clears it. -/
theorem execChk_runs {x : SChk} {s : State} (hon : s.core.active x.g = true) :
    exec (.chk x) s = .next ((s.flow .ran).onCore fun c => c.chkDone x.pair) := by
  show execChk x s = _
  rw [execChk, hon, State.slot_runs]
  congr 2
  funext c
  unfold Core.chkDone
  by_cases hp : x.pair = 0
  · rw [if_pos hp, hp, Core.latchValid_S, Core.latchSame_S]
    cases hv : c.twinS.valid with
    | false => exact (Core.latchCleared_of_invalid ((Core.latchValid_S c).trans hv)).symm
    | true => rw [Core.latchCleared_S]; simp
  · rw [if_neg hp, Core.latchValid_V c hp, Core.latchSame_V c hp]
    cases hv : c.twinV.valid with
    | false => exact (Core.latchCleared_of_invalid ((Core.latchValid_V c hp).trans hv)).symm
    | true => rw [Core.latchCleared_V c hp]; simp

/-- CHK changes the core alone. -/
theorem onCore_chkDone (s : State) (pair : BitVec 2) :
    (s.flow .ran).onCore (fun c => c.chkDone pair) = Safety.ranTo s (s.core.chkDone pair) := by
  simp only [Core.chkDone_eq]; rfl

end Sys2Proof.Machine

namespace Sys2Proof
open Machine

/-- Settles O1: an ALU slot sends f(s(a), B), and each table's f is the arithmetic the statement writes out. -/
theorem aluResults : Obligations.AluResults := by
  intro x s a b hon hfree ha hb
  have sends (f : Word → Word → Word) {v : Word} (hv : f a b = v) :
      s.execAlu x f = .next (Safety.sentS3 s x v 0 1) := State.execAlu_sends hon hfree ha hb hv
  exact ⟨sends (fun a b => a + b) rfl, sends (fun a b => a - b) rfl, sends (fun a b => a &&& b) rfl,
    sends (fun a b => a &&& ~~~b) rfl, sends (fun a b => a ||| b) rfl, sends (fun a b => a ^^^ b) rfl,
    sends (fun a b => a <<< (b.toNat % 64)) (shiftLeft_eq_ofNat a _),
    sends (fun a b => a >>> (b.toNat % 64)) (ushiftRight_eq_ofNat a _),
    sends (fun a b => a.sshiftRight (b.toNat % 64)) (sshiftRight_eq_ofInt a _),
    sends (fun a b => if a.slt b then b else a) (ite_slt_eq_ofInt_max a b),
    sends (fun a b => if b.slt a then b else a) (ite_slt_eq_ofInt_min a b)⟩

/-! ### BFX, BFI, CLZ, POPC, MOVI, LEA and SEL -/

theorem bfx_sends {x : S3} {s : State} (hon : s.core.active x.g = true) (hfree : Safety.freeS3 s.core x) :
    exec (.bfx x) s = .next (Safety.sentS3 s x (bfxWord (s.core.src 0 x.a) (s.core.opC x)) 0 1) := by
  show execBfx x s = _
  rw [execBfx, hon, State.execS3_sends _ _ _ _ _ _ hfree]; rfl

theorem bfi_sends {x : S3} {s : State} (hon : s.core.active x.g = true) (hfree : Safety.freeS3 s.core x)
    (hd : s.core.pending x.d = false) : exec (.bfi x) s =
      .next (Safety.sentS3 s x (bfiWord (s.core.src 2 x.d) (s.core.src 0 x.a) (s.core.opC x)) 0 1) := by
  show execBfi x s = _
  rw [execBfi, hon, State.execS3_old_sends _ _ _ _ hfree hd]; rfl

/-- SEL runs unless LOOPF suppresses it, and its predicate is the selector (R396). -/
theorem sel_sends {x : S3} {s : State} (hon : s.core.issue.suppressed = false) (hfree : Safety.freeS3 s.core x) :
    exec (.sel x) s = .next (Safety.sentS3 s x
      (if s.core.getQ x.g.q = !x.g.neg then s.core.src 0 x.a else s.core.opB x) 0 1) := by
  show execSel x s = _
  rw [execSel, hon, Bool.not_false, State.execS3_sends _ _ _ _ _ _ hfree]
  simp only [Bool.eq_not, ← bne_iff_ne]; rfl

theorem clz_sends {x : S2} {s : State} (hon : s.core.active x.g = true) (ha : s.core.pending x.a = false)
    (hd : s.core.pendingW x.d = false) : exec (.clz x) s = .next (Safety.sentS s x.dup x.d (BitVec.ofNat 64
      (if s.core.src 0 x.a = 0 then 64 else 63 - Nat.log2 (s.core.src 0 x.a).toNat))) :=
  State.execS2_sends (fun a => BitVec.ofNat 64 (clzFrom 64 a)) hon ha hd
    (congrArg (BitVec.ofNat 64) (clzFrom_eq _ (BitVec.isLt _)))

theorem popc_sends {x : S2} {s : State} (hon : s.core.active x.g = true) (ha : s.core.pending x.a = false)
    (hd : s.core.pendingW x.d = false) : exec (.popc x) s = .next (Safety.sentS s x.dup x.d (BitVec.ofNat 64
      ((List.range 64).filter fun k => (s.core.src 0 x.a).getLsbD k).length)) :=
  State.execS2_sends (fun a => BitVec.ofNat 64 (popcFrom 64 a)) hon ha hd
    (congrArg (BitVec.ofNat 64) (popcFrom_eq _ 64))

theorem movi_sends {x : SMovi} {s : State} {v : Word} (hon : s.core.active x.g = true)
    (hd : s.core.pendingW x.d = false) (hv : s.core.opMovi x = v) :
    exec (.movi x) s = .next (Safety.sentS s x.dup x.d v) := by
  subst hv
  exact congrArg _ (State.slot_sendS hon hd x.dup x.d fun c => c.opMovi x)

theorem lea_sends {x : SLea} {s : State} (hon : s.core.active x.g = true) (hbase : s.core.pending x.base = false)
    (hd : s.core.pendingW x.d = false) : exec (.lea x) s = .next (Safety.sentS s x.dup x.d
      (s.core.src 0 x.base + BitVec.ofInt 64 (Safety.offset s.core x.size x.off))) := by
  rw [← Core.opOff_eq]
  exact congrArg _ (State.slot_sendS hon (by rw [hbase, hd]; rfl) x.dup x.d fun c => c.src 0 x.base + c.opOff x.size x.off)

/-- Settles O3: each slot sends the model's word, whose bits or value are those of its rule. -/
theorem bitFieldAndMoveResults : Obligations.BitFieldAndMoveResults := by
  refine ⟨⟨?_, ?_⟩, ?_, ?_, ?_⟩
  · intro x s hon hfree ctl hctl pos len hpos hlen
    subst hctl
    exact ⟨⟨_, bfx_sends hon hfree, fun k hk => bfxWord_getLsbD _ _ hpos hlen hk⟩,
      fun hd => ⟨_, bfi_sends hon hfree hd, fun k hk => bfiWord_getLsbD _ _ _ hpos hlen hk⟩⟩
  · rintro x s hon ha hd _ rfl
    exact ⟨clz_sends hon ha hd, popc_sends hon ha hd⟩
  · exact fun x s hon hd => movi_sends hon hd (Core.opMovi_eq s.core x)
  · exact fun x s hon hbase hd => lea_sends hon hbase hd
  · exact fun x s hon hfree => sel_sends hon hfree

/-! ### CMP, PLOG and CHK -/

theorem cmp_sends {x : SCmp} {s : State} {b : Word} {v : Bool} (hon : s.core.active x.g = true)
    (ha : s.core.pending x.a = false) (hb : s.core.issue.ext = none → s.core.pending x.b = false)
    (hB : b = s.core.opCmp x) (hv : cmpCond x.cc (s.core.src 0 x.a) b = v) :
    exec (.cmp x) s = .next (Safety.sentQ s x.dup x.qd v) := by
  subst hB hv
  have hstall : (s.core.pending x.a || (s.core.issue.ext.isNone && s.core.pending x.b)) = false := by
    cases he : s.core.issue.ext with
    | none => rw [ha, hb he]; rfl
    | some e => rw [ha]; rfl
  exact congrArg _ (State.slot_sendQ hon hstall x.dup x.qd fun c => cmpCond x.cc (c.src 0 x.a) (c.opCmp x))

theorem plog_sends {x : SPlog} {s : State} (hon : s.core.active x.g = true) :
    exec (.plog x) s = .next (Safety.sentQ s x.dup x.qd
      (x.tt.getLsbD (2 * (s.core.getQ x.qa).toNat + (s.core.getQ x.qb).toNat))) := by
  rw [← plogTable_eq]
  exact congrArg _ (State.slot_sendQ hon rfl x.dup x.qd fun c => plogTable x.tt (c.getQ x.qa) (c.getQ x.qb))

/-- Settles O4: CMP and PLOG send the bit of their tables, and CHK leaves the state of `Core.chkDone_eq`. -/
theorem predicateResults : Obligations.PredicateResults := by
  refine ⟨⟨?_, fun x s hon => plog_sends hon⟩, ?_⟩
  · rintro x s hon ha hb - _ b rfl hB
    exact cmp_sends hon ha hb (hB.trans (Core.opCmp_eq s.core x).symm) (cmpCond_eq x.cc (s.core.src 0 x.a) b)
  · intro x s hon _ valid same
    refine ⟨_, (execChk_runs hon).trans (congrArg _ (onCore_chkDone s x.pair)), ?_⟩
    rw [Core.chkDone_eq]
    exact ⟨rfl, rfl, rfl, rfl, rfl⟩

end Sys2Proof
end

section
/-! PROOFS. Multiplication and division of the S class: MUL and MULH send a product, DIV and REM send a quotient or a
remainder when their divider is free and trap at issue when it is not. From these the statement MulDivResults. -/

namespace Sys2Proof.Machine

/-! ### The words of MUL and REM as signed arithmetic (R379, R382) -/

theorem mul_eq_ofInt (a b : Word) : a * b = BitVec.ofInt 64 (a.toInt * b.toInt) := by
  rw [BitVec.ofInt_mul, BitVec.ofInt_toInt, BitVec.ofInt_toInt]

theorem remWord_eq (a b : Word) :
    remWord a b = if b = 0 then a else BitVec.ofInt 64 (a.toInt - b.toInt * a.toInt.tdiv b.toInt) := by
  rw [remWord, Int.tmod_def]

/-! ### What a divider slot can do (R255, R336) -/

/-- A DIV or REM that is on, finds its registers and a free divider sends its result with latency 20, and holds the
divider for as long. -/
theorem State.execDivide_sends {s : State} {x : S3} (f : Word → Word → Word) (hon : s.core.active x.g = true)
    (hfree : Safety.freeS3 s.core x) (hidle : s.core.divBusy x.dup = false) :
    s.execDivide x f = .next (Safety.sentS3 s x (f (s.core.src 0 x.a) (s.core.opB x)) 2 20 true) := by
  rw [State.execDivide, hon, hidle, firstBad_false, firstBad_nil, State.execS3_sends _ _ _ _ _ _ hfree]

/-- A DIV or REM that is on traps at issue while its divider holds a result in flight, whatever else it waits for. -/
theorem State.execDivide_traps {s : State} {x : S3} (f : Word → Word → Word) (hon : s.core.active x.g = true)
    (hbusy : s.core.divBusy x.dup = true) (hissue : s.core.issue.checked = false) :
    s.execDivide x f = .next (s.trapAt cDivBusy s.core.issue.slot) := by
  rw [State.execDivide, hon, hbusy, firstBad_true, State.execS3, State.slot_traps hissue]

/-! ### MUL, MULH, DIV and REM -/

theorem mul_sends {x : S3} {s : State} (hon : s.core.active x.g = true) (hfree : Safety.freeS3 s.core x) :
    exec (.mul x) s = .next (Safety.sentS3 s x
      (BitVec.ofInt 64 ((s.core.src 0 x.a).toInt * (s.core.opB x).toInt)) 1 3) := by
  show execMul x s = _
  rw [execMul, hon, State.execS3_sends _ _ _ _ _ _ hfree, mul_eq_ofInt]

theorem mulh_sends {x : S3} {s : State} (hon : s.core.active x.g = true) (hfree : Safety.freeS3 s.core x) :
    exec (.mulh x) s = .next (Safety.sentS3 s x
      (BitVec.ofInt 64 ((s.core.src 0 x.a).toInt * (s.core.opB x).toInt / 2 ^ 64)) 1 3) := by
  show execMulh x s = _
  rw [execMulh, hon, State.execS3_sends _ _ _ _ _ _ hfree]

end Sys2Proof.Machine

namespace Sys2Proof
open Machine

/-- Settles O2: a multiplication sends its product; DIV and REM share one divider slot, which sends or traps. -/
theorem mulDivResults : Obligations.MulDivResults := by
  rintro x s _ _ hon hfree rfl rfl
  refine ⟨mul_sends hon hfree, mulh_sends hon hfree, fun hidle => ⟨?_, ?_⟩, fun hbusy hissue => ⟨?_, ?_⟩⟩
  · exact State.execDivide_sends divWord hon hfree hidle
  · rw [← remWord_eq]
    exact State.execDivide_sends remWord hon hfree hidle
  · exact State.execDivide_traps divWord hon hbusy hissue
  · exact State.execDivide_traps remWord hon hbusy hissue

end Sys2Proof
end

section
/-! PROOFS. Encoding and decoding: the fields of a word and the words of fields, the law of each operand form, and the rows
of the decoder in both directions. From these the statement EncodingRoundTrip. -/

namespace Sys2Proof

/-! ### Fields of a word of any width -/

/-- A field put at bit `lo` of a word. -/
def place {n : Nat} (W : Nat) (x : BitVec n) (lo : Nat) : BitVec W := x.setWidth W <<< lo

/-- The bits of a field of n bits at `lo`. -/
def placeBits (W lo n : Nat) : BitVec W := place W (BitVec.allOnes n) lo

theorem getLsbD_place {n : Nat} (W : Nat) (x : BitVec n) (lo k : Nat) :
    (place W x lo).getLsbD k = (decide (k < W) && !decide (k < lo) && x.getLsbD (k - lo)) := by
  have hk : k < W → k - lo < W := by omega
  by_cases h : k < W <;> simp [place, h, hk]

theorem placeBits_eq (W lo n : Nat) : placeBits W lo n = (BitVec.allOnes n).setWidth W <<< lo := rfl

theorem getElem_place {n W k : Nat} (x : BitVec n) (lo : Nat) (h : k < W) :
    (place W x lo)[k] = (!decide (k < lo) && x.getLsbD (k - lo)) := by
  rw [← BitVec.getLsbD_eq_getElem, getLsbD_place]; simp [h]

/-- A field of a word, put back, is the word's bits there. -/
theorem place_extract {W : Nat} (w : BitVec W) (lo n : Nat) : place W (w.extractLsb' lo n) lo = w &&& placeBits W lo n := by
  refine BitVec.eq_of_getLsbD_eq fun k hk => ?_
  rw [BitVec.getLsbD_and, placeBits, getLsbD_place, getLsbD_place, BitVec.getLsbD_extractLsb', BitVec.getLsbD_allOnes]
  by_cases h : k < lo
  · simp [h]
  · rw [Nat.add_sub_cancel' (Nat.not_lt.1 h)]
    cases w.getLsbD k <;> simp [h, hk]

theorem extract_place {n W : Nat} (x : BitVec n) (lo : Nat) (h : lo + n ≤ W) : (place W x lo).extractLsb' lo n = x := by
  refine BitVec.eq_of_getLsbD_eq fun k hk => ?_
  have h2 : lo + k < W := by omega
  rw [BitVec.getLsbD_extractLsb', getLsbD_place]; simp [hk, h2]

theorem extract_place_other {m W : Nat} (x : BitVec m) (lo' lo n : Nat) (h : lo + n ≤ lo' ∨ lo' + m ≤ lo) :
    (place W x lo').extractLsb' lo n = 0#n := by
  refine BitVec.eq_of_getLsbD_eq fun k hk => ?_
  rw [BitVec.getLsbD_extractLsb', getLsbD_place, BitVec.getLsbD_zero]
  rcases h with h | h
  · simp [show lo + k < lo' by omega]
  · simp [BitVec.getLsbD_of_ge x (lo + k - lo') (by omega)]

/-- A placed field has no bits outside its place. -/
theorem place_and {n W : Nat} (x : BitVec n) (lo : Nat) {m : BitVec W} (hn : lo + n ≤ W) (h : placeBits W lo n &&& m = 0#W) :
    place W x lo &&& m = 0#W := by
  have hx : place W x lo &&& placeBits W lo n = place W x lo := by rw [← place_extract, extract_place x lo hn]
  rw [← hx, BitVec.and_assoc, h, BitVec.and_zero]

/-- A flag is a field of one bit. -/
theorem ofBool_getLsbD {W : Nat} (w : BitVec W) (k : Nat) : BitVec.ofBool (w.getLsbD k) = w.extractLsb' k 1 := by
  refine BitVec.eq_of_getLsbD_eq fun j hj => ?_
  obtain rfl : j = 0 := by omega
  rw [BitVec.getLsbD_ofBool, BitVec.getLsbD_extractLsb']; simp

theorem getLsbD_eq_extract {W : Nat} (w : BitVec W) (k : Nat) : w.getLsbD k = (w.extractLsb' k 1).getLsbD 0 := by
  rw [BitVec.getLsbD_extractLsb']; rfl

/-! ### Fields and flags of a slot word -/

theorem flag_eq (w : SlotWord) (k : Nat) : flag w k = (fld w k 1).getLsbD 0 := getLsbD_eq_extract w k

theorem putFld_fld (w : SlotWord) (lo n : Nat) : putFld (fld w lo n) lo = w &&& placeBits 32 lo n := place_extract w lo n

theorem putFlag_flag (w : SlotWord) (k : Nat) : putFlag (flag w k) k = w &&& placeBits 32 k 1 :=
  (congrArg (place 32 · k) (ofBool_getLsbD w k)).trans (place_extract w k 1)

@[simp] theorem fld_or (v w : SlotWord) (lo n : Nat) : fld (v ||| w) lo n = fld v lo n ||| fld w lo n := BitVec.extractLsb'_or ..

@[simp] theorem flag_or (v w : SlotWord) (k : Nat) : flag (v ||| w) k = (flag v k || flag w k) := BitVec.getLsbD_or ..

@[simp] theorem fld_putFld {n : Nat} (x : BitVec n) (lo : Nat) (h : lo + n ≤ 32) : fld (putFld x lo) lo n = x := extract_place x lo h

@[simp] theorem fld_putFld_other {m : Nat} (x : BitVec m) (lo' lo n : Nat) (h : lo + n ≤ lo' ∨ lo' + m ≤ lo) :
    fld (putFld x lo') lo n = 0#n := extract_place_other x lo' lo n h

@[simp] theorem fld_putFlag_other (b : Bool) (k lo n : Nat) (h : lo + n ≤ k ∨ k < lo) : fld (putFlag b k) lo n = 0#n :=
  fld_putFld_other _ k lo n h

@[simp] theorem flag_putFlag (b : Bool) (k : Nat) (h : k < 32) : flag (putFlag b k) k = b := by
  rw [flag_eq]
  exact (congrArg (BitVec.getLsbD · 0) (fld_putFld (BitVec.ofBool b) k h)).trans (by cases b <;> rfl)

@[simp] theorem flag_putFld_other {m : Nat} (x : BitVec m) (lo' k : Nat) (h : k < lo' ∨ lo' + m ≤ k) :
    flag (putFld x lo') k = false := by
  rw [flag_eq, fld_putFld_other x lo' k 1 h]; rfl

@[simp] theorem flag_putFlag_other (b : Bool) (k' k : Nat) (h : k ≠ k') : flag (putFlag b k') k = false :=
  flag_putFld_other _ k' k (by omega)

/-! ### Forms -/

/-- The bits of a word's major (R69). -/
theorem and_majorBits (w : SlotWord) : w &&& 0xFE000000#32 = putFld (fld w 25 7) 25 := by
  rw [putFld_fld]; rfl


/-- What ties the two directions of a form together: its fields come back from the word they are put into, and a word's
fields put back are exactly the form's bits of it. -/
structure FormLaw {α : Type} (get : SlotWord → α) (put : α → SlotWord) (bits : SlotWord) : Prop where
  get_put : ∀ x, get (put x) = x
  put_get : ∀ w, put (get w) = w &&& bits

section
variable {α : Type} {get : SlotWord → α} {put : α → SlotWord} {bits : SlotWord} (law : FormLaw get put bits)
include law

theorem FormLaw.put_and (x : α) : put x &&& bits = put x := by
  rw [← law.put_get, law.get_put]

/-- The bits outside a form are those of the row. -/
theorem FormLaw.or_put_and (x : α) {v m : SlotWord} (h : bits &&& m = 0#32) : (v ||| put x) &&& m = v &&& m := by
  rw [← law.put_and x, BitVec.and_or_distrib_right, BitVec.and_assoc, h, BitVec.and_zero, BitVec.or_zero]

theorem FormLaw.get_or_put (x : α) {v : SlotWord} (h : v &&& bits = 0#32) : get (v ||| put x) = x := by
  have hput : put (get (v ||| put x)) = put x := by
    rw [law.put_get, BitVec.and_or_distrib_right, h, law.put_and, BitVec.zero_or]
  rw [← law.get_put (get (v ||| put x)), hput, law.get_put]
/-- The major of a row's word is the row's. -/
theorem FormLaw.major_or_put (x : α) {v : SlotWord} (h : bits &&& 0xFE000000#32 = 0#32) :
    (v ||| put x).extractLsb' 25 7 = v.extractLsb' 25 7 := by
  have hand := law.or_put_and x (v := v) h
  have hfld (w : SlotWord) : w.extractLsb' 25 7 = fld (w &&& 0xFE000000#32) 25 7 := by
    rw [and_majorBits, fld_putFld _ _ (by decide)]; rfl
  rw [hfld, hfld v, hand]
end

/-- A word is made of its major, its row's bits, and its form's fields. -/
theorem word_of_parts {w mask value bits v : SlotWord} {k : Nat} (hk : (w.extractLsb' 25 7).toNat = k) (hm : w &&& mask = value)
    (hv : BitVec.ofNat 32 k <<< 25 ||| value = v) (hcov : 0xFE000000#32 ||| mask ||| bits = BitVec.allOnes 32) :
    v ||| (w &&& bits) = w := by
  have h : w &&& 0xFE000000#32 = BitVec.ofNat 32 k <<< 25 := by
    rw [← hk, and_majorBits, BitVec.ofNat_toNat]; rfl
  rw [← hv, ← h, ← hm, ← BitVec.and_or_distrib_left, ← BitVec.and_or_distrib_left, hcov, BitVec.and_allOnes]

/-! ### The law of each form (R77 to R82) -/

theorem guardLaw : FormLaw getGuard putGuard 0x01F00000#32 where
  get_put x := by simp [getGuard, putGuard]
  put_get w := by simp only [getGuard, putGuard, putFld_fld, putFlag_flag, ← BitVec.and_or_distrib_left]; rfl

theorem s3Law : FormLaw getS3 putS3 0x01FFFFFF#32 where
  get_put x := by simp [getS3, putS3, getGuard, putGuard]
  put_get w := by simp only [getS3, putS3, getGuard, putGuard, putFld_fld, putFlag_flag, ← BitVec.and_or_distrib_left]; rfl

theorem s2Law : FormLaw getS2 putS2 0x01FFFF80#32 where
  get_put x := by simp [getS2, putS2, getGuard, putGuard]
  put_get w := by simp only [getS2, putS2, getGuard, putGuard, putFld_fld, putFlag_flag, ← BitVec.and_or_distrib_left]; rfl

theorem scmpLaw : FormLaw getSCmp putSCmp 0x01FFFFFF#32 where
  get_put x := by simp [getSCmp, putSCmp, getGuard, putGuard]
  put_get w := by simp only [getSCmp, putSCmp, getGuard, putGuard, putFld_fld, putFlag_flag, ← BitVec.and_or_distrib_left]; rfl

theorem splogLaw : FormLaw getSPlog putSPlog 0x01FFFFF8#32 where
  get_put x := by simp [getSPlog, putSPlog, getGuard, putGuard]
  put_get w := by simp only [getSPlog, putSPlog, getGuard, putGuard, putFld_fld, putFlag_flag, ← BitVec.and_or_distrib_left]; rfl

theorem smoviLaw : FormLaw getSMovi putSMovi 0x01FFFFFF#32 where
  get_put x := by simp [getSMovi, putSMovi, getGuard, putGuard]
  put_get w := by simp only [getSMovi, putSMovi, getGuard, putGuard, putFld_fld, putFlag_flag, ← BitVec.and_or_distrib_left]; rfl

theorem smemLaw : FormLaw getSMem putSMem 0x01F7FFFF#32 where
  get_put x := by simp [getSMem, putSMem, getGuard, putGuard]
  put_get w := by simp only [getSMem, putSMem, getGuard, putGuard, putFld_fld, putFlag_flag, ← BitVec.and_or_distrib_left]; rfl

theorem sleaLaw : FormLaw getSLea putSLea 0x01FFFFBF#32 where
  get_put x := by simp [getSLea, putSLea, getGuard, putGuard]
  put_get w := by simp only [getSLea, putSLea, getGuard, putGuard, putFld_fld, putFlag_flag, ← BitVec.and_or_distrib_left]; rfl

theorem schkLaw : FormLaw getSChk putSChk 0x01F60000#32 where
  get_put x := by simp [getSChk, putSChk, getGuard, putGuard]
  put_get w := by simp only [getSChk, putSChk, getGuard, putGuard, putFld_fld, putFlag_flag, ← BitVec.and_or_distrib_left]; rfl

theorem v3Law : FormLaw getV3 putV3 0x01FFFFFF#32 where
  get_put x := by simp [getV3, putV3, getMask, putMask]
  put_get w := by simp only [getV3, putV3, getMask, putMask, putFld_fld, putFlag_flag, ← BitVec.and_or_distrib_left]; rfl

theorem v2Law : FormLaw getV2 putV2 0x01FFFC1F#32 where
  get_put x := by simp [getV2, putV2, getMask, putMask]
  put_get w := by simp only [getV2, putV2, getMask, putMask, putFld_fld, putFlag_flag, ← BitVec.and_or_distrib_left]; rfl

theorem vrLaw : FormLaw getVR putVR 0x01FFFFFF#32 where
  get_put x := by simp [getVR, putVR, getMask, putMask]
  put_get w := by simp only [getVR, putVR, getMask, putMask, putFld_fld, putFlag_flag, ← BitVec.and_or_distrib_left]; rfl

theorem vsLaw : FormLaw getVS putVS 0x01FFFE1F#32 where
  get_put x := by simp [getVS, putVS, getMask, putMask]
  put_get w := by simp only [getVS, putVS, getMask, putMask, putFld_fld, putFlag_flag, ← BitVec.and_or_distrib_left]; rfl

theorem vcLaw : FormLaw getVC putVC 0x01FFFFFF#32 where
  get_put x := by simp [getVC, putVC, getMask, putMask]
  put_get w := by simp only [getVC, putVC, getMask, putMask, putFld_fld, putFlag_flag, ← BitVec.and_or_distrib_left]; rfl

theorem vcvLaw : FormLaw getVCv putVCv 0x01FFFFFF#32 where
  get_put x := by simp [getVCv, putVCv, getMask, putMask]
  put_get w := by simp only [getVCv, putVCv, getMask, putMask, putFld_fld, putFlag_flag, ← BitVec.and_or_distrib_left]; rfl

theorem vmemLaw : FormLaw getVMem putVMem 0x01EFBFFF#32 where
  get_put x := by simp [getVMem, putVMem, getMask, putMask]
  put_get w := by simp only [getVMem, putVMem, getMask, putMask, putFld_fld, putFlag_flag, ← BitVec.and_or_distrib_left]; rfl

theorem vstrLaw : FormLaw getVStr putVStr 0x01EF8700#32 where
  get_put x := by simp [getVStr, putVStr, getMask, putMask]
  put_get w := by simp only [getVStr, putVStr, getMask, putMask, putFld_fld, putFlag_flag, ← BitVec.and_or_distrib_left]; rfl

theorem vxLaw : FormLaw getVX putVX 0x01EFFFFC#32 where
  get_put x := by simp [getVX, putVX, getMask, putMask]
  put_get w := by simp only [getVX, putVX, getMask, putMask, putFld_fld, putFlag_flag, ← BitVec.and_or_distrib_left]; rfl

theorem vkLaw : FormLaw getVK putVK 0x01FFFFFF#32 where
  get_put x := by simp [getVK, putVK, getMask, putMask]
  put_get w := by simp only [getVK, putVK, getMask, putMask, putFld_fld, putFlag_flag, ← BitVec.and_or_distrib_left]; rfl

theorem vgLaw : FormLaw getVG putVG 0x001FFFF0#32 where
  get_put x := by simp [getVG, putVG]
  put_get w := by simp only [getVG, putVG, putFld_fld, putFlag_flag, ← BitVec.and_or_distrib_left]; rfl

theorem gregLaw : FormLaw getGReg putGReg 0x01F0FC00#32 where
  get_put x := by simp [getGReg, putGReg, getGuard, putGuard]
  put_get w := by simp only [getGReg, putGReg, getGuard, putGuard, putFld_fld, putFlag_flag, ← BitVec.and_or_distrib_left]; rfl

theorem greg2Law : FormLaw getGReg2 putGReg2 0x01F0FFF0#32 where
  get_put x := by simp [getGReg2, putGReg2, getGuard, putGuard]
  put_get w := by simp only [getGReg2, putGReg2, getGuard, putGuard, putFld_fld, putFlag_flag, ← BitVec.and_or_distrib_left]; rfl

theorem mbankLaw : FormLaw getMBank putMBank 0x01F60000#32 where
  get_put x := by simp [getMBank, putMBank, getGuard, putGuard]
  put_get w := by simp only [getMBank, putMBank, getGuard, putGuard, putFld_fld, putFlag_flag, ← BitVec.and_or_distrib_left]; rfl

theorem mcallFLaw : FormLaw getMCallF putMCallF 0x01F7FFEF#32 where
  get_put x := by simp [getMCallF, putMCallF, getGuard, putGuard]
  put_get w := by simp only [getMCallF, putMCallF, getGuard, putGuard, putFld_fld, putFlag_flag, ← BitVec.and_or_distrib_left]; rfl

theorem mcompFLaw : FormLaw getMCompF putMCompF 0x01F7FFFF#32 where
  get_put x := by simp [getMCompF, putMCompF, getGuard, putGuard]
  put_get w := by simp only [getMCompF, putMCompF, getGuard, putGuard, putFld_fld, putFlag_flag, ← BitVec.and_or_distrib_left]; rfl

theorem mloadFLaw : FormLaw getMLoadF putMLoadF 0x01F7FFE0#32 where
  get_put x := by simp [getMLoadF, putMLoadF, getGuard, putGuard]
  put_get w := by simp only [getMLoadF, putMLoadF, getGuard, putGuard, putFld_fld, putFlag_flag, ← BitVec.and_or_distrib_left]; rfl

theorem scldFLaw : FormLaw getScldF putScldF 0x01F7FC00#32 where
  get_put x := by simp [getScldF, putScldF, getGuard, putGuard]
  put_get w := by simp only [getScldF, putScldF, getGuard, putGuard, putFld_fld, putFlag_flag, ← BitVec.and_or_distrib_left]; rfl

theorem tdsetFLaw : FormLaw getTdsetF putTdsetF 0x01F7FFE0#32 where
  get_put x := by simp [getTdsetF, putTdsetF, getGuard, putGuard]
  put_get w := by simp only [getTdsetF, putTdsetF, getGuard, putGuard, putFld_fld, putFlag_flag, ← BitVec.and_or_distrib_left]; rfl

theorem cbAdvFLaw : FormLaw getCbAdvF putCbAdvF 0x01F79F80#32 where
  get_put x := by simp [getCbAdvF, putCbAdvF, getGuard, putGuard]
  put_get w := by simp only [getCbAdvF, putCbAdvF, getGuard, putGuard, putFld_fld, putFlag_flag, ← BitVec.and_or_distrib_left]; rfl

theorem cbWaitFLaw : FormLaw getCbWaitF putCbWaitF 0x01F7DFC0#32 where
  get_put x := by simp [getCbWaitF, putCbWaitF, getGuard, putGuard]
  put_get w := by simp only [getCbWaitF, putCbWaitF, getGuard, putGuard, putFld_fld, putFlag_flag, ← BitVec.and_or_distrib_left]; rfl

theorem kaqFLaw : FormLaw getKaqF putKaqF 0x01F7FFFC#32 where
  get_put x := by simp [getKaqF, putKaqF, getGuard, putGuard]
  put_get w := by simp only [getKaqF, putKaqF, getGuard, putGuard, putFld_fld, putFlag_flag, ← BitVec.and_or_distrib_left]; rfl

theorem kbarFLaw : FormLaw getKBarF putKBarF 0x01F70000#32 where
  get_put x := by simp [getKBarF, putKBarF, getGuard, putGuard]
  put_get w := by simp only [getKBarF, putKBarF, getGuard, putGuard, putFld_fld, putFlag_flag, ← BitVec.and_or_distrib_left]; rfl

theorem kbindFLaw : FormLaw getKBindF putKBindF 0x01F7FC00#32 where
  get_put x := by simp [getKBindF, putKBindF, getGuard, putGuard]
  put_get w := by simp only [getKBindF, putKBindF, getGuard, putGuard, putFld_fld, putFlag_flag, ← BitVec.and_or_distrib_left]; rfl

theorem cmdLaw : FormLaw getCmd putCmd 0x01F7FFFC#32 where
  get_put x := by simp [getCmd, putCmd, getGuard, putGuard]
  put_get w := by simp only [getCmd, putCmd, getGuard, putGuard, putFld_fld, putFlag_flag, ← BitVec.and_or_distrib_left]; rfl

theorem kdqFLaw : FormLaw getKdqF putKdqF 0x01F7FC00#32 where
  get_put x := by simp [getKdqF, putKdqF, getGuard, putGuard]
  put_get w := by simp only [getKdqF, putKdqF, getGuard, putGuard, putFld_fld, putFlag_flag, ← BitVec.and_or_distrib_left]; rfl

theorem tlSetFLaw : FormLaw getTlSetF putTlSetF 0x01F7FFC0#32 where
  get_put x := by simp [getTlSetF, putTlSetF, getGuard, putGuard]
  put_get w := by simp only [getTlSetF, putTlSetF, getGuard, putGuard, putFld_fld, putFlag_flag, ← BitVec.and_or_distrib_left]; rfl

theorem brFLaw : FormLaw getBrF putBrF 0x01F7FFFF#32 where
  get_put x := by simp [getBrF, putBrF, getGuard, putGuard]
  put_get w := by simp only [getBrF, putBrF, getGuard, putGuard, putFld_fld, putFlag_flag, ← BitVec.and_or_distrib_left]; rfl

theorem jmpFLaw : FormLaw getJmpF putJmpF 0x01F07FFF#32 where
  get_put x := by simp [getJmpF, putJmpF, getGuard, putGuard]
  put_get w := by simp only [getJmpF, putJmpF, getGuard, putGuard, putFld_fld, putFlag_flag, ← BitVec.and_or_distrib_left]; rfl

theorem loopFLaw : FormLaw getLoopF putLoopF 0x01F0FFFF#32 where
  get_put x := by simp [getLoopF, putLoopF, getGuard, putGuard]
  put_get w := by simp only [getLoopF, putLoopF, getGuard, putGuard, putFld_fld, putFlag_flag, ← BitVec.and_or_distrib_left]; rfl

theorem lcntFLaw : FormLaw getLcntF putLcntF 0x01F0FFFE#32 where
  get_put x := by simp [getLcntF, putLcntF, getGuard, putGuard]
  put_get w := by simp only [getLcntF, putLcntF, getGuard, putGuard, putFld_fld, putFlag_flag, ← BitVec.and_or_distrib_left]; rfl

theorem imm16FLaw : FormLaw getImm16F putImm16F 0x01F0FFFF#32 where
  get_put x := by simp [getImm16F, putImm16F, getGuard, putGuard]
  put_get w := by simp only [getImm16F, putImm16F, getGuard, putGuard, putFld_fld, putFlag_flag, ← BitVec.and_or_distrib_left]; rfl

theorem syncFLaw : FormLaw getSyncF putSyncF 0x01F0FF80#32 where
  get_put x := by simp [getSyncF, putSyncF, getGuard, putGuard]
  put_get w := by simp only [getSyncF, putSyncF, getGuard, putGuard, putFld_fld, putFlag_flag, ← BitVec.and_or_distrib_left]; rfl

theorem fenceFLaw : FormLaw getFenceF putFenceF 0x01F00380#32 where
  get_put x := by simp [getFenceF, putFenceF, getGuard, putGuard]
  put_get w := by simp only [getFenceF, putFenceF, getGuard, putGuard, putFld_fld, putFlag_flag, ← BitVec.and_or_distrib_left]; rfl

theorem dbarFLaw : FormLaw getDbarF putDbarF 0x01F0C000#32 where
  get_put x := by simp [getDbarF, putDbarF, getGuard, putGuard]
  put_get w := by simp only [getDbarF, putDbarF, getGuard, putGuard, putFld_fld, putFlag_flag, ← BitVec.and_or_distrib_left]; rfl

theorem rkeepFLaw : FormLaw getRkeepF putRkeepF 0x01F0FFC0#32 where
  get_put x := by simp [getRkeepF, putRkeepF, getGuard, putGuard]
  put_get w := by simp only [getRkeepF, putRkeepF, getGuard, putGuard, putFld_fld, putFlag_flag, ← BitVec.and_or_distrib_left]; rfl

theorem einjFLaw : FormLaw getEinjF putEinjF 0x01F0FFC0#32 where
  get_put x := by simp [getEinjF, putEinjF, getGuard, putGuard]
  put_get w := by simp only [getEinjF, putEinjF, getGuard, putGuard, putFld_fld, putFlag_flag, ← BitVec.and_or_distrib_left]; rfl

theorem launchFLaw : FormLaw getLaunchF putLaunchF 0x01F0FFF0#32 where
  get_put x := by simp [getLaunchF, putLaunchF, getGuard, putGuard]
  put_get w := by simp only [getLaunchF, putLaunchF, getGuard, putGuard, putFld_fld, putFlag_flag, ← BitVec.and_or_distrib_left]; rfl

theorem ctlFLaw : FormLaw getCtlF putCtlF 0x01F0FFFF#32 where
  get_put x := by simp [getCtlF, putCtlF, getGuard, putGuard]
  put_get w := by simp only [getCtlF, putCtlF, getGuard, putGuard, putFld_fld, putFlag_flag, ← BitVec.and_or_distrib_left]; rfl

/-- A form with one register at another place: [14:9] in JMP and CALL, [18:13] in HSTRD. -/
theorem gRegAt9Law : FormLaw (getGRegAt · 9) (putGRegAt · 9) 0x01F07E00#32 where
  get_put x := by simp [getGRegAt, putGRegAt, getGuard, putGuard]
  put_get w := by simp only [getGRegAt, putGRegAt, getGuard, putGuard, putFld_fld, putFlag_flag, ← BitVec.and_or_distrib_left]; rfl

theorem gRegAt13Law : FormLaw (getGRegAt · 13) (putGRegAt · 13) 0x01F7E000#32 where
  get_put x := by simp [getGRegAt, putGRegAt, getGuard, putGuard]
  put_get w := by simp only [getGRegAt, putGRegAt, getGuard, putGuard, putFld_fld, putFlag_flag, ← BitVec.and_or_distrib_left]; rfl

/-- A word that agrees with `v` outside a form is not of a row whose bits differ from those of `v` there. -/
theorem and_ne_of_agree {w v bits : SlotWord} (hagree : ∀ m, bits &&& m = 0#32 → w &&& m = v &&& m) (m value : SlotWord)
    (h : v &&& (m &&& ~~~bits) ≠ value &&& ~~~bits) : (w &&& m = value) = False := by
  refine eq_false fun e => h ?_
  rw [← e, BitVec.and_assoc, hagree]
  rw [BitVec.and_comm m, ← BitVec.and_assoc, BitVec.and_not_self]; exact BitVec.zero_and

section
variable {α : Type} {get : SlotWord → α} {put : α → SlotWord} {bits : SlotWord} (law : FormLaw get put bits)
include law

/-- A word made of a row's bits `v` and a form's fields decodes to the row's instruction, when the arm of the row's major does
so for every word that agrees with `v` outside the form. -/
theorem FormLaw.rawDecode_row {v : SlotWord} {c : α → Instr} (x : α)
    (hrow : ∀ w, w.extractLsb' 25 7 = v.extractLsb' 25 7 → (∀ m, bits &&& m = 0#32 → w &&& m = v &&& m) →
      rawDecode w = .ok (c (get w)))
    (hmajor : bits &&& 0xFE000000#32 = 0#32) (hbits : v &&& bits = 0#32) : rawDecode (v ||| put x) = .ok (c x) := by
  rw [hrow _ (law.major_or_put x hmajor) fun m hm => law.or_put_and x hm, law.get_or_put x hbits]

/-- A major with one row, and no zero bits. -/
theorem FormLaw.plain {v : SlotWord} {c : α → Instr} (x : α)
    (hrow : ∀ w : SlotWord, w.extractLsb' 25 7 = v.extractLsb' 25 7 → rawDecode w = .ok (c (get w)) := by
      intro w hk; unfold rawDecode; rewrite [hk]; rfl)
    (hmajor : bits &&& 0xFE000000#32 = 0#32 := by decide) (hbits : v &&& bits = 0#32 := by decide) :
    rawDecode (v ||| put x) = .ok (c x) :=
  law.rawDecode_row x (fun w hk _ => hrow w hk) hmajor hbits

/-- A major with one row, and zero bits. -/
theorem FormLaw.needs {v mask : SlotWord} {c : α → Instr} (x : α)
    (hrow : ∀ w : SlotWord, w.extractLsb' 25 7 = v.extractLsb' 25 7 → rawDecode w = need w mask 0 (c (get w)) := by
      intro w hk; unfold rawDecode; rewrite [hk]; rfl)
    (hmajor : bits &&& 0xFE000000#32 = 0#32 := by decide) (hbits : v &&& bits = 0#32 := by decide)
    (hmask : bits &&& mask = 0#32 := by decide) (hzero : v &&& mask = 0#32 := by decide) :
    rawDecode (v ||| put x) = .ok (c x) :=
  law.rawDecode_row x (fun w hk hm => (hrow w hk).trans (if_pos ((hm mask hmask).trans hzero))) hmajor hbits

/-- A major with several rows. -/
theorem FormLaw.rows {v : SlotWord} {c : α → Instr} (x : α)
    (hrow : ∀ w : SlotWord, w.extractLsb' 25 7 = v.extractLsb' 25 7 → (∀ m, bits &&& m = 0#32 → w &&& m = v &&& m) →
      rawDecode w = .ok (c (get w)) := by
      intro w hk hm; unfold rawDecode; rewrite [hk]; show firstRow w _ = _
      simp only [firstRow, hm, and_ne_of_agree hm, BitVec.ofNat_eq_ofNat, BitVec.reduceAnd, BitVec.reduceNot,
        BitVec.reduceEq, ne_eq, not_false_eq_true, reduceIte])
    (hmajor : bits &&& 0xFE000000#32 = 0#32 := by decide) (hbits : v &&& bits = 0#32 := by decide) :
    rawDecode (v ||| put x) = .ok (c x) :=
  law.rawDecode_row x hrow hmajor hbits
end

/-- The word of a slot operation names its row, and its fields come back (R69, R83). -/
theorem rawDecode_encode {i : Instr} {w : SlotWord} (h : encode i = some w) : rawDecode w = .ok i := by
  cases i with
  | add x => cases h; exact s3Law.plain x
  | and x => cases h; exact s3Law.plain x
  | andn x => cases h; exact s3Law.plain x
  | atom x => cases h; exact smemLaw.needs x
  | bfi x => cases h; exact s3Law.plain x
  | bfx x => cases h; exact s3Law.plain x
  | cas x => cases h; exact smemLaw.needs x
  | chk x => cases h; exact schkLaw.needs x
  | clz x => cases h; exact s2Law.needs x
  | cmp x => cases h; exact scmpLaw.plain x
  | div x => cases h; exact s3Law.plain x
  | ld x => cases h; exact smemLaw.needs x
  | lea x => cases h; exact sleaLaw.needs x
  | max x => cases h; exact s3Law.plain x
  | min x => cases h; exact s3Law.plain x
  | movi x => cases h; exact smoviLaw.plain x
  | mul x => cases h; exact s3Law.plain x
  | mulh x => cases h; exact s3Law.plain x
  | or x => cases h; exact s3Law.plain x
  | plog x => cases h; exact splogLaw.needs x
  | popc x => cases h; exact s2Law.needs x
  | rem x => cases h; exact s3Law.plain x
  | sar x => cases h; exact s3Law.plain x
  | sel x => cases h; exact s3Law.plain x
  | shl x => cases h; exact s3Law.plain x
  | shr x => cases h; exact s3Law.plain x
  | st x => cases h; exact smemLaw.needs x
  | sub x => cases h; exact s3Law.plain x
  | xor x => cases h; exact s3Law.plain x
  | vabs x => cases h; exact v2Law.needs x
  | vadd x => cases h; exact v3Law.plain x
  | vbcast x => cases h; exact vsLaw.needs x
  | vcmp x => cases h; exact vcLaw.plain x
  | vcvt x => cases h; exact vcvLaw.plain x
  | vexp x => cases h; exact v2Law.needs x
  | vfma x => cases h; exact v3Law.plain x
  | vld x => cases h; exact vmemLaw.rows x
  | vldStream x => cases h; exact vstrLaw.rows x
  | vldx x => cases h; exact vxLaw.needs x
  | vlog x => cases h; exact v2Law.needs x
  | vmax x => cases h; exact v3Law.plain x
  | vmerge x => cases h; exact vgLaw.needs x
  | vmin x => cases h; exact v3Law.plain x
  | vmov x => cases h; exact v2Law.needs x
  | vmul x => cases h; exact v3Law.plain x
  | vperm x => cases h; exact v3Law.plain x
  | vrcp x => cases h; exact v2Law.needs x
  | vred x => cases h; exact vrLaw.plain x
  | vrsq x => cases h; exact v2Law.needs x
  | vscan x => cases h; exact vrLaw.plain x
  | vsel x => cases h; exact v3Law.plain x
  | vshf x => cases h; exact v3Law.plain x
  | vst x => cases h; exact vmemLaw.rows x
  | vstStream x => cases h; exact vstrLaw.rows x
  | vstx x => cases h; exact vxLaw.needs x
  | vsub x => cases h; exact v3Law.plain x
  | vtopk x => cases h; exact vkLaw.plain x
  | bklend x => cases h; exact mbankLaw.rows x
  | bklendRet x => cases h; exact mbankLaw.rows x
  | hstrd x => cases h; exact gRegAt13Law.needs x
  | mcall x => cases h; exact mcallFLaw.needs x
  | mcomp x => cases h; exact mcompFLaw.needs x
  | mload x => cases h; exact mloadFLaw.needs x
  | mswap x => cases h; exact guardLaw.needs x
  | msync x => cases h; exact guardLaw.needs x
  | scld x => cases h; exact scldFLaw.needs x
  | tdset x => cases h; exact tdsetFLaw.needs x
  | cbadvProd x => cases h; exact cbAdvFLaw.rows x
  | cbadvCons x => cases h; exact cbAdvFLaw.rows x
  | cbwait x => cases h; exact cbWaitFLaw.needs x
  | kaq x => cases h; exact kaqFLaw.needs x
  | kbar x => cases h; exact kbarFLaw.needs x
  | kbind x => cases h; exact kbindFLaw.needs x
  | kcopy x => cases h; exact cmdLaw.needs x
  | kdq x => cases h; exact kdqFLaw.needs x
  | kpeer x => cases h; exact cmdLaw.needs x
  | tlset x => cases h; exact tlSetFLaw.needs x
  | bcopy x => cases h; exact cmdLaw.rows x
  | bcopyVerify x => cases h; exact cmdLaw.rows x
  | bdrop x => cases h; exact cmdLaw.needs x
  | bholdList x => cases h; exact cmdLaw.rows x
  | bholdRoot x => cases h; exact cmdLaw.rows x
  | blookLeaf x => cases h; exact cmdLaw.rows x
  | blookInterior x => cases h; exact cmdLaw.rows x
  | bread x => cases h; exact cmdLaw.rows x
  | breadVerify x => cases h; exact cmdLaw.rows x
  | bswap x => cases h; exact cmdLaw.needs x
  | bwalkLeaf x => cases h; exact cmdLaw.rows x
  | bwalkElement x => cases h; exact cmdLaw.rows x
  | cupdSgd x => cases h; exact cmdLaw.rows x
  | cupdAdagrad x => cases h; exact cmdLaw.rows x
  | cupdRowwiseAdagrad x => cases h; exact cmdLaw.rows x
  | cupdAdam x => cases h; exact cmdLaw.rows x
  | fbktMod x => cases h; exact cmdLaw.rows x
  | fbktRange x => cases h; exact cmdLaw.rows x
  | fbktHash x => cases h; exact cmdLaw.rows x
  | fredAll x => cases h; exact cmdLaw.rows x
  | fredRoot x => cases h; exact cmdLaw.rows x
  | fxch x => cases h; exact cmdLaw.rows x
  | fxchPayload x => cases h; exact cmdLaw.rows x
  | hrctlSetGroup x => cases h; exact cmdLaw.rows x
  | hrctlInvalidateTable x => cases h; exact cmdLaw.rows x
  | hrctlWriteBack x => cases h; exact cmdLaw.rows x
  | hrctlClearSketch x => cases h; exact cmdLaw.rows x
  | l2opUpdate x => cases h; exact cmdLaw.rows x
  | l2opGather x => cases h; exact cmdLaw.rows x
  | qgath x => cases h; exact cmdLaw.needs x
  | qpoolSplit x => cases h; exact cmdLaw.rows x
  | qpoolOrdered x => cases h; exact cmdLaw.rows x
  | skrd x => cases h; exact cmdLaw.needs x
  | wpin x => cases h; exact cmdLaw.rows x
  | wpinLoad x => cases h; exact cmdLaw.rows x
  | wunpin x => cases h; exact cmdLaw.needs x
  | br x => cases h; exact brFLaw.needs x
  | jmp x => cases h; exact jmpFLaw.rows x
  | jmpReg x => cases h; exact gRegAt9Law.rows x
  | call x => cases h; exact jmpFLaw.rows x
  | callReg x => cases h; exact gRegAt9Law.rows x
  | ret x => cases h; exact guardLaw.rows x
  | bsel x => cases h; exact greg2Law.rows x
  | loop x => cases h; exact loopFLaw.rows x
  | lcnt x => cases h; exact lcntFLaw.rows x
  | tend x => cases h; exact guardLaw.rows x
  | cabort x => cases h; exact imm16FLaw.rows x
  | yield x => cases h; exact guardLaw.rows x
  | brkpt x => cases h; exact imm16FLaw.rows x
  | ifence x => cases h; exact guardLaw.rows x
  | ibank x => cases h; exact gregLaw.rows x
  | acq x => cases h; exact syncFLaw.rows x
  | rel x => cases h; exact syncFLaw.rows x
  | fence x => cases h; exact fenceFLaw.rows x
  | mon x => cases h; exact gregLaw.rows x
  | mwait x => cases h; exact gregLaw.rows x
  | dbar x => cases h; exact dbarFLaw.rows x
  | ropen x => cases h; exact greg2Law.rows x
  | rkeep x => cases h; exact rkeepFLaw.rows x
  | rclose x => cases h; exact guardLaw.rows x
  | einj x => cases h; exact einjFLaw.rows x
  | stest x => cases h; exact guardLaw.rows x
  | trap x => cases h; exact imm16FLaw.rows x
  | tret x => cases h; exact guardLaw.rows x
  | launch x => cases h; exact launchFLaw.rows x
  | crd x => cases h; exact ctlFLaw.rows x
  | cwr x => cases h; exact ctlFLaw.rows x
  | xinvPage x => cases h; exact gregLaw.rows x
  | xinvAll x => cases h; exact gregLaw.rows x
  | nop => cases h; rfl
  | _ => cases h

/-! ### The row of a word that decodes -/

theorem need_ok (w mask value : SlotWord) (i j : Instr) : need w mask value i = .ok j ↔ w &&& mask = value ∧ i = j := by
  unfold need
  split <;> simp [*]

/-- A row without zero bits, in the words of the other rows. -/
theorem ok_row (w : SlotWord) (i j : Instr) : (Except.ok i : Except DecodeError Instr) = .ok j ↔ w &&& 0#32 = 0#32 ∧ i = j := by
  simp

theorem firstRow_cons_ok (w mask value : SlotWord) (i j : Instr) (rest : List (SlotWord × SlotWord × Instr)) :
    firstRow w ((mask, value, i) :: rest) = .ok j ↔
      w &&& mask = value ∧ i = j ∨ w &&& mask ≠ value ∧ firstRow w rest = .ok j := by
  rw [firstRow]
  split <;> simp [*]

theorem firstRow_nil_ok (w : SlotWord) (j : Instr) : firstRow w [] = .ok j ↔ False := by simp [firstRow]

/-- A word that decodes is the word of its instruction: its major, its row's bits and its form's fields are all of it. -/
theorem encode_rawDecode {w : SlotWord} {i : Instr} (h : rawDecode w = .ok i) : encode i = some w := by
  have hnop : (some 0xE0000000 : Option SlotWord) = some (0xE0000000 ||| (w &&& 0#32)) := by simp
  unfold rawDecode at h
  split at h
  all_goals
    rename_i hk
    simp only [need_ok, ok_row w, firstRow_cons_ok, firstRow_nil_ok, and_false, or_false, reduceCtorEq] at h
  all_goals casesm* _ ∨ _, _ ∧ _
  all_goals
    rename_i hm hi
    subst hi
    simp only [encode, hnop, guardLaw.put_get, s3Law.put_get, s2Law.put_get, scmpLaw.put_get, splogLaw.put_get, smoviLaw.put_get,
      smemLaw.put_get, sleaLaw.put_get, schkLaw.put_get, v3Law.put_get, v2Law.put_get, vrLaw.put_get, vsLaw.put_get,
      vcLaw.put_get, vcvLaw.put_get, vmemLaw.put_get, vstrLaw.put_get, vxLaw.put_get, vkLaw.put_get, vgLaw.put_get,
      gregLaw.put_get, greg2Law.put_get, mbankLaw.put_get, mcallFLaw.put_get, mcompFLaw.put_get, mloadFLaw.put_get,
      scldFLaw.put_get, tdsetFLaw.put_get, cbAdvFLaw.put_get, cbWaitFLaw.put_get, kaqFLaw.put_get, kbarFLaw.put_get,
      kbindFLaw.put_get, cmdLaw.put_get, kdqFLaw.put_get, tlSetFLaw.put_get, brFLaw.put_get, jmpFLaw.put_get,
      loopFLaw.put_get, lcntFLaw.put_get, imm16FLaw.put_get, syncFLaw.put_get, fenceFLaw.put_get, dbarFLaw.put_get,
      rkeepFLaw.put_get, einjFLaw.put_get, launchFLaw.put_get, ctlFLaw.put_get, gRegAt9Law.put_get,
      gRegAt13Law.put_get]
    exact congrArg some (word_of_parts hk hm (by decide) (by decide))

/-! ### Micro-operations (R140) -/

theorem fldM_or (v w : BitVec 64) (lo n : Nat) : fldM (v ||| w) lo n = fldM v lo n ||| fldM w lo n := BitVec.extractLsb'_or ..

theorem fldM_putM {n : Nat} (x : BitVec n) (lo : Nat) (h : lo + n ≤ 64) : fldM (putM x lo) lo n = x := extract_place x lo h

theorem fldM_putM_other {m : Nat} (x : BitVec m) (lo' lo n : Nat) (h : lo + n ≤ lo' ∨ lo' + m ≤ lo) :
    fldM (putM x lo') lo n = 0#n := extract_place_other x lo' lo n h

theorem putM_fldM (w : BitVec 64) (lo n : Nat) : putM (fldM w lo n) lo = w &&& placeBits 64 lo n := place_extract w lo n

theorem putM_flag (w : BitVec 64) (k : Nat) : putM (BitVec.ofBool (w.getLsbD k)) k = w &&& placeBits 64 k 1 :=
  (congrArg (place 64 · k) (ofBool_getLsbD w k)).trans (place_extract w k 1)

theorem needM_ok (w mask : BitVec 64) (i j : Instr) : needM w mask i = .ok j ↔ w &&& mask = 0 ∧ i = j := by
  unfold needM
  split
  next h => simp [h]
  next h => simp [show ¬ w &&& mask = 0#64 from h]

theorem putM_eq {n : Nat} (x : BitVec n) (lo : Nat) : putM x lo = place 64 x lo := rfl

/-- The word of a micro-operation names it, and its fields come back. -/
theorem rawMicro_encode {i : Instr} {w : BitVec 64} (h : encodeMicro i = some w) : rawMicro w = .ok i := by
  cases i
  all_goals simp only [encodeMicro, Option.some.injEq, reduceCtorEq] at h
  all_goals
    subst h
    simp [rawMicro, needM, fldM, putM_eq, BitVec.extractLsb'_or, extract_place, extract_place_other,
      BitVec.and_or_distrib_right, place_and, placeBits_eq, getElem_place]

/-- A word is made of its code, its fields, and bits that are zero. -/
theorem microWord_of_parts {w mask bits : BitVec 64} {k : Nat} {c : BitVec 5} (hk : (w.extractLsb' 59 5).toNat = k)
    (hm : w &&& mask = 0#64) (hc : BitVec.ofNat 5 k = c) (hcov : placeBits 64 59 5 ||| bits ||| mask = BitVec.allOnes 64) :
    putM c 59 ||| (w &&& bits) = w := by
  have h : putM c 59 = w &&& placeBits 64 59 5 := by
    rw [← hc, ← hk, BitVec.ofNat_toNat, BitVec.setWidth_eq]; exact place_extract w 59 5
  calc putM c 59 ||| (w &&& bits) = (w &&& placeBits 64 59 5 ||| (w &&& bits)) ||| w &&& mask := by rw [h, hm, BitVec.or_zero]
    _ = w := by rw [← BitVec.and_or_distrib_left, ← BitVec.and_or_distrib_left, hcov, BitVec.and_allOnes]

/-- A word that decodes to a micro-operation is the word of it. -/
theorem encode_rawMicro {w : BitVec 64} {i : Instr} (h : rawMicro w = .ok i) : encodeMicro i = some w := by
  have hend : some (0 : BitVec 64) = some (putM (0x00 : BitVec 5) 59) := rfl
  have hone (c : BitVec 5) : some (putM c 59) = some (putM c 59 ||| (w &&& 0#64)) := by simp
  have hset (hs : w.getLsbD 54 = true) : putM (1 : BitVec 1) 54 = w &&& placeBits 64 54 1 := by
    rw [← putM_flag, hs]; rfl
  have hok (i j : Instr) : (Except.ok i : Except DecodeError Instr) = .ok j ↔ w &&& 0#64 = 0#64 ∧ i = j := by simp
  unfold rawMicro at h
  split at h
  case h_5 hk =>
    split at h
    next hs =>
      obtain ⟨hm, rfl⟩ := (needM_ok ..).1 h
      simp only [encodeMicro, putM_fldM, hset hs, BitVec.or_assoc, ← BitVec.and_or_distrib_left]
      exact congrArg some (microWord_of_parts hk hm (by decide) (by decide))
    next hs =>
      obtain ⟨hm, rfl⟩ := (needM_ok ..).1 h
      simp only [encodeMicro, putM_fldM]
      have hzero : w &&& placeBits 64 54 1 = 0#64 := by
        rw [← putM_flag, Bool.eq_false_of_not_eq_true hs]; rfl
      have hm' : w &&& (0x003FFFFFFFFFFFFF#64 ||| placeBits 64 54 1) = 0#64 := by
        rw [BitVec.and_or_distrib_left, hzero, BitVec.or_zero]; exact hm
      exact congrArg some (microWord_of_parts hk hm' (by decide) (by decide))
  all_goals
    rename_i hk
    simp only [needM_ok, hok, reduceCtorEq] at h
  all_goals
    obtain ⟨hm, rfl⟩ := h
    simp only [encodeMicro, hend, hone, putM_fldM, putM_flag, BitVec.or_assoc, ← BitVec.and_or_distrib_left]
    exact congrArg some (microWord_of_parts hk hm (by decide) (by decide))

end Sys2Proof

namespace Sys2Proof

/-- An instruction passes the checks on field values exactly when it is well formed. -/
theorem checked_ok (e : Except DecodeError Instr) (i : Instr) : checked e = .ok i ↔ e = .ok i ∧ wellFormed i = true := by
  unfold checked
  cases e with
  | error e => simp
  | ok j =>
    dsimp only
    split
    next hj => simp only [Except.ok.injEq, iff_self_and]; rintro rfl; exact hj
    next hj => simp only [reduceCtorEq, Except.ok.injEq, false_iff, not_and]; rintro rfl; exact hj

/-- Settles O56: the rows of the decoder and of the encoder are the same, slot by slot and micro-operation by micro-operation. -/
theorem encodingRoundTrip : Obligations.EncodingRoundTrip := by
  refine ⟨fun i w hw h => ?_, fun i w h => ?_, fun i w hw h => ?_, fun i w h => ?_⟩
  · exact (checked_ok _ _).2 ⟨rawDecode_encode h, hw⟩
  · obtain ⟨hraw, hw⟩ := (checked_ok _ _).1 h
    exact ⟨encode_rawDecode hraw, hw⟩
  · exact (checked_ok _ _).2 ⟨rawMicro_encode h, hw⟩
  · obtain ⟨hraw, hw⟩ := (checked_ok _ _).1 h
    exact ⟨encode_rawMicro hraw, hw⟩

end Sys2Proof
end

section
/-! PROOFS. The V class without memory: a V slot that may take effect sends one result or pair, and the lanes of the model are
those of the statements. From these VectorArithmetic, VectorMaxMinMoves, VectorCompareConvert and VectorFormsComplete. -/

namespace Sys2Proof.Machine

/-! ### The rule of every V slot (R60, R260, R408) -/

/-- The registers a V slot names are free of the checks of every V slot. -/
theorem freeV_ok {c : Core} {named : List (BitVec 5)} (h : Safety.freeV c named) (bad : List (Bool × Nat)) :
    firstBad ((c.handler.active, cNestedTrap) :: (named.any c.isLent, cIllegalOperation) :: bad) = firstBad bad := by
  obtain ⟨-, hhandler, hlent⟩ := h
  have hany : named.any c.isLent = false := List.any_eq_false.2 fun r hr => by simp [hlent r hr]
  rw [hhandler, hany, firstBad_false, firstBad_false]

/-- What a V slot can do when its registers are free, its own checks pass and it does not stall: it takes effect. -/
theorem State.vslot_runs {s : State} {named : List (BitVec 5)} {bad : List (Bool × Nat)} {stall : Bool}
    (h : Safety.freeV s.core named) (hbad : firstBad bad = none) (hstall : stall = false) (effect : Core → Core) :
    s.vslot named bad stall effect = .next ((s.flow .ran).onCore effect) := by
  have hon : (!s.core.issue.suppressed) = true := by rw [h.1]; rfl
  simp only [State.vslot, freeV_ok h, hbad, hstall, hon, State.slot_runs]

/-- A V slot whose only effect is one result in the active lanes (R62, R76, R410). -/
theorem State.vslot_sendV {s : State} {named : List (BitVec 5)} {stall : Bool} (h : Safety.freeV s.core named)
    (hstall : stall = false) (m : LaneMask) (dup : Bool) (d : BitVec 5) (w cls lat : Nat) {f : Core → VReg} {v : VReg}
    (hv : f (s.flow .ran).core = v) :
    s.vslot named [] stall (fun k => k.sendV dup d (f k) (laneKeep (k.laneMask m) w) cls lat) =
      .next (Safety.sentV s m dup d w v cls lat) := by
  subst hv
  rw [State.vslot_runs h rfl hstall]; rfl

/-- A V slot whose only effect is a whole register (R69, R424, R425). -/
theorem State.vslot_sendWhole {s : State} {named : List (BitVec 5)} (h : Safety.freeV s.core named) (dup : Bool)
    (d : BitVec 5) (cls lat : Nat) {f : Core → VReg} {v : VReg} (hv : f (s.flow .ran).core = v) :
    s.vslot named [] false (fun k => k.sendV dup d (f k) (BitVec.allOnes 2048) cls lat) =
      .next (Safety.sentWhole s dup d v cls lat) := by
  subst hv
  rw [State.vslot_runs h rfl rfl]; rfl

/-- A V slot whose only effect is a pair (R410). -/
theorem State.vslot_sendPair {s : State} {named : List (BitVec 5)} (h : Safety.freeV s.core named) (dup : Bool)
    (d : BitVec 5) (cls lat : Nat) {f g : Core → VReg} {v w : VReg} (hv : f (s.flow .ran).core = v)
    (hw : g (s.flow .ran).core = w) :
    s.vslot named [] false (fun k => k.sendPair dup d (f k) (g k) cls lat) =
      .next (Safety.sentPair s dup d v w cls lat) := by
  subst hv hw
  rw [State.vslot_runs h rfl rfl]; rfl

/-! ### Arithmetic lanes (R101, R109, R411, R412) -/

/-- The exact integer of an arithmetic operation. -/
def Arith.int (op : Arith) (a b d : Int) : Int :=
  match op with
  | .add => a + b
  | .sub => a - b
  | .mul => a * b
  | .fma => a * b + d

/-- The exact number of an arithmetic operation on floats; `mode` settles the sign of a zero sum (R109). -/
def Arith.num (op : Arith) (mode : Nat) (a b d : Num) : Num :=
  match op with
  | .add => Num.add mode a b
  | .sub => Num.add mode a b.neg
  | .mul => Num.mul a b
  | .fma => Num.add mode (Num.mul a b) d

theorem arithLane_int {f : Nat} (hf : fmtIsInt f = true) (op : Arith) (r : Rounding) (rw' a b d : Nat) :
    arithLane op f r rw' a b d = Safety.narrowed f r.sat (op.int (intDecode f a) (intDecode f b) (intDecode f d)) := by
  rw [arithLane, if_pos hf]; cases op <;> rfl

theorem arithLane_num {f : Nat} (hf : fmtIsInt f = false) (op : Arith) (r : Rounding) (rw' a b d : Nat) :
    arithLane op f r rw' a b d =
      round f r.mode r.sat (fmtWidth f) rw' (op.num r.mode (decodeNum f a) (decodeNum f b) (decodeNum f d)) := by
  rw [arithLane, if_neg (by simp [hf])]; cases op <;> rfl

/-- An arithmetic slot of an integer format sends the exact results, narrowed (R411). -/
theorem State.execArith_int {s : State} {x : V3} {f : Nat} {r : Rounding} (hx : f = x.fmt.toNat) (hr : r = s.core.rounding)
    (h : Safety.freeV s.core ([x.d, x.a, x.b] ++ if r.mode = 5 then [r.rvec] else [])) (hf : fmtIsInt f = true) (op : Arith) :
    s.execArith x op = .next (Safety.sentV s x.m x.dup x.d (fmtWidth f) (byLane (fmtWidth f) fun i =>
      Safety.narrowed f r.sat (op.int (Safety.int s.core f x.a i) (Safety.int s.core f x.b i) (Safety.int s.core f x.d i))) 4 2) := by
  subst hx hr
  simp only [State.execArith, arithClass, hf, if_true, arithLane_int hf]
  exact State.vslot_sendV h rfl _ _ _ _ _ _ rfl

/-- An arithmetic slot of a float format sends the exact results, each rounded once (R109, R411). -/
theorem State.execArith_num {s : State} {x : V3} {f : Nat} {r : Rounding} (hx : f = x.fmt.toNat) (hr : r = s.core.rounding)
    (h : Safety.freeV s.core ([x.d, x.a, x.b] ++ if r.mode = 5 then [r.rvec] else [])) (hf : fmtIsInt f = false) (op : Arith) :
    s.execArith x op = .next (Safety.sentV s x.m x.dup x.d (fmtWidth f) (byLane (fmtWidth f) fun i =>
      Safety.rounded s.core f i (op.num r.mode (Safety.num s.core f x.a i) (Safety.num s.core f x.b i) (Safety.num s.core f x.d i))) 5 4) := by
  subst hx hr
  simp only [State.execArith, arithClass, hf, Bool.false_eq_true, if_false, arithLane_num hf]
  exact State.vslot_sendV h rfl _ _ _ _ _ _ rfl

/-! ### Greater, lesser and absolute values (R113, R411, R412) -/

theorem pickLane_int {f : Nat} (hf : fmtIsInt f = true) (greater : Bool) (a b : Nat) :
    pickLane greater f a b = if greater then (if intDecode f a < intDecode f b then b else a)
      else (if intDecode f b < intDecode f a then b else a) := by
  rw [pickLane, if_pos hf]

theorem pickLane_num {f : Nat} (hf : fmtIsInt f = false) (greater : Bool) (a b : Nat) :
    pickLane greater f a b = if decodeNum f a = .nan ∨ decodeNum f b = .nan then roundRne f .nan
      else if greater then (if (decodeNum f a).below (decodeNum f b) then b else a)
      else (if (decodeNum f b).below (decodeNum f a) then b else a) := by
  rw [pickLane, if_neg (by simp [hf])]

/-- A slot that computes lane by lane at latency 2 sends its lanes. -/
theorem State.execLanes_sends {s : State} {x : V3} {f : Nat} (hx : f = x.fmt.toNat) (h : Safety.freeV s.core [x.d, x.a, x.b])
    (g : Nat → Nat → Nat → Nat) {v : Nat → Nat}
    (hv : ∀ i, g f (lane (fmtWidth f) i (s.core.getV x.a)) (lane (fmtWidth f) i (s.core.getV x.b)) = v i) :
    s.execLanes x g = .next (Safety.sentV s x.m x.dup x.d (fmtWidth f) (byLane (fmtWidth f) v) 4 2) := by
  subst hx
  exact State.vslot_sendV h rfl _ _ _ _ _ _ (congrArg _ (funext hv))

/-- VABS of an integer format saturates under ctl.vround (R412). -/
theorem absLane_int {f : Nat} (hf : fmtIsInt f = true) (sat : Bool) (a : Nat) :
    absLane f sat a = Safety.narrowed f sat |intDecode f a| := by
  rw [absLane, if_pos hf, Int.abs_eq_natAbs]; rfl

theorem absLane_num {f : Nat} (hf : fmtIsInt f = false) (sat : Bool) (a : Nat) :
    absLane f sat a = roundRne f (decodeNum f a).abs := by
  rw [absLane, if_neg (by simp [hf])]

theorem vabs_sends {s : State} {x : V2} {f : Nat} (hx : f = x.fmt.toNat) (h : Safety.freeV s.core [x.d, x.a]) {v : Nat → Nat}
    (hv : ∀ i, absLane f s.core.satDefault (lane (fmtWidth f) i (s.core.getV x.a)) = v i) :
    exec (.vabs x) s = .next (Safety.sentV s x.m x.dup x.d (fmtWidth f) (byLane (fmtWidth f) v) 4 2) := by
  subst hx
  exact State.vslot_sendV h rfl _ _ _ _ _ _ (congrArg _ (funext hv))

end Sys2Proof.Machine

namespace Sys2Proof
open Machine

/-- Settles O10: each operation is its exact integer, narrowed, or its exact number, rounded once. -/
theorem vectorArithmetic : Obligations.VectorArithmetic := by
  intro x s f r hx hr h
  refine ⟨fun hf => ?_, fun hf => ?_⟩
  · have sends := State.execArith_int hx hr h hf
    exact ⟨sends .add, sends .sub, sends .mul, sends .fma⟩
  · have sends := State.execArith_num hx hr h hf
    exact ⟨sends .add, sends .sub, sends .mul, sends .fma⟩

/-- Settles O11: the lanes of the model's picks, absolute values and moves are those of the tables. -/
theorem vectorMaxMinMoves : Obligations.VectorMaxMinMoves := by
  refine ⟨⟨fun x s f hx h => ⟨fun hf => ⟨?_, ?_⟩, fun hf => ⟨?_, ?_⟩⟩, fun x s f hx h => ⟨fun hf => ?_, fun hf => ?_⟩⟩,
    fun x s h => ?_, fun x s w hw h hs => ?_, fun x s w n hw hn h => ⟨?_, ?_, ?_⟩⟩
  · exact State.execLanes_sends hx h (pickLane true) fun i => pickLane_int hf true _ _
  · exact State.execLanes_sends hx h (pickLane false) fun i => pickLane_int hf false _ _
  · exact State.execLanes_sends hx h (pickLane true) fun i => pickLane_num hf true _ _
  · exact State.execLanes_sends hx h (pickLane false) fun i => pickLane_num hf false _ _
  · exact vabs_sends hx h fun i => absLane_int hf _ _
  · exact vabs_sends hx h fun i => absLane_num hf _ _
  · exact State.vslot_sendV h rfl _ _ _ _ _ _ rfl
  · subst hw; exact State.vslot_sendV h hs _ _ _ _ _ _ rfl
  · subst hw hn; exact State.vslot_sendV h rfl _ _ _ _ _ _ rfl
  · subst hw hn; exact State.vslot_sendWhole h _ _ _ _ rfl
  · subst hw hn; exact State.vslot_sendV h rfl _ _ _ _ _ _ rfl

end Sys2Proof
end

section
/-! PROOFS. The fields of packed numbers, and the order of exact numbers that VTOPK ranks by. From these VectorCompareConvert,
VectorReductions and VectorFormsComplete. -/

namespace Sys2Proof.Machine

/-! ### Fields of a packed number (R45, R46) -/

theorem fmtWidth_cases (f : Nat) : fmtWidth f = 8 ∨ fmtWidth f = 16 ∨ fmtWidth f = 32 ∨ fmtWidth f = 64 := by
  unfold fmtWidth
  split
  · simp
  · split
    · simp
    · split <;> simp

/-- Bit j of a packed number is bit j mod w of field j / w. -/
theorem testBit_packNat {w : Nat} (hw : 0 < w) : ∀ (xs : List Nat) (j : Nat),
    (packNat w xs).testBit j = (xs.getD (j / w) 0).testBit (j % w)
  | [], j => by simp [packNat]
  | x :: xs, j => by
    rw [packNat, Nat.add_comm, Nat.testBit_two_pow_mul_add _ (Nat.mod_lt _ (Nat.two_pow_pos w))]
    by_cases h : j < w
    · rw [if_pos h, Nat.testBit_mod_two_pow, Nat.div_eq_of_lt h, Nat.mod_eq_of_lt h]; simp [h]
    · have hd : j / w = (j - w) / w + 1 := by rw [Nat.div_eq_sub_div hw (by omega)]
      rw [if_neg h, testBit_packNat hw xs (j - w), hd, List.getD_cons_succ, ← Nat.mod_eq_sub_mod (by omega : w ≤ j)]

theorem packNat_lane {w : Nat} (hw : 0 < w) (xs : List Nat) (i : Nat) : packNat w xs >>> (w * i) % 2 ^ w = xs.getD i 0 % 2 ^ w := by
  refine Nat.eq_of_testBit_eq fun j => ?_
  rw [Nat.testBit_mod_two_pow, Nat.testBit_mod_two_pow, Nat.testBit_shiftRight, testBit_packNat hw]
  by_cases h : j < w
  · rw [Nat.mul_add_div hw, Nat.div_eq_of_lt h, Nat.mul_add_mod, Nat.mod_eq_of_lt h, Nat.add_zero]
  · simp [h]

theorem packNat_lt (w : Nat) : ∀ xs : List Nat, packNat w xs < 2 ^ (w * xs.length)
  | [] => by simp [packNat]
  | x :: xs => by
    have h := packNat_lt w xs
    have hx := Nat.mod_lt x (Nat.two_pow_pos w)
    rw [packNat, List.length_cons, Nat.mul_succ, Nat.add_comm (w * xs.length), Nat.pow_add]
    calc x % 2 ^ w + 2 ^ w * packNat w xs < 2 ^ w * (packNat w xs + 1) := by rw [Nat.mul_succ]; omega
      _ ≤ 2 ^ w * 2 ^ (w * xs.length) := Nat.mul_le_mul_left _ h

/-- Lane i of lanes computed one by one. -/
theorem lane_byLane {w i : Nat} (hw : w ∣ 2048) (h0 : 0 < w) (f : Nat → Nat) (hi : i < 2048 / w) :
    lane w i (byLane w f) = f i % 2 ^ w := by
  have hlt : packNat w ((List.range (2048 / w)).map f) < 2 ^ 2048 := by
    have := packNat_lt w ((List.range (2048 / w)).map f)
    rwa [List.length_map, List.length_range, Nat.mul_div_cancel' hw] at this
  rw [lane, byLane, pack, BitVec.toNat_ofNat, Nat.mod_eq_of_lt hlt, packNat_lane h0]
  simp [hi]

/-! ### VCMP (R414) -/

/-- All bits of each lane's bytes: bit j of the mask is that of its lane. -/
theorem getLsbD_laneBits {n L j : Nat} (hn : 0 < n) (hL : 256 = n * L) (f : Nat → Bool) (hj : j < 256) :
    (BitVec.ofNat 256 (packNat n ((List.range L).map fun i => if f i then 2 ^ n - 1 else 0))).getLsbD j = f (j / n) := by
  have hlane : j / n < L := (Nat.div_lt_iff_lt_mul hn).2 (by rw [Nat.mul_comm]; omega)
  have hbit : j % n < n := Nat.mod_lt _ hn
  rw [BitVec.getLsbD_ofNat, testBit_packNat hn]
  cases h : f (j / n) <;> simp [hj, hlane, h, hbit, Nat.testBit_two_pow_sub_one]

end Sys2Proof.Machine

namespace Sys2Proof
open Machine

/-- Settles O12: the bits of VCMP are those of its lanes, and the other forms send the lanes of their rules. -/
theorem vectorCompareConvert : Obligations.VectorCompareConvert := by
  refine ⟨fun x s f w hf hw h => ?_, fun x s ci co r hci hco hr h => ?_, fun x s f r hf hr h e he => ?_⟩
  · subst hf hw
    have hlanes : 0 < fmtWidth x.fmt.toNat / 8 ∧ 256 = fmtWidth x.fmt.toNat / 8 * (2048 / fmtWidth x.fmt.toNat) := by
      rcases fmtWidth_cases x.fmt.toNat with e | e | e | e <;> rw [e] <;> decide
    exact ⟨_, _, _, State.vslot_runs h rfl rfl _, rfl, fun j hj =>
      ⟨getLsbD_laneBits hlanes.1 hlanes.2 _ hj, getLsbD_laneBits hlanes.1 hlanes.2 _ hj⟩⟩
  · subst hci hco hr
    exact State.vslot_sendV h rfl _ _ _ _ _ _ rfl
  · subst hf hr
    have sends (fn : Nat) : s.execElementary x fn =
        .next (Safety.sentV s x.m x.dup x.d (fmtWidth x.fmt.toNat) (e fn) 7 8) := by
      rw [he fn]; exact State.vslot_sendV h rfl _ _ _ _ _ _ rfl
    exact ⟨sends 0, sends 1, sends 2, sends 3⟩

end Sys2Proof

namespace Sys2Proof.Machine

/-! ### The order of exact numbers (R100, R120) -/

theorem scaleTo_eq (neg : Bool) (m : Nat) (e k : Int) (h : k ≤ e) :
    (scaleTo neg m e k : ℚ) = (if neg then -1 else 1) * m * 2 ^ e / 2 ^ k := by
  have hk : (2 : ℚ) ^ k ≠ 0 := zpow_ne_zero _ (by norm_num)
  have hpow : (2 : ℚ) ^ e = 2 ^ (e - k).toNat * 2 ^ k := by
    rw [← zpow_natCast, ← zpow_add₀ (by norm_num)]; congr 1; omega
  rw [eq_div_iff hk, hpow]
  cases neg <;> simp [scaleTo] <;> ring

/-- The place of a value among the values: its kind, then its size; NaN above all. -/
def Num.rank : Num → ℤ ×ₗ ℚ
  | .nan => toLex (2, 0)
  | .inf neg => toLex (if neg then -1 else 1, 0)
  | .fin neg m e => toLex (0, (if neg then -1 else 1) * m * 2 ^ e)

/-- The model's comparison of numbers is the order of their values. -/
theorem Num.lt_iff {a b : Num} (ha : a ≠ .nan) (hb : b ≠ .nan) : a.lt b = true ↔ a.rank < b.rank := by
  cases a with
  | nan => exact absurd rfl ha
  | inf x =>
    cases b with
    | nan => exact absurd rfl hb
    | inf y => cases x <;> cases y <;> simp [Num.lt, Num.rank, Prod.Lex.toLex_lt_toLex]
    | fin y m e => cases x <;> simp [Num.lt, Num.rank, Prod.Lex.toLex_lt_toLex]
  | fin x m e =>
    cases b with
    | nan => exact absurd rfl hb
    | inf y => cases y <;> simp [Num.lt, Num.rank, Prod.Lex.toLex_lt_toLex]
    | fin y n g =>
      have hpos : (0 : ℚ) < 2 ^ Min.min e g := zpow_pos (by norm_num) _
      simp only [Num.lt, Num.rank, decide_eq_true_eq, Prod.Lex.toLex_lt_toLex, lt_self_iff_false, true_and, false_or]
      rw [← Int.cast_lt (R := ℚ), scaleTo_eq _ _ _ _ (min_le_left e g), scaleTo_eq _ _ _ _ (min_le_right e g),
        div_lt_div_iff_of_pos_right hpos]

/-- NaN is above every number. -/
theorem Num.rank_lt_nan {a : Num} (ha : a ≠ .nan) : a.rank < Num.rank .nan := by
  cases a with
  | nan => exact absurd rfl ha
  | inf x => cases x <;> simp [Num.rank, Prod.Lex.toLex_lt_toLex]
  | fin x m e => simp [Num.rank, Prod.Lex.toLex_lt_toLex]

theorem Num.eqv_iff {a b : Num} (ha : a ≠ .nan) (hb : b ≠ .nan) : a.eqv b = true ↔ a.rank = b.rank := by
  have h1 := Num.lt_iff ha hb
  have h2 := Num.lt_iff hb ha
  have : a.eqv b = (!a.lt b && !b.lt a) := by
    cases a <;> cases b <;> trivial
  rw [this, Bool.and_eq_true, Bool.not_eq_true', Bool.not_eq_true', ← Bool.not_eq_true, ← Bool.not_eq_true, h1, h2,
    not_lt, not_lt]
  exact ⟨fun h => le_antisymm h.2 h.1, fun h => ⟨h.ge, h.le⟩⟩
/-! ### The rank of a candidate (R120) -/

/-- The place of a candidate: the greater value first, then the lower lane. -/
def rankKey (f : Nat) (p : Nat × Nat) : (ℤ ×ₗ ℚ)ᵒᵈ ×ₗ ℕ := toLex (OrderDual.toDual (decodeNum f p.2).rank, p.1)

theorem ranksAbove_iff (f : Nat) (p q : Nat × Nat) : ranksAbove f p q = true ↔ rankKey f p < rankKey f q := by
  simp only [ranksAbove, rankKey, Prod.Lex.toLex_lt_toLex, OrderDual.toDual_lt_toDual, EmbeddingLike.apply_eq_iff_eq]
  by_cases hp : decodeNum f p.2 = .nan
  · by_cases hq : decodeNum f q.2 = .nan
    · simp [hp, hq]
    · simp [hp, hq, Num.rank_lt_nan hq]
  · by_cases hq : decodeNum f q.2 = .nan
    · have h := Num.rank_lt_nan hp
      simp [hp, hq, h.not_gt, h.ne]
    · simp [hp, hq, Num.lt_iff hq hp, Num.eqv_iff hp hq]

/-- Of two lanes, one ranks above the other. -/
theorem ranksAbove_total {f : Nat} {p q : Nat × Nat} (hne : p.1 ≠ q.1) (h : ranksAbove f p q = false) : ranksAbove f q p = true := by
  rw [← Bool.not_eq_true, ranksAbove_iff, not_lt] at h
  exact (ranksAbove_iff f q p).2 (lt_of_le_of_ne h fun e => hne (congrArg (fun k => (ofLex k).2) e).symm)

theorem ranksAbove_trans {f : Nat} {p q r : Nat × Nat} (h : ranksAbove f p q = true) (h' : ranksAbove f q r = true) :
    ranksAbove f p r = true :=
  (ranksAbove_iff f p r).2 (((ranksAbove_iff f p q).1 h).trans ((ranksAbove_iff f q r).1 h'))

/-- Inserting a candidate keeps the others. -/
theorem insertRank_perm (f : Nat) (p : Nat × Nat) : ∀ l, (insertRank f p l).Perm (p :: l)
  | [] => .refl _
  | q :: r => by
    unfold insertRank
    split
    · exact .refl _
    · exact ((insertRank_perm f p r).cons q).trans (.swap p q r)

/-- Inserting a candidate of another lane keeps the ranking. -/
theorem insertRank_sorted (f : Nat) (p : Nat × Nat) : ∀ l : List (Nat × Nat), (∀ q ∈ l, p.1 ≠ q.1) →
    l.Pairwise (fun p q => ranksAbove f p q = true) → (insertRank f p l).Pairwise (fun p q => ranksAbove f p q = true)
  | [], _, _ => List.pairwise_singleton _ _
  | q :: r, hne, hl => by
    obtain ⟨hq, hr⟩ := List.pairwise_cons.1 hl
    unfold insertRank
    split
    next h =>
      refine List.pairwise_cons.2 ⟨fun x hx => ?_, hl⟩
      rcases List.mem_cons.1 hx with rfl | hx
      · exact h
      · exact ranksAbove_trans h (hq x hx)
    next h =>
      have hqp := ranksAbove_total (hne q List.mem_cons_self) (Bool.eq_false_of_not_eq_true h)
      refine List.pairwise_cons.2 ⟨fun x hx => ?_, insertRank_sorted f p r (fun x hx => hne x (List.mem_cons_of_mem _ hx)) hr⟩
      rcases List.mem_cons.1 ((insertRank_perm f p r).mem_iff.1 hx) with rfl | hx
      · exact hqp
      · exact hq x hx

/-- The ranking of candidates of distinct lanes: all of them, the best first. -/
theorem ranking (f : Nat) : ∀ (cands acc : List (Nat × Nat)), (∀ p ∈ cands, ∀ q ∈ acc, p.1 ≠ q.1) → cands.Pairwise (fun p q => p.1 ≠ q.1) →
    acc.Pairwise (fun p q => ranksAbove f p q = true) →
    (cands.foldl (fun acc p => insertRank f p acc) acc).Pairwise (fun p q => ranksAbove f p q = true) ∧
      ∀ p, p ∈ cands.foldl (fun acc p => insertRank f p acc) acc ↔ p ∈ cands ∨ p ∈ acc
  | [], acc, _, _, h => ⟨h, by simp⟩
  | p :: r, acc, hne, hd, h => by
    obtain ⟨hp, hr⟩ := List.pairwise_cons.1 hd
    have hmem := fun q => (insertRank_perm f p acc).mem_iff (a := q)
    have ih := ranking f r (insertRank f p acc) (fun q hq x hx => by
        rcases List.mem_cons.1 ((hmem x).1 hx) with rfl | hx
        · exact (hp q hq).symm
        · exact hne q (List.mem_cons_of_mem _ hq) x hx) hr
      (insertRank_sorted f p acc (fun q hq => hne p List.mem_cons_self q hq) h)
    refine ⟨ih.1, fun q => ?_⟩
    rw [List.foldl_cons, ih.2 q, hmem, List.mem_cons, List.mem_cons]
    tauto

end Sys2Proof.Machine

namespace Sys2Proof.Machine

/-! ### VTOPK (R120, R426, R427) -/

/-- The candidates of VTOPK: the active lanes with their values, without the NaN ones when the slot leaves NaN out. -/
def topCandidates (c : Nat) (skipNan : Bool) (mask : Mask) (va : VReg) : List (Nat × Nat) :=
  let all := ((List.range (2048 / fmtWidth c)).filter (laneOn mask (fmtWidth c))).map fun i => (i, lane (fmtWidth c) i va)
  if skipNan then all.filter (fun p => decodeNum c p.2 != .nan) else all

/-- The candidates, the best first. -/
def topRanked (c : Nat) (skipNan : Bool) (mask : Mask) (va : VReg) : List (Nat × Nat) :=
  (topCandidates c skipNan mask va).foldl (fun acc p => insertRank c p acc) []

/-- The value at place p of the first n: the default NaN for a NaN and past the end of the ranking. -/
def topVal (c n : Nat) (ranked : List (Nat × Nat)) (p : Nat) : Nat :=
  if p < n then match ranked[p]? with
    | some q => if decodeNum c q.2 = .nan then roundRne c .nan else q.2
    | none => roundRne c .nan
  else 0

/-- The lane at place p of the first n, the end mark past the end of the ranking. -/
def topIdx (n : Nat) (ranked : List (Nat × Nat)) (p : Nat) : Nat :=
  if p < n then match ranked[p]? with | some q => q.1 | none => 0xFFFFFFFF else 0

theorem mem_topCandidates {c : Nat} {skipNan : Bool} {mask : Mask} {va : VReg} {p : Nat × Nat} :
    p ∈ topCandidates c skipNan mask va ↔ p.1 < 2048 / fmtWidth c ∧ laneOn mask (fmtWidth c) p.1 = true ∧
      p.2 = lane (fmtWidth c) p.1 va ∧ (decodeNum c p.2 = .nan → skipNan = false) := by
  obtain ⟨i, v⟩ := p
  cases skipNan <;> simp [topCandidates] <;> grind

theorem topCandidates_lanes (c : Nat) (skipNan : Bool) (mask : Mask) (va : VReg) :
    (topCandidates c skipNan mask va).Pairwise (fun p q => p.1 ≠ q.1) := by
  have hall : (((List.range (2048 / fmtWidth c)).filter (laneOn mask (fmtWidth c))).map
      fun i => (i, lane (fmtWidth c) i va)).Pairwise (fun p q => p.1 ≠ q.1) :=
    List.pairwise_map.2 (List.nodup_range.filter _)
  cases skipNan
  · exact hall
  · exact hall.filter _

theorem topRanked_sorted (c : Nat) (skipNan : Bool) (mask : Mask) (va : VReg) :
    (topRanked c skipNan mask va).Pairwise (fun p q => ranksAbove c p q = true) :=
  (ranking c _ [] (by simp) (topCandidates_lanes c skipNan mask va) .nil).1

theorem mem_topRanked {c : Nat} {skipNan : Bool} {mask : Mask} {va : VReg} {p : Nat × Nat} :
    p ∈ topRanked c skipNan mask va ↔ p ∈ topCandidates c skipNan mask va := by
  rw [topRanked, (ranking c _ [] (by simp) (topCandidates_lanes c skipNan mask va) .nil).2 p]
  simp

theorem topVal_past {c n p : Nat} {ranked : List (Nat × Nat)} (h : n ≤ p) : topVal c n ranked p = 0 := if_neg (by omega)

theorem topIdx_past {n p : Nat} {ranked : List (Nat × Nat)} (h : n ≤ p) : topIdx n ranked p = 0 := if_neg (by omega)

theorem topVal_none {c n p : Nat} {ranked : List (Nat × Nat)} (h : p < n) (hq : ranked[p]? = none) :
    topVal c n ranked p = roundRne c .nan := by rw [topVal, if_pos h, hq]

theorem topIdx_none {n p : Nat} {ranked : List (Nat × Nat)} (h : p < n) (hq : ranked[p]? = none) :
    topIdx n ranked p = 0xFFFFFFFF := by rw [topIdx, if_pos h, hq]

theorem topVal_some {c n p : Nat} {ranked : List (Nat × Nat)} {q : Nat × Nat} (h : p < n) (hq : ranked[p]? = some q) :
    topVal c n ranked p = if decodeNum c q.2 = .nan then roundRne c .nan else q.2 := by rw [topVal, if_pos h, hq]

theorem topIdx_some {n p : Nat} {ranked : List (Nat × Nat)} {q : Nat × Nat} (h : p < n) (hq : ranked[p]? = some q) :
    topIdx n ranked p = q.1 := by rw [topIdx, if_pos h, hq]

/-- A lane's number is never the end mark. -/
theorem lane_ne_endMark {c i : Nat} (h : i < 2048 / fmtWidth c) : i ≠ 0xFFFFFFFF := by
  rcases fmtWidth_cases c with e | e | e | e <;> rw [e] at h <;> omega

/-- VTOPK sends the values and the lanes of its ranking. -/
theorem vtopk_sends {x : VK} {s : State} {ranked : List (Nat × Nat)} (h : Safety.freeV s.core [x.d, x.d + 1, x.a])
    (hr : ranked = topRanked x.fmt.toNat x.nan (s.core.laneMask x.m) (s.core.getV x.a)) :
    exec (.vtopk x) s = .next (Safety.sentPair s x.dup x.d (byLane (fmtWidth x.fmt.toNat) (topVal x.fmt.toNat (x.k.toNat + 1) ranked))
      (byLane 32 (topIdx (x.k.toNat + 1) ranked)) 10 12) := by
  subst hr
  exact State.vslot_sendPair h _ _ _ _ rfl rfl

/-- Of two places of the ranking that stand, the earlier one stands and ranks above the later one. -/
theorem topIdx_ranked {c n p q : Nat} {skipNan : Bool} {mask : Mask} {va : VReg} {b : Nat × Nat} (hpq : p < q) (hp : p < n)
    (hb : (topRanked c skipNan mask va)[q]? = some b) :
    topIdx n (topRanked c skipNan mask va) p ≠ 0xFFFFFFFF ∧ ranksAbove c (topIdx n (topRanked c skipNan mask va) p,
      lane (fmtWidth c) (topIdx n (topRanked c skipNan mask va) p) va) (b.1, lane (fmtWidth c) b.1 va) = true := by
  obtain ⟨hq, rfl⟩ := List.getElem?_eq_some_iff.1 hb
  have ha := List.getElem?_eq_getElem (hpq.trans hq)
  obtain ⟨hlt, -, hav, -⟩ := mem_topCandidates.1 (mem_topRanked.1 (List.getElem_mem (hpq.trans hq)))
  obtain ⟨-, -, hbv, -⟩ := mem_topCandidates.1 (mem_topRanked.1 (List.getElem_mem hq))
  rw [topIdx_some hp ha, ← hav, ← hbv]
  exact ⟨lane_ne_endMark hlt, List.pairwise_iff_getElem.1 (topRanked_sorted c skipNan mask va) _ _ _ _ hpq⟩

/-- What VEXP, VLOG, VRCP and VRSQ send: each lane's elementary value. -/
def elementaryLanes (f : Nat) (r : Rounding) (va : VReg) (fn : Nat) : VReg :=
  byLane (fmtWidth f) fun i => elementary fn f r.mode r.sat (lane (fmtWidth f) i va)

end Sys2Proof.Machine

namespace Sys2Proof
open Machine

/-- Settles O13: the tree, scan and merge sent are the model's, and VTOPK's ranking is sorted and complete. -/
theorem vectorReductions : Obligations.VectorReductions := by
  refine ⟨fun x s f w r hf hw hr h xs hxs => ?_, fun x s h out hout => ?_, fun x s f hf h => ?_⟩
  · subst hf hw hr hxs
    exact ⟨State.vslot_sendWhole h _ _ _ _ rfl, State.vslot_sendV h rfl _ _ _ _ _ _ rfl⟩
  · subst hout
    exact State.vslot_sendPair h _ _ _ _ rfl rfl
  · subst hf
    obtain ⟨ranked, hr⟩ : ∃ r, r = topRanked x.fmt.toNat x.nan (s.core.laneMask x.m) (s.core.getV x.a) := ⟨_, rfl⟩
    refine ⟨_, _, vtopk_sends h hr, fun p hp => ⟨topVal_past hp, topIdx_past hp⟩, fun p hp => ?_, fun p q hpq hq hne => ?_,
      fun i hi hon hnan hleft => ?_⟩
    · have hp : p < x.k.toNat + 1 := by omega
      cases hq : ranked[p]? with
      | none => exact .inl ⟨topIdx_none hp hq, topVal_none hp hq⟩
      | some q =>
        obtain ⟨hlt, hon, hv, hnan⟩ := mem_topCandidates.1 (mem_topRanked.1 (hr ▸ List.mem_of_getElem? hq))
        rw [topIdx_some hp hq, topVal_some hp hq, ← hv]
        exact .inr ⟨hlt, hon, fun hn => ⟨hnan hn, if_pos hn⟩, fun hn => if_neg hn⟩
    · cases hb : ranked[q]? with
      | none => exact absurd (topIdx_none (by omega) hb) hne
      | some b =>
        rw [topIdx_some (by omega) hb]
        subst hr
        exact topIdx_ranked hpq (by omega) hb
    · have hmem : (i, lane (fmtWidth x.fmt.toNat) i (s.core.getV x.a)) ∈ ranked := hr ▸
        mem_topRanked.2 (mem_topCandidates.2 ⟨hi, hon, rfl, hnan⟩)
      obtain ⟨j, hj⟩ := List.mem_iff_getElem?.1 hmem
      have hkj : x.k.toNat < j := by
        by_contra hlt
        exact hleft j (by omega) (by rw [topIdx_some (by omega) hj])
      subst hr
      have habove := topIdx_ranked hkj (Nat.lt_succ_self _) hj
      exact habove

/-- Settles O14: what the ten forms send is known, so each sends something. -/
theorem vectorFormsComplete : Obligations.VectorFormsComplete := by
  intro s r hr
  obtain ⟨hcmp, hcvt, helem⟩ := vectorCompareConvert
  obtain ⟨hred, hmerge, htopk⟩ := vectorReductions
  refine ⟨fun x h => ?_, fun x h => ⟨_, hcvt x s _ _ r rfl rfl hr h⟩, fun x h => ?_,
    fun x h => ⟨_, _, hred x s _ _ r rfl rfl hr h _ rfl⟩, fun x h => ⟨_, _, hmerge x s h _ rfl⟩, fun x h => ?_⟩
  · obtain ⟨v, keep, twin, hx, -⟩ := hcmp x s _ _ rfl rfl h
    exact ⟨v, keep, twin, hx⟩
  · exact ⟨fun fn => elementaryLanes x.fmt.toNat r (s.core.getV x.a) fn, helem x s _ r rfl hr h _ fun _ => rfl⟩
  · obtain ⟨val, idx, hx, -⟩ := htopk x s _ rfl h
    exact ⟨_, _, hx⟩

end Sys2Proof
end

section
/-! PROOFS. The scratchpad and the streams under the V class: the region's log, stores of blocks and elements, pops and pushes.
From these VectorLoads, VectorStores and StreamMoves. -/

namespace Sys2Proof.Machine

/-! ### Bytes, and the numbers they make -/

theorem Mem.spread_length : ∀ (n a : Nat) (m : Mem), (Mem.spread n a m).length = n
  | 0, _, _ => rfl
  | n + 1, a, [] => by rw [Mem.spread, List.length_cons, Mem.spread_length n]
  | n + 1, a, (k, b) :: r => by
    rw [Mem.spread]
    split <;> rw [List.length_cons, Mem.spread_length n]

@[simp] theorem Mem.read_length (m : Mem) (a n : Nat) : (m.read a n).length = n := Mem.spread_length _ _ _

@[simp] theorem Core.spRead_length (c : Core) (o n : Nat) : (c.spRead o n).length = n := Mem.read_length _ _ _

theorem leVal_lt : ∀ bs : List Byte, leVal bs < 2 ^ (8 * bs.length)
  | [] => by simp [leVal]
  | b :: bs => by
    have hb := b.isLt
    have ih := leVal_lt bs
    rw [leVal, List.length_cons, Nat.mul_succ, Nat.add_comm (8 * bs.length), Nat.pow_add]
    omega

/-- Byte j of a number. -/
theorem toBytes_getD : ∀ (n v j : Nat), j < n → (toBytes n v).getD j 0 = BitVec.ofNat 8 (v / 256 ^ j)
  | n + 1, v, 0, _ => by simp [toBytes]
  | n + 1, v, j + 1, h => by
    rw [toBytes, List.getD_cons_succ, toBytes_getD n _ j (by omega), Nat.div_div_eq_div_mul, Nat.pow_succ, Nat.mul_comm]

@[simp] theorem vBytes_length (v : VReg) : (vBytes v).length = 256 := toBytes_length _ _

theorem vBytes_getD (v : VReg) {j : Nat} (h : j < 256) : (vBytes v).getD j 0 = BitVec.ofNat 8 (lane 8 j v) := by
  rw [vBytes, toBytes_getD _ _ _ h, lane, Nat.shiftRight_eq_div_pow, Nat.pow_mul]
  exact BitVec.eq_of_toNat_eq (by simp)

/-! ### The mark of a slot that ran -/

/-- The core with its slot marked as run. -/
def Core.mark (c : Core) : Core := { c with issue := { c.issue with flow := .ran } }

/-- A slot's effect on the marked core, when it does not depend on the mark. -/
theorem State.onCore_mark {s : State} {f : Core → Core} {d : Core} (h : f s.core.mark = d.mark) :
    (s.flow .ran).onCore f = Safety.ranTo s d := by
  show { s with core := f s.core.mark } = _
  rw [h]; rfl

theorem Core.mark_caught (c : Core) (why code : Nat) : c.mark.caught why code = (c.caught why code).mark := by
  rw [Core.caught_eq, Core.caught_eq]; rfl

theorem Core.mark_consumed (c : Core) (bad : Bool) : Safety.consumed c.mark bad = (Safety.consumed c bad).mark := by
  cases bad
  · rfl
  · exact Core.mark_caught c _ _

/-! ### The region log (R268) -/

theorem logRecord_ne_nil (kind loc : Nat) (data : List Byte) : logRecord kind loc data ≠ [] :=
  List.ne_nil_of_length_pos (by simp only [logRecord, List.length_append, toBytes_length]; omega)

/-- The core with records appended to its log. -/
def Core.logged (c : Core) (records : List (List Byte)) : Core :=
  records.foldl (fun c r => { Safety.withScratch c c.regions.logPos r with
    regions := { c.regions with logPos := c.regions.logPos + r.length } }) c

theorem undoLogged_zero {c : Core} (h : c.depth = 0) (rs : List (List Byte)) : Safety.undoLogged c rs = c := if_pos h

theorem undoLogged_pos {c : Core} (h : 0 < c.depth) (rs : List (List Byte)) : Safety.undoLogged c rs = c.logged rs :=
  if_neg (Nat.pos_iff_ne_zero.1 h)

theorem Core.logged_cons (c : Core) (r : List Byte) (rs : List (List Byte)) : c.logged (r :: rs) =
    Core.logged { Safety.withScratch c c.regions.logPos r with
      regions := { c.regions with logPos := c.regions.logPos + r.length } } rs := rfl

/-- Logging changes the pool, its poison and the log position. -/
theorem Core.logged_only : ∀ (rs : List (List Byte)) (c : Core), ∃ p q n,
    c.logged rs = { c with pool := p, poison := q, regions := { c.regions with logPos := n } }
  | [], c => ⟨c.pool, c.poison, c.regions.logPos, rfl⟩
  | r :: rs, c => by
    obtain ⟨p, q, n, h⟩ := Core.logged_only rs { Safety.withScratch c c.regions.logPos r with
      regions := { c.regions with logPos := c.regions.logPos + r.length } }
    exact ⟨p, q, n, by rw [Core.logged_cons, h]; rfl⟩

theorem Core.logged_wf : ∀ (rs : List (List Byte)) (c : Core), c.pool.wf = true → (c.logged rs).pool.wf = true
  | [], _, h => h
  | _ :: rs, _, h => Core.logged_wf rs _ (Mem.write_wf h _ _)

/-- Undo records change the pool, its poison and the log position. -/
theorem undoLogged_only (c : Core) (rs : List (List Byte)) : ∃ p q n,
    Safety.undoLogged c rs = { c with pool := p, poison := q, regions := { c.regions with logPos := n } } := by
  rcases Nat.eq_zero_or_pos c.depth with h | h
  · exact ⟨c.pool, c.poison, c.regions.logPos, undoLogged_zero h rs⟩
  · rw [undoLogged_pos h]; exact Core.logged_only rs c

theorem undoLogged_spBase (c : Core) (rs : List (List Byte)) : (Safety.undoLogged c rs).spBase = c.spBase := by
  obtain ⟨p, q, n, h⟩ := undoLogged_only c rs
  rw [h]; rfl

theorem undoLogged_wf {c : Core} (h : c.pool.wf = true) (rs : List (List Byte)) : (Safety.undoLogged c rs).pool.wf = true := by
  unfold Safety.undoLogged
  split
  · exact h
  · exact Core.logged_wf rs c h

/-- A record that fits is appended. -/
theorem Core.logAppend_fits {c : Core} {kind loc : Nat} {data : List Byte}
    (h : c.regions.logPos + (logRecord kind loc data).length ≤ c.regions.logEnd) :
    c.logAppend kind loc data = some { Safety.withScratch c c.regions.logPos (logRecord kind loc data) with
      regions := { c.regions with logPos := c.regions.logPos + (logRecord kind loc data).length } } := by
  simp only [Core.logAppend, Core.spWrite_eq c _ (logRecord_ne_nil kind loc data)]
  rw [if_neg (by omega)]; rfl

theorem Core.logAppend_full {c : Core} {kind loc : Nat} {data : List Byte}
    (h : c.regions.logEnd < c.regions.logPos + (logRecord kind loc data).length) : c.logAppend kind loc data = none := by
  simp only [Core.logAppend]
  rw [if_pos (by omega)]

/-- The bytes of a record to append. -/
def recordBytes (r : Nat × Nat × List Byte) : List Byte := logRecord r.1 r.2.1 r.2.2

/-- Records that fit are all appended. -/
theorem Core.logAll_fits : ∀ (rs : List (Nat × Nat × List Byte)) (c : Core),
    c.regions.logPos + ((rs.map recordBytes).map (·.length)).sum ≤ c.regions.logEnd →
    c.logAll rs = (c.logged (rs.map recordBytes), true)
  | [], _, _ => rfl
  | (kind, loc, data) :: rs, c, h => by
    simp only [List.map_cons, List.sum_cons, recordBytes] at h
    rw [Core.logAll, Core.logAppend_fits (by omega)]
    exact Core.logAll_fits rs _ (by simp only [recordBytes]; omega)

/-- Of records that do not all fit, those before the first one that does not are appended, and OVERFLOW is raised. -/
theorem Core.logAll_full (rs : List (Nat × Nat × List Byte)) (c : Core) (k : Nat) (hk : k < rs.length)
    (hfit : k = 0 ∨ c.regions.logPos + (((rs.map recordBytes).take k).map (·.length)).sum ≤ c.regions.logEnd)
    (hno : c.regions.logEnd < c.regions.logPos + (((rs.map recordBytes).take (k + 1)).map (·.length)).sum) :
    c.logAll rs = ((c.logged ((rs.map recordBytes).take k)).caught 4 0, false) := by
  induction rs generalizing c k with
  | nil => simp at hk
  | cons r rs ih =>
    obtain ⟨kind, loc, data⟩ := r
    simp only [List.map_cons, List.take_succ_cons, List.sum_cons, recordBytes] at hno
    cases k with
    | zero =>
      simp only [List.take_zero, List.map_nil, List.sum_nil] at hno
      rw [Core.logAll, Core.logAppend_full (by omega)]
      simp only [List.take_zero, Core.logged, List.foldl_nil]
    | succ k =>
      simp only [List.map_cons, List.take_succ_cons, List.sum_cons, recordBytes, Nat.add_one_ne_zero, false_or] at hfit
      rw [Core.logAll, Core.logAppend_fits (by omega)]
      exact ih _ k (Nat.lt_of_succ_lt_succ hk) (.inr (by simp only [recordBytes]; omega)) (by simp only [recordBytes]; omega)

/-! ### Scratchpad stores (R50, R268, R281) -/

/-- The undo records of a scratchpad store. -/
def Core.undoOf (c : Core) (parts : List (Nat × List Byte × (Nat → Bool))) : List (List Byte) :=
  parts.map fun p => logRecord 0 p.1 (c.spRead p.1 p.2.1.length)

theorem Core.undoOf_eq (c : Core) (parts : List (Nat × List Byte × (Nat → Bool))) :
    (parts.map fun p => (0, p.1, c.spRead p.1 p.2.1.length)).map recordBytes = c.undoOf parts := by
  simp only [List.map_map]; rfl

/-- A store whose undo records fit, or that needs none, writes its parts after them. -/
theorem Core.spStore_fits {c : Core} {parts : List (Nat × List Byte × (Nat → Bool))} (h : Safety.logFits c (c.undoOf parts)) :
    c.spStore parts = parts.foldl (fun c p => c.spPut p.1 p.2.1 p.2.2) (Safety.undoLogged c (c.undoOf parts)) := by
  rcases Nat.eq_zero_or_pos c.depth with hd | hd
  · simp [Core.spStore, hd, undoLogged_zero hd]
  · have hfit := h.resolve_left (by omega)
    rw [← Core.undoOf_eq] at hfit
    simp only [Core.spStore, if_pos hd, Core.logAll_fits _ _ hfit, Core.undoOf_eq, undoLogged_pos hd, if_true]

/-- A store one of whose undo records does not fit raises OVERFLOW after those before it, and writes nothing. -/
theorem Core.spStore_full {c : Core} {parts : List (Nat × List Byte × (Nat → Bool))} {k : Nat} (hk : k < parts.length)
    (hfit : k = 0 ∨ Safety.logFits c ((c.undoOf parts).take k)) (hno : ¬ Safety.logFits c ((c.undoOf parts).take (k + 1))) :
    c.spStore parts = (Safety.undoLogged c ((c.undoOf parts).take k)).caught 4 0 := by
  obtain ⟨hd, hno⟩ := not_or.1 hno
  have hfit := hfit.imp_right fun h => h.resolve_left hd
  have hd : 0 < c.depth := by omega
  rw [← Core.undoOf_eq] at hfit hno
  simp only [Core.spStore, if_pos hd, Core.logAll_full _ c k (by simpa using hk) hfit (by omega), Core.undoOf_eq,
    undoLogged_pos hd, Bool.false_eq_true, if_false]

theorem Core.mark_logAppend (c : Core) (kind loc : Nat) (data : List Byte) :
    c.mark.logAppend kind loc data = (c.logAppend kind loc data).map Core.mark := by
  by_cases h : c.regions.logPos + (logRecord kind loc data).length ≤ c.regions.logEnd
  · rw [Core.logAppend_fits h, Core.logAppend_fits (c := c.mark) h]; rfl
  · rw [Core.logAppend_full (Nat.lt_of_not_le h), Core.logAppend_full (c := c.mark) (Nat.lt_of_not_le h)]; rfl

theorem Core.mark_logAll : ∀ (rs : List (Nat × Nat × List Byte)) (c : Core), c.mark.logAll rs = ((c.logAll rs).1.mark, (c.logAll rs).2)
  | [], _ => rfl
  | (kind, loc, data) :: rs, c => by
    rw [Core.logAll, Core.logAll, Core.mark_logAppend]
    cases c.logAppend kind loc data with
    | none => exact congrArg (·, false) (Core.mark_caught c 4 0)
    | some d => exact Core.mark_logAll rs d

theorem Core.mark_spPuts : ∀ (ps : List (Nat × List Byte × (Nat → Bool))) (c : Core),
    ps.foldl (fun c p => c.spPut p.1 p.2.1 p.2.2) c.mark = (ps.foldl (fun c p => c.spPut p.1 p.2.1 p.2.2) c).mark
  | [], _ => rfl
  | p :: ps, c => Core.mark_spPuts ps (c.spPut p.1 p.2.1 p.2.2)

/-- A scratchpad store does not depend on the slot's mark. -/
theorem Core.mark_spStore (c : Core) (parts : List (Nat × List Byte × (Nat → Bool))) : c.mark.spStore parts = (c.spStore parts).mark := by
  have hlog : c.mark.logAll (parts.map fun p => (0, p.1, c.mark.spRead p.1 p.2.1.length)) =
      ((c.logAll (parts.map fun p => (0, p.1, c.spRead p.1 p.2.1.length))).1.mark,
        (c.logAll (parts.map fun p => (0, p.1, c.spRead p.1 p.2.1.length))).2) := Core.mark_logAll _ c
  unfold Core.spStore
  rw [show c.mark.depth = c.depth from rfl]
  by_cases hd : c.depth > 0
  · simp only [if_pos hd, hlog]
    split
    · exact Core.mark_spPuts parts _
    · rfl
  · simp only [if_neg hd, if_true]
    exact Core.mark_spPuts parts c

/-- What one block put into the scratchpad does: the bytes its mask keeps, and a granule clear exactly when it is covered. -/
theorem Core.spPut_stored {c : Core} (h : c.pool.wf = true) (o : Nat) (keep : Mask) (d : VReg) : ∃ p q,
    c.spPut o (vBytes d) (fun j => keep.getLsbD j) = { c with pool := p, poison := q } ∧ Safety.blockStored c o keep d p q := by
  refine ⟨_, _, rfl, fun a => ?_, fun g => ?_⟩
  · rw [Mem.byte_write]
    simp only [List.length_map, List.length_range, vBytes_length]
    by_cases ha : c.spBase + o ≤ a ∧ a < c.spBase + o + 256
    · have hj : a - (c.spBase + o) < 256 := by omega
      rw [if_pos ha, List.getD_eq_getElem _ _ (by simpa using hj)]
      simp only [List.getElem_map, List.getElem_range, Core.poolRead, Mem.read_eq h]
      rw [vBytes_getD d hj, List.getD_eq_getElem _ _ (by simpa using hj)]
      simp only [List.getElem_map, List.getElem_range]
      by_cases hk : keep.getLsbD (a - (c.spBase + o)) = true
      · rw [if_pos hk, if_pos ⟨ha.1, ha.2, hk⟩]
      · rw [if_neg hk, if_neg (fun hh => hk hh.2.2)]
        congr 1; omega
    · rw [if_neg ha, if_neg (fun hh => ha ⟨hh.1, hh.2.1⟩)]
  · simp only [List.mem_filter, vBytes_length, Bool.not_eq_true', Bool.and_eq_false_iff, decide_eq_false_iff_not,
      List.all_eq_false, List.mem_range]
    refine and_congr_right fun _ => ⟨?_, fun hno => ?_⟩
    · rintro ((hlt | hlt) | ⟨j, hj, hk⟩) hall
      · have := hall 0 (by omega); omega
      · have := hall 31 (by omega); omega
      · exact hk (hall j hj).2.2
    · by_contra hc
      push Not at hc
      obtain ⟨⟨h1, h2⟩, hall⟩ := hc
      exact hno fun j hj => ⟨by omega, by omega, hall j hj⟩

/-! ### V slots that trap -/

theorem State.vslot_traps {s : State} {named : List (BitVec 5)} {bad : List (Bool × Nat)} {code : Nat} (h : Safety.freeV s.core named)
    (hc : s.core.issue.checked = false) (hbad : firstBad bad = some code) (stall : Bool) (effect : Core → Core) :
    s.vslot named bad stall effect = .next (s.trapAt code s.core.issue.slot) := by
  have hon : (!s.core.issue.suppressed) = true := by rw [h.1]; rfl
  simp only [State.vslot, freeV_ok h, hbad, hon, State.slot_traps hc]

theorem State.vslot_stalls {s : State} {named : List (BitVec 5)} {bad : List (Bool × Nat)} (h : Safety.freeV s.core named)
    (hc : s.core.issue.checked = false) (hbad : firstBad bad = none) (effect : Core → Core) :
    s.vslot named bad true effect = .next (s.flow .stalled) := by
  have hon : (!s.core.issue.suppressed) = true := by rw [h.1]; rfl
  simp only [State.vslot, freeV_ok h, hbad, hon, State.slot_stalls hc]

end Sys2Proof.Machine

namespace Sys2Proof.Machine

/-! ### VLD and VST (R419) -/

theorem Core.vPostInc_eq (c : Core) (x : VMem) : c.vPostInc x = Safety.withVPost c x := by
  have hoff : c.src 0 x.base + x.off.signExtend 64 * 256 = c.src 0 x.base + BitVec.ofInt 64 (256 * x.off.toInt) := by
    rw [BitVec.ofInt_mul, BitVec.mul_comm]; rfl
  simp only [Core.vPostInc, Safety.withVPost, hoff]; rfl

theorem Core.mark_withVPost (c : Core) (x : VMem) : Safety.withVPost c.mark x = (Safety.withVPost c x).mark := by
  unfold Safety.withVPost
  cases x.pi <;> rfl

theorem withVPost_poison (c : Core) (x : VMem) : (Safety.withVPost c x).poison = c.poison := by
  unfold Safety.withVPost
  cases x.pi <;> rfl

/-- An aligned offset inside the share passes the checks of a VM form. -/
theorem Core.vMemBad_none {c : Core} {x : VMem} {o : Nat} (ho : Safety.vectorOff c x = o) (ha : o % 64 = 0)
    (hs : o + 256 ≤ c.sp * 16384) : firstBad (c.vMemBad x) = none := by
  have hp : c.vPlace x = o := ho
  have hal : ((o : Int) % 64 != 0) = false := by simp; omega
  have hin : c.inShare o 256 = true := by simp [Core.inShare, Core.spBytes, hs]
  have hneg : ¬ ((o : Int) < 0) := by omega
  simp [Core.vMemBad, Core.vOffset, hp, hal, hin, hneg]

theorem Core.vMemBad_misalign {c : Core} {x : VMem} (h : Safety.vectorOff c x % 64 ≠ 0) :
    firstBad (c.vMemBad x) = some cMisalign := by
  have hal : (c.vPlace x % 64 != 0) = true := bne_iff_ne.2 h
  rw [Core.vMemBad, hal, firstBad_true]

theorem Core.vMemBad_range {c : Core} {x : VMem} (ha : Safety.vectorOff c x % 64 = 0)
    (h : Safety.vectorOff c x < 0 ∨ (c.sp * 16384 : Nat) < Safety.vectorOff c x + 256) : firstBad (c.vMemBad x) = some cSpadRange := by
  have hal : (c.vPlace x % 64 != 0) = false := bne_eq_false_iff_eq.2 ha
  have hout : (decide (c.vPlace x < 0) || !c.inShare (c.vOffset x) 256) = true := by
    have hp : c.vPlace x = Safety.vectorOff c x := rfl
    simp only [Core.inShare, Core.spBytes, Core.vOffset, hp, Bool.or_eq_true, decide_eq_true_eq, Bool.not_eq_true',
      decide_eq_false_iff_not]
    omega
  rw [Core.vMemBad, hal, hout, firstBad_false, firstBad_true]

/-- VLD at an aligned offset inside the share. -/
theorem vld_runs {x : VMem} {s : State} {o : Nat} (ho : Safety.vectorOff s.core x = o) (h : Safety.freeV s.core [x.v])
    (hb : s.core.pending x.base = false) (ha : o % 64 = 0) (hs : o + 256 ≤ s.core.sp * 16384) :
    exec (.vld x) s = .next (Safety.ranTo s (Safety.consumed
      (Safety.withVPost (Safety.withVector s.core x.v x.m (vOfBytes (s.core.spRead o 256))) x)
      (poisonedIn s.core.poison (s.core.spBase + o) 256))) := by
  have hbad : firstBad (if s.core.pending x.base then [] else s.core.vMemBad x) = none := by
    simp [hb, Core.vMemBad_none ho ha hs]
  refine (State.vslot_runs h hbad hb _).trans (congrArg _ (State.onCore_mark ?_))
  have hoff : s.core.mark.vOffset x = o := by rw [show s.core.mark.vOffset x = (Safety.vectorOff s.core x).toNat from rfl, ho]; rfl
  rw [← Core.mark_consumed, ← Core.mark_withVPost]
  simp only [hoff, Core.vPostInc_eq]
  show Safety.consumed _ (poisonedIn (Safety.withVPost _ x).poison _ 256) = _
  rw [withVPost_poison]
  rfl

/-- A VLD or VST whose offset fails its check traps. -/
theorem vmem_traps {x : VMem} {s : State} {code : Nat} (h : Safety.freeV s.core [x.v]) (hb : s.core.pending x.base = false)
    (hc : s.core.issue.checked = false) (hbad : firstBad (s.core.vMemBad x) = some code) :
    exec (.vld x) s = .next (s.trapAt code s.core.issue.slot) ∧ exec (.vst x) s = .next (s.trapAt code s.core.issue.slot) := by
  have hbad : firstBad (if s.core.pending x.base then [] else s.core.vMemBad x) = some code := by simpa [hb] using hbad
  exact ⟨State.vslot_traps h hc hbad _ _, State.vslot_traps h hc hbad _ _⟩

/-! ### One block into the scratchpad, undo-logged inside a region -/

theorem Core.undoOf_block (c : Core) (o : Nat) (d : VReg) (keep : Nat → Bool) :
    c.undoOf [(o, vBytes d, keep)] = [logRecord 0 o (c.spRead o 256)] := by
  simp only [Core.undoOf, List.map_cons, List.map_nil, vBytes_length]

/-- A store of one block whose record fits. -/
theorem Core.spStore_block {c : Core} (hwf : c.pool.wf = true) {o : Nat} {keep : Mask} {d : VReg}
    (h : Safety.logFits c [logRecord 0 o (c.spRead o 256)]) : ∃ p q,
    c.spStore [(o, vBytes d, fun j => keep.getLsbD j)] =
      { Safety.undoLogged c [logRecord 0 o (c.spRead o 256)] with pool := p, poison := q } ∧
    Safety.blockStored (Safety.undoLogged c [logRecord 0 o (c.spRead o 256)]) o keep d p q := by
  rw [Core.spStore_fits (by rwa [Core.undoOf_block]), Core.undoOf_block]
  exact Core.spPut_stored (undoLogged_wf hwf _) o keep d

/-- A store of one block whose record does not fit. -/
theorem Core.spStore_block_full {c : Core} {o : Nat} {keep : Mask} {d : VReg}
    (h : ¬ Safety.logFits c [logRecord 0 o (c.spRead o 256)]) :
    c.spStore [(o, vBytes d, fun j => keep.getLsbD j)] = c.caught 4 0 := by
  rw [Core.spStore_full (k := 0) (by simp) (.inl rfl) (by rwa [Core.undoOf_block]), List.take_zero]
  unfold Safety.undoLogged
  simp

theorem vst_runs {x : VMem} {s : State} {o : Nat} (ho : Safety.vectorOff s.core x = o) (h : Safety.freeV s.core [x.v])
    (hb : s.core.pending x.base = false) (ha : o % 64 = 0) (hs : o + 256 ≤ s.core.sp * 16384) :
    exec (.vst x) s = .next (Safety.ranTo s (Safety.withVPost
      (s.core.spStore [(o, vBytes (s.core.getV x.v), fun j => (s.core.laneMask x.m).getLsbD j)]) x)) := by
  have hbad : firstBad (if s.core.pending x.base then [] else s.core.vMemBad x) = none := by
    simp [hb, Core.vMemBad_none ho ha hs]
  refine (State.vslot_runs h hbad hb _).trans (congrArg _ (State.onCore_mark ?_))
  have hoff : s.core.mark.vOffset x = o := by rw [show s.core.mark.vOffset x = (Safety.vectorOff s.core x).toNat from rfl, ho]; rfl
  simp only [Core.vPostInc_eq, hoff]
  rw [← Core.mark_withVPost, ← Core.mark_spStore]; rfl

/-! ### VLDX and VSTX (R422) -/

theorem Core.vxLanes_eq (c : Core) (x : VX) : c.vxLanes x =
    ((List.range (256 / 2 ^ x.size.toNat)).filter fun i => (c.laneMask x.m).getLsbD (i * 2 ^ x.size.toNat)).map
      fun i => (i, Safety.element c x i) := by
  simp only [Core.vxLanes, laneOn, sizeBytes, Nat.mul_div_cancel_left _ (show 0 < 8 by decide)]
  rfl

theorem Core.mem_vxLanes {c : Core} {x : VX} {p : Nat × Nat} :
    p ∈ c.vxLanes x ↔ Safety.vxOn c x p.1 ∧ p.2 = Safety.element c x p.1 := by
  rw [Core.vxLanes_eq]
  obtain ⟨i, a⟩ := p
  simp only [List.mem_map, List.mem_filter, List.mem_range, Prod.mk.injEq, Safety.vxOn]
  constructor
  · rintro ⟨j, hj, rfl, rfl⟩; exact ⟨hj, rfl⟩
  · rintro ⟨hi, rfl⟩; exact ⟨i, hi, rfl, rfl⟩

theorem Core.vxBad_none {c : Core} {x : VX} (ha : (c.src 0 x.base).toNat % 2 ^ x.size.toNat = 0)
    (hs : ∀ i, Safety.vxOn c x i → Safety.element c x i + 2 ^ x.size.toNat ≤ c.sp * 16384) : firstBad (c.vxBad x) = none := by
  rw [firstBad_eq_none]
  simp only [Core.vxBad, List.forall_mem_cons, sizeBytes, ha, bne_self_eq_false, true_and, List.not_mem_nil, false_imp_iff,
    implies_true, and_true, List.any_eq_false]
  intro p hp
  obtain ⟨hon, hv⟩ := Core.mem_vxLanes.1 hp
  simpa [Core.inShare, Core.spBytes, hv] using hs p.1 hon

theorem Core.vxBad_misalign {c : Core} {x : VX} (h : (c.src 0 x.base).toNat % 2 ^ x.size.toNat ≠ 0) :
    firstBad (c.vxBad x) = some cMisalign := by
  have hal : ((c.src 0 x.base).toNat % sizeBytes x.size != 0) = true := bne_iff_ne.2 h
  rw [Core.vxBad, hal, firstBad_true]

theorem Core.vxBad_range {c : Core} {x : VX} (ha : (c.src 0 x.base).toNat % 2 ^ x.size.toNat = 0)
    (h : ∃ i, Safety.vxOn c x i ∧ c.sp * 16384 < Safety.element c x i + 2 ^ x.size.toNat) : firstBad (c.vxBad x) = some cSpadRange := by
  obtain ⟨i, hon, hi⟩ := h
  have hal : ((c.src 0 x.base).toNat % sizeBytes x.size != 0) = false := bne_eq_false_iff_eq.2 ha
  have hout : ((c.vxLanes x).any fun p => !c.inShare p.2 (sizeBytes x.size)) = true :=
    List.any_eq_true.2 ⟨(i, Safety.element c x i), Core.mem_vxLanes.2 ⟨hon, rfl⟩, by
      simp [Core.inShare, Core.spBytes, sizeBytes, Nat.not_le.2 hi]⟩
  rw [Core.vxBad, hal, hout, firstBad_false, firstBad_true]

theorem vx_traps {x : VX} {s : State} {code : Nat} (h : Safety.freeV s.core [x.d, x.a]) (hb : s.core.pending x.base = false)
    (hc : s.core.issue.checked = false) (hbad : firstBad (s.core.vxBad x) = some code) :
    exec (.vldx x) s = .next (s.trapAt code s.core.issue.slot) ∧ exec (.vstx x) s = .next (s.trapAt code s.core.issue.slot) := by
  have hbad : firstBad (if s.core.pending x.base then [] else s.core.vxBad x) = some code := by simpa [hb] using hbad
  exact ⟨State.vslot_traps h hc hbad _ _, State.vslot_traps h hc hbad _ _⟩

/-- What VLDX puts into lane i: its element, or zero where the lane is not active. -/
def Core.gathered (c : Core) (x : VX) (i : Nat) : Nat :=
  match (c.vxLanes x).find? fun p => p.1 == i with
  | some p => leVal (c.spRead p.2 (2 ^ x.size.toNat))
  | none => 0

theorem Core.gathered_on {c : Core} {x : VX} {i : Nat} (h : Safety.vxOn c x i) :
    c.gathered x i = leVal (c.spRead (Safety.element c x i) (2 ^ x.size.toNat)) := by
  have hmem : (i, Safety.element c x i) ∈ c.vxLanes x := Core.mem_vxLanes.2 ⟨h, rfl⟩
  unfold Core.gathered
  cases hf : (c.vxLanes x).find? fun p => p.1 == i with
  | none => exact absurd (List.find?_eq_none.1 hf _ hmem) (by simp)
  | some p =>
    have hi : p.1 = i := by simpa using List.find?_some hf
    show leVal (c.spRead p.2 _) = _
    rw [(Core.mem_vxLanes.1 (List.mem_of_find?_eq_some hf)).2, hi]

theorem vldx_runs {x : VX} {s : State} (h : Safety.freeV s.core [x.d, x.a]) (hb : s.core.pending x.base = false)
    (ha : (s.core.src 0 x.base).toNat % 2 ^ x.size.toNat = 0)
    (hs : ∀ i, Safety.vxOn s.core x i → Safety.element s.core x i + 2 ^ x.size.toNat ≤ s.core.sp * 16384)
    (hp : ∀ i, Safety.vxOn s.core x i → poisonedIn s.core.poison (s.core.spBase + Safety.element s.core x i) (2 ^ x.size.toNat) = false) :
    exec (.vldx x) s = .next (Safety.ranTo s (Safety.withResult s.core
      (.v x.d (byLane (8 * 2 ^ x.size.toNat) (s.core.gathered x)) (laneKeep (s.core.laneMask x.m) (8 * 2 ^ x.size.toNat)))
      (s.core.latency 11 4) (2 + s.core.issue.unit))) := by
  have hbad : firstBad (if s.core.pending x.base then [] else s.core.vxBad x) = none := by
    simp [hb, Core.vxBad_none ha hs]
  refine (State.vslot_runs h hbad hb _).trans (congrArg _ (State.onCore_mark ?_))
  have hok : ((s.core.mark.vxLanes x).any fun p => poisonedIn s.core.mark.poison (s.core.mark.spBase + p.2) (sizeBytes x.size)) = false :=
    List.any_eq_false.2 fun p hm => by
      obtain ⟨hon, hv⟩ := Core.mem_vxLanes.1 hm
      rw [hv]; exact Bool.eq_false_iff.1 (hp p.1 hon)
  simp only [hok, Bool.false_eq_true, if_false]
  rfl

/-! ### Writes of several blocks -/

/-- A byte that no block covers is as before. -/
theorem Mem.byte_writes_other {a : Nat} : ∀ (ps : List (Nat × List Byte)) (m : Mem), (∀ p ∈ ps, ¬ (p.1 ≤ a ∧ a < p.1 + p.2.length)) →
    Mem.byte (ps.foldl (fun m p => m.write p.1 p.2) m) a = m.byte a
  | [], _, _ => rfl
  | p :: ps, m, h => by
    rw [List.foldl_cons, Mem.byte_writes_other ps _ fun q hq => h q (List.mem_cons_of_mem _ hq)]
    exact Mem.byte_write_other _ _ _ _ (h p List.mem_cons_self)

/-- A byte that a block covers and no later one does is that block's. -/
theorem Mem.byte_writes_last {a : Nat} (pre post : List (Nat × List Byte)) (p : Nat × List Byte) (m : Mem)
    (hp : p.1 ≤ a ∧ a < p.1 + p.2.length) (h : ∀ q ∈ post, ¬ (q.1 ≤ a ∧ a < q.1 + q.2.length)) :
    Mem.byte ((pre ++ p :: post).foldl (fun m p => m.write p.1 p.2) m) a = p.2.getD (a - p.1) 0 := by
  rw [List.foldl_append, List.foldl_cons, Mem.byte_writes_other post _ h, Mem.byte_write, if_pos hp]

/-- Blocks smaller than a granule, written whole, change the pool alone. -/
theorem Core.spPuts_small : ∀ (ps : List (Nat × List Byte × (Nat → Bool))) (c : Core),
    (∀ p ∈ ps, p.2.1.length < 32 ∧ ∀ j, p.2.2 j = true) →
    ps.foldl (fun c p => c.spPut p.1 p.2.1 p.2.2) c =
      { c with pool := (ps.map fun p => (c.spBase + p.1, p.2.1)).foldl (fun m p => m.write p.1 p.2) c.pool }
  | [], _, _ => rfl
  | (o, bs, keep) :: ps, c, h => by
    obtain ⟨hlen, hkeep⟩ := h _ List.mem_cons_self
    have hput : c.spPut o bs keep = { c with pool := c.pool.write (c.spBase + o) bs } := by
      have hpoison : c.poison.filter (fun g => !(decide (c.spBase + o ≤ 32 * g) && decide (32 * g + 32 ≤ c.spBase + o + bs.length) &&
          (List.range 32).all fun j => keep (32 * g + j - (c.spBase + o)))) = c.poison :=
        List.filter_eq_self.2 fun g _ => by
          have : ¬ (c.spBase + o ≤ 32 * g ∧ 32 * g + 32 ≤ c.spBase + o + bs.length) := by
            have : bs.length < 32 := hlen
            omega
          simp only [Bool.not_eq_true', Bool.and_eq_false_iff, decide_eq_false_iff_not]
          exact .inl (not_and_or.1 this)
      have hbytes : ((List.range bs.length).map fun i => if keep i then bs.getD i 0 else (c.poolRead (c.spBase + o) bs.length).getD i 0) = bs := by
        simp only [show ∀ i, keep i = true from hkeep, if_true]
        exact range_getD bs
      simp only [Core.spPut, hpoison, hbytes]
    rw [List.foldl_cons, hput, Core.spPuts_small ps _ fun q hq => h q (List.mem_cons_of_mem _ hq)]
    rfl

end Sys2Proof.Machine

namespace Sys2Proof.Machine

/-! ### VSTX (R422) -/

/-- The parts that VSTX stores: each active lane's element. -/
def Core.vxParts (c : Core) (x : VX) : List (Nat × List Byte × (Nat → Bool)) :=
  (c.vxLanes x).map fun p => (p.2, toBytes (2 ^ x.size.toNat) (lane (8 * 2 ^ x.size.toNat) p.1 (c.getV x.d)), fun _ => true)

theorem vstx_runs {x : VX} {s : State} (h : Safety.freeV s.core [x.d, x.a]) (hb : s.core.pending x.base = false)
    (ha : (s.core.src 0 x.base).toNat % 2 ^ x.size.toNat = 0)
    (hs : ∀ i, Safety.vxOn s.core x i → Safety.element s.core x i + 2 ^ x.size.toNat ≤ s.core.sp * 16384) :
    exec (.vstx x) s = .next (Safety.ranTo s (s.core.spStore (s.core.vxParts x))) := by
  have hbad : firstBad (if s.core.pending x.base then [] else s.core.vxBad x) = none := by
    simp [hb, Core.vxBad_none ha hs]
  exact (State.vslot_runs h hbad hb _).trans (congrArg _ (State.onCore_mark (Core.mark_spStore _ _)))

theorem Core.undoOf_vxParts (c : Core) (x : VX) : c.undoOf (c.vxParts x) =
    ((List.range (256 / 2 ^ x.size.toNat)).filter fun i => (c.laneMask x.m).getLsbD (i * 2 ^ x.size.toNat)).map
      fun i => logRecord 0 (Safety.element c x i) (c.spRead (Safety.element c x i) (2 ^ x.size.toNat)) := by
  simp only [Core.undoOf, Core.vxParts, Core.vxLanes_eq, List.map_map]
  refine List.map_congr_left fun i _ => ?_
  simp only [Function.comp_apply, toBytes_length]

/-- The blocks of pool bytes that VSTX writes. -/
def Core.vxBlocks (c : Core) (x : VX) : List (Nat × List Byte) := (c.vxParts x).map fun p => (c.spBase + p.1, p.2.1)

theorem sizeBytes_le (size : BitVec 2) : 2 ^ size.toNat ≤ 8 := by revert size; decide

/-- The parts of VSTX are smaller than a granule and written whole. -/
theorem Core.vxParts_small {c : Core} {x : VX} : ∀ p ∈ c.vxParts x, p.2.1.length < 32 ∧ ∀ j, p.2.2 j = true := by
  intro p hp
  obtain ⟨q, -, rfl⟩ := List.mem_map.1 hp
  have := sizeBytes_le x.size
  exact ⟨by rw [toBytes_length]; omega, fun _ => rfl⟩

theorem Core.mem_vxBlocks {c : Core} {x : VX} {p : Nat × List Byte} (h : p ∈ c.vxBlocks x) :
    ∃ i, Safety.vxOn c x i ∧ p.1 = c.spBase + Safety.element c x i ∧ p.2.length = 2 ^ x.size.toNat := by
  obtain ⟨q, hq, rfl⟩ := List.mem_map.1 h
  obtain ⟨r, hr, rfl⟩ := List.mem_map.1 hq
  obtain ⟨hon, hv⟩ := Core.mem_vxLanes.1 hr
  exact ⟨r.1, hon, by rw [hv], toBytes_length _ _⟩

/-- The block of an active lane, and after it those of the higher lanes. -/
theorem Core.vxBlocks_split {c : Core} {x : VX} {i : Nat} (h : Safety.vxOn c x i) : ∃ pre post, c.vxBlocks x =
      pre ++ (c.spBase + Safety.element c x i, toBytes (2 ^ x.size.toNat) (lane (8 * 2 ^ x.size.toNat) i (c.getV x.d))) :: post ∧
    ∀ p ∈ post, ∃ k, i < k ∧ Safety.vxOn c x k ∧ p.1 = c.spBase + Safety.element c x k ∧ p.2.length = 2 ^ x.size.toNat := by
  have hmem : i ∈ (List.range (256 / 2 ^ x.size.toNat)).filter fun i => (c.laneMask x.m).getLsbD (i * 2 ^ x.size.toNat) :=
    List.mem_filter.2 ⟨List.mem_range.2 h.1, h.2⟩
  obtain ⟨pre, post, hsplit⟩ := List.append_of_mem hmem
  have hsorted := (List.pairwise_lt_range (n := 256 / 2 ^ x.size.toNat)).filter
    fun i => (c.laneMask x.m).getLsbD (i * 2 ^ x.size.toNat)
  rw [hsplit] at hsorted
  have hlater := (List.pairwise_cons.1 (List.pairwise_append.1 hsorted).2.1).1
  simp only [Core.vxBlocks, Core.vxParts, Core.vxLanes_eq, hsplit, List.map_append, List.map_cons]
  refine ⟨_, _, rfl, fun p hp => ?_⟩
  simp only [List.map_map, List.mem_map, Function.comp_apply] at hp
  obtain ⟨k, hk, rfl⟩ := hp
  have hin : k ∈ pre ++ i :: post := List.mem_append_right _ (List.mem_cons_of_mem _ hk)
  rw [← hsplit] at hin
  obtain ⟨hr, hon⟩ := List.mem_filter.1 hin
  exact ⟨k, hlater k hk, ⟨List.mem_range.1 hr, hon⟩, rfl, toBytes_length _ _⟩

/-- Elements of one slot coincide or are apart. -/
theorem element_apart {c : Core} {x : VX} {i k : Nat} (h : Safety.element c x k ≠ Safety.element c x i) :
    Safety.element c x k + 2 ^ x.size.toNat ≤ Safety.element c x i ∨ Safety.element c x i + 2 ^ x.size.toNat ≤ Safety.element c x k := by
  simp only [Safety.element] at h ⊢
  generalize lane (8 * 2 ^ x.size.toNat) k (c.getV x.a) = m at *
  generalize lane (8 * 2 ^ x.size.toNat) i (c.getV x.a) = n at *
  rcases lt_trichotomy m n with hlt | rfl | hlt
  · have := Nat.mul_le_mul_right (2 ^ x.size.toNat) hlt
    rw [Nat.succ_mul] at this
    left; omega
  · exact absurd rfl h
  · have := Nat.mul_le_mul_right (2 ^ x.size.toNat) hlt
    rw [Nat.succ_mul] at this
    right; omega

/-- VSTX whose records fit: the pool with the blocks written after them. -/
theorem vstx_stores {x : VX} {s : State} (h : Safety.freeV s.core [x.d, x.a]) (hb : s.core.pending x.base = false)
    (ha : (s.core.src 0 x.base).toNat % 2 ^ x.size.toNat = 0)
    (hs : ∀ i, Safety.vxOn s.core x i → Safety.element s.core x i + 2 ^ x.size.toNat ≤ s.core.sp * 16384)
    (hfit : Safety.logFits s.core (s.core.undoOf (s.core.vxParts x))) :
    exec (.vstx x) s = .next (Safety.ranTo s { Safety.undoLogged s.core (s.core.undoOf (s.core.vxParts x)) with
      pool := (s.core.vxBlocks x).foldl (fun m p => m.write p.1 p.2) (Safety.undoLogged s.core (s.core.undoOf (s.core.vxParts x))).pool }) := by
  rw [vstx_runs h hb ha hs]
  rw [Core.spStore_fits hfit, Core.spPuts_small _ _ Core.vxParts_small, undoLogged_spBase]; rfl

end Sys2Proof.Machine

namespace Sys2Proof
open Machine

/-- Settles O15: VLD and VLDX read the share, and a failing check traps whatever else the slot would do. -/
theorem vectorLoads : Obligations.VectorLoads := by
  refine ⟨?_, ?_, ?_⟩
  · rintro x s v rfl h hb
    refine ⟨fun o ho ha hs => vld_runs ho h hb ha hs, fun hc hv => ?_, fun hc ha hv => ?_⟩
    · exact vmem_traps h hb hc (Core.vMemBad_misalign hv)
    · exact vmem_traps h hb hc (Core.vMemBad_range ha (by exact_mod_cast hv))
  · rintro x s w rfl h hb ha hs hp
    refine ⟨_, vldx_runs h hb ha hs hp, fun i hi => ?_⟩
    have hw : 8 * 2 ^ x.size.toNat ∣ 2048 ∧ 2048 / (8 * 2 ^ x.size.toNat) = 256 / 2 ^ x.size.toNat := by
      generalize x.size = size; revert size; decide
    rw [lane_byLane hw.1 (by positivity) _ (by rw [hw.2]; exact hi.1), Core.gathered_on hi]
    exact Nat.mod_eq_of_lt (by simpa using leVal_lt (s.core.spRead (Safety.element s.core x i) (2 ^ x.size.toNat)))
  · rintro x s w rfl h hb hc
    exact ⟨fun ha => vx_traps h hb hc (Core.vxBad_misalign ha), fun ha hi => vx_traps h hb hc (Core.vxBad_range ha hi)⟩

/-- Settles O16: one block, or one element after another, is put into the share after its undo records. -/
theorem vectorStores : Obligations.VectorStores := by
  refine ⟨?_, ?_⟩
  · rintro x s o undo ho h hb ha hs hwf rfl
    rw [vst_runs ho.symm h hb ha hs]
    refine ⟨fun hfit => ?_, fun hno => ?_⟩
    · obtain ⟨p, q, hst, hblock⟩ := Core.spStore_block (keep := s.core.laneMask x.m) (d := s.core.getV x.v) hwf hfit
      exact ⟨p, q, by rw [hst], hblock⟩
    · rw [Core.spStore_block_full hno]
  · rintro x s w undo rfl h hb ha hs rfl
    rw [← Core.undoOf_vxParts]
    refine ⟨fun hfit => ⟨_, vstx_stores h hb ha hs hfit, fun a hout => ?_, fun i hon hlast j hj => ?_⟩, fun k hk hfit hno => ?_⟩
    · refine Mem.byte_writes_other _ _ fun p hp => ?_
      obtain ⟨i, hi, h1, h2⟩ := Core.mem_vxBlocks hp
      rw [h1, h2]; exact hout i hi
    · obtain ⟨pre, post, hsplit, hpost⟩ := Core.vxBlocks_split hon
      rw [hsplit, Mem.byte_writes_last pre post _ _ ⟨by simp, by simp; omega⟩ fun p hp => ?_]
      · simp only [Nat.add_sub_cancel_left]
        exact toBytes_getD _ _ _ hj
      · obtain ⟨k, hk, hkon, h1, h2⟩ := hpost p hp
        have := element_apart (hlast k hk hkon)
        rw [h1, h2]; omega
    · rw [vstx_runs h hb ha hs]
      rw [Core.spStore_full (by simpa [Core.undoOf] using hk) (.inr hfit) hno]

end Sys2Proof

namespace Sys2Proof.Machine

/-! ### Stream moves (R56, R354, R420) -/

/-- A stream that is bound in the direction of the move, and not past its total, passes the checks. -/
theorem Core.streamBad_none {c : Core} {w : BitVec 3} {b : StreamBind} (hb : (c.stream w).bind = some b)
    (hp : (c.stream w).pos < b.total) : firstBad (c.streamBad w b.write) = none := by
  have hlt : decide ((c.stream w).pos ≥ b.total) = false := decide_eq_false (by omega)
  rw [Core.streamBad, hb]
  simp [hlt]

theorem Core.streamBad_unbound {c : Core} {w : BitVec 3} (hb : (c.stream w).bind = none) (write : Bool) :
    firstBad (c.streamBad w write) = some cIllegalOperation := by rw [Core.streamBad, hb]; rfl

theorem Core.streamBad_against {c : Core} {w : BitVec 3} {b : StreamBind} (hb : (c.stream w).bind = some b) {write : Bool}
    (hw : b.write ≠ write) : firstBad (c.streamBad w write) = some cIllegalOperation := by
  rw [Core.streamBad, hb]
  simp [bne_iff_ne.2 hw]

theorem Core.streamBad_end {c : Core} {w : BitVec 3} {b : StreamBind} (hb : (c.stream w).bind = some b)
    (hp : (c.stream w).pos ≥ b.total) : firstBad (c.streamBad w b.write) = some cStreamEnd := by
  rw [Core.streamBad, hb]
  simp [hp]

/-- VLD_STREAM with an element ready gives it and moves on. -/
theorem vldStream_pops {x : VStr} {s : State} {b : StreamBind} {e : StreamElem} {r : List StreamElem}
    (hb : (s.core.stream x.w).bind = some b) (h : Safety.freeV s.core [x.v]) (hw : b.write = false)
    (hp : (s.core.stream x.w).pos < b.total) (he : (s.core.stream x.w).fifo = e :: r) :
    exec (.vldStream x) s = .next (Safety.ranTo s (Safety.consumed (Safety.withVector
      (s.core.setStream x.w { s.core.stream x.w with fifo := r, pos := (s.core.stream x.w).pos + 1 }) x.v x.m e.data) e.bad)) := by
  have hpop : (s.core.stream x.w).popped = { s.core.stream x.w with fifo := r, pos := (s.core.stream x.w).pos + 1 } := by
    rw [Stream.popped, he]; rfl
  refine (State.vslot_runs h (hw ▸ Core.streamBad_none hb hp) (by rw [he]; rfl) _).trans (congrArg _ (State.onCore_mark ?_))
  have hm : (s.core.mark.stream x.w).fifo = e :: r := he
  simp only [hm]
  rw [← Core.mark_consumed, ← hpop]
  rfl

/-- The queue of a stream bound to memory is full. -/
def Core.streamFull (c : Core) (w : BitVec 3) : Bool :=
  match (c.stream w).bind with
  | some b => !b.sp && decide ((c.stream w).pushed.length ≥ c.fifoDepth)
  | none => false

/-- What VST_STREAM does to the core. -/
def Core.pushStep (k : Core) (x : VStr) : Core :=
  let w := k.stream x.w
  match w.bind with
  | none => k
  | some b =>
    let a := b.addr w.pos
    let keep := if b.padded w.pos then 0 else k.laneMask x.m
    let w := { w with pos := w.pos + 1 }
    if b.sp then
      let k := k.setStream x.w { w with moved := w.moved + 1 }
      k.spStore [(a, vBytes (k.getV x.v), fun j => keep.getLsbD j)]
    else k.pushElem x.w w ⟨a, false, keep, k.getV x.v, false, k.stamp, k.depth, k.fenced 4 ++ k.fenceLeft, b.hint⟩

theorem execVstStream_eq (x : VStr) (s : State) : exec (.vstStream x) s =
    s.vslot [x.v] (s.core.streamBad x.w true) (s.core.streamFull x.w) fun k => k.pushStep x := rfl

/-- The element that VST_STREAM pushes to memory. -/
def Core.pushedElem (c : Core) (x : VStr) (b : StreamBind) : StreamElem :=
  ⟨b.addr (c.stream x.w).pos, false, if b.padded (c.stream x.w).pos then 0 else c.laneMask x.m, c.getV x.v, false, c.stamp,
    c.depth, c.fenced 4 ++ c.fenceLeft, b.hint⟩

theorem Core.pushStep_memory {k : Core} {x : VStr} {b : StreamBind} (hb : (k.stream x.w).bind = some b) (hsp : b.sp = false) :
    k.pushStep x = k.pushElem x.w { k.stream x.w with pos := (k.stream x.w).pos + 1 } (k.pushedElem x b) := by
  simp only [Core.pushStep, hb, hsp, Bool.false_eq_true, if_false]; rfl

theorem Core.pushStep_scratch {k : Core} {x : VStr} {b : StreamBind} (hb : (k.stream x.w).bind = some b) (hsp : b.sp = true) :
    k.pushStep x = (k.setStream x.w { k.stream x.w with pos := (k.stream x.w).pos + 1, moved := (k.stream x.w).moved + 1 }).spStore
      [(b.addr (k.stream x.w).pos, vBytes (k.getV x.v),
        fun j => (if b.padded (k.stream x.w).pos then 0 else k.laneMask x.m).getLsbD j)] := by
  simp only [Core.pushStep, hb, hsp, if_true]; rfl

theorem Core.mark_pushElem (c : Core) (i : BitVec 3) (w : Stream) (e : StreamElem) :
    c.mark.pushElem i w e = (c.pushElem i w e).mark := by
  simp only [Core.pushElem, show c.mark.buffered = c.buffered from rfl]
  split
  · exact Core.mark_caught (c.setStream i _) 4 0
  · rfl

/-- A push does not depend on the slot's mark. -/
theorem Core.mark_pushStep (c : Core) (x : VStr) : c.mark.pushStep x = (c.pushStep x).mark := by
  cases hb : (c.stream x.w).bind with
  | none => simp only [Core.pushStep, hb, show c.mark.stream x.w = c.stream x.w from rfl]
  | some b =>
    cases hsp : b.sp with
    | false => rw [Core.pushStep_memory hb hsp, Core.pushStep_memory (k := c.mark) hb hsp, ← Core.mark_pushElem]; rfl
    | true => rw [Core.pushStep_scratch hb hsp, Core.pushStep_scratch (k := c.mark) hb hsp, ← Core.mark_spStore]; rfl

/-- VST_STREAM to a bound write stream with room. -/
theorem vstStream_runs {x : VStr} {s : State} {b : StreamBind} (hb : (s.core.stream x.w).bind = some b)
    (h : Safety.freeV s.core [x.v]) (hw : b.write = true) (hp : (s.core.stream x.w).pos < b.total)
    (hroom : s.core.streamFull x.w = false) : exec (.vstStream x) s = .next (Safety.ranTo s (s.core.pushStep x)) := by
  rw [execVstStream_eq, State.vslot_runs h (hw ▸ Core.streamBad_none hb hp) hroom]
  exact congrArg _ (State.onCore_mark (Core.mark_pushStep _ _))

theorem Core.streamFull_scratch {c : Core} {w : BitVec 3} {b : StreamBind} (hb : (c.stream w).bind = some b) (hsp : b.sp = true) :
    c.streamFull w = false := by simp [Core.streamFull, hb, hsp]

theorem Core.streamFull_memory {c : Core} {w : BitVec 3} {b : StreamBind} (hb : (c.stream w).bind = some b) (hsp : b.sp = false) :
    c.streamFull w = decide (8 * c.rf ≤ (c.stream w).pushed.length) := by simp [Core.streamFull, hb, hsp, Core.fifoDepth]

/-- A stream slot whose check fails traps. -/
theorem vldStream_traps {x : VStr} {s : State} {code : Nat} (h : Safety.freeV s.core [x.v]) (hc : s.core.issue.checked = false)
    (hbad : firstBad (s.core.streamBad x.w false) = some code) :
    exec (.vldStream x) s = .next (s.trapAt code s.core.issue.slot) := State.vslot_traps h hc hbad _ _

theorem vstStream_traps {x : VStr} {s : State} {code : Nat} (h : Safety.freeV s.core [x.v]) (hc : s.core.issue.checked = false)
    (hbad : firstBad (s.core.streamBad x.w true) = some code) :
    exec (.vstStream x) s = .next (s.trapAt code s.core.issue.slot) := State.vslot_traps h hc hbad _ _

end Sys2Proof.Machine

namespace Sys2Proof
open Machine

/-- Settles O17: a pop gives the first element of the queue; a push is one queue entry, or one block of the share. -/
theorem streamMoves : Obligations.StreamMoves := by
  refine ⟨?_, fun x s h hc => ⟨fun hb => ?_, fun b hb hw => ?_, fun b hb hw => ?_⟩⟩
  · rintro x s st b rfl hb h
    refine ⟨fun hw hp e r he => vldStream_pops hb h hw hp he, fun hw hp he hc => ?_, fun hw hp hsp hroom keep e hkeep he => ?_,
      fun hw hp hsp hfull hc => ?_, fun hw hp hsp hwf keep k undo hkeep hk hundo => ?_⟩
    · refine (congrArg (fun st => s.vslot _ _ st _) ?_).trans (State.vslot_stalls h hc (hw ▸ Core.streamBad_none hb hp) _)
      rw [he]; rfl
    · have hroom : s.core.streamFull x.w = false := by
        rw [Core.streamFull_memory hb hsp]; exact decide_eq_false (by omega)
      have he : e = s.core.pushedElem x b := by rw [he, hkeep]; rfl
      have hcost : e.cost = if keep = 0 then 0 else 1 := by rw [he, hkeep]; rfl
      rw [vstStream_runs hb h hw hp hroom, Core.pushStep_memory hb hsp, ← he, ← hcost]
      have hdepth : e.depth = s.core.depth := by rw [he]; rfl
      refine ⟨fun hok => ?_, fun hd hno => ?_⟩
      · rw [Core.pushElem, if_neg (by omega)]
      · rw [Core.pushElem, if_pos ⟨by omega, by omega⟩]
    · rw [execVstStream_eq, Core.streamFull_memory hb hsp, decide_eq_true hfull]
      exact State.vslot_stalls h hc (hw ▸ Core.streamBad_none hb hp) _
    · rw [vstStream_runs hb h hw hp (Core.streamFull_scratch hb hsp), Core.pushStep_scratch hb hsp, ← hkeep, ← hk]
      have hk' : k.pool = s.core.pool ∧ ∀ o n, k.spRead o n = s.core.spRead o n := by rw [hk]; exact ⟨rfl, fun _ _ => rfl⟩
      rw [← hk'.2] at hundo
      subst hundo
      refine ⟨fun hfit => ?_, fun hno => ?_⟩
      · obtain ⟨p, q, hst, hblock⟩ := Core.spStore_block (keep := keep) (d := s.core.getV x.v) (by rw [hk'.1]; exact hwf) hfit
        exact ⟨p, q, by rw [hst], hblock⟩
      · rw [Core.spStore_block_full hno]
  · exact ⟨vldStream_traps h hc (Core.streamBad_unbound hb _), vstStream_traps h hc (Core.streamBad_unbound hb _)⟩
  · exact ⟨vstStream_traps h hc (Core.streamBad_against hb (by simp [hw])),
      fun hp => vldStream_traps h hc (hw ▸ Core.streamBad_end hb hp)⟩
  · exact ⟨vldStream_traps h hc (Core.streamBad_against hb (by simp [hw])),
      fun hp => vstStream_traps h hc (hw ▸ Core.streamBad_end hb hp)⟩

end Sys2Proof
end

section
/-! PROOFS. Loads, stores and atomic operations; the trap frame and the shared operation of a trap.
From these StoreToScratchpad, StoreToMemory, AtomicOperations, TrapEntry and LoadIssues. -/

namespace Sys2Proof.Machine

/-! ### Scratchpad stores of the S class (R50, R268, R399) -/

/-- A block put whole into the scratchpad. -/
theorem Core.spPut_whole (c : Core) (o : Nat) (bs : List Byte) {keep : Nat → Bool} (h : ∀ j, keep j = true) :
    c.spPut o bs keep = Safety.withScratch c o bs := by
  have hall : ((List.range 32).all fun _ => true) = true := rfl
  simp only [Core.spPut, Safety.withScratch, poisonAfter, h, if_true, range_getD, hall, Bool.and_true, Bool.false_eq_true, if_false]

/-- Canonical memories with the same bytes are the same. -/
theorem Mem.wf_ext {m n : Mem} {lo : Nat} (hm : m.wfFrom lo = true) (hn : n.wfFrom lo = true) (h : ∀ a, m.byte a = n.byte a) :
    m = n := by
  induction m generalizing n lo with
  | nil =>
    cases n with
    | nil => rfl
    | cons q r =>
      obtain ⟨k, b⟩ := q
      simp only [Mem.wfFrom, Bool.and_eq_true, decide_eq_true_eq, bne_iff_ne] at hn
      have := h k
      rw [Mem.byte_cons, if_pos rfl] at this
      exact absurd this.symm hn.1.2
  | cons p r ih =>
    obtain ⟨j, a⟩ := p
    have hm' := hm
    simp only [Mem.wfFrom, Bool.and_eq_true, decide_eq_true_eq, bne_iff_ne] at hm'
    obtain ⟨⟨hj, ha⟩, hr⟩ := hm'
    cases n with
    | nil =>
      have := h j
      rw [Mem.byte_cons, if_pos rfl] at this
      exact absurd this ha
    | cons q t =>
      obtain ⟨k, b⟩ := q
      have hn' := hn
      simp only [Mem.wfFrom, Bool.and_eq_true, decide_eq_true_eq, bne_iff_ne] at hn'
      obtain ⟨⟨hk, hb⟩, ht⟩ := hn'
      have hzero {u : Mem} {x y : Nat} (hu : u.wfFrom (y + 1) = true) (hxy : x ≤ y) : u.byte x = 0 := by
        rw [Mem.byte_eq, Mem.find_none fun c hc => by have := Mem.wfFrom_le hu c hc; omega]; rfl
      have hjk : j = k := by
        rcases lt_trichotomy j k with hlt | heq | hlt
        · have := h j
          rw [Mem.byte_cons, if_pos rfl, Mem.byte_cons, if_neg (by omega), hzero ht (by omega)] at this
          exact absurd this ha
        · exact heq
        · have := h k
          rw [Mem.byte_cons, if_neg (by omega), hzero hr (by omega), Mem.byte_cons, if_pos rfl] at this
          exact absurd this.symm hb
      subst hjk
      have hab := h j
      rw [Mem.byte_cons, if_pos rfl, Mem.byte_cons, if_pos rfl] at hab
      subst hab
      refine congrArg _ (ih hr ht fun x => ?_)
      by_cases hx : j = x
      · rw [hzero hr (by omega), hzero ht (by omega)]
      · have := h x
        rwa [Mem.byte_cons, if_neg hx, Mem.byte_cons, if_neg hx] at this

/-- Bytes written over themselves leave memory as it is. -/
theorem Mem.write_read {m : Mem} (h : m.wf = true) (a n : Nat) : m.write a (m.read a n) = m := by
  refine Mem.wf_ext (lo := 0) (Mem.write_wf h _ _) h fun x => ?_
  rw [Mem.byte_write, Mem.read_length]
  split
  next hx =>
    rw [Mem.read_eq h, List.getD_eq_getElem _ _ (by simp; omega)]
    simp only [List.getElem_map, List.getElem_range]
    congr 1; omega
  · rfl

/-- A store that keeps no byte changes nothing. -/
theorem Core.spPut_none {c : Core} (hwf : c.pool.wf = true) (o : Nat) (bs : List Byte) {keep : Nat → Bool} (h : ∀ j, keep j = false) :
    c.spPut o bs keep = c := by
  have hany (g : Nat) : ((List.range 32).all fun j => keep (32 * g + j - (c.spBase + o))) = false :=
    List.all_eq_false.2 ⟨0, by simp, by simp [h]⟩
  have hbytes : ((List.range bs.length).map fun i => if keep i then bs.getD i 0 else (c.poolRead (c.spBase + o) bs.length).getD i 0) =
      c.pool.read (c.spBase + o) bs.length := by
    simp only [h, Bool.false_eq_true, if_false]
    have := range_getD (c.pool.read (c.spBase + o) bs.length)
    rwa [Mem.read_length] at this
  simp only [Core.spPut, hbytes, Mem.write_read hwf, hany, Bool.and_false, Bool.not_false, List.filter_true]

/-- Outside a region a store of one part needs no record. -/
theorem Core.spStore_one {c : Core} (h : c.depth = 0) (p : Nat × List Byte × (Nat → Bool)) : c.spStore [p] = c.spPut p.1 p.2.1 p.2.2 := by
  rw [Core.spStore_fits (.inl h), undoLogged_zero h]; rfl

theorem Core.mark_withPost (c : Core) (x : SMem) : Safety.withPost c.mark x = (Safety.withPost c x).mark := by
  unfold Safety.withPost
  cases x.pi <;> rfl

/-- The window access of a memory form passes its check. -/
theorem Core.windowBad_ok {c : Core} {x : SMem} {va : Word} (hr : c.issue.replay = none) (hva : va = Safety.addr c x)
    (h : Safety.inWindowShare c va (Safety.width x) ∨ inWindow va.toNat = false) : c.windowBad (c.address x) (sizeBytes x.size) = false := by
  rw [Core.address_eq hr, ← hva]
  rcases h with h | h
  · exact Core.windowBad_of_share h
  · simp [Core.windowBad, h]

/-- ST with its address in the window share stores its bytes there. -/
theorem st_window {x : SMem} {s : State} {va : Word} (hon : s.core.active x.g = true) (hr : s.core.issue.replay = none)
    (hva : va = Safety.addr s.core x) (hb : s.core.pending x.base = false) (hd : s.core.pending x.d = false)
    (hw : Safety.inWindowShare s.core va (Safety.width x)) :
    exec (.st x) s = .next (Safety.ranTo s (Safety.withPost
      (s.core.spStore [(Safety.windowOff va, toBytes (Safety.width x) (s.core.getS x.d).toNat, fun _ => true)]) x)) := by
  have hbad := Core.windowBad_ok hr hva (.inl hw)
  have haddr : s.core.address x = va := by rw [Core.address_eq hr, hva]
  have hsrc : s.core.src 2 x.d = s.core.getS x.d := by rw [Core.src, hr]
  show execSt x s = _
  simp only [execSt, hon, hbad, hb, hd, known_false, firstBad_false, firstBad_nil, Bool.or_self, State.slot_runs]
  rw [show (s.flow .ran).core.address x = va from haddr, show (s.flow .ran).core.src 2 x.d = s.core.getS x.d from hsrc, if_pos hw.1]
  refine congrArg _ (State.onCore_mark ?_)
  rw [Core.postInc_eq, Core.mark_spStore, Core.mark_withPost]; rfl

end Sys2Proof.Machine

namespace Sys2Proof
open Machine

theorem withPost_pool (c : Core) (x : SMem) : (Safety.withPost c x).pool = c.pool := by
  unfold Safety.withPost
  cases x.pi <;> rfl

/-- Settles O6: one whole block, after its record inside a region. -/
theorem storeToScratchpad : Obligations.StoreToScratchpad := by
  intro x s va hon hr hva hb hd hw off bs hoff hbs
  have hst := st_window hon hr hva hb hd hw
  rw [← hoff, ← hbs] at hst
  have hlen : bs.length = Safety.width x := by rw [hbs, toBytes_length]
  refine ⟨fun h0 => ⟨?_, fun a ha => ?_⟩, fun hdepth rcd hrcd hfit => ?_⟩
  · rw [hst, Core.spStore_one h0, Core.spPut_whole _ _ _ fun _ => rfl]
  · rw [withPost_pool]
    exact Mem.byte_write_other _ _ _ _ (by rwa [hlen])
  · have hundo : s.core.undoOf [(off, bs, fun _ => true)] = [rcd] := by
      simp only [Core.undoOf, List.map_cons, List.map_nil, hlen, hrcd]
    rw [hst, Core.spStore_fits (by rw [hundo]; exact .inr (by simpa using hfit)), hundo, undoLogged_pos hdepth]
    simp only [List.foldl_cons, List.foldl_nil]
    rw [Core.spPut_whole _ _ _ fun _ => rfl]; rfl

end Sys2Proof

namespace Sys2Proof.Machine

/-! ### What a write to memory changes of a core: its monitor (R214) -/

/-- The focused core of `t` is that of `s` but for its monitor and sync state. -/
def State.coreKept (s t : State) : Prop := ∃ sy, t.core = { s.core with sync := sy }

theorem State.coreKept_rfl {s t : State} (h : t.core = s.core) : s.coreKept t := ⟨s.core.sync, h⟩

theorem State.coreKept_trans {s t u : State} : s.coreKept t → t.coreKept u → s.coreKept u := by
  rintro ⟨x, hx⟩ ⟨y, hy⟩
  exact ⟨y, by rw [hy, hx]⟩

theorem Core.monitorHit_only (c : Core) (pa n : Nat) : ∃ sy, c.monitorHit pa n = { c with sync := sy } := by
  unfold Core.monitorHit
  split
  · split
    · exact ⟨_, rfl⟩
    · exact ⟨c.sync, rfl⟩
  · exact ⟨c.sync, rfl⟩

theorem State.touch_core (s : State) (pa n : Nat) : (s.touch pa n).core = s.core := by
  obtain ⟨q, w, h⟩ := s.touch_only pa n
  rw [h]

theorem State.touch_hm (s : State) (pa n : Nat) : (s.touch pa n).hm = s.hm := by
  obtain ⟨q, w, h⟩ := s.touch_only pa n
  rw [h]

theorem State.store_coreKept (s : State) (pa : Nat) (bs : List Byte) (bad : Bool) : s.coreKept (s.store pa bs bad) := by
  unfold State.store
  split
  · exact State.coreKept_rfl rfl
  · obtain ⟨sy, h⟩ := Core.monitorHit_only s.core pa bs.length
    refine ⟨sy, ?_⟩
    rw [← h, ← State.touch_core s pa bs.length]; rfl

theorem State.store_hm (s : State) (pa : Nat) (bs : List Byte) (bad : Bool) : (s.store pa bs bad).hm = s.hm := by
  unfold State.store
  split
  · rfl
  · exact State.touch_hm s pa bs.length

theorem State.foldl_coreKept {α : Type} {f : State → α → State} (hf : ∀ (s : State) (a : α), s.coreKept (f s a)) :
    ∀ (l : List α) (s : State), s.coreKept (l.foldl f s)
  | [], _ => State.coreKept_rfl rfl
  | a :: r, s => State.coreKept_trans (hf s a) (State.foldl_coreKept hf r (f s a))

theorem State.storeRow_coreKept (s : State) (home : List (Nat × Nat)) (data : List Byte) (bad : List Nat) :
    s.coreKept (s.storeRow home data bad) := by
  have hr : ∀ (l : List (Nat × Nat)) (a : State × List Byte),
      a.1.coreKept (l.foldl (fun a r => (a.1.store r.1 (a.2.take r.2), a.2.drop r.2)) a).1 := by
    intro l
    induction l with
    | nil => exact fun _ => State.coreKept_rfl rfl
    | cons r l ih => exact fun a => State.coreKept_trans (State.store_coreKept _ _ _ _) (ih _)
  unfold State.storeRow
  exact State.coreKept_trans (hr home (s, data)) (State.coreKept_rfl rfl)

theorem State.performRow_coreKept (s : State) (r : StagedRow) : s.coreKept (s.performRow r) := by
  unfold State.performRow
  dsimp only
  split
  · exact State.coreKept_rfl rfl
  · split
    · obtain ⟨sy, h⟩ := State.storeRow_coreKept { s with hot := { s.hot with backs := s.hot.backs.filter fun w => w.key != r.key } }
        r.home r.data (if r.bad then List.range (rowGranules r.home).length else [])
      exact ⟨sy, h⟩
    · exact State.coreKept_rfl rfl

theorem State.commit_coreKept (s : State) (n : Nat) : s.coreKept (s.commit n) := by
  unfold State.commit
  split
  · exact State.coreKept_rfl rfl
  next t _ =>
    have h1 := State.foldl_coreKept (fun s (p : Nat × Byte) => State.store_coreKept s p.1 [p.2] false) t.staged.reverse s
    have h2 := State.foldl_coreKept (f := State.performPoison) (fun s p => State.coreKept_rfl rfl) t.stagedBad.reverse
      (t.staged.reverse.foldl (fun s p => s.store p.1 [p.2]) s)
    have h3 := State.foldl_coreKept State.performRow_coreKept t.stagedRows.reverse
      (t.stagedBad.reverse.foldl State.performPoison (t.staged.reverse.foldl (fun s p => s.store p.1 [p.2]) s))
    exact State.coreKept_trans (State.coreKept_trans (State.coreKept_trans h1 h2) h3) (State.coreKept_rfl rfl)

theorem State.uncontain_coreKept (s : State) (n : Nat) : s.coreKept (s.uncontain n) := by
  unfold State.uncontain
  split
  · exact State.coreKept_rfl rfl
  · split
    · exact State.coreKept_trans (State.commit_coreKept s n) (State.coreKept_rfl rfl)
    · exact State.coreKept_rfl rfl

/-- A task that performs its writes has nothing to uncontain. -/
theorem State.uncontain_direct {s : State} (h : Safety.performsDirect s) : s.uncontain s.core.part.task = s := by
  unfold State.uncontain
  cases ht : s.taskOf s.core.part.task with
  | none => rfl
  | some t =>
    have hc : s.contained t = false := h t ht
    simp [hc]

/-! ### Pieces of device memory (R274) -/

theorem State.taskStore_direct {s : State} (h : Safety.performsDirect s) (pa : Nat) (bs : List Byte) (bad : Bool) :
    s.taskStore pa bs bad = s.store pa bs bad := by
  unfold State.taskStore
  cases ht : s.task with
  | none => rfl
  | some t =>
    have hc : s.contained t = false := h t ht
    simp [hc]

theorem State.writePiece_device {s : State} {p : Piece} (h : isDevice p.pa = true) (bs : List Byte) (bad : Bool) :
    s.writePiece p bs bad = (s.taskStore p.pa bs bad, none) := by
  unfold isDevice at h
  unfold State.writePiece
  cases hp : placeOf p.pa <;> simp [hp] at h ⊢

/-- It depends on the tasks and on the task of the core. -/
theorem performsDirect_congr {s t : State} (h : Safety.performsDirect s) (hhm : t.hm = s.hm) (hp : t.core.part = s.core.part) :
    Safety.performsDirect t := by
  intro u hu
  have htask : t.task = s.task := by simp only [State.task, State.taskOf, hhm, hp]
  have hcon : t.contained u = s.contained u := by simp only [State.contained, State.cardOf, hhm]
  rw [hcon]; exact h u (htask ▸ hu)

/-- Writing the pieces of device memory: their bytes change, of the core its monitor, of the tasks nothing. -/
theorem State.writePieces_device (bad : Bool) : ∀ (ps : List Piece) (bs : List Byte) (s : State), (∀ p ∈ ps, isDevice p.pa = true) →
    Safety.performsDirect s → ∃ t, s.writePieces bad ps bs = (t, none) ∧ s.coreKept t ∧
      ∀ a, (∀ p ∈ ps, ¬ (p.pa ≤ a ∧ a < p.pa + p.len)) → t.mem.byte a = s.mem.byte a
  | [], _, s, _, _ => ⟨s, rfl, State.coreKept_rfl rfl, fun _ _ => rfl⟩
  | p :: ps, bs, s, hdev, hdir => by
    have hput : s.writePiece p (bs.take p.len) bad = (s.store p.pa (bs.take p.len) bad, none) := by
      rw [State.writePiece_device (hdev p List.mem_cons_self), State.taskStore_direct hdir]
    have hkept := State.store_coreKept s p.pa (bs.take p.len) bad
    obtain ⟨t, ht, hcore, hmem⟩ := State.writePieces_device bad ps (bs.drop p.len) (s.store p.pa (bs.take p.len) bad)
      (fun q hq => hdev q (List.mem_cons_of_mem _ hq)) (performsDirect_congr hdir (State.store_hm _ _ _ _) (by obtain ⟨sy, h⟩ := hkept; rw [h]))
    refine ⟨t, by rw [State.writePieces, hput]; exact ht, State.coreKept_trans hkept hcore, fun a ha => ?_⟩
    rw [hmem a fun q hq => ha q (List.mem_cons_of_mem _ hq), State.store_byte, if_neg]
    have hp := ha p List.mem_cons_self
    have hlen := List.length_take_le p.len bs
    omega

/-- Writing one piece of device memory. -/
theorem State.writePieces_one {s : State} {p : Piece} {bs : List Byte} (hdev : isDevice p.pa = true) (hdir : Safety.performsDirect s)
    (bad : Bool) : s.writePieces bad [p] bs = (s.store p.pa (bs.take p.len) bad, none) := by
  rw [State.writePieces, State.writePiece_device hdev, State.taskStore_direct hdir]; rfl

theorem State.store_mem {s : State} {bs : List Byte} (h : bs ≠ []) (pa : Nat) (bad : Bool) :
    (s.store pa bs bad).mem = s.mem.write pa bs := by
  simp [State.store, h]

/-! ### The pieces of an access -/

/-- A translated access is a piece up to the end of its page, and the pieces of the rest. -/
theorem State.pieces_ok {s t : State} {via : Via} {write : Bool} {fuel va len : Nat} {ps : List Piece}
    (h : s.pieces via write (fuel + 1) va len = (t, .ok ps)) : (len = 0 ∧ ps = []) ∨ ∃ (u : State) (x : Xlat) (r : List Piece),
      len ≠ 0 ∧ ps = ⟨va, x.pa + va % x.size, min len (x.size - va % x.size), x⟩ :: r ∧
      u.pieces via write fuel (va + min len (x.size - va % x.size)) (len - min len (x.size - va % x.size)) = (t, .ok r) := by
  unfold State.pieces at h
  split at h
  next hlen => cases h; exact .inl ⟨hlen, rfl⟩
  next hlen =>
    split at h
    · cases h
    next u x hx =>
      split at h
      · cases h
      · split at h
        · cases h
        · dsimp only at h
          split at h
          · cases h
          next v r hr =>
            cases h
            exact .inr ⟨u, x, r, hlen, rfl, hr⟩

/-- The pieces of an access hold no more bytes than it. -/
theorem State.pieces_sum : ∀ (fuel : Nat) {s t : State} {via : Via} {write : Bool} {va len : Nat} {ps : List Piece},
    s.pieces via write fuel va len = (t, .ok ps) → (ps.map (·.len)).sum ≤ len
  | 0, _, _, _, _, _, _, _, h => by
    unfold State.pieces at h
    cases h; simp
  | fuel + 1, _, _, _, _, va, len, _, h => by
    rcases State.pieces_ok h with ⟨-, rfl⟩ | ⟨u, x, r, -, rfl, hr⟩
    · simp
    · have := State.pieces_sum fuel hr
      rw [List.map_cons, List.sum_cons]
      show min len (x.size - va % x.size) + _ ≤ len
      omega

/-- An access of one piece is whole in it. -/
theorem State.pieces_single {s t : State} {via : Via} {write : Bool} {fuel va len : Nat} {p : Piece} (hf : 0 < fuel)
    (h : s.pieces via write (fuel + 1) va len = (t, .ok [p])) : p.len = len := by
  rcases State.pieces_ok h with ⟨-, h⟩ | ⟨u, x, r, -, hp, hr⟩
  · cases h
  · obtain ⟨rfl, rfl⟩ := List.cons.inj hp
    obtain ⟨fuel, rfl⟩ : ∃ k, fuel = k + 1 := ⟨fuel - 1, by omega⟩
    rcases State.pieces_ok hr with ⟨h0, -⟩ | ⟨_, _, _, -, h, -⟩
    · show min len (x.size - va % x.size) = len
      omega
    · cases h

/-! ### A store performed (R199, R204, R274) -/

theorem Core.supersede_only (c : Core) (num va len : Nat) : c.supersede num va len = { c with copy := (c.supersede num va len).copy } := by
  unfold Core.supersede
  split <;> rfl

/-- Older pushes give way to a store: of the core its copy unit changes. -/
theorem State.superseded_only : ∀ (ps : List Piece) (s : State), ∃ cp,
    ps.foldl (fun s p => s.onCore fun c => c.supersede c.stamp p.va p.len) s = { s with core := { s.core with copy := cp } }
  | [], s => ⟨s.core.copy, rfl⟩
  | p :: ps, s => by
    obtain ⟨cp, h⟩ := State.superseded_only ps (s.onCore fun c => c.supersede c.stamp p.va p.len)
    refine ⟨cp, ?_⟩
    rw [List.foldl_cons, h]
    show { s with core := { Core.supersede s.core _ _ _ with copy := cp } } = _
    rw [Core.supersede_only]

/-- A store whose pieces are written. -/
theorem State.performStore_written {s t : State} {num : Nat} {ps : List Piece} {bs : List Byte}
    (h : s.writePieces false ps bs = (t, none)) : ∃ sy, s.performStore num ps bs = { t with core := { t.core with sync := sy } } := by
  unfold State.performStore
  dsimp only
  rw [h]
  dsimp only
  split
  · exact ⟨_, rfl⟩
  · exact ⟨t.core.sync, rfl⟩

end Sys2Proof.Machine

namespace Sys2Proof
open Machine

/-- An ST to memory: what it does once its pieces are known. -/
theorem st_memory {x : SMem} {s : State} {va data : Word} (hon : s.core.active x.g = true) (hr : s.core.issue.replay = none)
    (hva : va = Safety.addr s.core x) (hdata : data = s.core.getS x.d) (hb : s.core.pending x.base = false)
    (hd : s.core.pending x.d = false) (hw : inWindow va.toNat = false) : exec (.st x) s = .next
      (match ((s.flow .ran).flushBefore s.core.stamp).pieces .deck true (Safety.width x + 1) va.toNat (Safety.width x) with
        | (s, .error e) => s.onCore fun c => c.memFault e ⟨c.issue.slot, c.src 0 x.base, 0, data, va⟩
        | (s, .ok ps) => (s.ownStore ps (toBytes (Safety.width x) data.toNat) 1).onCore fun c => c.postInc x) := by
  have hbad := Core.windowBad_ok hr hva (.inr hw)
  have haddr : (s.flow .ran).core.address x = va := by
    rw [show (s.flow .ran).core.address x = s.core.address x from rfl, Core.address_eq hr, hva]
  have hsrc : (s.flow .ran).core.src 2 x.d = data := by
    rw [show (s.flow .ran).core.src 2 x.d = s.core.src 2 x.d from rfl, Core.src, hr, hdata]
  show execSt x s = _
  simp only [execSt, hon, hbad, hb, hd, known_false, firstBad_false, firstBad_nil, Bool.or_self, State.slot_runs, haddr, hsrc, hw,
    Bool.false_eq_true, if_false]
  rfl

/-- Settles O7: the pieces are written and nothing else, held in the region's buffer, or their fault is noted. -/
theorem storeToMemory : Obligations.StoreToMemory := by
  intro x s va data hon hr hva hdata hb hd hw s1
  have hst := st_memory hon hr hva hdata hb hd hw
  have hwidth : 0 < Safety.width x := Nat.two_pow_pos _
  refine ⟨fun ps hps h0 hdev hdir hfree => ?_, fun ps hps hdepth => ?_, fun code a hps => ?_⟩
  · rw [hps] at hst
    obtain ⟨cp, hcp⟩ := State.superseded_only ps s1
    have hdir' : Safety.performsDirect { s1 with core := { s1.core with copy := cp } } := performsDirect_congr hdir rfl rfl
    obtain ⟨t, ht, hkept, hmem⟩ := State.writePieces_device false ps (toBytes (Safety.width x) data.toNat)
      { s1 with core := { s1.core with copy := cp } } hdev hdir'
    obtain ⟨sy, hsy⟩ := State.performStore_written (num := s1.core.stamp) ht
    have hown : s1.ownStore ps (toBytes (Safety.width x) data.toNat) 1 = { t with core := { t.core with sync := sy } } := by
      rw [State.ownStore_direct h0 hfree, hcp, hsy]
    obtain ⟨sy', hkept⟩ := hkept
    rw [hkept] at hown
    refine ⟨_, hst, ?_⟩
    simp only [hown, Core.postInc_eq]
    refine ⟨hmem, fun p hp => ?_, ?_⟩
    · subst hp
      rw [State.writePieces_one (hdev p List.mem_cons_self) hdir'] at ht
      cases ht
      have hlen := State.pieces_single hwidth hps
      have htake : (toBytes (Safety.width x) data.toNat).take p.len = toBytes (Safety.width x) data.toNat := by
        rw [hlen]; exact List.take_of_length_le (by rw [toBytes_length])
      rw [htake]
      exact State.store_mem (List.ne_nil_of_length_pos (by rwa [toBytes_length])) _ _
    · simp only [State.onCore_core]
      unfold Safety.withPost
      cases x.pi <;> exact ⟨rfl, rfl, rfl, rfl, rfl⟩
  · rw [hps] at hst
    rw [hst]
    by_cases hroom : s1.core.buffered + 1 > 512
    · simp only [State.ownStore_overflow hdepth hroom, State.onCore, hroom, if_true]
    · simp only [State.ownStore_region hdepth (Nat.le_of_not_lt hroom), State.onCore, hroom, if_false]
  · rw [hps] at hst
    exact hst

end Sys2Proof

namespace Sys2Proof.Machine

/-! ### The table of R299 -/

theorem toBytes_mod : ∀ (n v : Nat), toBytes n (v % 2 ^ (8 * n)) = toBytes n v
  | 0, _ => rfl
  | n + 1, v => by
    have hdiv : v % 2 ^ (8 * (n + 1)) / 256 = v / 256 % 2 ^ (8 * n) := by
      rw [Nat.mul_succ, Nat.add_comm, Nat.pow_add, Nat.mod_mul_right_div_self]
    have hlow : BitVec.ofNat 8 (v % 2 ^ (8 * (n + 1))) = BitVec.ofNat 8 v := by
      apply BitVec.eq_of_toNat_eq
      rw [BitVec.toNat_ofNat, BitVec.toNat_ofNat, Nat.mod_mod_of_dvd _ (Nat.pow_dvd_pow 2 (by omega))]
    rw [toBytes, toBytes, hdiv, toBytes_mod n, hlow]

/-- Two's complement of a number below 2^w. -/
theorem sext_lt {w v : Nat} (hw : 0 < w) (h : v < 2 ^ w) : sext w v = if v < 2 ^ (w - 1) then (v : Int) else (v : Int) - 2 ^ w := by
  obtain ⟨k, rfl⟩ : ∃ k, w = k + 1 := ⟨w - 1, by omega⟩
  have hb := sext_toNat (w := k) (BitVec.ofNat (k + 1) v)
  rw [BitVec.toNat_ofNat, Nat.mod_eq_of_lt h] at hb
  rw [hb, BitVec.toInt_eq_toNat_cond, BitVec.toNat_ofNat, Nat.mod_eq_of_lt h, Nat.add_sub_cancel]
  have h2 : (2 : Nat) ^ (k + 1) = 2 * 2 ^ k := by rw [Nat.pow_succ, Nat.mul_comm]
  by_cases hlt : v < 2 ^ k
  · rw [if_pos (by omega), if_pos hlt]
  · rw [if_neg (by omega), if_neg hlt]; push_cast; ring

/-- The model's new value is the table's. -/
theorem atomNew_eq {code w old op : Nat} (hc : code < 12) (hw : 0 < w) (ho : old < 2 ^ w) :
    atomNew code w old op = Safety.atomTable code w old (op % 2 ^ w) := by
  have hp : op % 2 ^ w < 2 ^ w := Nat.mod_lt _ (Nat.two_pow_pos w)
  unfold atomNew
  rw [Nat.mod_eq_of_lt ho]
  generalize op % 2 ^ w = p at hp ⊢
  have hmax : (if old < p then p else old) = Max.max old p := by
    rcases Nat.lt_or_ge old p with h | h
    · rw [if_pos h, max_eq_right h.le]
    · rw [if_neg (by omega), max_eq_left h]
  have hmin : (if p < old then p else old) = Min.min old p := by
    rcases Nat.lt_or_ge p old with h | h
    · rw [if_pos h, min_eq_right h.le]
    · rw [if_neg (by omega), min_eq_left h]
  have hold := sext_lt hw ho
  have hnew := sext_lt hw hp
  interval_cases code <;> simp [Safety.atomTable, hmax, hmin, hold, hnew]

/-- ATOM writes its new value, CAS its own when the old value is the one compared (R299, R322). -/
theorem atomicWrites_atom {n code old : Nat} {big : Bool} {op : Word} (hc : code < 12) (hn : 0 < n) (ho : old < 2 ^ (8 * n)) :
    atomicWrites n (.atom code big op) old = some (Safety.atomTable code (8 * n) old (op.toNat % 2 ^ (8 * n))) := by
  rw [atomicWrites, atomNew_eq hc (by omega) ho]

theorem atomicWrites_cas (n : Nat) (big : Bool) (new cmp : Word) (old : Nat) :
    atomicWrites n (.cas big new cmp) old = if old = cmp.toNat % 2 ^ (8 * n) then some (new.toNat % 2 ^ (8 * n)) else none := rfl

/-! ### The slots of ATOM and CAS -/

/-- What an ATOM or CAS does once its checks pass: `op` at its address. -/
def Core.putOld (c : Core) (x : SMem) (va : Word) (old : Nat) (bad : Bool) : Core :=
  (if x.d = 0 then c else c.addLoad x va true old none bad).postInc x

theorem Core.putOld_eq (c : Core) (x : SMem) (va : Word) (old : Nat) (bad : Bool) :
    c.putOld x va old bad = Safety.withPost (Safety.withOld c x va old bad) x := Core.postInc_eq _ _

/-- The step of an atomic on its pieces, not held by a FENCE. -/
def State.slotAtomic (s : State) (x : SMem) (va opnd1 opnd2 : Word) (op : RemoteOp) (ps : List Piece) : State :=
  match s.performAtomic va.toNat (Safety.width x) op ps with
  | (s, .error e) => s.onCore fun c => c.memFault e ⟨c.issue.slot, c.src 0 x.base, opnd1, opnd2, va⟩
  | (s, .ok (old, bad)) => s.onCore fun c => c.putOld x va old bad

/-- The checks of an atomic slot. -/
theorem atomic_checks {c : Core} {x : SMem} {va : Word} (hb : c.pending x.base = false) (hd1 : c.pending (x.d + 1) = false)
    (hal : va.toNat % Safety.width x = 0) (h : Safety.inWindowShare c va (Safety.width x) ∨ inWindow va.toNat = false)
    (hdepth : c.depth = 0) : checks [(false && !c.pending (x.d + 1), cIllegalOperation)] (c.pending x.base || c.pending (x.d + 1))
      [(va.toNat % sizeBytes x.size != 0, cMisalign), (c.windowBad va (sizeBytes x.size), cSpadRange),
        (!inWindow va.toNat && decide (c.depth > 0), cRegionOp)] = none := by
  have h1 : (va.toNat % sizeBytes x.size != 0) = false := bne_eq_false_iff_eq.2 hal
  have h2 : c.windowBad va (sizeBytes x.size) = false := by
    rcases h with h | h
    · exact Core.windowBad_of_share h
    · simp [Core.windowBad, h]
  rw [hb, hd1, h1, h2, hdepth]
  cases inWindow va.toNat <;> rfl

/-- An atomic on an aligned operand of the window share. -/
theorem State.execAtomic_window {s : State} {x : SMem} {va : Word} (opnd1 opnd2 : Word) (op : RemoteOp)
    (hon : s.core.active x.g = true) (hr : s.core.issue.replay = none) (hva : va = Safety.addr s.core x)
    (hw : Safety.inWindowShare s.core va (Safety.width x)) (hal : va.toNat % Safety.width x = 0)
    (hb : s.core.pending x.base = false) (hd : s.core.pending x.d = false) (hd1 : s.core.pending (x.d + 1) = false)
    (hdepth : s.core.depth = 0) :
    s.execAtomic x false opnd1 opnd2 op = .next (((s.flow .ran).uncontain s.core.part.task).onCore fun c =>
      let old := leVal (c.spRead (Safety.windowOff va) (Safety.width x))
      let new := atomicWrites (Safety.width x) op old
      (c.spStore [(Safety.windowOff va, toBytes (Safety.width x) (new.getD old), fun _ => new.isSome)]).putOld x va old
        (poisonedIn c.poison (c.spBase + Safety.windowOff va) (Safety.width x))) := by
  have haddr : s.core.address x = va := by rw [Core.address_eq hr, hva]
  unfold State.execAtomic
  dsimp only
  rw [haddr, hon, atomic_checks hb hd1 hal (.inl hw) hdepth, hb, hd, hd1, Bool.or_self, Bool.or_self, State.slot_runs, if_pos hw.1]
  rfl

/-- An atomic on an aligned operand that translation reaches, with nothing left before a FENCE. -/
theorem State.execAtomic_memory {s s1 : State} {x : SMem} {va : Word} {ps : List Piece} (opnd1 opnd2 : Word) (op : RemoteOp)
    (hon : s.core.active x.g = true) (hr : s.core.issue.replay = none) (hva : va = Safety.addr s.core x)
    (hw : inWindow va.toNat = false) (hal : va.toNat % Safety.width x = 0)
    (hb : s.core.pending x.base = false) (hd : s.core.pending x.d = false) (hd1 : s.core.pending (x.d + 1) = false)
    (hdepth : s.core.depth = 0)
    (hps : ((s.flow .ran).flushBefore s.core.stamp).pieces .deck true (Safety.width x + 1) va.toNat (Safety.width x) = (s1, .ok ps))
    (hfree : (s1.uncontain s1.core.part.task).core.fenceLeft = []) :
    s.execAtomic x false opnd1 opnd2 op = .next ((s1.uncontain s1.core.part.task).slotAtomic x va opnd1 opnd2 op ps) := by
  have haddr : s.core.address x = va := by rw [Core.address_eq hr, hva]
  have hps' : ((s.flow .ran).flushBefore (s.flow .ran).core.stamp).pieces .deck true (sizeBytes x.size + 1) va.toNat (sizeBytes x.size) =
      (s1, .ok ps) := hps
  unfold State.execAtomic
  dsimp only
  rw [haddr, hon, atomic_checks hb hd1 hal (.inr hw) hdepth, hb, hd, hd1, Bool.or_self, Bool.or_self, State.slot_runs, hw]
  simp only [Bool.false_eq_true, if_false, hps', hfree, List.isEmpty_nil, if_true]
  rfl

/-! ### Reads of the core -/

theorem State.viewBytes_length (s : State) (t : Option Task) (pa n : Nat) : (s.viewBytes t pa n).length = n := by
  unfold State.viewBytes
  cases t with
  | none => simp
  | some t => dsimp only; split <;> simp

theorem State.readView_length {s : State} {t : Option Task} {buf : List BufStore} {p : Piece} {bs : List Byte}
    (h : s.readView t buf p = .ok bs) : bs.length = p.len := by
  unfold State.readView at h
  split at h
  · cases h
  · dsimp only at h
    split at h
    · cases h
    · cases h; simp

theorem State.readPiece_length {s t : State} {p : Piece} {bs : List Byte} (h : s.readPiece p = (t, .ok bs)) : bs.length = p.len := by
  unfold State.readPiece at h
  split at h
  · exact State.readView_length (Prod.mk.inj h).2
  · split at h
    · cases h
    · split at h
      · cases h
      · have hr := (Prod.mk.inj h).2
        unfold State.remoteAnswer at hr
        split at hr
        · cases hr
        · cases hr; simp
    · have := Except.ok.inj (Prod.mk.inj h).2
      rw [← this, State.viewBytes_length]

theorem Core.underOwn_length (c : Core) (p : Piece) (bs : List Byte) : (c.underOwn p bs).length = bs.length := by
  unfold Core.underOwn
  split <;> simp

/-- A core's own read gives as many bytes as its pieces hold. -/
theorem State.readOwn_length : ∀ (ps : List Piece) {s t : State} {bs : List Byte}, s.readOwn ps = (t, .ok bs) →
    bs.length = (ps.map (·.len)).sum
  | [], _, _, _, h => by cases h; rfl
  | p :: ps, s, t, bs, h => by
    unfold State.readOwn at h
    generalize hone : (if p.x.bond then (s.touch p.x.pa 40, s.readView s.task s.core.waiting p)
      else match s.readPiece p with
        | (s, .error e) => (s, .error e)
        | (s, .ok bs) => (s, .ok (s.core.underOwn p bs)) : State × Except MemErr (List Byte)) = one at h
    dsimp only at h
    split at h
    · cases h
    next u b =>
      have hlen : b.length = p.len := by
        split at hone
        · exact State.readView_length (Prod.mk.inj hone).2
        · split at hone
          · cases hone
          next u' b' hp =>
            obtain ⟨-, hb⟩ := Prod.mk.inj hone
            rw [← Except.ok.inj hb, Core.underOwn_length]
            exact State.readPiece_length hp
      split at h
      · cases h
      next v r hr =>
        obtain ⟨-, hb⟩ := Prod.mk.inj h
        rw [← Except.ok.inj hb, List.length_append, hlen, State.readOwn_length ps hr, List.map_cons, List.sum_cons]

/-! ### The step on device memory -/

theorem isDevice_place {pa : Nat} (h : isDevice pa = true) : placeOf pa ≠ .host ∧ ∀ slot a, placeOf pa ≠ .remote slot a := by
  unfold isDevice at h
  constructor
  · intro hp; simp [hp] at h
  · intro slot a hp; simp [hp] at h

/-- An atomic step on pieces of device memory reads as the core reads, and writes what its operation gives. -/
theorem State.performAtomic_device {s t : State} {va n : Nat} {op : RemoteOp} {ps : List Piece} {bs : List Byte}
    (hdev : ∀ p ∈ ps, isDevice p.pa = true) (hread : s.readOwn ps = (t, .ok bs)) : s.performAtomic va n op ps =
      match atomicWrites n op (leVal bs) with
      | none => (t, .ok (leVal bs, s.poisonedOwn ps))
      | some v => match (t.onCore fun c => c.supersede c.stamp va n).writePieces false ps (toBytes n v) with
        | (s, some e) => (s, .error e)
        | (u, none) => (u, .ok (leVal bs, s.poisonedOwn ps)) := by
  have hsys : s.systemAtomic ps = s := by
    have : (ps.any fun p => placeOf p.pa == .host && p.x.sa) = false := List.any_eq_false.2 fun p hp => by
      simp [(isDevice_place (hdev p hp)).1]
    simp [State.systemAtomic, this]
  rw [State.performAtomic, hsys, State.atomicAt]
  split
  next slot a hmap =>
    obtain ⟨p, hp, hpa⟩ := List.mem_map.1 (hmap ▸ List.mem_cons_self : Place.remote slot a ∈ ps.map fun p => placeOf p.pa)
    exact absurd hpa ((isDevice_place (hdev p hp)).2 slot a)
  · simp only [if_true, hread] <;> rfl

end Sys2Proof.Machine

namespace Sys2Proof
open Machine

theorem execAtom_eq {x : SMem} {s : State} {arg op : Word} (hr : s.core.issue.replay = none) (hop : op = s.core.getS x.d)
    (harg : arg = s.core.getS (x.d + 1)) (hc : arg.toNat % 16 < 12) :
    exec (.atom x) s = s.execAtomic x false arg op (.atom (arg.toNat % 16) (x.size == 3) op) := by
  have h1 : s.core.src 1 (x.d + 1) = arg := by rw [Core.src, hr, harg]
  have h2 : s.core.src 2 x.d = op := by rw [Core.src, hr, hop]
  have h3 : decide (arg.toNat % 16 ≥ 12) = false := decide_eq_false (by omega)
  show execAtom x s = _
  rw [execAtom, h1, h2, h3]

theorem execCas_eq {x : SMem} {s : State} {arg op : Word} (hr : s.core.issue.replay = none) (hop : op = s.core.getS x.d)
    (harg : arg = s.core.getS (x.d + 1)) : exec (.cas x) s = s.execAtomic x false arg op (.cas (x.size == 3) arg op) := by
  have h1 : s.core.src 1 (x.d + 1) = arg := by rw [Core.src, hr, harg]
  have h2 : s.core.src 2 x.d = op := by rw [Core.src, hr, hop]
  show execCas x s = _
  rw [execCas, h1, h2]

/-- The conditional store of an atomic step. -/
theorem spPut_some (c : Core) (o n v old : Nat) :
    c.spPut o (toBytes n ((some v).getD old)) (fun _ => (some v).isSome) = Safety.withScratch c o (toBytes n v) :=
  Core.spPut_whole _ _ _ fun _ => rfl

theorem spPut_not {c : Core} (h : c.pool.wf = true) (o n old : Nat) :
    c.spPut o (toBytes n ((none : Option Nat).getD old)) (fun _ => (none : Option Nat).isSome) = c :=
  Core.spPut_none h _ _ fun _ => rfl

theorem width_pos (x : SMem) : 0 < Safety.width x := Nat.two_pow_pos _

theorem spRead_lt (c : Core) (off n : Nat) : leVal (c.spRead off n) < 2 ^ (8 * n) := by
  have := leVal_lt (c.spRead off n)
  rwa [Core.spRead_length] at this

/-- Settles O8: the value of the table, or of CAS, is written over the old one, which is sent back. -/
theorem atomicOperations : Obligations.AtomicOperations := by
  refine ⟨?_, ?_⟩
  · intro x s u va op arg n off old hon hr hva hop harg hn hoff hold _ hwf hw hal hb hd hd1 hdepth hu bad hbad
    subst hbad hn hold
    have hstep (o : RemoteOp) := State.execAtomic_window arg op o hon hr hva hw hal hb hd hd1 hdepth
    obtain ⟨sy, hcore⟩ := State.uncontain_coreKept (s.flow .ran) s.core.part.task
    rw [← hu] at hcore
    have hdepth' : u.core.depth = 0 := by rw [hcore]; exact hdepth
    have hwf' : u.core.pool.wf = true := by rw [hcore]; exact hwf
    have hold : u.core.spRead (off) (Safety.width x) = s.core.spRead (off) (Safety.width x) := by
      rw [hcore]; rfl
    have hbad : poisonedIn u.core.poison (u.core.spBase + off) (Safety.width x) =
        poisonedIn s.core.poison (s.core.spBase + off) (Safety.width x) := by rw [hcore]; rfl
    simp only [← hoff, ← hu, State.onCore, hold, hbad, Core.spStore_one hdepth', Core.putOld_eq] at hstep
    refine ⟨fun hc => ?_, ?_, by rw [hcore], fun hdir => hu.trans (State.uncontain_direct (s := s.flow .ran) hdir)⟩
    · rw [execAtom_eq hr hop harg hc, hstep,
        atomicWrites_atom hc (width_pos x) (spRead_lt _ _ _), spPut_some]
    · rw [execCas_eq hr hop harg, hstep, atomicWrites_cas]
      split
      · rw [spPut_some, toBytes_mod]
      · rw [spPut_not hwf']
  · rintro x s s1 u s2 ps bs va op arg n old bad hon hr hva hop harg rfl hw hal hb hd hd1 hdepth hps hdev rfl hfree hread rfl rfl
    have hstep (o : RemoteOp) := State.execAtomic_memory arg op o hon hr hva hw hal hb hd hd1 hdepth hps hfree
    simp only [State.slotAtomic, State.performAtomic_device hdev hread] at hstep
    have hlt : leVal bs < 2 ^ (8 * Safety.width x) := by
      refine (leVal_lt bs).trans_le (Nat.pow_le_pow_right (by decide) ?_)
      have := State.pieces_sum _ hps
      rw [State.readOwn_length ps hread]; omega
    refine ⟨fun v t ht => ⟨fun hc hv => ?_, fun heq hv => ?_⟩, fun hne => ?_⟩
    · rw [execAtom_eq hr hop harg hc, hstep, atomicWrites_atom hc (width_pos x) hlt, ← hv]
      simp only [ht, Core.putOld_eq]; rfl
    · rw [execCas_eq hr hop harg, hstep, atomicWrites_cas, if_pos heq, ← hv]
      simp only [ht, Core.putOld_eq]; rfl
    · rw [execCas_eq hr hop harg, hstep, atomicWrites_cas, if_neg hne]
      simp only [Core.putOld_eq]; rfl

end Sys2Proof

namespace Sys2Proof.Machine

/-! ### Parts of a written block, as numbers -/

/-- A read inside a block just written gives the block's bytes. -/
theorem Mem.read_written (m : Mem) (a : Nat) {pre mid post : List Byte} {n : Nat} (hn : mid.length = n) :
    (m.write a (pre ++ (mid ++ post))).read (a + pre.length) n = mid := by
  have hcut : (m.write a (pre ++ (mid ++ post))).read (a + pre.length) n =
      Mem.read (Mem.cells a (pre ++ (mid ++ post))) (a + pre.length) n := by
    have hlo : (m.filter fun c => decide (c.1 < a)).filter (fun c => decide (a + pre.length ≤ c.1) && decide (c.1 < a + pre.length + n)) = [] := by
      refine List.filter_eq_nil_iff.2 fun c hc => ?_
      have := (List.mem_filter.1 hc).2
      simp only [decide_eq_true_eq] at this
      simp only [Bool.and_eq_true, decide_eq_true_eq]; omega
    have hhi : (m.filter fun c => decide (a + (pre ++ (mid ++ post)).length ≤ c.1)).filter
        (fun c => decide (a + pre.length ≤ c.1) && decide (c.1 < a + pre.length + n)) = [] := by
      refine List.filter_eq_nil_iff.2 fun c hc => ?_
      have := (List.mem_filter.1 hc).2
      simp only [decide_eq_true_eq, List.length_append] at this
      simp only [Bool.and_eq_true, decide_eq_true_eq]; omega
    rw [Mem.read, Mem.write, List.filter_append, List.filter_append, hlo, hhi, List.nil_append, List.append_nil]; rfl
  have hwf : Mem.wf (Mem.cells a (pre ++ (mid ++ post))) = true := Mem.wfFrom_mono (Nat.zero_le a) (Mem.cells_wf a _)
  rw [hcut, Mem.read_eq hwf, ← hn]
  refine List.ext_getElem (by simp) fun i h1 h2 => ?_
  rw [List.getElem_map, List.getElem_range, Mem.cells_byte a _ _ (by omega) (by simp only [List.length_append]; omega),
    show a + pre.length + i - a = pre.length + i by omega]
  simp [List.getElem?_append_right, List.getElem?_append_left, h2]

theorem leVal_append : ∀ (as bs : List Byte), leVal (as ++ bs) = leVal as + 256 ^ as.length * leVal bs
  | [], bs => by simp [leVal]
  | a :: as, bs => by
    rw [List.cons_append, leVal, leVal, leVal_append as bs, List.length_cons, Nat.pow_succ]
    ring

theorem leVal_take (bs : List Byte) (n : Nat) (h : n ≤ bs.length) : leVal (bs.take n) = leVal bs % 256 ^ n := by
  have hsplit := leVal_append (bs.take n) (bs.drop n)
  rw [List.take_append_drop, List.length_take_of_le h] at hsplit
  have hlt := leVal_lt (bs.take n)
  rw [List.length_take_of_le h, Nat.pow_mul] at hlt
  rw [hsplit, Nat.add_mul_mod_self_left, Nat.mod_eq_of_lt hlt]

theorem leVal_drop (bs : List Byte) (n : Nat) (h : n ≤ bs.length) : leVal (bs.drop n) = leVal bs / 256 ^ n := by
  have hsplit := leVal_append (bs.take n) (bs.drop n)
  rw [List.take_append_drop, List.length_take_of_le h] at hsplit
  have hlt := leVal_lt (bs.take n)
  rw [List.length_take_of_le h, Nat.pow_mul] at hlt
  rw [hsplit, Nat.add_mul_div_left _ _ (Nat.pow_pos (by decide)),
    Nat.div_eq_of_lt hlt, Nat.zero_add]

/-- Part of a written block's section, as a number. -/
theorem leVal_read_written (m : Mem) (a : Nat) {bytes pre mid post : List Byte} (hb : bytes = pre ++ (mid ++ post)) {k j n : Nat}
    (hk : k = pre.length + j) (hn : j + n ≤ mid.length) :
    leVal ((m.write a bytes).read (a + k) n) = leVal mid / 256 ^ j % 256 ^ n := by
  have hsplit : bytes = (pre ++ mid.take j) ++ ((mid.drop j).take n ++ ((mid.drop j).drop n ++ post)) := by
    rw [hb, ← List.append_assoc ((mid.drop j).take n), List.take_append_drop, List.append_assoc pre,
      ← List.append_assoc (mid.take j), List.take_append_drop]
  have hlen : (pre ++ mid.take j).length = k := by rw [List.length_append, List.length_take_of_le (by omega), hk]
  have hmid : ((mid.drop j).take n).length = n := List.length_take_of_le (by rw [List.length_drop]; omega)
  rw [hsplit, ← hlen, Mem.read_written m a hmid, leVal_take _ _ (by rw [List.length_drop]; omega), leVal_drop _ _ (by omega)]

/-! ### The trap frame (R256 to R259) -/

@[simp] theorem zeros_length (n : Nat) : (zeros n).length = n := List.length_replicate

theorem padList_length {α : Type} (n : Nat) (x : α) (l : List α) : (padList n x l).length = n := by
  simp [padList]

theorem flatten_length {n : Nat} : ∀ {l : List (List Byte)}, (∀ b ∈ l, b.length = n) → l.flatten.length = n * l.length
  | [], _ => by simp
  | b :: l, h => by
    rw [List.flatten_cons, List.length_append, h b List.mem_cons_self, flatten_length fun x hx => h x (List.mem_cons_of_mem _ hx),
      List.length_cons, Nat.mul_succ, Nat.add_comm]

theorem latchAt_length (ls : List Latch) (k : Nat) : (latchAt ls k).length = 32 := by
  unfold latchAt
  split <;> simp

theorem loopRecord_length (l : LoopLevel) : (loopRecord l).length = 64 := by
  have hpairs : ((padList 6 (0, 0) l.strides).map fun p => toBytes 1 p.1.toNat ++ toBytes 7 (wrapTo 56 p.2)).flatten.length = 48 := by
    rw [flatten_length (n := 8), List.length_map, padList_length]
    intro b hb
    obtain ⟨p, -, rfl⟩ := List.mem_map.1 hb
    simp
  simp only [loopRecord, List.length_append, toBytes_length, hpairs]; rfl

theorem streamRecord_length (w : Stream) : (streamRecord w).length = 32 := by
  have hcounters (b : StreamBind) : ((padList 4 0 (streamCounters w.pos b.dims)).map (toBytes 4)).flatten.length = 16 := by
    rw [flatten_length (n := 4) (by simp), List.length_map, padList_length]
  unfold streamRecord
  dsimp only
  split
  · simp
  · simp [hcounters]

theorem frameHeader_length (c : Core) (t : TrapInfo) (epc nent : Nat) : (frameHeader c t epc nent).length = 64 := by
  simp [frameHeader]

/-- The predicates of the frame, as a number. -/
def predBits (c : Core) : Nat := (List.range 16).foldl (fun a i => if c.getQ (BitVec.ofNat 4 i) then a + 2 ^ i else a) 0

/-- The masks of the frame. -/
def maskBytes (c : Core) : List Byte := ((List.range 8).map fun i => toBytes 32 (c.getM (BitVec.ofNat 3 i)).toNat).flatten

/-- Records of n bytes each, one for each number below k. -/
theorem records_length {f : Nat → List Byte} (n k : Nat) (h : ∀ i, (f i).length = n) : ((List.range k).map f).flatten.length = n * k := by
  rw [flatten_length (n := n), List.length_map, List.length_range]
  intro b hb
  obtain ⟨i, -, rfl⟩ := List.mem_map.1 hb
  exact h i

theorem latches_length (t : TrapInfo) : ((List.range 4).map (latchAt t.latches)).flatten.length = 128 :=
  records_length 32 4 fun _ => latchAt_length _ _

theorem maskBytes_length (c : Core) : (maskBytes c).length = 256 := records_length 32 8 fun _ => toBytes_length _ _

theorem streamRecords_length (c : Core) : (c.copy.streams.toList.map streamRecord).flatten.length = 256 := by
  rw [flatten_length (n := 32) (by simp [streamRecord_length])]; simp

theorem ringRecords_length (c : Core) : (c.rings.toList.map fun h => toBytes 8 (ringWord h)).flatten.length = 128 := by
  rw [flatten_length (n := 8) (by simp)]; simp

/-- The frame begins with its header. -/
theorem frameBytes_header (c : Core) (t : TrapInfo) (epc : Nat) (es : List (List Byte)) :
    ∃ post, frameBytes c t epc es = [] ++ (frameHeader c t epc es.length ++ post) := by
  delta frameBytes
  simp only [List.append_assoc, List.nil_append]
  exact ⟨_, rfl⟩

/-- The predicates stand at 0xC0. -/
theorem frameBytes_preds (c : Core) (t : TrapInfo) (epc : Nat) (es : List (List Byte)) :
    ∃ pre post, frameBytes c t epc es = pre ++ (toBytes 8 (predBits c) ++ post) ∧ pre.length = 0xC0 := by
  delta frameBytes
  simp only [List.append_assoc]
  refine ⟨frameHeader c t epc es.length ++ ((List.range 4).map (latchAt t.latches)).flatten, _, by
    rw [List.append_assoc]; rfl, ?_⟩
  rw [List.length_append, frameHeader_length, latches_length]

/-- The masks stand at 0x100. -/
theorem frameBytes_masks (c : Core) (t : TrapInfo) (epc : Nat) (es : List (List Byte)) :
    ∃ pre post, frameBytes c t epc es = pre ++ (maskBytes c ++ post) ∧ pre.length = 0x100 := by
  delta frameBytes
  simp only [List.append_assoc]
  refine ⟨frameHeader c t epc es.length ++ (((List.range 4).map (latchAt t.latches)).flatten ++ (toBytes 8 (predBits c) ++ zeros 56)),
    _, by simp only [List.append_assoc]; rfl, ?_⟩
  simp only [List.length_append, frameHeader_length, latches_length, toBytes_length, zeros_length]

/-- The entries stand at 0x800. -/
theorem frameBytes_entries (c : Core) (t : TrapInfo) (epc : Nat) (es : List (List Byte)) :
    ∃ pre, frameBytes c t epc es = pre ++ (es.flatten ++ zeros (2048 - 16 * es.length)) ∧ pre.length = 0x800 := by
  refine ⟨_, by delta frameBytes; rw [List.append_assoc _ es.flatten], ?_⟩
  simp only [List.length_append, frameHeader_length, latches_length, toBytes_length, zeros_length, streamRecords_length,
    ringRecords_length]
  rw [records_length 32 8 fun _ => toBytes_length _ _, records_length 64 6 fun i => ?loop, records_length 32 4 fun i => ?region]
  case loop =>
    split
    · exact loopRecord_length _
    · simp
  case region => split <;> simp

/-- A frame of at most 128 entries has 4 KiB. -/
theorem frameBytes_length (c : Core) (t : TrapInfo) (epc : Nat) {es : List (List Byte)} (h : ∀ e ∈ es, e.length = 16)
    (hn : es.length ≤ 128) : (frameBytes c t epc es).length = 4096 := by
  obtain ⟨pre, hpre, hlen⟩ := frameBytes_entries c t epc es
  rw [hpre, List.length_append, List.length_append, hlen, flatten_length h, zeros_length]
  omega

/-- The number that a predicate sum holds. -/
theorem sum_bits (p : Nat → Bool) : ∀ n, (List.range n).foldl (fun a i => if p i then a + 2 ^ i else a) 0 < 2 ^ n ∧
    ∀ j < n, ((List.range n).foldl (fun a i => if p i then a + 2 ^ i else a) 0).testBit j = p j
  | 0 => ⟨by simp, by simp⟩
  | n + 1 => by
    obtain ⟨hlt, hbit⟩ := sum_bits p n
    rw [List.range_succ, List.foldl_append, List.foldl_cons, List.foldl_nil]
    generalize (List.range n).foldl (fun a i => if p i then a + 2 ^ i else a) 0 = v at *
    have hpow : 2 ^ (n + 1) = 2 ^ n + 2 ^ n := by rw [Nat.pow_succ, Nat.mul_two]
    refine ⟨by split <;> omega, fun j hj => ?_⟩
    rcases Nat.lt_succ_iff_lt_or_eq.1 hj with hj | rfl
    · split
      · rw [Nat.add_comm, Nat.testBit_two_pow_add_gt hj, hbit j hj]
      · exact hbit j hj
    · split
      next h => rw [Nat.add_comm, Nat.testBit_two_pow_add_eq, Nat.testBit_lt_two_pow hlt, h]; rfl
      next h => rw [Nat.testBit_lt_two_pow hlt]; exact (Bool.eq_false_of_not_eq_true h).symm

end Sys2Proof.Machine

namespace Sys2Proof.Machine

/-! ### Entering the handler (R254) -/

/-- The entries of the frame: the loads that have faulted, then the results in flight. -/
def Core.trapEntries (c : Core) : List (List Byte) :=
  c.handler.loads.map loadEntry ++ flightEntries c.fetch.cycle [] (c.flight.foldl (fun acc f => insertByLand f acc) [])

/-- The core with the cause, the address and the return address of a trap. -/
def Core.withCause (c : Core) (cause fault epc : Word) : Core :=
  { c with ctl := { c.ctl with cause := cause, epc := epc, fault := fault } }

theorem frameBytes_ne_nil (c : Core) (t : TrapInfo) (epc : Nat) (es : List (List Byte)) : frameBytes c t epc es ≠ [] := by
  obtain ⟨post, h⟩ := frameBytes_header c t epc es
  rw [h, List.nil_append]
  exact List.ne_nil_of_length_pos (by rw [List.length_append, frameHeader_length]; omega)

theorem spWrite_frame (c d : Core) (o : Nat) (t : TrapInfo) (epc : Nat) (es : List (List Byte)) :
    c.spWrite o (frameBytes d t epc es) = Safety.withScratch c o (frameBytes d t epc es) :=
  Core.spWrite_eq _ _ (frameBytes_ne_nil _ _ _ _)

/-- The word of ctl.fault that a trap leaves. -/
def trapFault (t : TrapInfo) (old : Word) : Word := (t.addr.map faultWord).getD old

/-- The 4 KiB that a trap saves. -/
def Core.trapFrame (c : Core) (t : TrapInfo) (epc : Nat) : List Byte :=
  frameBytes (c.withCause (causeWord t.code t.slot) (trapFault t c.ctl.fault) (BitVec.ofNat 64 epc)) t epc c.trapEntries

/-- A core whose loads have drained, in the handler with this frame. -/
def Core.trapped (c : Core) (epc : Nat) (cause fault : Word) (frame : List Byte) : Core :=
  { Safety.withScratch (c.withCause cause fault (BitVec.ofNat 64 epc)) c.ctl.frame.toNat frame with
    flight := []
    loops := []
    handler := ⟨true, (numbered c.handler.loads.length (c.flight.foldl (fun acc f => insertByLand f acc) [])).map
      fun p => (p.1, { p.2 with land := p.2.land - c.fetch.cycle }), c.handler.loads, epc, c.fetch.after, c.fetch.skip,
      c.sync.waiting, c.loops⟩
    sync := { c.sync with waiting := [] }
    fetch := { c.fetch with pc := c.ctl.tvec.toNat, redirect := none, skip := none, replay := none, after := false } }

/-- In handler state a trap is the fatal fault NESTED_TRAP. -/
theorem Core.takeTrap_nested {c : Core} (h : c.handler.active = true) (t : TrapInfo) (epc : Nat) :
    c.takeTrap t epc = c.fatal cNestedTrap := by
  rw [Core.takeTrap, if_pos h]

/-- Without a vector a trap is a fatal fault of its cause. -/
theorem Core.takeTrap_fatal {c : Core} (h : c.handler.active = false) (hv : c.ctl.tvec = 0) (t : TrapInfo) (epc : Nat) :
    c.takeTrap t epc = c.fatal t.code := by
  rw [Core.takeTrap, if_neg (by simp [h]), if_pos hv]

/-- Else the loads drain, what is due lands, and the core enters the handler. -/
theorem Core.takeTrap_enters {c d : Core} (h : c.handler.active = false) (hv : c.ctl.tvec ≠ 0) (hd : c.drainLoads.landDue = d)
    (hr : d.fetch.replay = none) (t : TrapInfo) (epc : Nat) :
    c.takeTrap t epc = d.trapped epc (causeWord t.code t.slot) (trapFault t d.ctl.fault) (d.trapFrame t epc) := by
  delta Core.takeTrap
  rw [if_neg (by simp [h]), if_neg hv, hd]
  extract_lets _ t' frozen k entries ct d' e f y
  have ht : t' = t := by simp only [t']; rw [hr]
  have hfault : (match t.addr with | some va => faultWord va | none => d.ctl.fault) = trapFault t d.ctl.fault := by
    unfold trapFault; cases t.addr <;> rfl
  have hd' : d' = d.withCause (causeWord t.code t.slot) (trapFault t d.ctl.fault) (BitVec.ofNat 64 epc) := by
    rw [← hfault, ← ht]; rfl
  have hentries : entries = d.trapEntries := rfl
  have he : e = Safety.withScratch d' d'.frameOff (frameBytes d' t' epc entries) := spWrite_frame _ _ _ _ _ _
  subst f y
  clear_value e d' t' entries
  subst he hd' ht hentries
  rw [Core.trapFrame]
  generalize frameBytes _ _ _ _ = bytes
  generalize causeWord t'.code t'.slot = w
  generalize trapFault t' d.ctl.fault = v
  rfl

/-- The frame goes to its place in the pool. -/
theorem Core.trapped_pool (c : Core) (epc : Nat) (w v : Word) (frame : List Byte) :
    (c.trapped epc w v frame).pool = c.pool.write ((c.trapped epc w v frame).spBase + c.ctl.frame.toNat) frame := rfl

/-- Part of a section of the trap frame, as a number. -/
theorem frameNat_section {d : Core} {m : Mem} {bytes pre mid post : List Byte}
    (hpool : d.pool = m.write (d.spBase + d.ctl.frame.toNat) bytes) (hb : bytes = pre ++ (mid ++ post)) {k j n : Nat}
    (hk : k = pre.length + j) (hn : j + n ≤ mid.length) : Safety.frameNat d k n = leVal mid / 256 ^ j % 256 ^ n := by
  rw [Safety.frameNat, Core.spRead, Core.poolRead, ← Nat.add_assoc, hpool]
  exact leVal_read_written m _ hb hk hn

/-- The number that the header is. -/
def headerNat (c : Core) (t : TrapInfo) (epc nent : Nat) : Nat :=
  let b (x : Bool) (k : Nat) : Nat := if x then 2 ^ k else 0
  let rtgt := match c.fetch.redirect with | some r => r.target + (if r.flip then 1 else 0) | none => 0
  epc + c.ctl.cause.toNat * 2 ^ 64 + c.ctl.fault.toNat * 2 ^ 128 +
    b c.fetch.redirect.isSome 192 + b t.replay 193 + t.ret % 16 * 2 ^ 194 +
    b c.fetch.written 198 + b c.armed.isSome 199 + b c.sync.restored 200 + t.src * 2 ^ 201 + t.eng * 2 ^ 203 +
    nent * 2 ^ 206 + rtgt * 2 ^ 256 + c.armed.getD 0 * 2 ^ 320

theorem frameHeader_leVal (c : Core) (t : TrapInfo) (epc nent : Nat) :
    leVal (frameHeader c t epc nent) = headerNat c t epc nent % 256 ^ 64 := by
  have h : frameHeader c t epc nent = toBytes 64 (headerNat c t epc nent) := rfl
  rw [h, leVal_toBytes]

end Sys2Proof.Machine

namespace Sys2Proof.Machine

/-! ### The shared operation of a trap (R254) -/

theorem filter_isLoad_eq {c : Core} (h : ∀ f ∈ c.copy.fenced, f.op.isLoad = false) : c.dropHeld FencedOp.isLoad = c := by
  rw [Core.dropHeld, if_neg]
  rw [List.any_eq_true]
  rintro ⟨f, hf, hk⟩
  exact absurd (h f hf) (by simp [hk])

/-- Without loads nothing drains. -/
theorem Core.drainLoads_none {c : Core} (hl : c.loads = []) (hh : ∀ f ∈ c.copy.fenced, f.op.isLoad = false) : c.drainLoads = c := by
  have hall (p : Load → Bool) : c.loads.filter p = c.loads := by rw [hl]; rfl
  have hnone (p : Load → Bool) : c.loads.filter p = [] := by rw [hl]; rfl
  have hsettle : c.settleLoads = c := by
    unfold Core.settleLoads
    dsimp only
    rw [hall fun l => !(l.fault.isNone && !l.late), hnone]; rfl
  unfold Core.drainLoads
  dsimp only
  rw [hsettle, filter_isLoad_eq hh, hnone Load.unmet, hall, List.append_nil]

/-- Before its cycle no result lands. -/
theorem Core.landThose_none {c : Core} {due : Flight → Bool} (h : ∀ f ∈ c.flight, due f = false) : c.landThose due = c := by
  have hdue : c.flight.filter due = [] := List.filter_eq_nil_iff.2 fun f hf => by simp [h f hf]
  have hrest : c.flight.filter (fun f => !due f) = c.flight := List.filter_eq_self.2 fun f hf => by simp [h f hf]
  rw [Core.landThose, hdue, hrest]; rfl

theorem Core.landDue_none {c : Core} (h : ∀ f ∈ c.flight, c.fetch.cycle < f.land) : c.landDue = c :=
  Core.landThose_none fun f hf => by have := h f hf; simp only [decide_eq_false_iff_not]; omega

/-- The results in flight as the handler keeps them: of one, its number is 0. -/
theorem numbered_one {c : Core} (hf : c.flight.length ≤ 1) :
    (numbered 0 (c.flight.foldl (fun acc f => insertByLand f acc) [])).map
      (fun p => (p.1, { p.2 with land := p.2.land - c.fetch.cycle })) = c.flight.map fun f => (0, { f with land := f.land - c.fetch.cycle }) := by
  match hflight : c.flight with
  | [] => rfl
  | [f] => rfl
  | _ :: _ :: _ => rw [hflight] at hf; simp at hf

theorem trapEntries_one {c : Core} (hl : c.handler.loads = []) (hf : c.flight.length ≤ 1) :
    c.trapEntries = c.flight.map (flightEntry 0 c.fetch.cycle) := by
  rw [Core.trapEntries, hl]
  match hflight : c.flight with
  | [] => rfl
  | [f] => rfl
  | _ :: _ :: _ => rw [hflight] at hf; simp at hf

theorem flightEntry_length (i u : Nat) (f : Flight) : (flightEntry i u f).length = 16 := toBytes_length _ _

theorem Core.trapped_issue (c : Core) (epc : Nat) (w v : Word) (frame : List Byte) : (c.trapped epc w v frame).issue = c.issue := rfl

/-- The state that a precise trap leaves. -/
theorem State.trapAt_enters {s : State} (h : s.core.handler.active = false) (hv : s.core.ctl.tvec ≠ 0)
    (hd : s.core.drainLoads.landDue = s.core) (hr : s.core.fetch.replay = none) (code slot : Nat) :
    s.trapAt code slot = { s with core := { s.core.trapped s.core.fetch.pc (causeWord code slot) s.core.ctl.fault
      (s.core.trapFrame ⟨code, slot, 0, 0, none, false, 0, []⟩ s.core.fetch.pc) with issue := { s.core.issue with flow := .trapped } } } := by
  have : s.core.takeTrap ⟨code, slot, 0, 0, none, false, 0, []⟩ s.core.fetch.pc = s.core.trapped s.core.fetch.pc (causeWord code slot)
      s.core.ctl.fault (s.core.trapFrame ⟨code, slot, 0, 0, none, false, 0, []⟩ s.core.fetch.pc) :=
    Core.takeTrap_enters h hv hd hr ⟨code, slot, 0, 0, none, false, 0, []⟩ s.core.fetch.pc
  rw [State.trapAt, State.onCore, this, ← Core.trapped_issue s.core]
  generalize s.core.trapped _ _ _ _ = d
  rfl

/-- What a trap with at most one result in flight changes of the core. -/
theorem Core.trapped_eq {c d : Core} (hl : c.handler.loads = []) (hf : c.flight.length ≤ 1) (hr : c.fetch.replay = none) (epc : Nat)
    (w : Word) (frame : List Byte) (hd : d = c.trapped epc w c.ctl.fault frame) :
    d = { c with
      ctl := { c.ctl with cause := w, epc := BitVec.ofNat 64 epc }
      fetch := { c.fetch with pc := c.ctl.tvec.toNat, redirect := none, skip := none, after := false }
      flight := [], loops := [], pool := d.pool, poison := d.poison
      handler := ⟨true, c.flight.map fun f => (0, { f with land := f.land - c.fetch.cycle }), [], epc, c.fetch.after, c.fetch.skip,
        c.sync.waiting, c.loops⟩
      sync := { c.sync with waiting := [] } } := by
  have hpool : d.pool = (c.trapped epc w c.ctl.fault frame).pool := by rw [hd]
  have hpoison : d.poison = (c.trapped epc w c.ctl.fault frame).poison := by rw [hd]
  rw [hpool, hpoison, hd, ← numbered_one hf]
  have hlen : c.handler.loads.length = 0 := by rw [hl]; rfl
  unfold Core.trapped
  rw [hlen, hl, ← hr]
  rfl

end Sys2Proof.Machine

namespace Sys2Proof.Machine

/-! ### What the frame of a trap holds (R256, R257, R259) -/

/-- The number of part of the frame of a core in the handler. -/
theorem trapped_frameNat (c : Core) (epc : Nat) (w v : Word) {bytes pre mid post : List Byte}
    (hb : bytes = pre ++ (mid ++ post)) {k j n : Nat} (hk : k = pre.length + j) (hn : j + n ≤ mid.length) :
    Safety.frameNat (c.trapped epc w v bytes) k n = leVal mid / 256 ^ j % 256 ^ n :=
  frameNat_section (Core.trapped_pool c epc w v bytes) hb hk hn

/-- The header's number. -/
theorem trapped_header (c : Core) (epc : Nat) (w v : Word) (d : Core) (t : TrapInfo) (es : List (List Byte)) {j n : Nat} (hn : j + n ≤ 64) :
    Safety.frameNat (c.trapped epc w v (frameBytes d t epc es)) j n = headerNat d t epc es.length % 256 ^ 64 / 256 ^ j % 256 ^ n := by
  obtain ⟨post, hpost⟩ := frameBytes_header d t epc es
  rw [trapped_frameNat c epc w v hpost (j := j) (by simp) (by rw [frameHeader_length]; exact hn), frameHeader_leVal]

/-- The predicates' bits. -/
theorem trapped_preds (c : Core) (epc : Nat) (w v : Word) (d : Core) (t : TrapInfo) (es : List (List Byte)) (j : Fin 16) :
    (Safety.frameNat (c.trapped epc w v (frameBytes d t epc es)) 0xC0 8).testBit j = d.getQ (BitVec.ofNat 4 j) := by
  obtain ⟨pre, post, hpost, hpre⟩ := frameBytes_preds d t epc es
  obtain ⟨hlt, hbit⟩ := sum_bits (fun i => d.getQ (BitVec.ofNat 4 i)) 16
  have hbits : predBits d < 2 ^ 16 := hlt
  rw [trapped_frameNat c epc w v hpost (j := 0) (by simp [hpre]) (by simp), leVal_toBytes, ← hbit j j.isLt,
    Nat.pow_zero, Nat.div_one, Nat.mod_mod, Nat.mod_eq_of_lt (Nat.lt_trans hbits (by decide))]
  rfl

/-- Block j of blocks of n bytes, one for each number below k. -/
theorem flatten_range_block {f : Nat → List Byte} {n j k : Nat} (hlen : ∀ i, (f i).length = n) (hj : j < k) :
    ∃ a b, ((List.range k).map f).flatten = a ++ (f j ++ b) ∧ a.length = n * j := by
  obtain ⟨m, rfl⟩ := Nat.exists_eq_add_of_lt hj
  refine ⟨((List.range j).map f).flatten, ((List.range m).map fun i => f (j + 1 + i)).flatten, ?_, records_length n j hlen⟩
  rw [show j + m + 1 = j + (1 + m) by omega, List.range_add, List.range_add]
  simp [Function.comp_def, Nat.add_assoc]

/-- The masks. -/
theorem trapped_masks (c : Core) (epc : Nat) (w v : Word) (d : Core) (t : TrapInfo) (es : List (List Byte)) (j : Fin 8) :
    Safety.frameNat (c.trapped epc w v (frameBytes d t epc es)) (0x100 + 32 * j) 32 = (d.getM (BitVec.ofNat 3 j)).toNat := by
  obtain ⟨pre, post, hpost, hpre⟩ := frameBytes_masks d t epc es
  obtain ⟨a, b, hab, ha⟩ := flatten_range_block (f := fun i => toBytes 32 (d.getM (BitVec.ofNat 3 i)).toNat) (n := 32)
    (fun _ => toBytes_length _ _) j.isLt
  have hsplit : frameBytes d t epc es = (pre ++ a) ++ (toBytes 32 (d.getM (BitVec.ofNat 3 j)).toNat ++ (b ++ post)) := by
    rw [hpost, maskBytes, hab]; simp only [List.append_assoc]
  rw [trapped_frameNat c epc w v hsplit (j := 0) (by simp [hpre, ha]) (by simp), leVal_toBytes, Nat.pow_zero, Nat.div_one, Nat.mod_mod]
  exact Nat.mod_eq_of_lt (d.getM (BitVec.ofNat 3 j)).isLt

/-- The first entry. -/
theorem trapped_entry (c : Core) (epc : Nat) (w v : Word) (d : Core) (t : TrapInfo) {e : List Byte} (he : e.length = 16) (es : List (List Byte)) :
    Safety.frameNat (c.trapped epc w v (frameBytes d t epc (e :: es))) 0x800 16 = leVal e := by
  obtain ⟨pre, hpost, hpre⟩ := frameBytes_entries d t epc (e :: es)
  have hlt := leVal_lt e
  rw [he] at hlt
  rw [List.flatten_cons, List.append_assoc] at hpost
  rw [trapped_frameNat c epc w v hpost (j := 0) (by simp [hpre]) (by simp [he]), Nat.pow_zero, Nat.div_one]
  exact Nat.mod_eq_of_lt hlt

/-- Outside its 4 KiB the pool stays. -/
theorem trapped_pool_other (c : Core) (epc : Nat) (w v : Word) {bytes : List Byte} (hlen : bytes.length = 4096) {a : Nat}
    (h : ¬ (c.spBase + c.ctl.frame.toNat ≤ a ∧ a < c.spBase + c.ctl.frame.toNat + 4096)) :
    (c.trapped epc w v bytes).pool.byte a = c.pool.byte a := by
  have hbase : (c.trapped epc w v bytes).spBase = c.spBase := rfl
  rw [Core.trapped_pool, hbase, Mem.byte_write_other _ _ _ _ (by rw [hlen]; omega)]

/-- The fields of a header: its return address, cause, fault address, flags, source and number of entries. -/
theorem headerNat_fields {c : Core} {t : TrapInfo} {epc nent h : Nat} (hh : h = headerNat c t epc nent % 256 ^ 64) (hepc : epc < 2 ^ 64)
    (hsrc : t.src < 4) (heng : t.eng = 0) (hnent : nent < 2 ^ 8) :
    h % 2 ^ 64 = epc ∧ h / 2 ^ 64 % 2 ^ 64 = c.ctl.cause.toNat ∧ h / 2 ^ 128 % 2 ^ 64 = c.ctl.fault.toNat ∧
      h / 2 ^ 192 % 2 = c.fetch.redirect.isSome.toNat ∧ h / 2 ^ 193 % 2 = t.replay.toNat ∧ h / 2 ^ 198 % 2 = c.fetch.written.toNat ∧
      h / 2 ^ 201 % 4 = t.src ∧ h / 2 ^ 206 % 2 ^ 8 = nent := by
  have hcause := c.ctl.cause.isLt
  have hfault := c.ctl.fault.isLt
  have hbit (b : Bool) (k : Nat) : (if b then 2 ^ k else 0) = b.toNat * 2 ^ k := by cases b <;> simp
  have hle (b : Bool) : b.toNat ≤ 1 := Bool.toNat_le b
  have h1 := hle c.fetch.redirect.isSome
  have h2 := hle t.replay
  have h3 := hle c.fetch.written
  have h4 := hle c.armed.isSome
  have h5 := hle c.sync.restored
  have hre : t.ret % 16 < 16 := Nat.mod_lt _ (by decide)
  have hlow : h % 2 ^ 214 = headerNat c t epc nent % 2 ^ 214 := by
    have h27 : 2 ^ 214 ∣ 256 ^ 27 := ⟨4, by norm_num⟩
    rw [hh, Nat.mod_mod_of_dvd _ (h27.trans (Nat.pow_dvd_pow 256 (by decide)))]
  rw [headerNat] at hlow
  simp only [hbit, heng] at hlow
  generalize c.ctl.cause.toNat = ca at *
  generalize c.ctl.fault.toNat = fa at *
  generalize c.fetch.redirect.isSome.toNat = b1 at *
  generalize t.replay.toNat = b2 at *
  generalize c.fetch.written.toNat = b3 at *
  generalize c.armed.isSome.toNat = b4 at *
  generalize c.sync.restored.toNat = b5 at *
  generalize (match c.fetch.redirect with | some r => r.target + (if r.flip then 1 else 0) | none => 0) = rt at *
  generalize c.armed.getD 0 = ml at *
  generalize t.ret % 16 = re at *
  clear hh
  refine ⟨by omega, by omega, by omega, by omega, by omega, by omega, by omega, by omega⟩

end Sys2Proof.Machine

namespace Sys2Proof
open Machine Host

theorem frameNat_issue (d : Machine.Core) (i : Issue) (k n : Nat) : Safety.frameNat { d with issue := i } k n = Safety.frameNat d k n := rfl

/-- A result for a scalar register, not shadowed, is the first entry of the frame. -/
theorem flightEntry_scalar {u : Nat} {f : Flight} {d : BitVec 6} {x : Word} (hf : f.res = .s d x) (ht : f.twin = .none) (hu : f.unit < 2)
    (hland : f.land - u < 32) :
    leVal (flightEntry 0 u f) = x.toNat + d.toNat * 2 ^ 64 + f.unit * 2 ^ 73 + (f.land - u) * 2 ^ 76 + 2 ^ 82 := by
  have hx := x.isLt
  have hd := d.isLt
  have hmod : (256 : Nat) ^ 16 = 2 ^ 128 := by norm_num
  have hk : resultKind f.res = 0 := by rw [hf]; rfl
  have hval : resultValue f.res = x.toNat := by rw [hf]; rfl
  have hdest : resultDest f.res = d.toNat := by rw [hf]; rfl
  rw [flightEntry, leVal_toBytes, hmod, hk, hval, hdest, if_pos ht, if_neg (by decide), Nat.zero_mul, Nat.add_zero, Nat.add_zero,
    Nat.add_zero]
  exact Nat.mod_eq_of_lt (by omega)

/-- Settles O30, from the parts of the frame that a trap writes. -/
theorem trapEntry : Obligations.TrapEntry := by
  unfold Obligations.TrapEntry
  rintro s t c code slot rfl rfl
  refine ⟨fun h => ?nested, fun h hv => ?fatal, fun h hv hhl hl hheld hr hpc hloops hone hland => ?enters⟩
  case nested => rw [State.trapAt, State.onCore, Core.takeTrap_nested h]; rfl
  case fatal => rw [State.trapAt, State.onCore, Core.takeTrap_fatal h hv]; rfl
  case enters =>
  have hd : s.core.drainLoads.landDue = s.core := by
    rw [Core.drainLoads_none hl hheld, Core.landDue_none fun f hf => (hland f hf).1]
  have hes := trapEntries_one hhl hone
  obtain ⟨w, hw⟩ : ∃ w, w = causeWord code slot := ⟨_, rfl⟩
  obtain ⟨ti, hti⟩ : ∃ ti : TrapInfo, ti = ⟨code, slot, 0, 0, none, false, 0, []⟩ := ⟨_, rfl⟩
  obtain ⟨g, hg⟩ : ∃ g, g = s.core.withCause w s.core.ctl.fault (BitVec.ofNat 64 s.core.fetch.pc) := ⟨_, rfl⟩
  obtain ⟨bytes, hbytes⟩ : ∃ bytes, bytes = frameBytes g ti s.core.fetch.pc s.core.trapEntries := ⟨_, rfl⟩
  have hframe : s.core.trapFrame ti s.core.fetch.pc = bytes := by rw [hbytes, hg, hw, Core.trapFrame, hti]; rfl
  obtain ⟨d, hd'⟩ : ∃ d, d = s.core.trapped s.core.fetch.pc w s.core.ctl.fault bytes := ⟨_, rfl⟩
  have heq : s.trapAt code slot = { s with core := { d with issue := { s.core.issue with flow := .trapped } } } := by
    rw [State.trapAt_enters h hv hd hr code slot, ← hti, hframe, ← hw, ← hd']
  have hes : s.core.trapEntries = s.core.flight.map (flightEntry 0 s.core.fetch.cycle) := trapEntries_one hhl hone
  have hlen : bytes.length = 4096 := by
    rw [hbytes, hes]
    refine frameBytes_length _ _ _ (fun e he => ?_) (by rw [List.length_map]; omega)
    obtain ⟨f, -, rfl⟩ := List.mem_map.1 he
    exact flightEntry_length _ _ _
  rw [heq]
  simp only [frameNat_issue]
  obtain ⟨hdr, hh⟩ : ∃ h, h = headerNat g ti s.core.fetch.pc s.core.flight.length % 256 ^ 64 := ⟨_, rfl⟩
  have hhead {j n : Nat} (hn : j + n ≤ 64) : Safety.frameNat d j n = hdr / 256 ^ j % 256 ^ n := by
    rw [hd', hbytes, trapped_header _ _ _ _ _ _ _ hn, hes, List.length_map, hh]
  have hzero : Safety.frameNat d 0 64 = hdr := by
    rw [hhead (by decide), Nat.pow_zero, Nat.div_one, hh, Nat.mod_mod]
  obtain ⟨hpcF, hcause, hfault, hrdv, hreplay, hwritten, hsrc, hnent⟩ := headerNat_fields hh (by omega)
    (by rw [hti]; exact Nat.zero_lt_succ _) (by rw [hti]) (by omega)
  have hbit {k : Nat} {b : Bool} (hb : hdr / 2 ^ k % 2 = b.toNat) : (Safety.frameNat d 0 64).testBit k = b := by
    rw [hzero, Nat.testBit_eq_decide_div_mod_eq, hb]; cases b <;> rfl
  refine ⟨?state, fun a ha => ?pool, ?pc, ?cause, ?fault, ?rdv, ?replay, ?written, ?src, ?nent, fun j => ?preds, fun j => ?masks,
    fun f dst x hf hres htwin hunit => ?entry⟩
  case state =>
    have hcore := Core.trapped_eq hhl hone hr s.core.fetch.pc w bytes hd'
    rw [show BitVec.ofNat 64 (code + 2 ^ 16 + slot % 4 * 2 ^ 17) = w from hw.symm]
    exact congrArg (fun c : Machine.Core => { s with core := { c with issue := { s.core.issue with flow := .trapped } } }) hcore
  case pool =>
    show d.pool.byte a = s.core.pool.byte a
    rw [hd']; exact trapped_pool_other _ _ _ _ hlen ha
  case preds => rw [hd', hbytes, trapped_preds, hg]; rfl
  case masks => rw [hd', hbytes, trapped_masks, hg]; rfl
  case entry =>
    rw [hd', hbytes, hes, hf, List.map_cons, trapped_entry _ _ _ _ _ _ (flightEntry_length _ _ _)]
    have := hland f (by rw [hf]; exact List.mem_cons_self)
    exact flightEntry_scalar hres htwin hunit (by omega)
  case pc => rw [hhead (by decide)]; simpa using hpcF
  case cause =>
    have hctl : d.ctl.cause = g.ctl.cause := by rw [hd', hg]; rfl
    rw [hhead (by decide)]
    show _ = d.ctl.cause.toNat
    rw [hctl, ← hcause]; norm_num
  case fault =>
    have hctl : g.ctl.fault = s.core.ctl.fault := by rw [hg]; rfl
    rw [hhead (by decide), ← hctl, ← hfault]; norm_num
  case rdv => rw [hbit hrdv, hg]; rfl
  case replay => rw [hbit hreplay, hti]
  case written => rw [hbit hwritten, hg]; rfl
  case src => rw [hzero, hsrc, hti]
  case nent => rw [hzero, hnent]

end Sys2Proof

namespace Sys2Proof.Machine

/-! ### Loads (R365) -/

/-- May an LD with this destination issue? -/
def ldFree (x : SMem) (c : Core) : Prop :=
  c.pendingW x.d = false ∧ (x.d = 0 → (c.loads ++ c.handler.loads).any (fun l => l.dest == 0) = false)

theorem ldFree_stall {x : SMem} {c : Core} (h : ldFree x c) :
    (c.pendingW x.d || (x.d == 0 && (c.loads ++ c.handler.loads).any fun l => l.dest == 0)) = false := by
  obtain ⟨hd, hz⟩ := h
  rw [hd, Bool.false_or]
  by_cases h0 : x.d = 0
  · rw [hz h0, Bool.and_false]
  · rw [beq_eq_false_iff_ne.2 h0, Bool.false_and]

theorem Core.mark_withLoad (c : Core) (x : SMem) (a : Bool) (va : Word) (v : Nat) (p : Bool) :
    Safety.withLoad c.mark x a va v p = (Safety.withLoad c x a va v p).mark := rfl

/-- LD with its address in the window share reads its bytes there. -/
theorem ld_window {x : SMem} {s : State} {va : Word} (hon : s.core.active x.g = true) (hr : s.core.issue.replay = none)
    (hva : va = Safety.addr s.core x) (hb : s.core.pending x.base = false) (hd : ldFree x s.core)
    (hw : Safety.inWindowShare s.core va (Safety.width x)) :
    exec (.ld x) s = .next (Safety.ranTo s (Safety.withPost (Safety.withLoad s.core x false va
      (leVal (s.core.spRead (Safety.windowOff va) (Safety.width x)))
      (poisonedIn s.core.poison (s.core.spBase + Safety.windowOff va) (Safety.width x))) x)) := by
  have hbad := Core.windowBad_ok hr hva (.inl hw)
  have haddr : s.core.address x = va := by rw [Core.address_eq hr, hva]
  show execLd x s = _
  simp only [execLd, hon, hbad, hb, known_false, firstBad_false, firstBad_nil, Bool.false_or, ldFree_stall hd, State.slot_runs]
  rw [show (s.flow .ran).core.address x = va from haddr, if_pos hw.1]
  refine congrArg _ (State.onCore_mark ?_)
  rw [Core.postInc_eq, ← Core.mark_withPost, ← Core.mark_withLoad]; rfl

/-- LD of a window address outside the share traps. -/
theorem ld_window_traps {x : SMem} {s : State} {va : Word} (hon : s.core.active x.g = true) (hr : s.core.issue.replay = none)
    (hva : va = Safety.addr s.core x) (hb : s.core.pending x.base = false) (hin : inWindow va.toNat = true)
    (hc : s.core.issue.checked = false) (hw : ¬ Safety.inWindowShare s.core va (Safety.width x)) :
    exec (.ld x) s = .next (s.trapAt cSpadRange s.core.issue.slot) := by
  have haddr : s.core.address x = va := by rw [Core.address_eq hr, hva]
  have hbad : s.core.windowBad va (sizeBytes x.size) = true := by
    have hout : s.core.inShare (va.toNat - windowBase) (sizeBytes x.size) = false :=
      Bool.eq_false_of_not_eq_true fun h => hw ⟨hin, of_decide_eq_true h⟩
    rw [Core.windowBad, hin, hout]; rfl
  show execLd x s = _
  simp only [execLd, haddr, hon, hbad, hb, known_false, firstBad_true, State.slot_traps hc]

/-- LD of a memory address reads what translation gives. -/
theorem ld_memory {x : SMem} {s : State} {va : Word} (hon : s.core.active x.g = true) (hr : s.core.issue.replay = none)
    (hva : va = Safety.addr s.core x) (hb : s.core.pending x.base = false) (hd : ldFree x s.core) (hw : inWindow va.toNat = false) :
    exec (.ld x) s = .next
      (match ((s.flow .ran).flushStreams).pieces .deck false (Safety.width x + 1) va.toNat (Safety.width x) with
        | (s, .error (.trans code a)) => s.onCore fun c => (c.addLoad x va false 0 (some (code, a)) false).postInc x
        | (s, .error (.fatal code)) => s.onCore fun c => c.fatal code
        | (s, .ok ps) =>
          if !s.core.fenceLeft.isEmpty then s.onCore fun c =>
            ((c.addLoad x va false 0 none false true).holdAccess c.fenceLeft (.load x.d)).postInc x
          else match s.readOwn ps with
          | (s, .error (.trans code a)) => s.onCore fun c => (c.addLoad x va false 0 (some (code, a)) false).postInc x
          | (s, .error (.fatal code)) => s.onCore fun c => c.fatal code
          | (s, .ok bs) => s.onCore fun c => (c.addLoad x va false (leVal bs) none (s.poisonedOwn ps)).postInc x) := by
  have hbad := Core.windowBad_ok hr hva (.inr hw)
  have haddr : (s.flow .ran).core.address x = va := by
    rw [show (s.flow .ran).core.address x = s.core.address x from rfl, Core.address_eq hr, hva]
  show execLd x s = _
  simp only [execLd, hon, hbad, hb, known_false, firstBad_false, firstBad_nil, Bool.false_or, ldFree_stall hd, State.slot_runs, haddr, hw,
    Bool.false_eq_true, if_false]
  rfl

/-- A core whose one load has faulted, with its loads drained. -/
def Core.faultDrained (c : Core) (l : Load) : Core :=
  { c.dropHeld FencedOp.isLoad with loads := [], handler := { c.handler with loads := c.handler.loads ++ [l] } }

theorem Core.drainLoads_faulted {c : Core} {l : Load} (hl : c.loads = [l]) (hf : l.fault.isSome = true) : c.drainLoads = c.faultDrained l := by
  have hgood : (l.fault.isNone && !l.late) = false := by rw [Option.isNone_eq_false_iff.2 hf]; rfl
  have hunmet : l.unmet = true := by rw [Load.unmet, hf]; rfl
  have hsettle : c.settleLoads = c := by
    unfold Core.settleLoads
    simp only [hl, List.filter_cons, List.filter_nil, hgood, Bool.false_eq_true, if_false, Bool.not_false, if_true, List.foldl_nil]
    rw [← hl]
  unfold Core.drainLoads Core.faultDrained
  dsimp only
  rw [hsettle, Core.dropHeld_eq]
  simp only [hl, List.filter_cons, List.filter_nil, hunmet, Bool.not_true, Bool.false_eq_true, if_false, if_true]

theorem Core.faultDrained_landDue {c : Core} (l : Load) (hf : c.flight = []) : (c.faultDrained l).landDue = c.faultDrained l := by
  have hfl : (c.faultDrained l).flight = [] := by
    unfold Core.faultDrained; rw [Core.dropHeld_eq]; exact hf
  exact Core.landDue_none fun f h => by rw [hfl] at h; simp at h

theorem loadEntry_length (l : Load) : (loadEntry l).length = 16 := toBytes_length _ _

/-- The entry of a faulted-pending load, as a number. -/
theorem loadEntry_leVal {l : Load} (hu : l.unit < 8) (hb : l.bidx < 2 ^ 11) (hs : l.slot < 4) :
    leVal (loadEntry l) = l.va.toNat + l.dest.toNat * 2 ^ 64 + 6 * 2 ^ 70 + l.unit * 2 ^ 73 + 2 ^ 82 + l.size.toNat * 2 ^ 88 +
      l.bidx * 2 ^ 90 + (if l.bank then 2 ^ 101 else 0) + l.slot * 2 ^ 102 := by
  have hva := l.va.isLt
  have hdest := l.dest.isLt
  have hsize := l.size.isLt
  have hbank : (if l.bank then 2 ^ 101 else 0) ≤ 2 ^ 101 := by split <;> simp
  have hmod : (256 : Nat) ^ 16 = 2 ^ 128 := by norm_num
  rw [loadEntry, leVal_toBytes, hmod]
  generalize (if l.bank then 2 ^ 101 else 0) = bank at *
  exact Nat.mod_eq_of_lt (by omega)

end Sys2Proof.Machine

namespace Sys2Proof
open Machine

theorem withPost_loads (c : Machine.Core) (x : SMem) : (Safety.withPost c x).loads = c.loads := by
  unfold Safety.withPost
  cases x.pi <;> rfl

/-- The boundary before a bundle hands the fault of the one outstanding load to the handler. -/
theorem boundaryWork_loadFault {s : State} {l : Load} {code va : Nat} (hfatal : s.dueFatal = none) (hroll : s.core.rollbackDue = none)
    (hl : s.core.loads = [l]) (hf : l.fault = some (code, va)) (hact : s.core.handler.active = false) (hv : s.core.ctl.tvec ≠ 0)
    (hflight : s.core.flight = []) (hr : s.core.fetch.replay = none) (ti : TrapInfo) (hti : ti = ⟨code, l.slot, 1, 0, some va, false, 0, []⟩)
    (d : Machine.Core) (hd : d = s.core.faultDrained l) :
    s.boundaryWork = some (s.onCore fun _ => d.trapped s.core.fetch.pc (causeWord code l.slot) (faultWord va)
      (d.trapFrame ti s.core.fetch.pc)) := by
  have hsome : l.fault.isSome = true := by rw [hf]; rfl
  have hdrain : s.core.drainLoads.landDue = d := by rw [Core.drainLoads_faulted hl hsome, Core.faultDrained_landDue l hflight, hd]
  have hrd : d.fetch.replay = none := by rw [hd, Core.faultDrained, Core.dropHeld_eq]; exact hr
  have henter := Core.takeTrap_enters hact hv hdrain hrd ti s.core.fetch.pc
  have hquiet : s.quietWork = some (s.onCore fun c => c.takeTrap ti c.fetch.pc) := by
    simp only [State.quietWork, hl, List.find?_cons, hf, Option.isSome_some, Option.getD_some, hti]
  have hcause : causeWord ti.code ti.slot = causeWord code l.slot := by rw [hti]
  have hfault : trapFault ti d.ctl.fault = faultWord va := by rw [hti]; rfl
  rw [State.boundaryWork, if_neg (by simp [hfatal]), if_neg (by simp [hroll]), hquiet, Option.some_or, State.onCore, State.onCore, henter, hcause, hfault]

/-- Settles O5, by the branches of an LD's access and the frame of the trap that its fault takes. -/
theorem loadIssues : Obligations.LoadIssues := by
  unfold Obligations.LoadIssues
  refine ⟨fun x s va hon hr hva hb hd hz => ⟨?window, fun hw s1 s2 ps bs hps => ⟨fun hf hread => ?read, fun hf => ?held⟩, ?outside⟩,
    fun x s s1 va code a hon hr hva hb hd hz hw hps c hc => ⟨?faults, fun hx => ?pending⟩,
    fun s l code va hfatal hroll hl hf hact hhl hv hflight hr hpc hloops hu hbi hs => ?trap⟩
  case window => exact ld_window hon hr hva hb ⟨hd, hz⟩
  case outside => exact ld_window_traps hon hr hva hb
  case read =>
    rw [ld_memory hon hr hva hb ⟨hd, hz⟩ hw, hps]
    simp only [hf, hread, List.isEmpty_nil, Bool.not_true, Bool.false_eq_true, if_false, Core.postInc_eq]
    rfl
  case held =>
    rw [ld_memory hon hr hva hb ⟨hd, hz⟩ hw, hps]
    simp only [List.isEmpty_eq_false_iff.2 hf, Bool.not_false, if_true]
  case faults =>
    rw [ld_memory hon hr hva hb ⟨hd, hz⟩ hw, hps, hc]
    simp only [Core.postInc_eq]
    rfl
  case pending =>
    rw [Core.pendingW, hc, withPost_loads, show (x.d != 0) = true from bne_iff_ne.2 hx]
    simp
  case trap =>
  obtain ⟨ti, hti⟩ : ∃ ti : TrapInfo, ti = ⟨code, l.slot, 1, 0, some va, false, 0, []⟩ := ⟨_, rfl⟩
  obtain ⟨d, hd⟩ : ∃ d, d = s.core.faultDrained l := ⟨_, rfl⟩
  refine ⟨_, boundaryWork_loadFault hfatal hroll hl hf hact hv hflight hr ti hti d hd, ?_⟩
  have hdeq := hd
  rw [Core.faultDrained, Core.dropHeld_eq, hhl] at hdeq
  have hdl : d.handler.loads = [l] := by rw [hdeq]; rfl
  have hdf : d.flight = [] := by rw [hdeq]; exact hflight
  have hes : d.trapEntries = [loadEntry l] := by rw [Core.trapEntries, hdl, hdf]; rfl
  obtain ⟨bytes, hbytes⟩ : ∃ bytes, bytes = d.trapFrame ti s.core.fetch.pc := ⟨_, rfl⟩
  rw [← hbytes]
  have hframe := hbytes
  rw [Core.trapFrame, hes] at hframe
  obtain ⟨w, hw⟩ : ∃ w, w = BitVec.ofNat 64 (code + 2 ^ 16 + l.slot * 2 ^ 17) := ⟨_, rfl⟩
  have hcause : causeWord code l.slot = w := by rw [hw, causeWord, Nat.mod_eq_of_lt hs]
  rw [← hw, hcause]
  obtain ⟨v, hv'⟩ : ∃ v, v = faultWord va := ⟨_, rfl⟩
  rw [show BitVec.ofNat 64 (va % 2 ^ 57 + 2 ^ 63) = v from hv'.symm, ← hv']
  have hctl : d.ctl = s.core.ctl := by rw [hdeq]
  have hhead {n : Nat} (hn : n = Safety.frameNat (d.trapped s.core.fetch.pc w v bytes) 0 64) : n / 2 ^ 201 % 4 = 1 ∧ n / 2 ^ 206 % 2 ^ 8 = 1 := by
    rw [hframe, trapped_header _ _ _ _ _ _ _ (by decide), Nat.pow_zero, Nat.div_one, Nat.mod_mod] at hn
    obtain ⟨-, -, -, -, -, -, hsrc, hnent⟩ := headerNat_fields hn (by omega) (by simp [hti]) (by rw [hti]) (by simp)
    exact ⟨by rw [hsrc, hti], hnent⟩
  refine ⟨rfl, hdl, by rw [hdeq]; rfl, fun hne => ?_, ?_, rfl, by rw [hdeq]; rfl, ?_, ?_, ?_, ?_⟩
  · show (l.dest != 0 && ((d.loads.any fun k => k.dest == l.dest) || d.handler.loads.any fun k => k.dest == l.dest)) = true
    rw [show (l.dest != 0) = true from bne_iff_ne.2 hne, hdl]; simp
  · rw [← hctl]; rfl
  · rw [← hctl]; rfl
  · exact (hhead rfl).1
  · exact (hhead rfl).2
  · show Safety.frameNat (d.trapped s.core.fetch.pc w v bytes) 0x800 16 = _
    rw [hframe, trapped_entry _ _ _ _ _ _ (loadEntry_length l), loadEntry_leVal hu hbi hs]

end Sys2Proof
end

section
/-! PROOFS. Control flow: branches, buckets, loops, the ends of a part and of a bundle, and the return from a trap.
From these Branches, BucketSelectAndLoopEntry, EndsAndMarks and TrapReturn; AbortAndSoftwareTraps fails. -/

namespace Sys2Proof.Machine

/-! ### Branches (R82, R86, R311, R345) -/

theorem targetBad_iff {t : Nat} : targetBad t = true ↔ 0x7FF0 < t ∨ t % 16 ≠ 0 := by
  simp [targetBad]

theorem targetBad_ok {t : Nat} (ht : t ≤ 0x7FF0) (h16 : t % 16 = 0) : targetBad t = false :=
  Bool.eq_false_of_not_eq_true fun h => by rcases targetBad_iff.1 h with h | h <;> omega

/-- A branch to a bundle redirects after its delay bundle. -/
theorem State.execBranch_runs {s : State} {g : Guard} (hg : s.core.active g = true) {t : Nat} (ht : targetBad t = false)
    (f : Core → Core) (hf : f (Safety.redirected s.core t false).mark = (f (Safety.redirected s.core t false)).mark) :
    s.execBranch g t false false f = .next (Safety.ranTo s (f (Safety.redirected s.core t false))) := by
  rw [State.execBranch, hg, ht, firstBad_false, firstBad_nil, known_false, Bool.or_self, State.slot_runs]
  exact congrArg _ (State.onCore_mark hf)

/-- A branch to no bundle traps. -/
theorem State.execBranch_traps {s : State} {g : Guard} (hg : s.core.active g = true) (hc : s.core.issue.checked = false) {t : Nat}
    (ht : targetBad t = true) (stall : Bool) (f : Core → Core) :
    s.execBranch g t false stall f = .next (s.trapAt cIllegalOperation s.core.issue.slot) := by
  rw [State.execBranch, hg, ht, firstBad_true, known_false, State.slot_traps hc]

theorem Core.relTarget_of_eq {c : Core} {off : Int} {t : Nat} (h : (t : Int) = c.fetch.pc + 16 * off) (ht : t ≤ 0x7FF0) :
    c.relTarget off = t := by
  rw [Core.relTarget, wrapTo, ← h, Int.emod_eq_of_lt (by omega) (by omega), Int.toNat_natCast]

/-- A relative target outside the bank's bundles, taken modulo 2^64, is no bundle either. -/
theorem Core.relTarget_bad {c : Core} {off : BitVec 19} (hpc : c.fetch.pc < 0x8000)
    (h : (c.fetch.pc : Int) + 16 * off.toInt < 0 ∨ 0x7FF0 < (c.fetch.pc : Int) + 16 * off.toInt) : targetBad (c.relTarget off.toInt) = true := by
  have hlo := BitVec.le_toInt off
  have hhi := BitVec.toInt_lt (x := off)
  rw [targetBad_iff, Core.relTarget, wrapTo]
  left
  omega

end Sys2Proof.Machine

namespace Sys2Proof
open Machine

/-- Settles O25, from the rule of a branch to a bundle. -/
theorem branches : Obligations.Branches := by
  intro s t ht h16
  have hok := targetBad_ok ht h16
  have hlink : Core.link (Safety.redirected s.core t false).mark = (Core.link (Safety.redirected s.core t false)).mark := rfl
  refine ⟨fun x hg h => ?_, fun x hg h => ⟨?_, fun hp => ?_⟩, fun x hg ha h => ⟨?_, fun hp => ?_, fun hw => ?_⟩, fun g hg hp h => ?_⟩
  · show execBr x s = _
    rw [execBr, Core.relTarget_of_eq h ht, State.execBranch_runs hg hok id rfl]; rfl
  · show execJmp x s = _
    rw [execJmp, Core.relTarget_of_eq h ht, State.execBranch_runs hg hok id rfl]; rfl
  · show execCall x s = _
    rw [execCall, Core.relTarget_of_eq h ht, hp, State.execBranch_runs hg hok Core.link hlink]; rfl
  · show execJmpReg x s = _
    rw [execJmpReg, ← h, ha, State.execBranch_runs hg hok id rfl]; rfl
  · show execCallReg x s = _
    rw [execCallReg, ← h, ha, hp, State.execBranch_runs hg hok Core.link hlink]; rfl
  · show execIbank x s = _
    simp only [execIbank, ← h, hg, hw, ha, hok, checks, firstBad_false, firstBad_nil, known_false, State.slot_runs]
    exact congrArg _ (State.onCore_mark rfl)
  · show execRet g s = _
    rw [execRet, ← h, hp, State.execBranch_runs hg hok id rfl]; rfl

end Sys2Proof

namespace Sys2Proof.Machine

/-! ### Bucket tables (R314, R315) -/

/-- A legal bucket table: 1 to 8 buckets, each at most 65536 above the one before, and entries on bundles. -/
theorem bsel_legal {t k : Nat} {b e : Nat → Nat} (h : bselBad t = false) (hk : k = t % 16) (hb : ∀ i, b i = t / 2 ^ (32 * i + 32) % 2 ^ 32)
    (he : ∀ j, e j = t / 2 ^ (16 * j + 288) % 2 ^ 16) :
    bselCount t = k ∧ (∀ i, bselBucket t i = b i) ∧ (∀ j, bselEntry t j = e j) ∧ k ≤ 8 ∧ b 0 ≤ 65536 ∧
      (∀ i, i + 1 < k → b (i + 1) ≤ b i + 65536) ∧ (∀ j ≤ k, e j % 16 = 0) := by
  have hcount : bselCount t = k := by rw [hk, bselCount, bitsOf, Nat.pow_zero, Nat.div_one]; rfl
  have hbucket (i : Nat) : bselBucket t i = b i := by
    rw [hb, bselBucket, bitsOf, show 32 * i + 63 + 1 - (32 * i + 32) = 32 by omega]
  have hentry (j : Nat) : bselEntry t j = e j := by
    rw [he, bselEntry, bitsOf, show 16 * j + 303 + 1 - (16 * j + 288) = 16 by omega]
  simp only [bselBad, hcount, Bool.or_eq_false_iff, hbucket, hentry] at h
  obtain ⟨⟨⟨⟨⟨⟨⟨-, hk8⟩, -⟩, -⟩, -⟩, h0⟩, hrise⟩, hentries⟩ := h
  have hk8 : k ≤ 8 := by simpa using hk8
  refine ⟨hcount, hbucket, hentry, hk8, by simpa using h0, fun i hi => ?_, fun j hj => ?_⟩
  · have := List.any_eq_false.1 hrise i (List.mem_range.2 (by omega))
    simp only [if_pos hi, Bool.or_eq_true, decide_eq_true_eq] at this
    omega
  · have := List.any_eq_false.1 hentries j (List.mem_range.2 (by omega))
    simp only [Bool.or_eq_true, bne_iff_ne] at this
    omega

/-- The choice of BSEL: the first bucket that holds the value, or the last entry. -/
theorem bselChoose_eq {t k : Nat} {b e : Nat → Nat} (hcount : bselCount t = k) (hbucket : ∀ i, bselBucket t i = b i)
    (hentry : ∀ j, bselEntry t j = e j) {v : Int} {i p : Nat}
    (h : (1 ≤ v ∧ i < k ∧ v ≤ b i ∧ (∀ j, j < i → (b j : Int) < v) ∧ (p : Int) = b i - v) ∨
      ((v < 1 ∨ ∀ j, j < k → (b j : Int) < v) ∧ i = k ∧ p = 0)) : bselChoose t v = (e i, p) := by
  simp only [bselChoose, hcount, hbucket, hentry]
  rcases h with ⟨h1, hik, hvi, hbefore, hp⟩ | ⟨hnone, rfl, rfl⟩
  · have hfind : (List.range k).find? (fun i => decide (v ≤ b i)) = some i := by
      rw [List.find?_range_eq_some]
      refine ⟨by simpa using hvi, List.mem_range.2 hik, fun j hj => ?_⟩
      have := hbefore j hj
      simp only [Bool.not_eq_true', decide_eq_false_iff_not]; omega
    rw [if_pos h1, hfind]
    have : b i - v.toNat = p := by omega
    simp only [this]
  · split
    next h1 =>
      have hfind : (List.range i).find? (fun i => decide (v ≤ b i)) = none := by
        rw [List.find?_eq_none]
        intro j hj
        have := (hnone.resolve_left (by omega)) j (List.mem_range.1 hj)
        simp only [decide_eq_true_eq]; omega
      rw [hfind]
    next => rfl

/-- The padding count is below 2^16. -/
theorem bsel_pad {k : Nat} {b : Nat → Nat} (h0 : b 0 ≤ 65536) (hrise : ∀ i, i + 1 < k → b (i + 1) ≤ b i + 65536) {v : Int} {i p : Nat}
    (h : (1 ≤ v ∧ i < k ∧ v ≤ b i ∧ (∀ j, j < i → (b j : Int) < v) ∧ (p : Int) = b i - v) ∨
      ((v < 1 ∨ ∀ j, j < k → (b j : Int) < v) ∧ i = k ∧ p = 0)) : p % 65536 = p := by
  refine Nat.mod_eq_of_lt ?_
  rcases h with ⟨h1, hik, -, hbefore, hp⟩ | ⟨-, -, rfl⟩
  · cases i with
    | zero => omega
    | succ i =>
      have := hbefore i (Nat.lt_succ_self i)
      have := hrise i hik
      omega
  · decide

/-- The bucket that BSEL chooses exists, or is the one past the last. -/
theorem bsel_index {k : Nat} {b : Nat → Nat} {v : Int} {i p : Nat}
    (h : (1 ≤ v ∧ i < k ∧ v ≤ b i ∧ (∀ j, j < i → (b j : Int) < v) ∧ (p : Int) = b i - v) ∨
      ((v < 1 ∨ ∀ j, j < k → (b j : Int) < v) ∧ i = k ∧ p = 0)) : i ≤ k := by
  rcases h with ⟨-, h, -⟩ | ⟨-, h, -⟩ <;> omega

theorem inShare_of_le {c : Core} {off n : Nat} (h : off + n ≤ c.sp * 16384) : c.inShare off n = true := decide_eq_true h

/-- An aligned block in the share passes the check of its place. -/
theorem block_ok {c : Core} {off : Nat} (hal : off % 64 = 0) (h : off + 64 ≤ c.sp * 16384) : (off % 64 != 0 || !c.inShare off 64) = false := by
  simp [hal, inShare_of_le h]

theorem Core.consumed_eq (c : Core) (bad : Bool) : c.consumed bad = Safety.consumed c bad := rfl

/-- A slot whose checks pass and that does not stall takes effect. -/
theorem State.slot_of_runs {s : State} {on : Bool} {bad : Option Nat} {stall : Bool} {e : State → State} (hon : on = true)
    (hbad : bad = none) (hstall : stall = false) : s.slot on bad stall e = e (s.flow .ran) := by
  rw [hon, hbad, hstall, State.slot_runs]

/-- A slot that fails a check traps. -/
theorem State.slot_of_bad {s : State} {on : Bool} {bad : Option Nat} {stall : Bool} {e : State → State} {code : Nat} (hon : on = true)
    (hc : s.core.issue.checked = false) (hbad : bad = some code) : s.slot on bad stall e = s.trapAt code s.core.issue.slot := by
  rw [hon, hbad, State.slot_traps hc]

/-! ### Loop blocks (R58, R367) -/

/-- A level's strides from its block. -/
def loopStrides (t : Nat) : List (BitVec 6 × Int) := ((loopPairs t).take (bitsOf t 34 32)).map fun p => (BitVec.ofNat 6 p.1, p.2)

/-- A legal block's strides: a number at most 6, and each a register below 64 and its 56-bit stride. -/
theorem loopStrides_legal {t : Nat} (h : loopBlockBad t = false) :
    (loopStrides t).length = t / 2 ^ 32 % 8 ∧ ∀ j p, (loopStrides t)[j]? = some p →
      p.1.toNat = t / 2 ^ (64 * j + 64) % 2 ^ 8 ∧ p.2 = sext 56 (t / 2 ^ (64 * j + 72) % 2 ^ 56) := by
  simp only [loopBlockBad, Bool.or_eq_false_iff, decide_eq_false_iff_not] at h
  obtain ⟨⟨⟨hnp, -⟩, -⟩, hpairs⟩ := h
  have hcount : bitsOf t 34 32 = t / 2 ^ 32 % 8 := rfl
  refine ⟨?_, fun j p hj => ?_⟩
  · rw [loopStrides, List.length_map, List.length_take, loopPairs, List.length_map, List.length_range, hcount]
    omega
  · have hsome := (List.getElem?_eq_some_iff.1 hj).1
    simp only [loopStrides, loopPairs, List.length_map, List.length_take, List.length_range] at hsome
    have hget : (loopStrides t)[j]? = some (BitVec.ofNat 6 (bitsOf t (64 * j + 71) (64 * j + 64)),
        sext 56 (bitsOf t (64 * j + 127) (64 * j + 72))) := by
      simp only [loopStrides, loopPairs, List.getElem?_map, List.getElem?_take, if_pos (show j < bitsOf t 34 32 by omega),
        List.getElem?_range (show j < 6 by omega), Option.map_some]
    have hreg := List.any_eq_false.1 hpairs j (List.mem_range.2 (by omega))
    rw [if_pos (show j < bitsOf t 34 32 by omega)] at hreg
    simp only [Bool.or_eq_true, decide_eq_true_eq, not_or] at hreg
    obtain rfl := Option.some.inj (hget.symm.trans hj)
    refine ⟨?_, ?_⟩
    · show (BitVec.ofNat 6 (bitsOf t (64 * j + 71) (64 * j + 64))).toNat = _
      rw [BitVec.toNat_ofNat, Nat.mod_eq_of_lt (by omega), bitsOf, show 64 * j + 71 + 1 - (64 * j + 64) = 8 by omega]
    · show sext 56 (bitsOf t (64 * j + 127) (64 * j + 72)) = _
      rw [bitsOf, show 64 * j + 127 + 1 - (64 * j + 72) = 56 by omega]

/-- LOOP's effect on a core: its level's pending count cleared, its body entered or skipped. -/
def Core.loopEntered (c : Core) (t start stop : Nat) : Core :=
  let n := c.tripFor t
  let c := { c with pend := Vector.ofFn fun i : Fin 6 => if i.val = c.loops.length then none else c.pend.get i }
  if n = 0 then { c with fetch := { c.fetch with skip := some ((stop + 16) % 0x8000) } }
  else { c with loops := c.loops ++ [⟨start, stop, n, n, loopStrides t⟩], fetch := { c.fetch with skip := some start } }

theorem Core.mark_loopEntered (c : Core) (t start stop : Nat) : c.mark.loopEntered t start stop = (c.loopEntered t start stop).mark := by
  unfold Core.loopEntered
  dsimp only
  rw [show c.mark.tripFor t = c.tripFor t from rfl]
  split <;> rfl

theorem Core.loopEntered_zero {c : Core} {t : Nat} (h : c.tripFor t = 0) (start stop : Nat) : c.loopEntered t start stop =
    { c with pend := Vector.ofFn fun i : Fin 6 => if i.val = c.loops.length then none else c.pend.get i
             fetch := { c.fetch with skip := some ((stop + 16) % 0x8000) } } := by
  unfold Core.loopEntered; rw [if_pos h]

theorem Core.loopEntered_pos {c : Core} {t : Nat} (h : c.tripFor t ≠ 0) (start stop : Nat) : c.loopEntered t start stop =
    { c with pend := Vector.ofFn fun i : Fin 6 => if i.val = c.loops.length then none else c.pend.get i
             loops := c.loops ++ [⟨start, stop, c.tripFor t, c.tripFor t, loopStrides t⟩]
             fetch := { c.fetch with skip := some start } } := by
  unfold Core.loopEntered; rw [if_neg h]

theorem loop_runs {x : LoopF} {s : State} {off blk start stop : Nat} (hon : s.core.active x.g = true) (ha : s.core.pending x.a = false)
    (hoff : off = (s.core.src 0 x.a).toNat) (hblk : blk = leVal (s.core.spRead off 64)) (hstart : start = s.core.fetch.pc + 16)
    (hstop : stop = s.core.fetch.pc + 16 * (x.body.toNat + 1)) (hlen : s.core.loops.length < 6) (hal : off % 64 = 0)
    (hshare : off + 64 ≤ s.core.sp * 16384) (hok : loopBlockBad blk = false) (hmax : stop ≤ 0x7FF0)
    (houter : ∀ l, s.core.loops.getLast? = some l → stop ≤ l.stop) :
    exec (.loop x) s = .next (Safety.ranTo s (Safety.consumed (s.core.loopEntered blk start stop)
      (poisonedIn s.core.poison (s.core.spBase + off) 64))) := by
  show execLoop x s = _
  unfold execLoop
  dsimp only
  rw [← hoff, ← hblk, ← hstop, ← hstart, State.slot_of_runs hon ?checks ha]
  case checks =>
    have hnow : (s.core.loops.length == 6) = false := beq_eq_false_iff_ne.2 (by omega)
    have hfar : decide (stop > 0x7FF0) = false := by simpa using hmax
    rw [block_ok hal hshare, hok, ha, hnow, hfar]
    cases hlast : s.core.loops.getLast? with
    | none => rfl
    | some l =>
      have hin : decide (stop > l.stop) = false := by simpa using houter l hlast
      simp only [hin, checks, Bool.or_self, firstBad_false, firstBad_nil, known_false]
  refine congrArg _ (State.onCore_mark ?_)
  rw [← Core.mark_consumed, ← Core.mark_loopEntered]
  have hblock : s.core.mark.blockBad off = poisonedIn s.core.poison (s.core.spBase + off) 64 := rfl
  simp only [hblock, Core.consumed_eq]
  cases poisonedIn s.core.poison (s.core.spBase + off) 64
  · unfold Core.loopEntered
    rfl
  · simp only [Safety.consumed, Core.uncorrectable, Core.caught_eq, if_true]
    unfold Core.loopEntered
    dsimp only
    split <;> rfl

end Sys2Proof.Machine

namespace Sys2Proof
open Machine

/-- Settles O26, by the table's buckets and the block's count. -/
theorem bucketSelectAndLoopEntry : Obligations.BucketSelectAndLoopEntry := by
  refine ⟨fun x s off t v hon ha hb hv hoff ht hal hshare hok k b e hk hbk he i p hip hmax => ?bsel,
    fun x s off blk start stop n hon ha hoff hblk hstart hstop hlen hal hshare hok hmax houter hn => ?loop⟩
  case bsel =>
    obtain ⟨hcount, hbucket, hentry, -, h0, hrise, hbundle⟩ := bsel_legal hok hk hbk he
    have hchoose := bselChoose_eq hcount hbucket hentry hip
    have htarget : targetBad (e i) = false := targetBad_ok hmax (hbundle i (bsel_index hip))
    show execBsel x s = _
    unfold execBsel
    simp only [← hoff, ← ht, ← hv, hchoose, hon, ha, hb, hok, htarget, block_ok hal hshare, bsel_pad h0 hrise hip, Bool.or_self,
      firstBad_false, firstBad_nil, known_false, State.slot_runs, Core.consumed_eq]
    refine congrArg _ (State.onCore_mark ?_)
    rw [← Core.mark_consumed]; rfl
  case loop =>
    have htrip : s.core.tripFor blk = n := by
      rw [hn, Core.tripFor]
      cases s.core.pend.toList.getD s.core.loops.length none with
      | none => exact congrArg (· % 2 ^ 32) (Nat.div_one blk)
      | some m => rfl
    obtain ⟨hcount, hstrides⟩ := loopStrides_legal hok
    refine ⟨s.core.loopEntered blk start stop, loop_runs hon ha hoff hblk hstart hstop hlen hal hshare hok hmax houter, ?_⟩
    by_cases h0 : n = 0
    · rw [Core.loopEntered_zero (htrip.trans h0)]
      refine ⟨rfl, fun j => ?_, fun _ => ⟨rfl, rfl⟩, fun h => absurd h0 h⟩
      exact Vector.getElem_ofFn _
    · rw [Core.loopEntered_pos (htrip.trans_ne h0)]
      refine ⟨rfl, fun j => ?_, fun h => absurd h h0, fun _ => ⟨rfl, loopStrides blk, by rw [htrip], hcount, hstrides⟩⟩
      exact Vector.getElem_ofFn _

end Sys2Proof

namespace Sys2Proof.Machine

/-! ### What landing results and ending a bundle leave alone (R44, R87) -/

/-- The part of a core that landing results leave alone. -/
def Core.settled (c : Core) : Core :=
  { c with
    regs := (Core.reset 0).regs, twinS := (Core.reset 0).twinS, twinV := (Core.reset 0).twinV, flight := [], inject := (Core.reset 0).inject
    bound := { c.bound with rollback := none, fatal := [] }
    mx := { c.mx with scaleL := none, scaleR := none } }

/-- The part of a core that neither a landing result nor the end of a bundle changes. -/
def Core.still (c : Core) : Core :=
  { c.settled with
    loops := [], issue := (Core.reset 0).issue, bound := { (Core.reset 0).bound with preempt := c.bound.preempt, byUnit := c.bound.byUnit }
    fetch := { (Core.reset 0).fetch with bank0 := c.fetch.bank0, bank1 := c.fetch.bank1, written := c.fetch.written } }

theorem Core.still_of_settled {c d : Core} (h : d.settled = c.settled) : d.still = c.still := by
  have := congrArg Core.still h
  exact this

@[simp] theorem Core.setS_settled (c : Core) (r : BitVec 6) (x : Word) : (c.setS r x).settled = c.settled := by
  unfold Core.setS; split <;> rfl

@[simp] theorem Core.setQ_settled (c : Core) (r : BitVec 4) (x : Bool) : (c.setQ r x).settled = c.settled := by
  unfold Core.setQ; split <;> rfl

@[simp] theorem Core.setM_settled (c : Core) (r : BitVec 3) (x : Mask) : (c.setM r x).settled = c.settled := by
  unfold Core.setM; split <;> rfl

@[simp] theorem Core.setV_settled (c : Core) (r : BitVec 5) (x : VReg) : (c.setV r x).settled = c.settled := rfl

@[simp] theorem Core.dropSlow_settled (c : Core) (d : BitVec 6) (i k : Nat) : (c.dropSlow d i k).settled = c.settled := by
  unfold Core.dropSlow; split <;> rfl

@[simp] theorem Core.landTwin_settled (c : Core) (isQ : Bool) (t : Twin) : (c.landTwin isQ t).settled = c.settled := by
  unfold Core.landTwin
  split
  · rfl
  · split <;> rfl
  · split <;> rfl

@[simp] theorem Core.setRows_settled : ∀ (xs : List VReg) (c : Core) (d : Nat), (c.setRows d xs).settled = c.settled
  | [], _, _ => rfl
  | _ :: xs, c, d => (Core.setRows_settled xs _ _).trans (c.setV_settled _ _)

@[simp] theorem Core.caught_settled (c : Core) (why code : Nat) : (c.caught why code).settled = c.settled := by
  rw [Core.caught_eq]; rfl

@[simp] theorem Core.uncorrectable_settled (c : Core) : c.uncorrectable.settled = c.settled := c.caught_settled _ _

@[simp] theorem Core.landOne_settled (c : Core) (f : Flight) : (c.landOne f).settled = c.settled := by
  unfold Core.landOne
  split
  case h_6 =>
    dsimp only
    split <;> rfl
  case h_7 =>
    dsimp only
    split <;> simp only [Core.uncorrectable_settled, Core.setRows_settled]
  all_goals simp only [Core.landTwin_settled, Core.dropSlow_settled, Core.setS_settled, Core.setQ_settled, Core.setV_settled, Core.setM_settled]

theorem foldl_settled {α : Type} {f : Core → α → Core} (hf : ∀ c a, (f c a).settled = c.settled) :
    ∀ (l : List α) (c : Core), (l.foldl f c).settled = c.settled
  | [], _ => rfl
  | a :: l, c => (foldl_settled hf l _).trans (hf c a)

@[simp] theorem Core.landThose_settled (c : Core) (due : Flight → Bool) : (c.landThose due).settled = c.settled :=
  foldl_settled Core.landOne_settled _ _

@[simp] theorem Core.landDue_settled (c : Core) : c.landDue.settled = c.settled := c.landThose_settled _

@[simp] theorem Core.landReady_settled (c : Core) : c.landReady.settled = c.settled := c.landThose_settled _

@[simp] theorem Core.addStrides_settled : ∀ (l : List (BitVec 6 × Int)) (c : Core), (c.addStrides l).settled = c.settled
  | [], _ => rfl
  | (r, t) :: l, c => (Core.addStrides_settled l _).trans (c.setS_settled r _)

@[simp] theorem Core.sequence_still (pc : Nat) : ∀ (n : Nat) (c : Core), (c.sequence pc n).still = c.still
  | 0, _ => rfl
  | n + 1, c => by
    unfold Core.sequence
    split
    · rfl
    · rename_i l _
      have hstrides : (c.addStrides l.strides).still = c.still := Core.still_of_settled (Core.addStrides_settled l.strides c)
      split
      · rfl
      · dsimp only
        split
        · exact hstrides
        · exact (Core.sequence_still pc n _).trans hstrides

@[simp] theorem Core.advance_still (c : Core) (branchy : Bool) : (c.advance branchy).still = c.still := by
  unfold Core.advance
  dsimp only
  split
  · split
    · exact Core.sequence_still _ _ _
    · rfl
  · split
    · split <;> rfl
    · exact Core.sequence_still _ _ _

/-! ### The end of a bundle without a fault (R264, R280) -/

theorem lowestFault_nil : lowestFault [] = none := rfl

/-- The core whose bundle's issue cycle has ended. -/
def Core.cycled (c : Core) : Core :=
  { c with
    fetch := { c.fetch with cycle := if c.fetch.replay.isSome then c.fetch.cycle else c.fetch.cycle + 1 }
    issue := ⟨0, none, false, 0, none, false, .ran⟩ }

/-- Without a slot's fault a bundle ends by landing what is due and moving on. -/
theorem Core.finish_eq {c : Core} (h : c.bound.faulted = []) (branchy : Bool) :
    c.finish branchy = c.cycled.landReady.advance branchy ∧ c.finish branchy false = c.cycled.advance branchy := by
  have hland : c.cycled.landReady.bound.faulted = [] := (congrArg (·.bound.faulted) c.cycled.landReady_settled).trans h
  have hsame {d : Core} (hd : d.bound.faulted = []) : { d with bound := { d.bound with faulted := [] } } = d := by rw [← hd]
  unfold Core.finish
  constructor
  · dsimp only
    rw [if_pos rfl]
    unfold Core.cycled at hland ⊢
    rw [hland, lowestFault_nil, ite_self]
    exact congrArg (Core.advance · branchy) (hsame hland)
  · dsimp only
    rw [if_neg Bool.false_ne_true, h, lowestFault_nil, ite_self]
    exact congrArg (Core.advance · branchy) (hsame (d := c.cycled) h)

/-- What the end of a bundle without a slot's fault leaves alone. -/
theorem Core.finish_still {c : Core} (h : c.bound.faulted = []) (branchy land : Bool) : (c.finish branchy land).still = c.still := by
  cases land
  · rw [(Core.finish_eq h branchy).2, Core.advance_still]; rfl
  · rw [(Core.finish_eq h branchy).1, Core.advance_still, Core.still_of_settled c.cycled.landReady_settled]; rfl

/-- An operation that acts at a clean boundary: the bundle ends, then it acts. -/
theorem State.boundaryAct_clean {s : State} (h : s.core.bound.faulted = []) {land : Bool} (hr : (s.core.finish false land).bound.rollback = none)
    (act : Core → Core) : s.boundaryAct act land = (s.onCore fun c => act (c.finish false land)).flow .moved := by
  rw [State.boundaryAct, if_pos (by rw [h]; rfl), State.onCore, State.onCore]
  simp only [hr, Option.isSome_none, Bool.false_eq_true, if_false]

end Sys2Proof.Machine

namespace Sys2Proof.Machine

/-! ### The end of a core's part (R402) -/

theorem Core.dropHeld_pool (c : Core) (kind : FencedOp → Bool) : (c.dropHeld kind).pool = c.pool := by
  rw [Core.dropHeld_eq]

theorem Core.endPart_pool (c : Core) (aborted : Bool) : (c.endPart aborted).pool = c.pool := c.dropHeld_pool FencedOp.isMonitor

/-- A load's return leaves the parts of the core that landing leaves alone. -/
theorem Core.returnLoad_part (c : Core) (l : Load) : (c.returnLoad l).part = c.part := by
  have hset : ((c.setS l.dest l.value).dropSlow l.dest c.fetch.cycle 0).settled = c.settled :=
    (Core.dropSlow_settled _ _ _ _).trans (Core.setS_settled _ _ _)
  have hpart : ((c.setS l.dest l.value).dropSlow l.dest c.fetch.cycle 0).part = c.part := (congrArg Core.part hset :)
  unfold Core.returnLoad
  dsimp only
  generalize (c.setS l.dest l.value).dropSlow l.dest c.fetch.cycle 0 = d at hpart
  have hun (d : Core) : d.uncorrectable.part = d.part := (congrArg Core.part d.uncorrectable_settled :)
  split
  · rw [hun]; split <;> exact hpart
  · split <;> exact hpart

theorem Core.settleLoads_part (c : Core) : c.settleLoads.part = c.part := by
  have hfold (l : List Load) (d : Core) : (l.foldl Core.returnLoad d).part = d.part := by
    induction l generalizing d with
    | nil => rfl
    | cons k l ih => exact (ih _).trans (d.returnLoad_part k)
  exact hfold _ _

/-- A core that drains for a scan test still scans once its pattern begins. -/
theorem Core.scanFrom_scanning {c : Core} (hst : c.part.status = .scanning) (hscan : c.part.scan = 1) (t : Nat) :
    (c.scanFrom t).part.status = .scanning ∧ ((c.scanFrom t).part.scan = 1 ∨ (c.scanFrom t).part.scan = 2) := by
  unfold Core.scanFrom
  split
  · exact ⟨hst, .inr rfl⟩
  · exact ⟨hst, .inl hscan⟩

end Sys2Proof.Machine

namespace Sys2Proof
open Machine

/-- Settles O27: the marks change a flag, the ends act at the boundary after their bundle. -/
theorem endsAndMarks : Obligations.EndsAndMarks := by
  refine ⟨fun s => rfl, fun g s hg => ⟨?yield, fun hbank => ?ifence, fun f hf hclean => ⟨?tend, fun hdepth hact hlink hlend => ?stest⟩⟩⟩
  case yield =>
    show execYield g s = _
    rw [execYield, hg, State.slot_runs]; rfl
  case ifence =>
    have hnone : s.core.copy.cmds.any (·.bank) = false := List.any_eq_false.2 fun k hk => by simp [hbank k hk]
    show execIfence g s = _
    rw [execIfence, hg, hnone, firstBad_false, firstBad_nil, State.slot_runs]; rfl
  case tend =>
    obtain ⟨hfaulted, -, hroll⟩ := hclean
    have hstill := Core.finish_still hfaulted false true
    have hpart : (f.core.finish false).part = f.core.part := (congrArg Core.part hstill :)
    have hpool : (f.core.finish false).pool = f.core.pool := (congrArg Core.pool hstill :)
    refine ⟨(f.onCore fun c => (c.finish false).endPart (c.finish false).part.abort).flow .moved, ?_,
      congrArg (fun p : Part => PartStatus.ending p.abort) hpart, rfl, rfl, rfl, rfl, rfl, rfl, (Core.endPart_pool _ (f.core.finish false).part.abort).trans hpool, rfl, rfl⟩
    show execTend g s = _
    rw [execTend, hg, State.slot_runs, ← hf, State.boundaryAct_clean hfaulted hroll]
  case stest =>
    obtain ⟨hfaulted, -, hroll⟩ := hclean
    obtain ⟨e, he⟩ : ∃ e, e = (f.core.finish false).settleLoads := ⟨_, rfl⟩
    obtain ⟨d, hd⟩ : ∃ d : Machine.Core, d = { e with part := { e.part with status := .scanning, scan := 1, scanAt := s.time } } := ⟨_, rfl⟩
    have hrun : exec (.stest g) s = .next ((f.onCore fun _ => d).flow .moved).scanStart := by
      show execStest g s = _
      simp only [execStest, hg, hdepth, hact, hlink, hlend, Nat.lt_irrefl, gt_iff_lt, decide_false, Bool.or_self, firstBad_false,
        firstBad_nil, State.slot_runs, ← hf, State.boundaryAct_clean hfaulted hroll]
      rw [hd, he]
      rfl
    exact ⟨_, hrun, Core.scanFrom_scanning (by rw [hd]; rfl) (by rw [hd]; rfl) _⟩

end Sys2Proof

namespace Sys2Proof.Machine

/-! ### What a store and an event leave alone (R213, R250) -/

/-- A core but for its monitor, which a store of any core may hit. -/
def Core.unmonitored (c : Core) : Core := { c with sync := { c.sync with monitor := none } }

@[simp] theorem Core.monitorHit_unmonitored (c : Core) (pa n : Nat) : (c.monitorHit pa n).unmonitored = c.unmonitored := by
  unfold Core.monitorHit
  split
  · split <;> rfl
  · rfl

/-- The part of the state that a store to memory leaves alone. -/
def State.unstored (s : State) : State :=
  { s with core := s.core.unmonitored, rest := s.rest.map Core.unmonitored, mem := [], poison := [], quays := State.reset.quays, windows := [] }

/-- The part of the state that an event leaves alone. -/
def State.unevented (s : State) : State :=
  { s.unstored with
    hm := { s.hm with evno := 0, backlog := [], lost := 0, waiting := [] }
    host := { s.host with msix := [] } }

theorem State.unevented_of_unstored {s t : State} (h : t.unstored = s.unstored) : t.unevented = s.unevented := by
  have := congrArg State.unevented h
  have huu (s : State) : s.unstored.unevented = s.unevented := by
    have hmap : (s.rest.map Core.unmonitored).map Core.unmonitored = s.rest.map Core.unmonitored := by
      rw [List.map_map]; rfl
    simp only [State.unevented, State.unstored, hmap]
    rfl
  rwa [huu, huu] at this

@[simp] theorem State.store_unstored (s : State) (pa : Nat) (bs : List Byte) (bad : Bool) : (s.store pa bs bad).unstored = s.unstored := by
  unfold State.store
  split
  · rfl
  · obtain ⟨q, w, h⟩ := s.touch_only pa bs.length
    simp only [h, State.mapCores, State.unstored, List.map_map, Core.monitorHit_unmonitored, Function.comp_def]

@[simp] theorem State.writeEvents_unevented : ∀ (n : Nat) (s : State), (s.writeEvents n).unevented = s.unevented
  | 0, _ => rfl
  | n + 1, s => by
    unfold State.writeEvents
    split
    next => rfl
    next e r _ =>
      split
      · refine (State.writeEvents_unevented n _).trans ?_
        exact (State.unevented_of_unstored
          (s.store_unstored (s.hm.ringBase + 64 * ((e.evno - 1) % s.ringSize)) (eventBytes e) false) :)
      · rfl

@[simp] theorem State.addEvent_unevented (s : State) (e : RawEvent) : (s.addEvent e).unevented = s.unevented :=
  State.writeEvents_unevented _ _

@[simp] theorem State.number_unevented (s : State) (e : RawEvent) : (s.number e).unevented = s.unevented := by
  unfold State.number State.numberLost
  split
  · exact (State.addEvent_unevented _ _).trans (State.addEvent_unevented _ _)
  · exact State.addEvent_unevented _ _

@[simp] theorem State.emit_unevented (s : State) (e : RawEvent) : (s.emit e).unevented = s.unevented := by
  unfold State.emit
  split
  · exact s.number_unevented e
  · split <;> rfl

/-- A core that differs only in its monitor. -/
theorem State.unevented_core {s t : State} (h : t.unevented = s.unevented) : t.core.unmonitored = s.core.unmonitored :=
  (congrArg State.core h :)

/-- Every other core stands as it did but for its monitor. -/
theorem State.unevented_rest {s t : State} (h : t.unevented = s.unevented) {c : Core} (hc : c ∈ s.rest) :
    ∃ d ∈ t.rest, d.unmonitored = c.unmonitored := by
  have hrest : t.rest.map Core.unmonitored = s.rest.map Core.unmonitored := (congrArg State.rest h :)
  have hmem : c.unmonitored ∈ t.rest.map Core.unmonitored := by rw [hrest]; exact List.mem_map_of_mem hc
  exact List.mem_map.1 hmem

end Sys2Proof.Machine

namespace Sys2Proof.Machine

/-! ### A trap while an atomic access stands behind a FENCE (R204, R254) -/

/-- An ATOM whose access stands behind a FENCE: its value is still to come. -/
def fencedAtomic : Load := ⟨6, true, 0, 3, 0, none, false, 0, false, 0, 0, true⟩

/-- A core with a trap handler and that load, behind a FENCE after push 7, which a translation fault of its stream w1 has stopped. -/
def fencedAtomicCore : Core :=
  let c := (Core.reset 0).setStream 1
    ⟨some ⟨true, false, 0, [(1, 256)], false, 0, 0⟩, 1, 0, [⟨0, false, 1, 0, false, 7, 0, [], 0⟩], [], some (0x13, 0), false, 0, []⟩
  { c with
    ctl := { c.ctl with tvec := 0x1000 }
    copy := { c.copy with fence := [7], fenced := [⟨2 ^ 64, [7], .atomic 6 0 8 (.atom 0 true 1) []⟩] }
    loads := [fencedAtomic] }

end Sys2Proof.Machine

namespace Sys2Proof
open Machine

/-- Refutes O28: a TRAP does not wait for an ATOM whose access stands behind a FENCE (it neither returns nor is recorded as
faulted-pending), so that load is still outstanding in the handler. -/
theorem not_abortAndSoftwareTraps : ¬ Obligations.AbortAndSoftwareTraps := by
  unfold Obligations.AbortAndSoftwareTraps
  rintro ⟨-, htrap⟩
  obtain ⟨⟨t, ht, -, -, -, -, -, hloads, -⟩, -⟩ := htrap ⟨⟨false, 0⟩, 0⟩ { State.reset with core := fencedAtomicCore } (by decide) (by decide) (by decide)
    ⟨by decide, by decide, by decide⟩ _ rfl
  have hleft : (match exec (.trap ⟨⟨false, 0⟩, 0⟩) { State.reset with core := fencedAtomicCore } with
      | .next t => t.core.loads | _ => []) = [fencedAtomic] := by rfl
  rw [ht] at hleft
  exact absurd (hloads.symm.trans hleft) (by decide)

end Sys2Proof

namespace Sys2Proof.Machine

/-! ### Returning from a trap (R264, R405) -/

/-- One bit of a number, as a field. -/
theorem bitsOf_bit (x k : Nat) : (bitsOf x k k == 1) = x.testBit k := by
  rw [bitsOf, show k + 1 - k = 1 by omega, Nat.testBit_eq_decide_div_mod_eq]
  rfl

theorem bitsOf_eq_one (x k : Nat) : bitsOf x k k = 1 ↔ x.testBit k = true := by
  rw [← bitsOf_bit, beq_iff_eq]

theorem filterMap_never {α β : Type} (l : List α) : l.filterMap (fun _ => (none : Option β)) = [] :=
  List.filterMap_eq_nil_iff.2 fun _ _ => rfl

/-- The core that a TRET without frozen results or loads leaves, once the frame's registers are read back. -/
def Core.returned (c : Core) (hdr rt : Nat) : Core :=
  { c with
    loops := c.frameLoops.filterMap readLoop
    handler := Handler.reset
    sync := { c.sync with waiting := if c.ctl.epc.toNat = c.handler.pc then c.handler.waits else [] }
    fetch := { c.fetch with
      pc := c.ctl.epc.toNat
      redirect := if hdr.testBit 192 then some ⟨rt / 2 * 2, rt % 2 == 1⟩ else none
      skip := if c.ctl.epc.toNat = c.handler.pc then c.handler.skip else none
      replay := if hdr.testBit 193 then some c.frameReplay else none
      after := (c.handler.after && c.ctl.epc.toNat == c.handler.pc) || hdr.testBit 192 }
    copy := { c.copy with
      cmds := c.copy.cmds.map fun k => if k.told then { k with stop := none, told := false } else k
      streams := c.copy.streams.map fun w => if w.told then { w with stop := none, told := false } else w }
    mx := if c.mx.told then { c.mx with stop := none, told := false } else c.mx }

/-- What a read of the scratchpad depends on. -/
theorem Core.spRead_congr {c d : Core} (hpool : d.pool = c.pool) (hctl : d.ctl = c.ctl) (o n : Nat) : d.spRead o n = c.spRead o n := by
  simp only [Core.spRead, Core.poolRead, Core.spBase, Core.rf, Core.accGranules, hpool, hctl]

theorem Core.loadFrame_loops (c : Core) : c.loadFrame.frameLoops = c.frameLoops := by
  have hpool : c.loadFrame.pool = c.pool := by unfold Core.loadFrame; rfl
  have hctl : c.loadFrame.ctl = c.ctl := by unfold Core.loadFrame; rfl
  simp only [Core.frameLoops, Core.frameOff, hctl, Core.spRead_congr hpool hctl]

/-- A frame without entries, whose redirect and loop levels are legal, returns to its bundle. -/
theorem State.trapReturn_empty {s : State} {hdr rt : Nat} (hhdr : hdr = Safety.frameNat s.core 0 64) (hnent : hdr / 2 ^ 206 % 2 ^ 8 = 0)
    (hrt : rt = hdr / 2 ^ 256 % 2 ^ 64) (hredirect : hdr.testBit 192 = true → targetBad (rt / 2 * 2) = false)
    (hloops : ∀ i < 6, badLoopEdit (s.core.spRead (s.core.ctl.frame.toNat + (0x200 + 64 * i)) 64) = false) :
    s.trapReturn = s.onCore fun c => c.loadFrame.returned hdr rt := by
  have hread : leVal (s.core.spRead s.core.frameOff 64) = hdr := hhdr.symm
  have hn : bitsOf hdr 213 206 = 0 := hnent
  have hr : bitsOf hdr 319 256 = rt := hrt.symm
  have hbad : (hdr.testBit 192 && targetBad (rt / 2 * 2)) = false := by
    cases h : hdr.testBit 192 with
    | false => rfl
    | true => exact hredirect h
  have hlevels : s.core.frameLoops.any badLoopEdit = false := by
    rw [List.any_eq_false]
    intro bs hbs
    obtain ⟨i, hi, rfl⟩ := List.mem_map.1 hbs
    rw [Nat.add_assoc]
    exact Bool.eq_false_iff.1 (hloops i (List.mem_range.1 hi))
  unfold State.trapReturn
  dsimp only
  rw [hread]
  simp only [hn, hr, bitsOf_bit, bitsOf_eq_one, Nat.not_lt_zero, if_false, filterMap_never, hbad, hlevels, List.any_nil, Bool.or_self,
    gt_iff_lt, decide_false, Bool.false_eq_true, State.reissueAll, List.find?_nil, List.filterMap_nil, List.nil_append, List.append_nil]
  rfl

end Sys2Proof.Machine

namespace Sys2Proof
open Machine

/-- The registers and flags that TRET takes from the frame and from the handler. -/
theorem returned_frame (c : Machine.Core) {hdr rt : Nat} (d : Machine.Core) (hd : d = c.loadFrame.returned hdr rt) :
    d.handler = ⟨false, [], [], 0, false, none, [], []⟩ ∧ d.fetch.pc = c.ctl.epc.toNat ∧
      (∀ j : Fin 16, d.regs.q.get j = (Safety.frameNat c 0xC0 8).testBit j) ∧
      (∀ j : Fin 8, d.regs.m.get j = BitVec.ofNat 256 (Safety.frameNat c (0x100 + 32 * j) 32)) ∧
      d.regs.s = c.regs.s ∧ d.regs.v = c.regs.v ∧ d.flight = c.flight ∧ d.fetch.replay.isSome = hdr.testBit 193 ∧
      d.fetch.redirect = (if hdr.testBit 192 then some ⟨rt / 2 * 2, decide (rt % 2 = 1)⟩ else none) ∧
      d.fetch.after = (decide (c.handler.after = true ∧ c.ctl.epc.toNat = c.handler.pc) || hdr.testBit 192) ∧
      d.loops = (List.range 6).filterMap fun i => readLoop (c.spRead (c.ctl.frame.toNat + (0x200 + 64 * i)) 64) := by
  have hloops : d.loops = c.frameLoops.filterMap readLoop := by rw [hd, Core.returned, Core.loadFrame_loops]
  rw [hloops, hd]
  unfold Core.returned Core.loadFrame
  dsimp only
  refine ⟨rfl, rfl, fun j => ?q, fun j => ?m, rfl, rfl, rfl, ?replay, rfl, ?after, ?loops⟩
  case q =>
    refine (Vector.getElem_ofFn _).trans ?_
    exact bitsOf_bit (Safety.frameNat c 0xC0 8) j
  case m => exact Vector.getElem_ofFn _
  case replay => cases hdr.testBit 193 <;> rfl
  case after =>
    rw [Bool.decide_and, Bool.decide_eq_true]
    rfl
  case loops =>
    rw [Core.frameLoops, List.filterMap_map]
    simp only [Function.comp_def, Core.frameOff, Nat.add_assoc]

/-- Settles O29: at the clean boundary after its bundle TRET reads the frame back. -/
theorem trapReturn : Obligations.TrapReturn := by
  intro g s f e hg hact hf hsf hff hfr he her hnent rt hrt hrdv hloops
  obtain ⟨hdr, hhdr⟩ : ∃ hdr, hdr = Safety.frameNat e 0 64 := ⟨_, rfl⟩
  have hbound : f.boundaryAct id false = (f.onCore fun _ => e).flow .moved := by
    rw [State.boundaryAct_clean hff (by rw [← he]; exact her), he]; rfl
  rw [← hhdr] at hnent hrt hrdv ⊢
  have hreturn := State.trapReturn_empty (s := (f.onCore fun _ => e).flow .moved) (hdr := hdr) (rt := rt) hhdr hnent hrt
    (fun h => targetBad_ok (hrdv h).1 (hrdv h).2) hloops
  have hfree : (s.flow .ran).core.bound.faulted.isEmpty = true := by
    rw [show (s.flow .ran).core.bound.faulted = [] from hsf]; rfl
  have hroll : ((f.onCore fun _ => e).flow .moved).core.bound.rollback.isSome = false := by
    rw [show ((f.onCore fun _ => e).flow .moved).core.bound.rollback = none from her]; rfl
  refine ⟨((f.onCore fun _ => e).flow .moved).trapReturn.flow .moved, ?run, ?_⟩
  case run =>
    show execTret g s = _
    unfold execTret
    simp only [hg, hact, Bool.not_true, firstBad_false, firstBad_nil, State.slot_runs, ← hf, hbound, hfree, hroll, Bool.or_self,
      Bool.false_eq_true, if_false]
  rw [hreturn]
  exact returned_frame { e with issue := { e.issue with flow := .moved } } _ rfl

end Sys2Proof
end

section
/-! PROOFS. Sync objects, releases, fences, monitors and barriers: ReleaseSemantics, FencesMonitorsAndCounts and
BarrierArrival. -/

namespace Sys2Proof.Machine

/-! ### What performing a contained node's stores leaves alone (R274) -/

/-- A task but for what it has staged. -/
def Task.plain (t : Task) : Task := { t with staged := [], stagedBad := [], stagedRows := [], lines := [], unc := false }

/-- The part of the state that performing a contained node's stores leaves alone. -/
def State.uncommitted (s : State) : State :=
  { s.unstored with hot := State.reset.hot, hm := { s.hm with tasks := s.hm.tasks.map Task.plain } }

theorem State.uncommitted_of_unstored {s t : State} (h : t.unstored = s.unstored) : t.uncommitted = s.uncommitted := by
  have := congrArg State.uncommitted h
  have huu (s : State) : s.unstored.uncommitted = s.uncommitted := by
    have hmap : (s.rest.map Core.unmonitored).map Core.unmonitored = s.rest.map Core.unmonitored := by
      rw [List.map_map]; rfl
    simp only [State.uncommitted, State.unstored, hmap]
    rfl
  rwa [huu, huu] at this

theorem foldl_uncommitted {α : Type} {f : State → α → State} (hf : ∀ s a, (f s a).uncommitted = s.uncommitted) :
    ∀ (l : List α) (s : State), (l.foldl f s).uncommitted = s.uncommitted
  | [], _ => rfl
  | a :: l, s => (foldl_uncommitted hf l _).trans (hf s a)

theorem State.storeRow_uncommitted (s : State) (home : List (Nat × Nat)) (data : List Byte) (bad : List Nat) :
    (s.storeRow home data bad).uncommitted = s.uncommitted := by
  have hrows (l : List (Nat × Nat)) (a : State × List Byte) :
      (l.foldl (fun a r => (a.1.store r.1 (a.2.take r.2), a.2.drop r.2)) a).1.uncommitted = a.1.uncommitted := by
    induction l generalizing a with
    | nil => rfl
    | cons r l ih => exact (ih _).trans (State.uncommitted_of_unstored (State.store_unstored _ _ _ _))
  exact (hrows home (s, data) :)

theorem State.performRow_uncommitted (s : State) (r : StagedRow) : (s.performRow r).uncommitted = s.uncommitted := by
  unfold State.performRow
  dsimp only
  split
  · rfl
  · split
    · exact (State.storeRow_uncommitted { s with hot := { s.hot with backs := s.hot.backs.filter fun w => w.key != r.key } }
        r.home r.data (if r.bad then List.range (rowGranules r.home).length else []) :)
    · rfl

theorem State.mapTask_plain {s : State} {n : Nat} {f : Task → Task} (hf : ∀ t, (f t).plain = t.plain) :
    (s.mapTask n f).uncommitted = s.uncommitted := by
  have hmap : (s.hm.tasks.map fun t => if t.num = n then f t else t).map Task.plain = s.hm.tasks.map Task.plain := by
    rw [List.map_map]
    refine List.map_congr_left fun t _ => ?_
    show Task.plain (if t.num = n then f t else t) = _
    split
    · exact hf t
    · rfl
  simp only [State.uncommitted, State.unstored, State.mapTask, hmap]

theorem State.commit_uncommitted (s : State) (n : Nat) : (s.commit n).uncommitted = s.uncommitted := by
  unfold State.commit
  split
  · rfl
  · dsimp only
    refine Eq.trans (State.mapTask_plain ?_) ?_
    · exact fun _ => rfl
    · rw [foldl_uncommitted State.performRow_uncommitted, foldl_uncommitted (f := State.performPoison) fun _ _ => rfl,
        foldl_uncommitted (f := fun (s : State) (p : Nat × Byte) => s.store p.1 [p.2]) fun s p => State.uncommitted_of_unstored (State.store_unstored s p.1 [p.2] false)]

theorem State.uncontain_uncommitted (s : State) (n : Nat) : (s.uncontain n).uncommitted = s.uncommitted := by
  unfold State.uncontain
  split
  · rfl
  · split
    · refine Eq.trans (State.mapTask_plain ?_) (s.commit_uncommitted n)
      exact fun _ => rfl
    · rfl

theorem State.uncontain_unmonitored (s : State) (n : Nat) : (s.uncontain n).core.unmonitored = s.core.unmonitored :=
  (congrArg State.core (s.uncontain_uncommitted n) :)

/-! ### Releases (R203, R389) -/

theorem syncBad_ok {va : Word} (h : Safety.objAddr va) : syncBad va = false := by
  obtain ⟨hal, hz, hw⟩ := h
  simp only [syncBad, hal, hw, bne_self_eq_false, beq_eq_false_iff_ne.2 hz, Bool.or_self]

/-- REL on a legal object whose page may be written waits in the memory system. -/
theorem rel_runs {x : SyncF} {s f : State} {va : Word} {p : Piece} (hon : s.core.active x.g = true) (ha : s.core.pending x.a = false)
    (hdepth : s.core.depth = 0) (hva : va = s.core.srcAddr x.a) (hobj : Safety.objAddr va)
    (hp : (s.flow .ran).flushStreams.syncPiece va.toNat x.scope.toNat = (f, .ok p)) (hw : p.x.w = true) :
    exec (.rel x) s = .next ((f.uncontain f.core.part.task).onCore fun c =>
      { c with sync := { c.sync with rels := c.sync.rels ++ [⟨va, p.pa, x.scope, [], false, c.pushesBefore, c.stamp⟩] } }) := by
  show execRel x s = _
  unfold execRel
  simp only [← hva, hon, ha, hdepth, syncBad_ok hobj, Nat.lt_irrefl, gt_iff_lt, decide_false, checks, firstBad_false, firstBad_nil, known_false,
    State.slot_runs, hp, hw, Bool.not_true, Bool.false_eq_true, if_false]

/-- A release with nothing before it and nothing to wait for is performed. -/
theorem releasePerform_runs {s : State} {r : Release} (hr : s.core.sync.rels[0]? = some r) (hw : r.waits = [])
    (hafter : ∀ n ∈ s.core.unperformed, n ∉ r.after) (hsent : r.scope.toNat ≠ 4 ∨ r.sent = true) :
    exec (.releasePerform 0) s = .next ((s.onCore fun c => { c with sync := { c.sync with rels := dropAt 0 c.sync.rels } }).releaseNow r) := by
  have hnone : r.after.any s.core.unperformed.contains = false := List.any_eq_false.2 fun n hn hc =>
    hafter n (List.contains_iff_mem.1 hc) hn
  have hmark : ¬ (r.scope.toNat = 4 ∧ (!r.sent) = true) := by
    rintro ⟨h4, hs⟩
    rcases hsent with h | h
    · exact h h4
    · simp [h] at hs
  show execReleasePerform 0 s = _
  unfold execReleasePerform
  simp only [hr, hnone, ne_eq, not_true_eq_false, Bool.false_eq_true, or_self, if_false, if_neg hmark, hw, List.isEmpty_nil, if_true]

end Sys2Proof.Machine

namespace Sys2Proof.Machine

/-! ### Sync objects in device memory (R203, R281) -/

theorem State.touch_none {s : State} (h : s.windows = []) (pa n : Nat) : s.touch pa n = s := by
  rw [State.touch, h]; rfl

theorem State.viewBytes_sees {s : State} (h : Safety.seesMemory s) (pa n : Nat) : s.viewBytes s.task pa n = s.mem.read pa n := by
  unfold State.viewBytes
  cases ht : s.task with
  | none => rfl
  | some t => simp [(h t ht).1]

/-- An object in device memory as the core finds it. -/
theorem State.readSync_device {s : State} {p : Piece} (hdev : isDevice p.pa = true) (hbond : p.x.bond = false) (hsees : Safety.seesMemory s)
    (hwin : s.windows = []) : s.readSync p =
      (s, if s.poisonedAt [p] then .error (.fatal cUncorrectable) else .ok (syncOf (leVal (s.mem.read p.pa p.len)))) := by
  have hread : s.readPiece p = (s, .ok (s.mem.read p.pa p.len)) := by
    unfold State.readPiece
    rw [hbond, if_neg Bool.false_ne_true, State.viewBytes_sees hsees, State.touch_none hwin]
    unfold isDevice at hdev
    cases hp : placeOf p.pa <;> simp [hp] at hdev ⊢
  unfold State.readSync
  split
  next slot a hp => exact absurd hp ((isDevice_place hdev).2 slot a)
  · rw [hread]

theorem State.writeSync_device {s : State} {p : Piece} (hdev : isDevice p.pa = true) (hsees : Safety.seesMemory s) (o : SyncObj)
    (op : RemoteOp) : s.writeSync p o op = (s.store p.pa (syncHead o), none) := by
  unfold State.writeSync
  split
  next slot a hp => exact absurd hp ((isDevice_place hdev).2 slot a)
  · rw [State.writePiece_device hdev, State.taskStore_direct fun t ht => (hsees t ht).2]

theorem SyncObj.legal_of {o : SyncObj} (h3 : o.mode ≠ 3) (h0 : o.mode = 0 → o.aux = 0) : o.illegal = false := by
  simp only [SyncObj.illegal, Bool.or_eq_false_iff, Bool.and_eq_false_iff, beq_eq_false_iff_ne, bne_eq_false_iff_eq]
  exact ⟨h3, (em (o.mode = 0)).elim (fun h => .inr (h0 h)) .inl⟩

/-- What a release waits in memory with. -/
def Release.piece (r : Release) : Piece := ⟨r.va.toNat, r.pa, 64, ⟨0, 0, 64, 0, true, false, false⟩⟩

/-- A release of a poisoned object is its fatal fault. -/
theorem State.releaseNow_poisoned {s : State} {r : Release} (hdev : isDevice r.pa = true) (hsees : Safety.seesMemory s) (hwin : s.windows = [])
    (hbad : s.poisonedAt [r.piece] = true) : s.releaseNow r = s.onCore fun c => c.fatal cUncorrectable := by
  unfold State.releaseNow
  have := State.readSync_device (p := r.piece) hdev rfl hsees hwin
  rw [hbad] at this
  simp only [Release.piece] at this ⊢
  rw [this]; rfl

/-- A release of a LOCK of another holder is its fatal fault; any other raises the object. -/
theorem State.releaseNow_good {s : State} {r : Release} {o : SyncObj} (hdev : isDevice r.pa = true) (hsees : Safety.seesMemory s)
    (hwin : s.windows = []) (hbad : s.poisonedAt [r.piece] = false) (ho : o = syncOf (leVal (s.mem.read r.pa 64))) (hlegal : o.illegal = false) :
    (o.mode = 0 ∧ (o.hcore ≠ s.core.id + 1 ∨ o.hmod ≠ s.ferry.addr) → s.releaseNow r = s.onCore fun c => c.fatal cSyncOwner) ∧
    (¬ (o.mode = 0 ∧ (o.hcore ≠ s.core.id + 1 ∨ o.hmod ≠ s.ferry.addr)) →
      s.releaseNow r = s.store r.pa (Safety.objBytes (Safety.objRaised o true))) := by
  have hread := State.readSync_device (p := r.piece) hdev rfl hsees hwin
  rw [hbad] at hread
  simp only [Release.piece, Bool.false_eq_true, if_false, ← ho] at hread
  refine ⟨fun h => ?_, fun h => ?_⟩ <;> unfold State.releaseNow <;> dsimp only <;> rw [hread]
  · simp only [hlegal, Bool.false_eq_true, if_false, if_pos h]
  · simp only [hlegal, Bool.false_eq_true, if_false, if_neg h]
    rw [State.writeSync_device (p := ⟨r.va.toNat, r.pa, 64, ⟨0, 0, 64, 0, true, false, false⟩⟩) hdev hsees]
    refine congrArg (fun bs => s.store r.pa bs) ?_
    unfold Safety.objRaised
    by_cases hm : o.mode = 0
    · rw [if_pos hm, if_pos ⟨hm, rfl⟩]; rfl
    · rw [if_neg hm, if_neg fun hc => hm hc.1]; rfl

end Sys2Proof.Machine

namespace Sys2Proof
open Machine

theorem objBytes_ne_nil (o : SyncObj) : Safety.objBytes o ≠ [] := List.ne_nil_of_length_pos (by simp [Safety.objBytes])

/-- Settles O32: REL waits in the memory system; performed, it frees or raises its object. -/
theorem releaseSemantics : Obligations.ReleaseSemantics := by
  refine ⟨fun x s f va p hon ha hdepth hva hobj hp hw => ?rel, fun s r o hr hwaits hafter hsent hdev hsees hwin bad hbad => ?perform,
    fun k s hk => ?later⟩
  case rel =>
    obtain ⟨u, hu⟩ : ∃ u, u = f.uncontain f.core.part.task := ⟨_, rfl⟩
    have hcore : u.core.unmonitored = f.core.unmonitored := by rw [hu]; exact f.uncontain_unmonitored _
    have hrels : u.core.sync.rels = f.core.sync.rels := (congrArg (·.sync.rels) hcore :)
    have hbefore : u.core.pushesBefore = f.core.pushesBefore := (congrArg Core.pushesBefore hcore :)
    have hstamp : u.core.stamp = f.core.stamp := (congrArg Core.stamp hcore :)
    refine ⟨_, rel_runs hon ha hdepth hva hobj hp hw, ?_⟩
    rw [← hu]
    refine ⟨?_, (congrArg Core.regs hcore :), (congrArg Core.ctl hcore :), fun hdir => ?_⟩
    · show u.core.sync.rels ++ [⟨va, p.pa, x.scope, [], false, u.core.pushesBefore, u.core.stamp⟩] = _
      rw [hrels, hbefore, hstamp]
    · show u.mem = f.mem
      rw [hu, State.uncontain_direct hdir]
  case perform =>
    obtain ⟨d, hd⟩ : ∃ d, d = s.onCore fun c => { c with sync := { c.sync with rels := dropAt 0 c.sync.rels } } := ⟨_, rfl⟩
    have hrun : exec (.releasePerform 0) s = .next (d.releaseNow r) := by rw [hd]; exact releasePerform_runs hr hwaits hafter hsent
    have hdsees : Safety.seesMemory d := by rw [hd]; exact hsees
    have hdwin : d.windows = [] := by rw [hd]; exact hwin
    have hdbad : d.poisonedAt [r.piece] = bad := by rw [hd, hbad]; rfl
    have hdmem : d.mem = s.mem := by rw [hd]; rfl
    have hdbound : d.core.bound = s.core.bound := by rw [hd]; rfl
    have hdrels : d.core.sync.rels = s.core.sync.rels.eraseIdx 0 := by rw [hd]; exact (List.eraseIdx_eq_take_drop_succ _ _).symm
    refine ⟨fun hb => ?poisoned, fun hb ho => ?good⟩
    case poisoned =>
      rw [hb] at hdbad
      refine ⟨_, hrun, ?_⟩
      rw [State.releaseNow_poisoned hdev hdsees hdwin hdbad]
      exact ⟨congrArg (fun b : Boundary => b.fatal ++ [cUncorrectable]) hdbound, hdmem⟩
    case good =>
    rw [hb] at hdbad
    rw [← hdmem] at ho
    have hid : d.core.id = s.core.id ∧ d.ferry.addr = s.ferry.addr := by rw [hd]; exact ⟨rfl, rfl⟩
    refine ⟨fun hmode => ?frees, fun h0 haux howner => ?owner⟩
    case frees =>
      have hlegal : o.illegal = false := by
        rcases hmode with h | h | ⟨h, haux, -⟩
        · exact SyncObj.legal_of (by omega) fun h0 => absurd h0 (by omega)
        · exact SyncObj.legal_of (by omega) fun h0 => absurd h0 (by omega)
        · exact SyncObj.legal_of (by omega) fun _ => haux
      refine ⟨_, hrun, ?_⟩
      rw [(State.releaseNow_good hdev hdsees hdwin hdbad ho hlegal).2 ?own]
      case own =>
        rw [hid.1, hid.2]
        rintro ⟨h0, hother⟩
        rcases hmode with h | h | ⟨-, -, hc, hm⟩
        · omega
        · omega
        · exact hother.elim (fun h => h hc) fun h => h hm
      have hkept : (d.store r.pa (Safety.objBytes (Safety.objRaised o true))).core.unmonitored = d.core.unmonitored :=
        (congrArg State.core (d.store_unstored r.pa (Safety.objBytes (Safety.objRaised o true)) false) :)
      refine ⟨?_, ?_⟩
      · rw [← hdrels]; exact (congrArg (·.sync.rels) hkept :)
      · rw [State.store_mem (objBytes_ne_nil _), hdmem]
    case owner =>
      have hlegal : o.illegal = false := SyncObj.legal_of (by omega) fun _ => haux
      refine ⟨_, hrun, ?_⟩
      rw [(State.releaseNow_good hdev hdsees hdwin hdbad ho hlegal).1 ⟨h0, by rw [hid.1, hid.2]; exact howner⟩]
      exact ⟨congrArg (fun b : Boundary => b.fatal ++ [cSyncOwner]) hdbound, hdmem⟩
  case later =>
    show execReleasePerform k s = _
    unfold execReleasePerform
    cases s.core.sync.rels[k]? with
    | none => rfl
    | some r => simp only [hk, ne_eq, not_false_eq_true, true_or, if_true]

end Sys2Proof

namespace Sys2Proof.Machine

/-! ### Monitors (R213, R214) -/

theorem State.flow_of_ran {s : State} (h : s.core.issue.flow = .ran) : s.flow .ran = s := by
  simp only [State.flow, State.onCore, ← h]

theorem Core.noHeldMonitor_eq (c : Core) : c.dropHeld FencedOp.isMonitor = Safety.noHeldMonitor c := by
  have hkind : (fun f : Fenced => !FencedOp.isMonitor f.op) = fun f => match f.op with | .monitor _ => false | _ => true := by
    funext f
    cases f.op <;> rfl
  rw [Core.dropHeld_eq, hkind]; rfl

/-- Without a MON that waits nothing is given up. -/
theorem Core.noHeldMonitor_none {c : Core} (h : c.heldMonitor = none) : Safety.noHeldMonitor c = c := by
  have hnone : ∀ f ∈ c.copy.fenced, FencedOp.isMonitor f.op = false := by
    intro f hf
    have := List.findSome?_eq_none_iff.1 h f hf
    cases hop : f.op <;> simp [hop, FencedOp.isMonitor] at this ⊢
  rw [← Core.noHeldMonitor_eq, Core.dropHeld, if_neg]
  rw [List.any_eq_true]
  rintro ⟨f, hf, hk⟩
  exact absurd (hnone f hf) (by simp [hk])

/-- A MON that arms nothing, or with nothing before it, takes the monitor over at once. -/
theorem Core.monitor_arms {c : Core} {line : Nat} {nothing : Bool} (h : nothing = true ∨ (Safety.noHeldMonitor c).unperformed = []) :
    c.monitor line nothing = (Safety.noHeldMonitor c).arm line nothing (Safety.noHeldMonitor c).stamp := by
  rw [Core.monitor, Core.noHeldMonitor_eq, if_pos]
  rcases h with h | h <;> simp [h]

/-- One with accesses before it waits for them. -/
theorem Core.monitor_waits {c : Core} {line : Nat} (h : (Safety.noHeldMonitor c).unperformed ≠ []) :
    c.monitor line false = { Safety.noHeldMonitor c with
      sync := { c.sync with monitor := none }
      copy := { (Safety.noHeldMonitor c).copy with
        fenced := (Safety.noHeldMonitor c).copy.fenced ++ [⟨(Safety.noHeldMonitor c).stamp, (Safety.noHeldMonitor c).unperformed, .monitor line⟩] } } := by
  rw [Core.monitor, Core.noHeldMonitor_eq, if_neg (by simp [h])]; rfl

/-- MWAIT with its register free and a status to return. -/
theorem mwait_runs {x : GReg} {s : State} {st : Nat} (hon : s.core.active x.g = true) (ha : s.core.pendingW x.a = false)
    (habort : s.core.part.abort = false) (hst : s.core.mwaitStatus = some st) :
    exec (.mwait x) s = .next (Safety.ranTo s (Safety.withResult { Safety.noHeldMonitor s.core with
      sync := { s.core.sync with monitor := none, restored := if st = 1 then false else s.core.sync.restored } } (.s x.a (BitVec.ofNat 64 st)) 1 0)) := by
  have hmark : (s.core.mark).mwaitStatus = some st := hst
  show execMwait x s = _
  rw [execMwait, State.sampling, habort, Bool.and_false, Bool.false_and, if_neg Bool.false_ne_true,
    State.slot_of_runs hon rfl (by rw [ha, hst]; rfl)]
  refine congrArg _ (State.onCore_mark ?_)
  simp only [hmark, Option.getD_some, Core.noHeldMonitor_eq]
  rfl

/-- MWAIT without one stalls. -/
theorem mwait_stalls {x : GReg} {s : State} (hon : s.core.active x.g = true) (habort : s.core.part.abort = false)
    (hc : s.core.issue.checked = false) (hst : s.core.mwaitStatus = none) : exec (.mwait x) s = .next (s.flow .stalled) := by
  show execMwait x s = _
  rw [execMwait, State.sampling, habort, Bool.and_false, Bool.false_and, if_neg Bool.false_ne_true, hon, hst, Option.isNone_none, Bool.or_true,
    State.slot_stalls hc]

/-- LCNT takes its object and reads its block. -/
theorem lcnt_runs {x : LcntF} {s s1 s2 s3 s4 : State} {va vb : Word} {p : Piece} {o : SyncObj} {ps : List Piece} {bs : List Byte}
    (hon : s.core.active x.g = true) (ha : s.core.pending x.a = false) (hb : s.core.pending x.b = false) (hran : s.core.issue.flow = .ran)
    (hva : va = s.core.srcAddr x.a) (hvb : vb = s.core.src 1 x.b) (hobj : Safety.objAddr va) (hal : vb.toNat % 32 = 0)
    (hw : inWindow vb.toNat = false) (hprobe : s.flushStreams.acqProbe va.toNat 3 = (s1, .take p o))
    (hps : s1.pieces .deck false 33 vb.toNat 32 = (s2, .ok ps)) (hacq : s2.acquire p o = (s3, none)) (hread : s3.readOwn ps = (s4, .ok bs)) :
    exec (.lcnt x) s = .next (s4.onCore fun c => Safety.consumed (c.setCounts x.lo.toNat (leVal bs)) (s4.poisonedOwn ps)) := by
  have hblock : lcntBad vb = false := by simp [lcntBad, hal, hw]
  show execLcnt x s = _
  unfold execLcnt
  dsimp only
  rw [← hva, ← hvb, State.slot_of_runs hon (by rw [ha, hb, syncBad_ok hobj, hblock]; rfl) (by rw [ha, hb, hprobe]; rfl),
    State.flow_of_ran hran]
  simp only [hprobe, hps, hacq, hread]
  rfl

end Sys2Proof.Machine

namespace Sys2Proof
open Machine

/-- Settles O33, instruction by instruction. -/
theorem fencesMonitorsAndCounts : Obligations.FencesMonitorsAndCounts := by
  refine ⟨⟨fun x s hon => ⟨fun h0 => ?fence, fun hdepth hc => ?region⟩,
      fun x s s1 s2 s3 s4 va vb p o ps bs hon ha hb hran hva hvb hobj hal hw hprobe hps hacq hread => ?lcnt⟩,
    fun x s f va p hon ha hva => ⟨fun hw c hc => ?window, fun hw hx hbond hdev c line hc hline => ?line⟩,
    fun x s hon ha habort => ⟨fun hres => ?restored, fun hres hheld hc => ?waiting, fun hres hheld => ⟨fun hm => ?nothing, fun m hm hn => ?armed⟩⟩⟩
  case fence =>
    show execFence x s = _
    rw [execFence, State.slot_of_runs hon (by rw [h0]; rfl) rfl]
  case region =>
    show execFence x s = _
    rw [execFence, State.slot_of_bad hon hc (by rw [decide_eq_true hdepth]; rfl)]
  case lcnt =>
    refine ⟨_, lcnt_runs hon ha hb hran hva hvb hobj hal hw hprobe hps hacq hread, rfl, fun i => ?_⟩
    refine (Vector.getElem_ofFn _).trans ?_
    rw [show BitVec.ofNat 32 (bitsOf (leVal bs) (32 * i.val + 31) (32 * i.val)) = BitVec.ofNat 32 (leVal bs / 2 ^ (32 * i.val)) from ?count]
    case count =>
      refine BitVec.eq_of_toNat_eq ?_
      rw [bitsOf, show 32 * i.val + 31 + 1 - 32 * i.val = 32 by omega, BitVec.toNat_ofNat, BitVec.toNat_ofNat, Nat.mod_mod]
  case window =>
    show execMon x s = _
    unfold execMon
    dsimp only
    rw [← hva, State.slot_of_runs hon rfl ha, if_pos hw]
    refine congrArg _ (State.onCore_mark ?_)
    rw [Core.monitor_arms (.inl rfl), hc]; rfl
  case line =>
    have hrun : exec (.mon x) s = .next (f.onCore fun c => c.monitor line false) := by
      show execMon x s = _
      unfold execMon
      dsimp only
      rw [← hva, State.slot_of_runs hon rfl ha, if_neg (by simp [hw]), hx]
      simp only [hbond, Bool.false_eq_true, if_false, hline]
      unfold isDevice at hdev
      cases hpl : placeOf (p.pa + va.toNat % p.size) <;> simp [hpl] at hdev ⊢
    refine ⟨fun hnone => ?_, fun hsome => ?_⟩
    · rw [hc] at hnone ⊢
      rw [hrun, State.onCore, Core.monitor_arms (.inr hnone)]; rfl
    · rw [hc] at hsome ⊢
      rw [hrun, State.onCore, Core.monitor_waits hsome]; rfl
  case restored =>
    rw [mwait_runs hon ha habort (st := 1) (by rw [Core.mwaitStatus, if_pos hres])]; rfl
  case waiting =>
    exact mwait_stalls hon habort hc (by rw [Core.mwaitStatus, hres, if_neg Bool.false_ne_true, if_pos hheld])
  case nothing =>
    have hst : s.core.mwaitStatus = some 2 := by
      rw [Core.mwaitStatus, hres, if_neg Bool.false_ne_true, hheld, Option.isSome_none, if_neg Bool.false_ne_true]
      rcases hm with hm | ⟨m, hm, hn⟩
      · rw [hm]
      · simp only [hm, hn, if_true]
    rw [mwait_runs hon ha habort hst, Core.noHeldMonitor_none hheld]; rfl
  case armed =>
    have hst : s.core.mwaitStatus = if m.hit then some 0 else none := by
      rw [Core.mwaitStatus, hres, if_neg Bool.false_ne_true, hheld, Option.isSome_none, if_neg Bool.false_ne_true]
      simp only [hm, hn, Bool.false_eq_true, if_false]
    refine ⟨fun hhit => ?_, fun hhit hc => ?_⟩
    · rw [hhit, if_pos rfl] at hst
      rw [mwait_runs hon ha habort hst, Core.noHeldMonitor_none hheld]; rfl
    · rw [hhit, if_neg Bool.false_ne_true] at hst
      exact mwait_stalls hon habort hc hst

end Sys2Proof

namespace Sys2Proof.Machine

/-! ### Barriers (R27, R335) -/

/-- A core with its arrivals at a level, the last of them at the k-th barrier, for which it waits. -/
def Core.arrived (c : Core) (level : BitVec 2) (ds : List Word) (k : Nat) : Core :=
  { c with sync := { c.sync with
      arrivals := c.sync.arrivals.set level.toNat ds level.isLt
      waiting := (level.toNat, k) :: c.sync.waiting } }

/-- A first arrival at a level without the fabric. -/
theorem State.arrive_first {s : State} {level : BitVec 2} {d : Word} {k : Nat} (hd : d = s.core.ctl.dom.get level.toFin)
    (hfab : domFab d = false) (hw : s.core.sync.waiting = []) (hk : k = (s.core.sync.arrivals.get level.toFin).length + 1) :
    s.arrive level = ((if s.domMismatch level.toNat k d then
        (s.onCore fun c => c.arrived level (d :: s.core.sync.arrivals.get level.toFin) k).onCore fun c => c.fatal cDomMismatch
      else s.onCore fun c => c.arrived level (d :: s.core.sync.arrivals.get level.toFin) k), k, d) := by
  have hgroup (t : State) : t.groupClash level.toNat d = t := by
    rw [State.groupClash, if_neg]
    simp [hfab]
  unfold State.arrive
  rw [hw, List.find?_nil]
  simp only [← hd, ← hk, hgroup]
  rfl

theorem State.joinFabric_none {s : State} {level k : Nat} {d : Word} (hfab : domFab d = false) : s.joinFabric level k d = s := by
  rw [State.joinFabric, if_neg]
  simp [hfab]

/-- A DBAR at a level without the fabric arrives, and then completes or stalls by the other members. -/
theorem dbar_arrives {x : DbarF} {s u : State} {d : Word} {k : Nat} (hon : s.core.active x.g = true) (habort : s.core.part.abort = false)
    (hfab : domFab d = false) (harr : s.arrive x.level = (u, k, d)) : exec (.dbar x) s = .next
      (if u.localArrived x.level.toNat k d then (u.onCore fun c =>
          { c with sync := { c.sync with waiting := c.sync.waiting.filter fun w => w.1 != x.level.toNat } }).flow .ran
      else u.flow .stalled) := by
  have hcomplete : u.complete x.level.toNat k d = u.localArrived x.level.toNat k d := by simp [State.complete, hfab]
  show execDbar x s = _
  rw [execDbar, State.sampling, habort, Bool.and_false, Bool.false_and, if_neg Bool.false_ne_true, if_pos hon, harr]
  simp only [State.joinFabric_none hfab, hcomplete]
  split <;> rfl

/-- Have the members of a set arrived on this module? -/
theorem State.localArrived_iff (s : State) (level : BitVec 2) (k : Nat) (d : Word) : s.localArrived level.toNat k d = true ↔
    ∀ c ∈ s.cores, c.part.task = s.core.part.task → inDom d c.rank = true → c.departed = true ∨ k ≤ (c.sync.arrivals.get level.toFin).length := by
  have hget (c : Core) : c.sync.arrivals.toList.getD level.toNat [] = c.sync.arrivals.get level.toFin := by
    rw [List.getD_eq_getElem _ _ (by rw [Vector.length_toList]; exact level.isLt)]
    exact Vector.getElem_toList _
  simp only [State.localArrived, List.all_eq_true, Bool.or_eq_true, bne_iff_ne, Bool.not_eq_true', decide_eq_true_eq, hget]
  refine forall₂_congr fun c _ => ⟨fun h htask hdom => ?_, fun h => ?_⟩
  · rcases h with ((h | h) | h) | h
    · exact absurd htask h
    · rw [hdom] at h; cases h
    · exact .inl h
    · exact .inr h
  · by_cases htask : c.part.task = s.core.part.task
    · cases hdom : inDom d c.rank with
      | false => exact .inl (.inl (.inr rfl))
      | true => exact (h htask hdom).elim (fun h => .inl (.inr h)) .inr
    · exact .inl (.inl (.inl htask))

end Sys2Proof.Machine

namespace Sys2Proof
open Machine

/-- Settles O34, from the arrival and the members still missing. -/
theorem barrierArrival : Obligations.BarrierArrival := by
  intro x s d k hon habort hd hfab
  refine ⟨fun hw hk hok => ?meets, fun hw hk hbad => ?mismatch⟩
  case meets =>
    obtain ⟨u, hu⟩ : ∃ u, u = s.onCore fun c => c.arrived x.level (d :: s.core.sync.arrivals.get x.level.toFin) k := ⟨_, rfl⟩
    have harr : s.arrive x.level = (u, k, d) := by
      rw [State.arrive_first hd hfab hw hk, hok, if_neg Bool.false_ne_true, ← hu]
    have hget : u.core.sync.arrivals.get x.level.toFin = d :: s.core.sync.arrivals.get x.level.toFin := by
      rw [hu]
      exact (vget_set _ _ x.level.isLt _ _).trans (if_pos rfl)
    have hwait : u.core.sync.waiting = [(x.level.toNat, k)] := by
      rw [hu]
      exact congrArg ((x.level.toNat, k) :: ·) hw
    have hrest' : u.rest = s.rest ∧ u.mem = s.mem ∧ u.core.regs = s.core.regs ∧ u.core.part = s.core.part := by
      rw [hu]; exact ⟨rfl, rfl, rfl, rfl⟩
    obtain ⟨t, ht⟩ : ∃ t, t = if u.localArrived x.level.toNat k d then (u.onCore fun c =>
        { c with sync := { c.sync with waiting := c.sync.waiting.filter fun w => w.1 != x.level.toNat } }).flow .ran
      else u.flow .stalled := ⟨_, rfl⟩
    have hkept : t.rest = u.rest ∧ t.mem = u.mem ∧ t.core.regs = u.core.regs ∧ t.core.part = u.core.part ∧
        t.core.sync.arrivals = u.core.sync.arrivals ∧ t.localArrived x.level.toNat k d = u.localArrived x.level.toNat k d := by
      rw [ht]
      split <;> exact ⟨rfl, rfl, rfl, rfl, rfl, rfl⟩
    obtain ⟨hrest, hmem, hregs, hpart, harrivals, hsame⟩ := hkept
    obtain ⟨hurest, humem, huregs, hupart⟩ := hrest'
    have hiff := State.localArrived_iff t x.level k d
    rw [hpart, hupart] at hiff
    refine ⟨t, (dbar_arrives hon habort hfab harr).trans (by rw [ht]), hrest.trans hurest, hmem.trans humem, hregs.trans huregs,
      by rw [harrivals, hget], fun hall => ?_, fun hmissing => ?_⟩
    · rw [ht, ← hsame, if_pos (hiff.2 hall)]
      refine ⟨rfl, ?_⟩
      show u.core.sync.waiting.filter _ = []
      rw [hwait]
      simp
    · have hnot : t.localArrived x.level.toNat k d ≠ true := fun h => by
        obtain ⟨c, hc, htask, hdom, hdep, hlt⟩ := hmissing
        rcases hiff.1 h c hc htask hdom with h | h
        · rw [hdep] at h; cases h
        · omega
      rw [ht, ← hsame, if_neg hnot]
      exact ⟨rfl, hwait⟩
  case mismatch =>
    obtain ⟨u, hu⟩ : ∃ u, u = (s.onCore fun c => c.arrived x.level (d :: s.core.sync.arrivals.get x.level.toFin) k).onCore fun c => c.fatal cDomMismatch :=
      ⟨_, rfl⟩
    have harr : s.arrive x.level = (u, k, d) := by rw [State.arrive_first hd hfab hw hk, hbad, if_pos rfl, ← hu]
    refine ⟨_, dbar_arrives hon habort hfab harr, ?_⟩
    have hbound : u.core.bound.fatal = s.core.bound.fatal ++ [0x101] := by rw [hu]; rfl
    split <;> exact hbound

end Sys2Proof
end

section
/-! PROOFS. Lent banks, tiles and rings, and the command form: LentBanksAndHistogram, TilesAndRings, CommandsAccepted and
IllegalOperandsTrap; and what every access to memory leaves alone. -/

namespace Sys2Proof.Machine

/-! ### Lent banks (R47, R316) -/

theorem Core.bankLent_iff (c : Core) (b : Nat) : c.bankLent b = true ↔ c.ctl.lend.getLsbD 2 = true ∧ c.ctl.lend.toNat % 4 = b := by
  simp [Core.bankLent]

theorem Core.isLent_eq (c : Core) (r : BitVec 5) : c.isLent r = c.bankLent (r.toNat / 8) := rfl

/-- Has a result in flight a register of the bank as its destination? -/
def Core.bankBusy (c : Core) (b : Nat) : Bool := c.flight.any fun f => f.res.vregs.any fun v => v / 8 == b

theorem Core.bankBusy_iff (c : Core) (b : Nat) : c.bankBusy b = true ↔ ∃ f ∈ c.flight, ∃ v ∈ f.res.vregs, v / 8 = b := by
  simp [Core.bankBusy]

theorem bklend_eq {x : MBank} {s : State} (hon : s.core.active x.g = true) (hact : s.core.handler.active = false) :
    exec (.bklend x) s = .next (s.slot true
      (firstBad [(s.core.bankBusy x.bank.toNat || s.core.lending && !s.core.bankLent x.bank.toNat, cIllegalOperation)]) false fun s =>
        s.onCore fun c => { c with ctl := { c.ctl with lend := BitVec.ofNat 64 (x.bank.toNat + 4) } }) := by
  show execBklend x s = _
  rw [execBklend, hon, hact]; rfl

theorem bklendRet_eq {x : MBank} {s : State} (hon : s.core.active x.g = true) (hact : s.core.handler.active = false) :
    exec (.bklendRet x) s = .next (s.slot true
      (firstBad [(!s.core.bankLent x.bank.toNat || s.core.callHolds x.bank.toNat, cIllegalOperation)]) false fun s =>
        s.onCore fun c => { c with ctl := { c.ctl with lend := BitVec.ofNat 64 x.bank.toNat } }) := by
  show execBklendRet x s = _
  rw [execBklendRet, hon, hact]; rfl

/-- The word that lends a bank names it. -/
theorem lendWord (b : BitVec 2) : (BitVec.ofNat 64 (b.toNat + 4)).getLsbD 2 = true ∧ (BitVec.ofNat 64 (b.toNat + 4)).toNat % 4 = b.toNat := by
  revert b; decide

theorem Core.callHolds_of {c : Core} {b : Nat} {k : Call} (hk : MxItem.call k ∈ c.mx.queue) (hl : k.lend.getLsbD 2 = true)
    (hb : k.lend.toNat % 4 = b) : c.callHolds b = true := by
  unfold Core.callHolds
  refine List.any_eq_true.2 ⟨_, hk, ?_⟩
  simp [hl, hb]

/-! ### The histogram (R110, R346) -/

/-- The 136 bytes of HSTRD. -/
def histBytes (h : Vector (BitVec 32) 33) : List Byte := (h.toList.map fun n => toBytes 4 n.toNat).flatten ++ zeros 4

theorem histBytes_length (h : Vector (BitVec 32) 33) : (histBytes h).length = 136 := by
  rw [histBytes, List.length_append, flatten_length (n := 4) (by simp), List.length_map, Vector.length_toList, zeros_length]

/-- Counter j stands at byte 4j. -/
theorem histBytes_counter (h : Vector (BitVec 32) 33) (j : Nat) (hj : j < 33) : leVal (((histBytes h).drop (4 * j)).take 4) = h[j].toNat := by
  have hlist : h.toList.map (fun n => toBytes 4 n.toNat) = (List.range 33).map fun i => toBytes 4 (h.toList.getD i 0).toNat := by
    refine List.ext_getElem (by simp) fun i h1 h2 => ?_
    rw [List.getElem_map, List.getElem_map, List.getElem_range, List.getD_eq_getElem _ _ (by simpa using h1)]
  obtain ⟨a, b, hab, ha⟩ := flatten_range_block (f := fun i => toBytes 4 (h.toList.getD i 0).toNat) (n := 4) (fun _ => toBytes_length _ _) hj
  have hget : h.toList.getD j 0 = h[j] := by
    rw [List.getD_eq_getElem _ _ (by simpa using hj)]
    exact Vector.getElem_toList _
  rw [histBytes, hlist, hab, ← ha, List.append_assoc, List.drop_left, List.append_assoc,
    List.take_left' (toBytes_length _ _), leVal_toBytes, hget]
  exact Nat.mod_eq_of_lt h[j].isLt

theorem Core.mark_hstrd (c : Core) (off : Nat) (bs : List Byte) (h : c.depth = 0) :
    { c.mark.spStore [(off, bs, fun _ => true)] with mx := { c.mark.mx with hist := Vector.replicate 33 0 } } =
      ({ Safety.withScratch c off bs with mx := { c.mx with hist := Vector.replicate 33 0 } } : Core).mark := by
  rw [Core.mark_spStore, Core.spStore_one h, Core.spPut_whole _ _ _ fun _ => rfl]; rfl

end Sys2Proof.Machine

namespace Sys2Proof
open Machine

/-- Settles O18, by the checks of BKLEND and the bytes of HSTRD. -/
theorem lentBanksAndHistogram : Obligations.LentBanksAndHistogram := by
  refine ⟨fun x s hon hact => ⟨fun hfree hother => ?lend, fun hl hb hc => ?other, fun hl hcall => ?back, fun hl hc => ?none,
      fun hbusy hc => ?busy, fun hl hb hc => ?wrong, fun hk hc => ?held⟩,
    fun x s hsup hact hc hl hb => ?vslot, fun x s off hoff hon ha hal hshare hdepth => ?hstrd⟩
  case lend =>
    have hbusy : s.core.bankBusy x.bank.toNat = false := Bool.eq_false_iff.2 fun h => by
      obtain ⟨f, hf, v, hv, h⟩ := (Core.bankBusy_iff _ _).1 h
      exact hfree f hf v hv h
    have hok : (s.core.lending && !s.core.bankLent x.bank.toNat) = false := by
      rcases hother with h | h
      · rw [Core.lending, h, Bool.false_and]
      · cases hl : s.core.lending with
        | false => rfl
        | true => rw [(Core.bankLent_iff _ _).2 ⟨hl, h⟩]; rfl
    rw [bklend_eq hon hact, hbusy, hok, Bool.or_self, firstBad_false, firstBad_nil, State.slot_runs]; rfl
  case other =>
    have hnot : s.core.bankLent x.bank.toNat = false := Bool.eq_false_iff.2 fun h => hb ((Core.bankLent_iff _ _).1 h).2
    have hlend : s.core.lending = true := hl
    rw [bklend_eq hon hact, hnot, hlend, Bool.not_false, Bool.and_self, Bool.or_true, firstBad_true, State.slot_traps hc]
  case back =>
    have hlent : s.core.bankLent x.bank.toNat = true := (Core.bankLent_iff _ _).2 (by rw [hl]; exact lendWord x.bank)
    rw [bklendRet_eq hon hact, hlent, hcall, Bool.not_true, Bool.or_self, firstBad_false, firstBad_nil, State.slot_runs]; rfl
  case none =>
    have hnot : s.core.bankLent x.bank.toNat = false := by rw [Core.bankLent, hl, Bool.false_and]
    rw [bklendRet_eq hon hact, hnot, Bool.not_false, Bool.true_or, firstBad_true, State.slot_traps hc]
  case busy =>
    rw [bklend_eq hon hact, (Core.bankBusy_iff _ _).2 hbusy, Bool.true_or, firstBad_true, State.slot_traps hc]
  case wrong =>
    have hnot : s.core.bankLent x.bank.toNat = false := Bool.eq_false_iff.2 fun h => hb ((Core.bankLent_iff _ _).1 h).2
    rw [bklendRet_eq hon hact, hnot, Bool.not_false, Bool.true_or, firstBad_true, State.slot_traps hc]
  case held =>
    obtain ⟨k, hk, hl, hb⟩ := hk
    rw [bklendRet_eq hon hact, Core.callHolds_of hk hl hb, Bool.or_true, firstBad_true, State.slot_traps hc]
  case vslot =>
    have hlent : [x.d, x.a].any s.core.isLent = true := by
      rw [List.any_eq_true]
      rcases hb with h | h
      · exact ⟨x.d, by simp, (Core.bankLent_iff _ _).2 ⟨hl, h⟩⟩
      · exact ⟨x.a, by simp, (Core.bankLent_iff _ _).2 ⟨hl, h⟩⟩
    show execVmov x s = _
    rw [execVmov, State.vslot, hsup, hact, hlent, firstBad_false, firstBad_true, Bool.not_false, State.slot_traps hc]
  case hstrd =>
    refine ⟨histBytes s.core.mx.hist, histBytes_length _, histBytes_counter _, ?_⟩
    have hin : s.core.inShare off 136 = true := decide_eq_true hshare
    show execHstrd x s = _
    unfold execHstrd
    simp only [← hoff, hon, ha, hal, hin, bne_self_eq_false, Bool.not_true, Bool.or_self, firstBad_false, firstBad_nil, known_false, State.slot_runs]
    exact congrArg _ (State.onCore_mark (Core.mark_hstrd s.core off (histBytes s.core.mx.hist) hdepth))

end Sys2Proof

namespace Sys2Proof.Machine

/-! ### Ring handles and tile entries (R51 to R54) -/

theorem Core.tile_setTile (c : Core) (t u : BitVec 6) (x : Tile) : (c.setTile t x).tile u = if t = u then x else c.tile u := by
  unfold Core.setTile Core.tile
  rw [vget_set]
  simp only [BitVec.toNat_inj.symm]
  rfl

/-- The tile of slot cons + i of a ring, with the counter wrapped. -/
theorem Ring.passed_mem (r : Ring) (k t : Nat) : t ∈ r.passed k ↔ ∃ i, i < k ∧ r.slotTile ((r.cons.toNat + i) % 65536) = t := by
  have hslot (i : Nat) : (r.cons + BitVec.ofNat 16 i).toNat = (r.cons.toNat + i) % 65536 := by
    rw [BitVec.toNat_add, BitVec.toNat_ofNat, Nat.add_mod_mod]
  simp [Ring.passed, hslot]

/-- A tile that has been read becomes empty. -/
def Core.drainTile (c : Core) (t : Nat) : Core := if (c.tileAt t).state = .ready then c.setTileState t .empty else c

/-- What passing tiles changes. -/
theorem Core.drainTiles_only : ∀ (ts : List Nat) (c : Core), ts.foldl Core.drainTile c = { c with tiles := (ts.foldl Core.drainTile c).tiles }
  | [], _ => rfl
  | t :: ts, c => by
    rw [List.foldl_cons, Core.drainTiles_only ts]
    unfold Core.drainTile
    split <;> rfl

theorem Core.mark_drainTiles : ∀ (ts : List Nat) (c : Core), ts.foldl Core.drainTile c.mark = (ts.foldl Core.drainTile c).mark
  | [], _ => rfl
  | t :: ts, c => by
    have hone : c.mark.drainTile t = (c.drainTile t).mark := by
      unfold Core.drainTile
      rw [show c.mark.tileAt t = c.tileAt t from rfl]
      split <;> rfl
    rw [List.foldl_cons, hone, Core.mark_drainTiles ts, List.foldl_cons]

/-- The ready tiles among those passed become empty. -/
theorem Core.drainTiles_tile : ∀ (ts : List Nat) (c : Core) (u : BitVec 6), (ts.foldl Core.drainTile c).tile u =
    if (c.tile u).state = .ready ∧ (∃ t ∈ ts, t % 64 = u.toNat) then { c.tile u with state := .empty } else c.tile u
  | [], c, u => by simp
  | t :: ts, c, u => by
    rw [List.foldl_cons, Core.drainTiles_tile ts]
    have hto : (BitVec.ofNat 6 t = u) ↔ t % 64 = u.toNat := by
      rw [← BitVec.toNat_inj, BitVec.toNat_ofNat]
    have hone : (c.drainTile t).tile u = if (c.tile u).state = .ready ∧ t % 64 = u.toNat then { c.tile u with state := .empty } else c.tile u := by
      unfold Core.drainTile Core.setTileState
      by_cases hu : BitVec.ofNat 6 t = u
      · have hat : c.tileAt t = c.tile u := by rw [Core.tileAt, hu]
        rw [hat, hu]
        by_cases hr : (c.tile u).state = .ready
        · rw [if_pos hr, if_pos ⟨hr, hto.1 hu⟩, Core.tile_setTile, if_pos rfl]
        · rw [if_neg hr, if_neg fun h => hr h.1]
      · simp only [show ¬ t % 64 = u.toNat from fun h => hu (hto.2 h), and_false, if_false]
        split
        · rw [Core.tile_setTile, if_neg hu]
        · rfl
    rw [hone]
    by_cases hr : (c.tile u).state = .ready
    · by_cases ht : t % 64 = u.toNat
      · simp [hr, ht]
      · simp [hr, ht]
    · simp [hr]

/-- CBADV_CONS passes the tiles of its slots and moves cons. -/
theorem cbadvCons_eq {x : CbAdvF} {s : State} {r : Ring} {k : Nat} (hr : r = s.core.ring x.h) (hk : k = x.k.toNat + 1)
    (hon : s.core.active x.g = true) : exec (.cbadvCons x) s = .next (s.slot true
      (firstBad [(r.n == 0 || decide (k > r.count), cIllegalOperation),
        ((r.passed k).any (fun t => (s.core.tileAt t).state == .filling), cIllegalOperation)]) false fun s => s.onCore fun c =>
          ((c.ring x.h |>.passed k).foldl Core.drainTile c).setRing x.h { c.ring x.h with cons := (c.ring x.h).cons + BitVec.ofNat 16 k }) := by
  show execCbadvCons x s = _
  rw [execCbadvCons, hon, ← hr, ← hk]
  rfl

theorem cbadvProd_eq {x : CbAdvF} {s : State} {r : Ring} {k : Nat} (hr : r = s.core.ring x.h) (hk : k = x.k.toNat + 1)
    (hon : s.core.active x.g = true) : exec (.cbadvProd x) s = .next (s.slot true
      (firstBad [(r.n == 0 || decide (r.count + k > r.n.toNat), cIllegalOperation)]) false fun s => s.onCore fun c =>
        c.setRing x.h { c.ring x.h with prod := (c.ring x.h).prod + BitVec.ofNat 16 k }) := by
  show execCbadvProd x s = _
  rw [execCbadvProd, hon, ← hr, ← hk]

/-- CBWAIT with the abort line clear. -/
theorem cbwait_eq {x : CbWaitF} {s : State} {r : Ring} (hr : r = s.core.ring x.h) (hon : s.core.active x.g = true)
    (habort : s.core.part.abort = false) : exec (.cbwait x) s = .next (s.slot true
      (firstBad [(r.n == 0 || decide (x.count.toNat > r.n.toNat), cIllegalOperation)])
      (decide ((if x.free then r.n.toNat - r.count else r.count) < x.count.toNat)) id) := by
  show execCbwait x s = _
  rw [execCbwait, ← hr, hon, habort]
  rfl

end Sys2Proof.Machine

namespace Sys2Proof
open Machine

/-- Settles O21, by the checks of each instruction and the tiles that CBADV_CONS passes. -/
theorem tilesAndRings : Obligations.TilesAndRings := by
  refine ⟨fun x s v hv hon ha => ⟨fun hok hst e he => ?tlset, fun hok hst hc => ?busy, fun hbad hc => ?badTile⟩,
    fun x s r k hr hk hon hn => ⟨fun hfit => ?prod, fun hfull hc => ?full, fun hfit hfree => ?cons, fun hfew hc => ?few, fun hfill hc => ?filling⟩,
    fun x s r hr hon habort hn hcount => ⟨fun hhave => ?waits, fun hhave hc => ?stalls⟩,
    fun s r hc => ⟨fun x hr hn hon => ⟨?unboundProd, ?unboundCons⟩, fun x hr hon habort hbad => ?unboundWait⟩⟩
  case tlset =>
    have hbusy : ((s.core.tile x.t).state == .filling || (s.core.tile x.t).state == .draining) = false := by
      rcases hst with h | h <;> rw [h] <;> rfl
    have hsize : BitVec.ofNat 7 (bitsOf v 13 7) = BitVec.ofNat 7 (v / 128) := by
      refine BitVec.eq_of_toNat_eq ?_
      rw [BitVec.toNat_ofNat, BitVec.toNat_ofNat, bitsOf]
      exact Nat.mod_mod _ _
    have hzero : (BitVec.ofNat 7 (v / 128) != 0 && x.st) = decide (v / 128 % 128 ≠ 0 ∧ x.st = true) := by
      rw [Bool.decide_and, Bool.decide_eq_true]
      congr 1
      rw [bne, decide_not]
      refine congrArg (!·) ?_
      rw [Bool.beq_eq_decide_eq]
      refine decide_eq_decide.2 ?_
      rw [← BitVec.toNat_inj, BitVec.toNat_ofNat]; rfl
    show execTlset x s = _
    unfold execTlset
    simp only [← hv, hon, ha, hok, hbusy, Bool.not_false, Bool.and_false, firstBad_false, firstBad_nil, State.slot_runs, hsize, hzero]
    refine congrArg _ (State.onCore_mark ?_)
    rw [he]
    simp only [decide_eq_true_eq]
    rfl
  case busy =>
    have hbusy : ((s.core.tile x.t).state == .filling || (s.core.tile x.t).state == .draining) = true := by
      rcases hst with h | h <;> rw [h] <;> rfl
    show execTlset x s = _
    unfold execTlset
    simp only [← hv, hon, ha, hok, hbusy, Bool.and_false, firstBad_false, firstBad_true, State.slot_traps hc]
  case badTile =>
    show execTlset x s = _
    unfold execTlset
    simp only [← hv, hon, ha, hbad, Bool.not_false, Bool.and_self, firstBad_true, State.slot_traps hc]
  case prod =>
    rw [cbadvProd_eq hr hk hon, beq_eq_false_iff_ne.2 hn, decide_eq_false (by omega), Bool.or_self, firstBad_false, firstBad_nil, State.slot_runs, hr]
    rfl
  case full =>
    rw [cbadvProd_eq hr hk hon, decide_eq_true hfull, Bool.or_true, firstBad_true, State.slot_traps hc]
  case cons =>
    have hnone : (r.passed k).any (fun t => (s.core.tileAt t).state == .filling) = false := by
      rw [List.any_eq_false]
      intro t ht h
      obtain ⟨i, hi, rfl⟩ := (Ring.passed_mem _ _ _).1 ht
      exact hfree i hi (eq_of_beq h)
    refine ⟨((r.passed k).foldl Core.drainTile s.core).setRing x.h { r with cons := r.cons + BitVec.ofNat 16 k }, ?_, ?_, ?_, fun t => ?_⟩
    · rw [cbadvCons_eq hr hk hon, beq_eq_false_iff_ne.2 hn, decide_eq_false (by omega), hnone, Bool.or_self, firstBad_false, firstBad_false,
        firstBad_nil, State.slot_runs, hr]
      refine congrArg _ (State.onCore_mark ?_)
      exact congrArg (Core.setRing · x.h _) (Core.mark_drainTiles _ s.core)
    · rw [Core.drainTiles_only]; rfl
    · rw [Core.drainTiles_only]; rfl
    · refine (Core.drainTiles_tile (r.passed k) s.core t).trans ?_
      simp only [Ring.passed_mem, exists_exists_and_eq_and, exists_and_left, ↓existsAndEq, and_true]
  case few =>
    rw [cbadvCons_eq hr hk hon, decide_eq_true hfew, Bool.or_true, firstBad_true, State.slot_traps hc]
  case filling =>
    obtain ⟨i, hi, h⟩ := hfill
    have hsome : (r.passed k).any (fun t => (s.core.tileAt t).state == .filling) = true :=
      List.any_eq_true.2 ⟨_, (Ring.passed_mem _ _ _).2 ⟨i, hi, rfl⟩, by rw [h]; rfl⟩
    rw [cbadvCons_eq hr hk hon, hsome]
    cases r.n == 0 || decide (k > r.count) <;> simp only [firstBad_false, firstBad_true, State.slot_traps hc]
  case waits =>
    rw [cbwait_eq hr hon habort, beq_eq_false_iff_ne.2 hn, decide_eq_false (by omega), decide_eq_false (by omega), Bool.or_self, firstBad_false,
      firstBad_nil, State.slot_runs]
    rfl
  case stalls =>
    rw [cbwait_eq hr hon habort, beq_eq_false_iff_ne.2 hn, decide_eq_false (by omega), decide_eq_true hhave, Bool.or_self, firstBad_false,
      firstBad_nil, State.slot_stalls hc]
  case unboundProd =>
    rw [cbadvProd_eq hr rfl hon, hn, beq_self_eq_true, Bool.true_or, firstBad_true, State.slot_traps hc]
  case unboundCons =>
    rw [cbadvCons_eq hr rfl hon, hn, beq_self_eq_true, Bool.true_or, firstBad_true, State.slot_traps hc]
  case unboundWait =>
    have hb : (r.n == 0 || decide (x.count.toNat > r.n.toNat)) = true := by
      rcases hbad with h | h
      · rw [h]; rfl
      · rw [decide_eq_true h, Bool.or_true]
    rw [cbwait_eq hr hon habort, hb, firstBad_true, State.slot_traps hc]

end Sys2Proof

namespace Sys2Proof.Machine

/-! ### The command form (R80, R270, R294) -/

/-- An outcome that takes the path of the command form, with checks, tiles and banks of its own. In a region the command stands only if
R270 lets it; tiles that it reads for good and tiles that it fills are the same only under the same number. -/
def CommandForm (i : Instr) (x : Cmd) (s : State) (o : Outcome) : Prop :=
  ∃ (inRegion : Nat → Bool) (bad : Core → Nat → List (Bool × Nat)) (named : Nat → Named) (unc : Bool) (bank : Nat → Bool),
    o = s.command x i inRegion bad named unc bank ∧ (Safety.regionOk i = false → ∀ b, inRegion b = false) ∧
    ∀ b, ∀ m ∈ (named b).cons, ∀ r ∈ (named b).dsts, m % 64 = r % 64 → m = r

/-- A command that consumes no tile. -/
theorem plainCommand {i : Instr} {x : Cmd} {s : State} {inRegion : Nat → Bool} {bad : Core → Nat → List (Bool × Nat)} {named : Nat → Named}
    {unc : Bool} {bank : Nat → Bool} (hr : Safety.regionOk i = true ∨ ∀ b, inRegion b = false) (hc : ∀ b, (named b).cons = []) :
    CommandForm i x s (s.command x i inRegion bad named unc bank) :=
  ⟨inRegion, bad, named, unc, bank, rfl, fun h => hr.elim (fun h' => absurd h (by simp [h'])) id, fun b m hm => by rw [hc] at hm; cases hm⟩

theorem bitsOf_lt (x hi lo : Nat) : bitsOf x hi lo < 2 ^ (hi + 1 - lo) := Nat.mod_lt _ (Nat.two_pow_pos _)

theorem kcopy_form (x : Cmd) (s : State) : CommandForm (.kcopy x) x s (execKcopy x s) := by
  refine ⟨_, _, _, _, _, rfl, fun h => (by cases h), fun b m hm r hr hmod => ?_⟩
  have hs : (copyBlock b).stile < 64 := bitsOf_lt b 137 132
  have hd : (copyBlock b).dtile < 64 := bitsOf_lt b 143 138
  simp only [kcopyNamed] at hm hr
  split at hm
  · split at hr
    · rw [List.mem_singleton] at hm hr
      omega
    · cases hr
  · cases hm

theorem kpeer_form (x : Cmd) (s : State) : CommandForm (.kpeer x) x s (execKpeer x s) :=
  ⟨_, _, _, _, _, rfl, fun _ _ => rfl, fun _ _ _ _ hr => by cases hr⟩

/-- Every command takes the path of the command form. -/
theorem command_form {i : Instr} {x : Cmd} (h : Safety.cmdOf i = some x) (s : State) : CommandForm i x s (exec i s) := by
  unfold Safety.cmdOf at h
  split at h
  case h_39 => cases h
  case h_1 y => obtain rfl := Option.some.inj h; exact kcopy_form y s
  case h_2 y => obtain rfl := Option.some.inj h; exact kpeer_form y s
  case h_3 y => obtain rfl := Option.some.inj h; exact (plainCommand (.inl rfl) fun _ => rfl : CommandForm (.bcopy y) y s (s.execBcopyAs y (.bcopy y)))
  case h_4 y => obtain rfl := Option.some.inj h; exact (plainCommand (.inl rfl) fun _ => rfl : CommandForm (.bcopyVerify y) y s (s.execBcopyAs y (.bcopyVerify y)))
  case h_5 y => obtain rfl := Option.some.inj h; exact (plainCommand (.inr fun _ => rfl) fun _ => rfl : CommandForm (.bdrop y) y s (execBdrop y s))
  case h_6 y => obtain rfl := Option.some.inj h; exact (plainCommand (.inr fun _ => rfl) fun _ => rfl : CommandForm (.bholdList y) y s (execBholdList y s))
  case h_7 y => obtain rfl := Option.some.inj h; exact (plainCommand (.inr fun _ => rfl) fun _ => rfl : CommandForm (.bholdRoot y) y s (execBholdRoot y s))
  case h_8 y => obtain rfl := Option.some.inj h; exact (plainCommand (.inr fun _ => rfl) fun _ => rfl : CommandForm (.blookLeaf y) y s (execBlookLeaf y s))
  case h_9 y => obtain rfl := Option.some.inj h; exact (plainCommand (.inr fun _ => rfl) fun _ => rfl : CommandForm (.blookInterior y) y s (execBlookInterior y s))
  case h_10 y => obtain rfl := Option.some.inj h; exact (plainCommand (.inl rfl) fun _ => rfl : CommandForm (.bread y) y s (execBread y s))
  case h_11 y => obtain rfl := Option.some.inj h; exact (plainCommand (.inl rfl) fun _ => rfl : CommandForm (.breadVerify y) y s (execBreadVerify y s))
  case h_12 y => obtain rfl := Option.some.inj h; exact (plainCommand (.inr fun _ => rfl) fun _ => rfl : CommandForm (.bswap y) y s (execBswap y s))
  case h_13 y => obtain rfl := Option.some.inj h; exact (plainCommand (.inl rfl) fun _ => rfl : CommandForm (.bwalkLeaf y) y s (execBwalkLeaf y s))
  case h_14 y => obtain rfl := Option.some.inj h; exact (plainCommand (.inl rfl) fun _ => rfl : CommandForm (.bwalkElement y) y s (execBwalkElement y s))
  case h_15 y => obtain rfl := Option.some.inj h; exact (plainCommand (.inr fun _ => rfl) fun _ => rfl : CommandForm (.cupdSgd y) y s (s.execCupd y (.cupdSgd y)))
  case h_16 y => obtain rfl := Option.some.inj h; exact (plainCommand (.inr fun _ => rfl) fun _ => rfl : CommandForm (.cupdAdagrad y) y s (s.execCupd y (.cupdAdagrad y)))
  case h_17 y => obtain rfl := Option.some.inj h; exact (plainCommand (.inr fun _ => rfl) fun _ => rfl : CommandForm (.cupdRowwiseAdagrad y) y s (s.execCupd y (.cupdRowwiseAdagrad y)))
  case h_18 y => obtain rfl := Option.some.inj h; exact (plainCommand (.inr fun _ => rfl) fun _ => rfl : CommandForm (.cupdAdam y) y s (s.execCupd y (.cupdAdam y)))
  case h_19 y => obtain rfl := Option.some.inj h; exact (plainCommand (.inl rfl) fun _ => rfl : CommandForm (.fbktMod y) y s (s.execFbkt y 0 (.fbktMod y)))
  case h_20 y => obtain rfl := Option.some.inj h; exact (plainCommand (.inl rfl) fun _ => rfl : CommandForm (.fbktRange y) y s (s.execFbkt y 1 (.fbktRange y)))
  case h_21 y => obtain rfl := Option.some.inj h; exact (plainCommand (.inl rfl) fun _ => rfl : CommandForm (.fbktHash y) y s (s.execFbkt y 2 (.fbktHash y)))
  case h_22 y => obtain rfl := Option.some.inj h; exact (plainCommand (.inr fun _ => rfl) fun _ => rfl : CommandForm (.fredAll y) y s (execFredAll y s))
  case h_23 y => obtain rfl := Option.some.inj h; exact (plainCommand (.inr fun _ => rfl) fun _ => rfl : CommandForm (.fredRoot y) y s (execFredRoot y s))
  case h_24 y => obtain rfl := Option.some.inj h; exact (plainCommand (.inr fun _ => rfl) fun _ => rfl : CommandForm (.fxch y) y s (execFxch y s))
  case h_25 y => obtain rfl := Option.some.inj h; exact (plainCommand (.inr fun _ => rfl) fun _ => rfl : CommandForm (.fxchPayload y) y s (execFxchPayload y s))
  case h_26 y => obtain rfl := Option.some.inj h; exact (plainCommand (.inr fun _ => rfl) fun _ => rfl : CommandForm (.hrctlSetGroup y) y s (s.execHrctl y (.hrctlSetGroup y)))
  case h_27 y => obtain rfl := Option.some.inj h; exact (plainCommand (.inr fun _ => rfl) fun _ => rfl : CommandForm (.hrctlInvalidateTable y) y s (s.execHrctl y (.hrctlInvalidateTable y)))
  case h_28 y => obtain rfl := Option.some.inj h; exact (plainCommand (.inr fun _ => rfl) fun _ => rfl : CommandForm (.hrctlWriteBack y) y s (s.execHrctl y (.hrctlWriteBack y)))
  case h_29 y => obtain rfl := Option.some.inj h; exact (plainCommand (.inr fun _ => rfl) fun _ => rfl : CommandForm (.hrctlClearSketch y) y s (s.execHrctl y (.hrctlClearSketch y)))
  case h_30 y => obtain rfl := Option.some.inj h; exact (plainCommand (.inr fun _ => rfl) fun _ => rfl : CommandForm (.l2opUpdate y) y s (execL2opUpdate y s))
  case h_31 y => obtain rfl := Option.some.inj h; exact (plainCommand (.inr fun _ => rfl) fun _ => rfl : CommandForm (.l2opGather y) y s (execL2opGather y s))
  case h_32 y => obtain rfl := Option.some.inj h; exact (plainCommand (.inl rfl) fun _ => rfl : CommandForm (.qgath y) y s (execQgath y s))
  case h_33 y => obtain rfl := Option.some.inj h; exact (plainCommand (.inl rfl) fun _ => rfl : CommandForm (.qpoolSplit y) y s (execQpoolSplit y s))
  case h_34 y => obtain rfl := Option.some.inj h; exact (plainCommand (.inl rfl) fun _ => rfl : CommandForm (.qpoolOrdered y) y s (execQpoolOrdered y s))
  case h_35 y => obtain rfl := Option.some.inj h; exact (plainCommand (.inl rfl) fun _ => rfl : CommandForm (.skrd y) y s (execSkrd y s))
  case h_36 y => obtain rfl := Option.some.inj h; exact (plainCommand (.inr fun _ => rfl) fun _ => rfl : CommandForm (.wpin y) y s (execWpin y s))
  case h_37 y => obtain rfl := Option.some.inj h; exact (plainCommand (.inr fun _ => rfl) fun _ => rfl : CommandForm (.wpinLoad y) y s (execWpinLoad y s))
  case h_38 y => obtain rfl := Option.some.inj h; exact (plainCommand (.inr fun _ => rfl) fun _ => rfl : CommandForm (.wunpin y) y s (execWunpin y s))

end Sys2Proof.Machine

namespace Sys2Proof.Machine

/-! ### Accesses to memory (R197 to R212, R274)

What an access of a core, or of one of its engines, can do to the state: one relation, so that what all of them keep is shown once. -/

/-- A core but for what its accesses to memory change: its cached translations, its loads, its waiting stores, its monitor and what it has
met. -/
def Core.ground (c : Core) : Core :=
  { c with
    tlb := [], loads := [], copy := { c.copy with streams := (Core.reset 0).copy.streams, fenced := [] }
    regions := { c.regions with buf := [] }, bound := (Core.reset 0).bound, sync := { c.sync with monitor := none } }

/-- A task but for what its accesses to memory change: what it has staged, and what it has sent to other modules. -/
def Task.standing (t : Task) : Task :=
  { t with staged := [], stagedBad := [], stagedRows := [], lines := [], unc := false, epoch := 0, paths := [], acks := [], joins := [] }

/-- What firmware and the links hold of a module: the logical maps, the pilot core's state and the links'. -/
def State.board (s : State) : Maps × Pilot × List Link := (s.maps, s.pilot, s.links)

/-- A state that comes from another by accesses to memory. -/
inductive State.Accessed : State → State → Prop
  | refl (s : State) : Accessed s s
  | trans {s t u : State} : Accessed s t → Accessed t u → Accessed s u
  | core {s : State} {c : Core} (h : c.ground = s.core.ground) : Accessed s { s with core := c }
  | other {s t : State} (hmem : t.mem = s.mem) (hcore : t.core = s.core) (hrest : t.rest = s.rest) (htasks : t.hm.tasks = s.hm.tasks)
      (hboard : t.board = s.board) : Accessed s t
  | write (s : State) (pa : Nat) (bs : List Byte) : Accessed s { s with mem := s.mem.write pa bs }
  | hit (s : State) {f : Core → Core} (h : ∀ c, (f c).unmonitored = c.unmonitored) : Accessed s (s.mapCores f)
  | task (s : State) (n : Nat) {f : Task → Task} (h : ∀ t, (f t).standing = t.standing) : Accessed s (s.mapTask n f)

namespace State.Accessed

theorem ground {s t : State} (h : Accessed s t) : t.core.ground = s.core.ground := by
  induction h with
  | refl => rfl
  | trans _ _ h1 h2 => exact h2.trans h1
  | core h => exact h
  | other _ hcore _ _ _ => rw [hcore]
  | write => rfl
  | hit s h => exact (congrArg Core.ground (h s.core) :)
  | task => rfl

/-- An access keeps the canonical form of memory. -/
theorem wf {s t : State} (h : Accessed s t) : Safety.memWf s = true → Safety.memWf t = true := by
  have kept {c d : Core} (h : d.ground = c.ground) : Safety.coreMem d = Safety.coreMem c :=
    coreMem_congr (congrArg Core.pool h :) (congrArg (·.fetch.bank0) h :) (congrArg (·.fetch.bank1) h :)
  induction h with
  | refl => exact id
  | trans _ _ h1 h2 => exact h2 ∘ h1
  | core h =>
    intro hs
    rw [memWf_iff] at *
    exact ⟨hs.1, (kept h).trans hs.2.1, hs.2.2⟩
  | other hmem hcore hrest htasks _ => exact fun hs => memWf_congr hs hmem hcore hrest htasks
  | write s pa bs =>
    intro hs
    rw [memWf_iff] at *
    exact ⟨Mem.write_wf hs.1 pa bs, hs.2⟩
  | hit s h => exact fun hs => State.mapCores_wf hs fun c hc => (kept (congrArg Core.ground (h c) :)).trans hc
  | task s n h =>
    refine fun hs => State.mapTask_wf hs fun t ht => ?_
    have hsaved : _ = t.saved := (congrArg Task.saved (h t) :)
    exact Eq.mp (congrArg (fun l : List Core => ∀ c ∈ l, Safety.coreMem c = true) hsaved.symm) ht

theorem board {s t : State} (h : Accessed s t) : t.board = s.board := by
  induction h with
  | trans _ _ h1 h2 => exact h2.trans h1
  | other _ _ _ _ hboard => exact hboard
  | _ => rfl

/-- An access keeps every task but for what the task has staged and sent. -/
theorem tasks {s t : State} (h : Accessed s t) : t.hm.tasks.map Task.standing = s.hm.tasks.map Task.standing := by
  induction h with
  | refl => rfl
  | trans _ _ h1 h2 => exact h2.trans h1
  | core => rfl
  | other _ _ _ htasks _ => rw [htasks]
  | write => rfl
  | hit => rfl
  | task s n h =>
    rw [State.mapTask_tasks, List.map_map]
    refine List.map_congr_left fun t _ => ?_
    show Task.standing (if t.num = n then _ else t) = _
    split
    · exact h t
    · rfl

theorem foldl {α : Type} {f : State → α → State} (hf : ∀ s a, Accessed s (f s a)) : ∀ (l : List α) (s : State), Accessed s (l.foldl f s)
  | [], s => refl s
  | a :: l, s => (hf s a).trans (foldl hf l _)

theorem onCore {s : State} {f : Core → Core} (h : (f s.core).ground = s.core.ground) : Accessed s (s.onCore f) := core h

end State.Accessed

open State (Accessed)

/-! ### Each operation is an access -/

theorem State.cached_accessed (s : State) (pa n : Nat) (alloc : Option Nat) : s.Accessed (s.cached pa n alloc) := by
  obtain ⟨q, h⟩ := s.cached_only pa n alloc
  rw [h]
  exact .other rfl rfl rfl rfl rfl

theorem State.touch_accessed (s : State) (pa n : Nat) : s.Accessed (s.touch pa n) := by
  obtain ⟨q, w, h⟩ := s.touch_only pa n
  rw [h]
  exact .other rfl rfl rfl rfl rfl

theorem State.store_accessed (s : State) (pa : Nat) (bs : List Byte) (bad : Bool) : s.Accessed (s.store pa bs bad) := by
  unfold State.store
  split
  · exact .refl s
  · obtain ⟨q, w, h⟩ := s.touch_only pa bs.length
    rw [h]
    refine .trans (.write s pa bs) (.trans ?_ (.hit _ fun c => Core.monitorHit_unmonitored c _ _))
    exact .other rfl rfl rfl rfl rfl

theorem State.storeRow_accessed (s : State) (home : List (Nat × Nat)) (data : List Byte) (bad : List Nat) :
    s.Accessed (s.storeRow home data bad) := by
  have hrows (l : List (Nat × Nat)) (a : State × List Byte) :
      a.1.Accessed (l.foldl (fun a r => (a.1.store r.1 (a.2.take r.2), a.2.drop r.2)) a).1 := by
    induction l generalizing a with
    | nil => exact .refl _
    | cons r l ih =>
      rw [List.foldl_cons]
      exact .trans (State.store_accessed a.1 r.1 (a.2.take r.2) false) (ih (a.1.store r.1 (a.2.take r.2), a.2.drop r.2))
  exact .trans (hrows home (s, data)) (.other rfl rfl rfl rfl rfl)

theorem State.performRow_accessed (s : State) (r : StagedRow) : s.Accessed (s.performRow r) := by
  unfold State.performRow
  dsimp only
  split
  · exact .other rfl rfl rfl rfl rfl
  · refine .trans (t := if r.hot then _ else s) ?_ (.other rfl rfl rfl rfl rfl)
    split
    · refine .trans ?_ (State.storeRow_accessed _ _ _ _)
      exact .other rfl rfl rfl rfl rfl
    · exact .refl s

theorem State.commit_accessed (s : State) (n : Nat) : s.Accessed (s.commit n) := by
  unfold State.commit
  split
  · exact .refl s
  · next t _ =>
    have h1 := Accessed.foldl (fun s (p : Nat × Byte) => s.store_accessed p.1 [p.2] false) t.staged.reverse s
    have h2 := Accessed.foldl (f := State.performPoison) (fun _ _ => .other rfl rfl rfl rfl rfl) t.stagedBad.reverse
    have h3 := Accessed.foldl State.performRow_accessed t.stagedRows.reverse
    exact ((h1.trans (h2 _)).trans (h3 _)).trans (.task _ n fun _ => rfl)

theorem State.uncontain_accessed (s : State) (n : Nat) : s.Accessed (s.uncontain n) := by
  unfold State.uncontain
  split
  · exact .refl s
  · split
    · exact .trans (s.commit_accessed n) (.task _ n fun _ => rfl)
    · exact .refl s

theorem State.taskStore_accessed (s : State) (pa : Nat) (bs : List Byte) (bad : Bool) : s.Accessed (s.taskStore pa bs bad) := by
  unfold State.taskStore
  split
  · exact s.store_accessed _ _ _
  · split
    · dsimp only
      split
      · exact .trans (s.uncontain_accessed _) (State.store_accessed _ _ _ _)
      · refine .trans (.task s _ ?_) (.hit _ fun c => ?_)
        · exact fun _ => rfl
        split
        · exact Core.monitorHit_unmonitored c _ _
        · rfl
    · exact s.store_accessed _ _ _

theorem State.touchWalk_accessed (s : State) (t : Option Task) (root va : Nat) : s.Accessed (s.touchWalk t root va) := by
  unfold State.touchWalk
  split
  · exact .refl s
  · exact .foldl (fun s a => s.touch_accessed a 8) _ s

/-- A core with one more cached translation. -/
theorem State.tlb_accessed (s : State) (x : Xlat) : s.Accessed { s with core := { s.core with tlb := x :: s.core.tlb } } := .core rfl

theorem State.xlat_accessed (s : State) (via : Via) (va : Nat) : s.Accessed (s.xlat via va).1 := by
  have walked (t : Option Task) (root : Nat) := s.touchWalk_accessed t root va
  unfold State.xlat
  dsimp only
  split
  · exact .refl s
  · split
    · exact .refl s
    · split
      · split
        · exact .refl s
        · split
          · exact (walked _ _).trans (.other rfl rfl rfl rfl rfl)
          · exact walked _ _
      · split
        · exact .refl s
        · split
          · exact (walked _ _).trans (.other rfl rfl rfl rfl rfl)
          · exact walked _ _
      · split
        · exact .refl s
        · split
          · exact s.tlb_accessed _
          · split
            · split
              · exact ((walked _ _).trans (State.tlb_accessed _ _)).trans (.other rfl rfl rfl rfl rfl)
              · exact ((walked _ _).trans (State.tlb_accessed _ _)).trans (.other rfl rfl rfl rfl rfl)
            · exact walked _ _

theorem State.pieces_accessed (via : Via) (write : Bool) : ∀ (fuel : Nat) (s : State) (va len : Nat),
    s.Accessed (s.pieces via write fuel va len).1
  | 0, s, _, _ => .refl s
  | fuel + 1, s, va, len => by
    have hx := s.xlat_accessed via va
    unfold State.pieces
    split
    · exact .refl s
    · generalize s.xlat via va = r at hx
      obtain ⟨u, _ | x⟩ := r
      · exact hx
      · dsimp only at hx ⊢
        split
        · exact hx
        · split
          · exact hx
          · have hp := State.pieces_accessed via write fuel u (va + min len (x.size - va % x.size)) (len - min len (x.size - va % x.size))
            generalize u.pieces via write fuel (va + min len (x.size - va % x.size)) (len - min len (x.size - va % x.size)) = r at hp
            obtain ⟨v, _ | ps⟩ := r
            · exact hx.trans hp
            · exact hx.trans hp

theorem State.sendRemote_accessed (s : State) (m a : Nat) (op : RemoteOp) : s.Accessed (s.sendRemote m a op) := by
  unfold State.sendRemote
  refine .trans (t := { s with ferry := _ }) ?_ (.task _ _ fun _ => rfl)
  exact .other rfl rfl rfl rfl rfl

theorem State.readPiece_accessed (s : State) (p : Piece) : s.Accessed (s.readPiece p).1 := by
  unfold State.readPiece
  split
  · exact s.touch_accessed _ _
  · split
    · exact .refl s
    · split
      · exact .refl s
      · refine .trans (t := { s with fresh := s.fresh + p.len + 1 }) ?_ (State.sendRemote_accessed _ _ _ _)
        exact .other rfl rfl rfl rfl rfl
    · exact s.touch_accessed _ _

theorem State.readPieces_accessed : ∀ (ps : List Piece) (s : State), s.Accessed (s.readPieces ps).1
  | [], s => .refl s
  | p :: ps, s => by
    have hp := s.readPiece_accessed p
    unfold State.readPieces
    generalize s.readPiece p = r at hp
    obtain ⟨u, _ | bs⟩ := r
    · exact hp
    · have hr := State.readPieces_accessed ps u
      dsimp only
      generalize u.readPieces ps = r at hr
      obtain ⟨v, _ | bs'⟩ := r
      · exact hp.trans hr
      · exact hp.trans hr

theorem State.readOwn_accessed : ∀ (ps : List Piece) (s : State), s.Accessed (s.readOwn ps).1
  | [], s => .refl s
  | p :: ps, s => by
    have hone : s.Accessed (if p.x.bond then (s.touch p.x.pa 40, s.readView s.task s.core.waiting p)
        else match s.readPiece p with
          | (s, .error e) => (s, .error e)
          | (s, .ok bs) => (s, .ok (s.core.underOwn p bs)) : State × Except MemErr (List Byte)).1 := by
      split
      · exact s.touch_accessed _ _
      · have hp := s.readPiece_accessed p
        generalize s.readPiece p = r at hp
        obtain ⟨u, _ | bs⟩ := r
        · exact hp
        · exact hp
    unfold State.readOwn
    dsimp only
    split
    · next e => exact Eq.mp (congrArg s.Accessed (congrArg Prod.fst e)) hone
    · next u bs e =>
      replace hone := Eq.mp (congrArg s.Accessed (congrArg Prod.fst e)) hone
      have hr := State.readOwn_accessed ps u
      generalize u.readOwn ps = r at hr
      obtain ⟨v, _ | bs'⟩ := r
      · exact hone.trans hr
      · exact hone.trans hr

theorem State.readVa_accessed (s : State) (via : Via) (va len : Nat) : s.Accessed (s.readVa via va len).1 := by
  have hp := State.pieces_accessed via false (len + 1) s va len
  unfold State.readVa
  generalize s.pieces via false (len + 1) va len = r at hp
  obtain ⟨u, _ | ps⟩ := r
  · exact hp
  · have hr := State.readPieces_accessed ps u
    dsimp only
    generalize u.readPieces ps = r at hr
    obtain ⟨v, _ | bs⟩ := r
    · exact hp.trans hr
    · exact hp.trans hr

theorem State.hinted_accessed (s : State) (ps : List Piece) (hint : Nat) : s.Accessed (s.hinted ps hint) := by
  unfold State.hinted
  split
  · exact .refl s
  · refine .foldl (fun s x => ?_) ps s
    split
    · exact .refl s
    · exact s.cached_accessed _ _ _

theorem State.writePiece_accessed (s : State) (p : Piece) (bs : List Byte) (bad : Bool) : s.Accessed (s.writePiece p bs bad).1 := by
  unfold State.writePiece
  split
  · exact .refl s
  · split
    · exact .refl s
    · split
      · exact .refl s
      · refine .trans (t := { s with fresh := s.fresh + 1 }) ?_ (.trans (State.uncontain_accessed _ _) (State.sendRemote_accessed _ _ _ _))
        exact .other rfl rfl rfl rfl rfl
  · exact .trans (s.uncontain_accessed _) (State.store_accessed _ _ _ _)
  · exact s.taskStore_accessed _ _ _

theorem State.writePieces_accessed (bad : Bool) : ∀ (ps : List Piece) (s : State) (bs : List Byte), s.Accessed (s.writePieces bad ps bs).1
  | [], s, _ => .refl s
  | p :: ps, s, bs => by
    have hp := s.writePiece_accessed p (bs.take p.len) bad
    unfold State.writePieces
    generalize s.writePiece p (bs.take p.len) bad = r at hp
    obtain ⟨u, _ | e⟩ := r
    · exact hp.trans (State.writePieces_accessed bad ps u _)
    · exact hp

theorem State.writeVa_accessed (s : State) (via : Via) (va : Nat) (bs : List Byte) (bad : Bool) : s.Accessed (s.writeVa via va bs bad).1 := by
  have hp := State.pieces_accessed via true (bs.length + 1) s va bs.length
  unfold State.writeVa
  generalize s.pieces via true (bs.length + 1) va bs.length = r at hp
  obtain ⟨u, _ | ps⟩ := r
  · exact hp
  · exact hp.trans (State.writePieces_accessed bad ps u bs)

/-! ### Stores and other accesses of a core (R204 to R212, R269) -/

theorem Core.caught_ground (c : Core) (why code : Nat) : (c.caught why code).ground = c.ground := by
  rw [Core.caught_eq]; rfl

theorem Core.lateFault_ground (c : Core) (e : MemErr) : (c.lateFault e).ground = c.ground := by
  unfold Core.lateFault
  split
  · rfl
  · split
    · exact c.caught_ground _ _
    · rfl

theorem Core.supersede_ground (c : Core) (num va len : Nat) : (c.supersede num va len).ground = c.ground := by
  unfold Core.supersede
  split
  · rfl
  · rfl

theorem State.performStore_accessed (s : State) (num : Nat) (ps : List Piece) (bs : List Byte) : s.Accessed (s.performStore num ps bs) := by
  have hw := State.writePieces_accessed false ps s bs
  unfold State.performStore
  generalize s.writePieces false ps bs = r at hw
  have hmon (v : State) (hv : s.Accessed v) : s.Accessed (if s.core.sync.monitor.any fun m => decide (num < m.num) then
      v.onCore fun c => { c with sync := { c.sync with monitor := s.core.sync.monitor } } else v) := by
    split
    · exact hv.trans (.onCore rfl)
    · exact hv
  obtain ⟨u, _ | _ | c⟩ := r
  · exact hmon u hw
  · exact hmon u hw
  · exact hmon (u.onCore fun k => k.fatal c) (hw.trans (.onCore rfl))

theorem State.systemAtomic_accessed (s : State) (ps : List Piece) : s.Accessed (s.systemAtomic ps) := by
  unfold State.systemAtomic State.hostExclusive
  dsimp only
  split
  · split
    · exact .other rfl rfl rfl rfl rfl
    · exact .other rfl rfl rfl rfl rfl
  · exact .refl s

theorem State.remoteAtomic_accessed (s : State) (slot addr n : Nat) (op : RemoteOp) : s.Accessed (s.remoteAtomic slot addr n op).1 := by
  unfold State.remoteAtomic
  split
  · exact .refl s
  · refine .trans (t := { s with fresh := s.fresh + n + 1 }) ?_ (State.sendRemote_accessed _ _ _ _)
    exact .other rfl rfl rfl rfl rfl

theorem State.atomicAt_accessed (s : State) (own : Bool) (ps : List Piece) (va n : Nat) (op : RemoteOp) (new : Nat → Option Nat) (dirty : Bool) :
    s.Accessed (s.atomicAt own ps va n op new dirty).1 := by
  unfold State.atomicAt
  split
  · next slot a _ =>
    split
    · exact .refl s
    · have h := s.remoteAtomic_accessed slot a n op
      generalize s.remoteAtomic slot a n op = r at h
      obtain ⟨u, _ | old⟩ := r
      · exact h
      · exact h
  · have hr : s.Accessed (if own then s.readOwn ps else s.readPieces ps).1 := by
      split
      · exact State.readOwn_accessed ps s
      · exact State.readPieces_accessed ps s
    dsimp only
    generalize (if own then s.readOwn ps else s.readPieces ps) = r at hr
    obtain ⟨u, _ | bs⟩ := r
    · exact hr
    · dsimp only
      split
      · exact hr
      · next v _ =>
        have hs : u.Accessed (if own then u.onCore fun c => c.supersede c.stamp va n else u) := by
          split
          · exact .onCore (Core.supersede_ground _ _ _ _)
          · exact .refl u
        have hw := State.writePieces_accessed dirty ps (if own then u.onCore fun c => c.supersede c.stamp va n else u) (toBytes n v)
        generalize State.writePieces (if own then u.onCore fun c => c.supersede c.stamp va n else u) dirty ps (toBytes n v) = r at hw
        obtain ⟨w, _ | e⟩ := r
        · exact hr.trans (hs.trans hw)
        · exact hr.trans (hs.trans hw)

theorem State.performAtomic_accessed (s : State) (va n : Nat) (op : RemoteOp) (ps : List Piece) : s.Accessed (s.performAtomic va n op ps).1 :=
  (s.systemAtomic_accessed ps).trans (State.atomicAt_accessed _ _ _ _ _ _ _ _)

theorem State.readLoad_accessed (s : State) (l : Load) : s.Accessed (s.readLoad l).1 := by
  have hp := State.pieces_accessed .deck false (2 ^ l.size.toNat + 1) s l.va.toNat (2 ^ l.size.toNat)
  unfold State.readLoad
  dsimp only
  generalize s.pieces .deck false (2 ^ l.size.toNat + 1) l.va.toNat (2 ^ l.size.toNat) = r at hp
  obtain ⟨u, (_ | c) | ps⟩ := r
  · exact hp
  · exact hp.trans (.onCore (f := fun k => k.fatal c) rfl)
  · have hr := State.readOwn_accessed ps u
    dsimp only
    generalize u.readOwn ps = r at hr
    obtain ⟨v, (_ | c) | bs⟩ := r
    · exact hp.trans hr
    · exact (hp.trans hr).trans (.onCore (f := fun k => k.fatal c) rfl)
    · exact hp.trans hr

theorem State.performBuffered_accessed : ∀ (l : List BufStore) (s : State), s.Accessed (s.performBuffered l)
  | [], s => .refl s
  | b :: r, s =>
    .trans (.onCore (Core.supersede_ground _ _ _ _)) (.trans (State.performStore_accessed _ _ _ _) (State.performBuffered_accessed r _))

/-- A read at a place in the core's order gives the core its stores back. -/
theorem State.readingAt_accessed {α : Type} (s : State) (num : Nat) {f : State → State × α} (hf : ∀ s : State, s.Accessed (f s).1) :
    s.Accessed (s.readingAt num f).1 := by
  have h := hf (s.onCore fun c => c.asAt num)
  have hg := h.ground
  unfold State.readingAt
  dsimp only
  generalize f (s.onCore fun c => c.asAt num) = r at h hg
  obtain ⟨t, x⟩ := r
  refine .trans (.trans (.onCore rfl) h) (.onCore ?_)
  have hcopy : { t.core.copy with streams := (Core.reset 0).copy.streams, fenced := [] } =
      { s.core.copy with streams := (Core.reset 0).copy.streams, fenced := [] } := (congrArg Core.copy hg :)
  have hregions : { t.core.regions with buf := [] } = { s.core.regions with buf := [] } := (congrArg Core.regions hg :)
  simp only [Core.ground, hcopy, hregions]

theorem State.readCard_accessed (s : State) (queue va num : Nat) (ps : List Piece) : s.Accessed (s.readCard queue va num ps) := by
  have h := s.readingAt_accessed num (f := fun s => ((s.readOwn ps).1, (s.readOwn ps).2, (s.readOwn ps).1.poisonedOwn ps)) fun s => State.readOwn_accessed ps s
  unfold State.readCard
  dsimp only
  generalize s.readingAt num (fun s => ((s.readOwn ps).1, (s.readOwn ps).2, (s.readOwn ps).1.poisonedOwn ps)) = r at h
  obtain ⟨u, _ | bs, bad⟩ := r
  · exact h.trans (.onCore (Core.lateFault_ground _ _))
  · dsimp only
    split
    · exact h.trans (.onCore (Core.caught_ground _ _ _))
    · exact h.trans (.other rfl rfl rfl rfl rfl)

theorem State.performFenced_accessed (s : State) (f : Fenced) : s.Accessed (s.performFenced f) := by
  have hdrop : s.Accessed (s.onCore fun c => { c with copy := { c.copy with fenced := c.copy.fenced.drop 1 } }) := .onCore rfl
  refine hdrop.trans ?_
  unfold State.performFenced
  dsimp only
  generalize (s.onCore fun c => { c with copy := { c.copy with fenced := c.copy.fenced.drop 1 } }) = u
  split
  · exact State.performBuffered_accessed _ u
  · split
    · exact .refl u
    · next l _ =>
      have h := u.readingAt_accessed f.num (f := fun s => s.readLoad l) fun s => s.readLoad_accessed l
      exact h.trans (.onCore rfl)
  · next d va n op ps _ =>
    have h := u.readingAt_accessed f.num (f := fun s => s.performAtomic va n op ps) fun s => s.performAtomic_accessed va n op ps
    generalize u.readingAt f.num (fun s => s.performAtomic va n op ps) = r at h
    obtain ⟨v, _ | x⟩ := r
    · exact h.trans (.onCore (Core.lateFault_ground _ _))
    · refine h.trans (.onCore ?_)
      dsimp only
      split
      · exact Core.supersede_ground _ _ _ _
      · rfl
  · exact .onCore rfl
  · exact u.readCard_accessed _ _ _ _

theorem State.releaseFenced_accessed : ∀ (n : Nat) (s : State), s.Accessed (s.releaseFenced n)
  | 0, s => .refl s
  | n + 1, s => by
    unfold State.releaseFenced
    split
    · split
      · exact .trans (s.performFenced_accessed _) (State.releaseFenced_accessed n _)
      · exact .refl s
    · exact .refl s

theorem State.storeRuns_accessed (hint : Nat) (e : StreamElem) : ∀ (l : List (Nat × List Byte)) (cost : Nat) (s : State),
    s.Accessed (s.storeRuns hint e cost l).1
  | [], _, s => .refl s
  | (o, bs) :: l, cost, s => by
    have hp := State.pieces_accessed .deck true (bs.length + 1) s (e.addr + o) bs.length
    unfold State.storeRuns
    generalize s.pieces .deck true (bs.length + 1) (e.addr + o) bs.length = r at hp
    obtain ⟨u, _ | ps⟩ := r
    · exact hp
    · dsimp only
      refine hp.trans (.trans ?_ (State.storeRuns_accessed hint e l 0 _))
      split
      · exact .onCore rfl
      · exact .trans (u.performStore_accessed _ _ _) (State.hinted_accessed _ _ _)

theorem State.drainStream_accessed (s : State) (w : BitVec 3) : s.Accessed (s.drainStream w) := by
  unfold State.drainStream
  split
  · exact .refl s
  · next e _ _ =>
    have h := State.storeRuns_accessed e.hint.toNat e (keepRuns e.keep e.data) e.cost s
    dsimp only
    generalize s.storeRuns e.hint.toNat e e.cost (keepRuns e.keep e.data) = r at h
    obtain ⟨u, _ | c | c⟩ := r
    · exact h.trans (.onCore rfl)
    · dsimp only
      split
      · exact h.trans (.onCore rfl)
      · exact h.trans (.onCore rfl)
    · exact h.trans (.onCore rfl)

theorem State.drainBefore_accessed (num : Nat) : ∀ (n : Nat) (s : State), s.Accessed (s.drainBefore num n)
  | 0, s => .refl s
  | n + 1, s => by
    unfold State.drainBefore
    split
    · exact .trans (s.drainStream_accessed _) (State.drainBefore_accessed num n _)
    · exact .refl s

theorem State.releaseAll_accessed (s : State) : s.Accessed s.releaseAll := s.releaseFenced_accessed _

theorem State.flushBefore_accessed (s : State) (num : Nat) : s.Accessed (s.flushBefore num) :=
  (State.drainBefore_accessed num _ s).trans (State.releaseAll_accessed _)

theorem State.flushStreams_accessed (s : State) : s.Accessed s.flushStreams := s.flushBefore_accessed _

end Sys2Proof.Machine

namespace Sys2Proof.Machine

/-! ### The tiles of a command (R52) -/

/-- Tiles set to a state. -/
def Core.setTiles (c : Core) (st : TileState) (ts : List Nat) : Core := ts.foldl (fun c t => c.setTileState t st) c

theorem Core.setTiles_only (st : TileState) : ∀ (ts : List Nat) (c : Core), c.setTiles st ts = { c with tiles := (c.setTiles st ts).tiles }
  | [], _ => rfl
  | t :: ts, c => by
    unfold Core.setTiles
    rw [List.foldl_cons]
    have := Core.setTiles_only st ts (c.setTileState t st)
    unfold Core.setTiles at this
    rw [this]; rfl

theorem Core.tileAt_setTileState (c : Core) (t m : Nat) (st : TileState) :
    (c.setTileState t st).tileAt m = if t % 64 = m % 64 then { c.tileAt m with state := st } else c.tileAt m := by
  have hto : BitVec.ofNat 6 t = BitVec.ofNat 6 m ↔ t % 64 = m % 64 := by
    rw [← BitVec.toNat_inj, BitVec.toNat_ofNat, BitVec.toNat_ofNat]
  unfold Core.setTileState
  rw [Core.tileAt, Core.tile_setTile]
  by_cases h : t % 64 = m % 64
  · rw [if_pos (hto.2 h), if_pos h]
    simp only [Core.tileAt, hto.2 h]
  · rw [if_neg fun h' => h (hto.1 h'), if_neg h]; rfl

theorem Core.tileAt_setTiles (st : TileState) : ∀ (ts : List Nat) (c : Core) (m : Nat), (c.setTiles st ts).tileAt m =
    if ∃ t ∈ ts, t % 64 = m % 64 then { c.tileAt m with state := st } else c.tileAt m
  | [], c, m => by simp [Core.setTiles]
  | t :: ts, c, m => by
    have hcons : c.setTiles st (t :: ts) = (c.setTileState t st).setTiles st ts := rfl
    rw [hcons, Core.tileAt_setTiles st ts, Core.tileAt_setTileState]
    by_cases ht : t % 64 = m % 64
    · simp [ht]
    · simp [ht]

/-- What noting fills changes. -/
theorem Core.noteFills_only (c : Core) (ts : List Nat) : c.noteFills ts =
    { c with spoiled := (c.noteFills ts).spoiled, regions := (c.noteFills ts).regions } := by
  unfold Core.noteFills
  split
  · dsimp only
    split <;> rfl
  · dsimp only
    split <;> rfl

/-- The tiles and the command queue of a core that accepts a command. -/
def Core.accepts (c : Core) (n : Named) (k : Command) (wr : Bool) : Core :=
  let d := ((c.setTiles .filling n.dsts).noteFills n.dsts).setTiles .draining n.cons
  { d with copy := { d.copy with cmds := d.copy.cmds ++ [k] }, fetch := { d.fetch with written := d.fetch.written || wr } }

/-- The parts of the core that it does not change. -/
theorem Core.accepts_only (c : Core) (n : Named) (k : Command) (wr : Bool) : c.accepts n k wr = { c with
    tiles := (c.accepts n k wr).tiles, spoiled := (c.accepts n k wr).spoiled, regions := (c.accepts n k wr).regions
    copy := { c.copy with cmds := c.copy.cmds ++ [k] }, fetch := { c.fetch with written := c.fetch.written || wr } } := by
  unfold Core.accepts
  rw [Core.setTiles_only .draining, Core.noteFills_only, Core.setTiles_only .filling]

theorem Core.accepts_tile (c : Core) (n : Named) (k : Command) (wr : Bool) (m : Nat) : (c.accepts n k wr).tileAt m =
    if ∃ t ∈ n.cons, t % 64 = m % 64 then { c.tileAt m with state := .draining }
    else if ∃ t ∈ n.dsts, t % 64 = m % 64 then { c.tileAt m with state := .filling } else c.tileAt m := by
  have hnote (d : Core) (ts : List Nat) : (d.noteFills ts).tileAt m = d.tileAt m := by rw [Core.noteFills_only]; rfl
  show (((c.setTiles .filling n.dsts).noteFills n.dsts).setTiles .draining n.cons).tileAt m = _
  rw [Core.tileAt_setTiles, hnote, Core.tileAt_setTiles]
  split
  · split <;> rfl
  · rfl

/-! ### The command that is accepted (R80, R294) -/

/-- The command that the copy unit of a core takes in. -/
def Core.newCommand (c : Core) (x : Cmd) (op : Instr) (id off b : Nat) (so : Word) (n : Named) (bank : Bool) : Command :=
  { id := id, op := op, block := BitVec.ofNat 512 b, cb := off, so := so, acq := x.acq, rel := x.rel, scope := x.scope
    unit := c.issue.unit, pad := c.ctl.pad.toNat, srcs := (n.srcs ++ n.cons).map c.tileRef, dsts := n.dsts.map c.tileRef
    cons := n.cons, depth := c.depth, prog := 0, acc := [], fx := none, stop := none, told := false, bank := bank
    after := c.fenced (kClasses c.id op b) ++ c.pushesBefore, sig := false, sent := false, waits := []
    rels := if x.rel then c.sync.rels.map (·.num) else [] }

theorem Core.consumed_only (c : Core) (bad : Bool) : c.consumed bad = { c with bound := (c.consumed bad).bound } := by
  cases bad
  · rfl
  · rw [show c.consumed true = c.caught 1 cUncorrectable from rfl, Core.caught_eq]

/-- A command whose checks have passed is accepted by the core that the stores before it leave. -/
theorem State.command_accepts {s f : State} {x : Cmd} {op : Instr} {inRegion : Nat → Bool} {bad : Core → Nat → List (Bool × Nat)}
    {named : Nat → Named} {unc : Bool} {bank : Nat → Bool} (hon : s.core.active x.g = true) (hc : s.core.issue.checked = true)
    (hf : f = (s.flow .ran).flushStreams) {off b : Nat} (hoff : off = (s.core.src 0 x.cb).toNat) (hb : b = s.core.blockAt off) :
    ∃ (t : State) (id : Nat) (c : Core) (poisoned : Bool), s.command x op inRegion bad named unc bank = .next t ∧ c.unmonitored = f.core.unmonitored ∧
      t.core = (c.accepts (named b) (c.newCommand x op id off b (s.core.src 1 x.so) (named b) (bank b)) (bank b)).consumed poisoned := by
  subst hf
  generalize hu : (if unc then (s.flow .ran).flushStreams.uncontain (s.flow .ran).flushStreams.core.part.task else (s.flow .ran).flushStreams) = u
  have hcore : u.core.unmonitored = (s.flow .ran).flushStreams.core.unmonitored := by
    rw [← hu]
    split
    · exact State.uncontain_unmonitored _ _
    · rfl
  unfold State.command
  dsimp only
  rw [hon, State.slot_checked hc, hu, ← hoff, ← hb]
  generalize named b = n
  generalize bank b = wr
  generalize s.core.src 1 x.so = so
  exact ⟨_, u.hm.nextNum, u.core, _, rfl, hcore, rfl⟩

end Sys2Proof.Machine

namespace Sys2Proof
open Machine

/-- Settles O24: every command takes the path of the command form, whose effect is that of `State.command_accepts`. -/
theorem commandsAccepted : Obligations.CommandsAccepted := by
  unfold Obligations.CommandsAccepted
  intro i x s f hcmd hon hc hf
  obtain ⟨inRegion, bad, named, unc, bank, heq, -, hdisjoint⟩ := command_form hcmd s
  obtain ⟨t, id, c, poisoned, ht, hcf, hcore⟩ := State.command_accepts (op := i) (inRegion := inRegion) (bad := bad) (named := named) (unc := unc) (bank := bank)
    hon hc hf rfl rfl
  generalize hb : s.core.blockAt (s.core.src 0 x.cb).toNat = b at ht hcore
  generalize hk : c.newCommand x i id (s.core.src 0 x.cb).toNat b (s.core.src 1 x.so) (named b) (bank b) = k at hcore
  have hunit : c.issue.unit = s.core.issue.unit := by
    have hg : f.core.ground = (s.flow .ran).core.ground := by rw [hf]; exact (State.flushStreams_accessed _).ground
    exact (congrArg (·.issue.unit) hcf :).trans (congrArg (·.issue.unit) hg :)
  have hdsts : k.dsts = (named b).dsts.map c.tileRef := by rw [← hk]; rfl
  have hcons : k.cons = (named b).cons := by rw [← hk]; rfl
  rw [Core.consumed_only, Core.accepts_only] at hcore
  have htile (m : Nat) : t.core.tileAt m = (c.accepts (named b) k (bank b)).tileAt m := by rw [hcore]; rfl
  have hcmds : t.core.copy.cmds = f.core.copy.cmds ++ [k] := by
    have hold : c.copy.cmds = f.core.copy.cmds := (congrArg (·.copy.cmds) hcf :)
    rw [← hold, hcore]
  have hfill : ∀ r ∈ k.dsts, r.idx ∉ k.cons → (t.core.tileAt r.idx).state = .filling := by
    rw [hdsts, hcons]
    intro r hr hnot
    obtain ⟨d, hd, rfl⟩ := List.mem_map.1 hr
    show (t.core.tileAt d).state = _
    rw [htile, Core.accepts_tile, if_neg, if_pos ⟨d, hd, rfl⟩]
    rintro ⟨m, hm, hmod⟩
    rw [hdisjoint b m hm d hd hmod] at hm
    exact hnot hm
  have hdrain : ∀ m ∈ k.cons, (t.core.tileAt m).state = .draining := by
    rw [hcons]
    intro m hm
    rw [htile, Core.accepts_tile, if_pos ⟨m, hm, rfl⟩]
  have hsame : ∀ n, n < 64 → (∀ r ∈ k.dsts, r.idx % 64 ≠ n) → (∀ m ∈ k.cons, m % 64 ≠ n) → t.core.tileAt n = f.core.tileAt n := by
    rw [hdsts, hcons]
    intro n hn hd hm
    rw [htile, Core.accepts_tile, if_neg, if_neg]
    · exact (congrArg (fun c : Core => c.tileAt n) hcf :)
    · rintro ⟨d, hd', hmod⟩
      exact hd (c.tileRef d) (List.mem_map_of_mem hd') (hmod.trans (Nat.mod_eq_of_lt hn))
    · rintro ⟨d, hd', hmod⟩
      exact hm d hd' (hmod.trans (Nat.mod_eq_of_lt hn))
  have hrels : k.rels = if x.rel then f.core.sync.rels.map (·.num) else [] := by
    have hold : c.sync.rels = f.core.sync.rels := (congrArg (·.sync.rels) hcf :)
    rw [← hold, ← hk]; rfl
  have hregs : t.core.regs = f.core.regs ∧ t.core.ctl = f.core.ctl ∧ t.core.flight = f.core.flight ∧ t.core.pool = f.core.pool := by
    rw [hcore]
    exact ⟨(congrArg Core.regs hcf :), (congrArg Core.ctl hcf :), (congrArg Core.flight hcf :), (congrArg Core.pool hcf :)⟩
  have hdepth : k.depth = f.core.depth := by rw [← hk]; exact (congrArg (fun c : Core => c.depth) hcf :)
  have hblock : k.block = BitVec.ofNat 512 (leVal (s.core.spRead (s.core.src 0 x.cb).toNat 64)) := by rw [← hk, ← hb]; rfl
  have hkunit : k.unit = s.core.issue.unit := by rw [← hk]; exact hunit
  refine ⟨t, k, heq.trans ht, hcmds, ?_, ?_, ?_, ?_, ?_, ?_, hblock, hkunit, hdepth, hrels, ?_, ?_, ?_, hfill, hdrain, hsame, hregs⟩
  all_goals rw [← hk]; rfl

end Sys2Proof

namespace Sys2Proof.Machine

/-! ### Checks at issue (R85) -/

theorem checks_true (code : Nat) (r : List (Bool × Nat)) (pend : Bool) (late : List (Bool × Nat)) : checks ((true, code) :: r) pend late = some code := by
  cases pend <;> rfl

theorem checks_late (code : Nat) (r : List (Bool × Nat)) : checks [(false, code)] false r = firstBad r := rfl

/-- An atomic slot whose check fails traps. -/
theorem State.execAtomic_traps {s : State} {x : SMem} {va : Word} {code : Nat} {badCode : Bool} (opnd1 opnd2 : Word) (op : RemoteOp)
    (hon : s.core.active x.g = true) (hr : s.core.issue.replay = none) (hc : s.core.issue.checked = false) (hva : va = Safety.addr s.core x)
    (hb : s.core.pending x.base = false) (hd1 : s.core.pending (x.d + 1) = false)
    (h : checks [(badCode, cIllegalOperation)] false [(va.toNat % Safety.width x != 0, cMisalign), (s.core.windowBad va (Safety.width x), cSpadRange),
      (!inWindow va.toNat && decide (s.core.depth > 0), cRegionOp)] = some code) :
    s.execAtomic x badCode opnd1 opnd2 op = .next (s.trapAt code s.core.issue.slot) := by
  have haddr : s.core.address x = va := by rw [Core.address_eq hr, hva]
  unfold State.execAtomic
  dsimp only
  rw [haddr, hb, hd1, Bool.not_false, Bool.and_true, Bool.or_self]
  exact congrArg Host.Outcome.next (State.slot_of_bad hon hc h)

/-- Where a command's block may lie. -/
theorem cmdBlock_ok_iff {c : Core} {off : Nat} : (off % 64 != 0 || !c.belowFrame off 64 || !c.inShare off 64) = false ↔
    off % 64 = 0 ∧ off + 64 ≤ c.ctl.frame.toNat ∧ off + 64 ≤ c.sp * 16384 := by
  simp only [Bool.or_eq_false_iff, bne_eq_false_iff_eq, Bool.not_eq_false', and_assoc]
  exact and_congr Iff.rfl (and_congr decide_eq_true_iff decide_eq_true_iff)

/-- The checks of a command come in the model's order: its block, its completion object, and what R270 forbids. -/
theorem State.command_traps {s : State} {x : Cmd} {op : Instr} {inRegion : Nat → Bool} {bad : Core → Nat → List (Bool × Nat)}
    {named : Nat → Named} {unc : Bool} {bank : Nat → Bool} {off : Nat} {so : Word} (hon : s.core.active x.g = true)
    (hc : s.core.issue.checked = false) (hcb : s.core.pending x.cb = false) (hso : s.core.pending x.so = false)
    (hoff : off = (s.core.src 0 x.cb).toNat) (hobj : so = s.core.src 1 x.so) {code : Nat}
    (h : ∀ r, firstBad ((off % 64 != 0 || !s.core.belowFrame off 64 || !s.core.inShare off 64, cSpadRange) :: (soBad so, cIllegalOperation) ::
      (decide (s.core.depth > 0) && (!inRegion (s.core.blockAt off) || x.rel || so != 0), cRegionOp) :: r) = some code) :
    s.command x op inRegion bad named unc bank = .next (s.trapAt code s.core.issue.slot) := by
  subst hoff hobj
  unfold State.command
  dsimp only
  rw [hcb, hso, Bool.or_self, known_false]
  exact congrArg Host.Outcome.next (State.slot_of_bad hon hc (h _))

end Sys2Proof.Machine

namespace Sys2Proof
open Machine

theorem atomicOperandsTrap (x : SMem) (s : State) (va : Word) (hon : s.core.active x.g = true) (hr : s.core.issue.replay = none)
    (hc : s.core.issue.checked = false) (hva : va = Safety.addr s.core x) (hb : s.core.pending x.base = false)
    (hd1 : s.core.pending (x.d + 1) = false) :
    ((s.core.getS (x.d + 1)).toNat % 16 ≥ 12 → exec (.atom x) s = .next (s.trapAt cIllegalOperation s.core.issue.slot)) ∧
    ((s.core.getS (x.d + 1)).toNat % 16 < 12 → va.toNat % Safety.width x ≠ 0 →
      exec (.atom x) s = .next (s.trapAt cMisalign s.core.issue.slot)) ∧
    (va.toNat % Safety.width x ≠ 0 → exec (.cas x) s = .next (s.trapAt cMisalign s.core.issue.slot)) := by
  have hsrc : s.core.src 1 (x.d + 1) = s.core.getS (x.d + 1) := by rw [Core.src, hr]
  refine ⟨fun h => ?_, fun h hal => ?_, fun hal => ?_⟩
  · show execAtom x s = _
    exact State.execAtomic_traps _ _ _ hon hr hc hva hb hd1 (by rw [hsrc, decide_eq_true h, checks_true])
  · show execAtom x s = _
    exact State.execAtomic_traps _ _ _ hon hr hc hva hb hd1
      (by rw [hsrc, decide_eq_false (Nat.not_le.2 h), checks_late, bne_iff_ne.2 hal, firstBad_true])
  · show execCas x s = _
    exact State.execAtomic_traps _ _ _ hon hr hc hva hb hd1 (by rw [checks_late, bne_iff_ne.2 hal, firstBad_true])

theorem branchOperandsTrap (s : State) (hc : s.core.issue.checked = false) :
    (∀ x : BrF, s.core.active x.g = true → ((s.core.fetch.pc : Int) + 16 * x.off.toInt < 0 ∨ 0x7FF0 < (s.core.fetch.pc : Int) + 16 * x.off.toInt) →
      s.core.fetch.pc < 0x8000 → exec (.br x) s = .next (s.trapAt cIllegalOperation s.core.issue.slot)) ∧
    (∀ x : GReg, s.core.active x.g = true → s.core.pending x.a = false → s.core.pending 63 = false →
      (0x7FF0 < (s.core.src 0 x.a).toNat ∨ (s.core.src 0 x.a).toNat % 16 ≠ 0) →
      exec (.jmpReg x) s = .next (s.trapAt cIllegalOperation s.core.issue.slot) ∧
      exec (.callReg x) s = .next (s.trapAt cIllegalOperation s.core.issue.slot) ∧
      exec (.ibank x) s = .next (s.trapAt cIllegalOperation s.core.issue.slot)) ∧
    (∀ x : GReg, s.core.active x.g = true → s.core.pending x.a = false → s.core.fetch.written = true →
      exec (.ibank x) s = .next (s.trapAt cIllegalOperation s.core.issue.slot)) ∧
    (∀ g : Guard, s.core.active g = true → (∃ k ∈ s.core.copy.cmds, k.bank = true) →
      exec (.ifence g) s = .next (s.trapAt cIllegalOperation s.core.issue.slot)) := by
  have hibank (x : GReg) (hg : s.core.active x.g = true) (ha : s.core.pending x.a = false)
      (h : s.core.fetch.written = true ∨ targetBad (s.core.src 0 x.a).toNat = true) :
      execIbank x s = .next (s.trapAt cIllegalOperation s.core.issue.slot) := by
    refine congrArg Host.Outcome.next (State.slot_of_bad hg hc ?_)
    cases hw : s.core.fetch.written with
    | true => rw [checks_true]
    | false =>
      rw [ha, checks_late, h.resolve_left (by simp [hw]), firstBad_true]
  refine ⟨fun x hg h hpc => ?_, fun x hg ha h63 h => ⟨?_, ?_, ?_⟩, fun x hg ha hw => ?_, fun g hg h => ?_⟩
  · show execBr x s = _
    rw [execBr, State.execBranch_traps hg hc (Core.relTarget_bad hpc h)]
  · show execJmpReg x s = _
    rw [execJmpReg, ha, State.execBranch_traps hg hc (targetBad_iff.2 h)]
  · show execCallReg x s = _
    rw [execCallReg, ha, State.execBranch_traps hg hc (targetBad_iff.2 h)]
  · exact hibank x hg ha (.inr (targetBad_iff.2 h))
  · exact hibank x hg ha (.inl hw)
  · obtain ⟨k, hk, hbank⟩ := h
    have hany : s.core.copy.cmds.any (·.bank) = true := List.any_eq_true.2 ⟨k, hk, hbank⟩
    exact congrArg Host.Outcome.next (State.slot_of_bad hg hc (by rw [hany, firstBad_true]))

theorem commandOperandsTrap (i : Instr) (x : Cmd) (s : State) (off : Nat) (so : Word) (hcmd : Safety.cmdOf i = some x)
    (hon : s.core.active x.g = true) (hc : s.core.issue.checked = false) (hcb : s.core.pending x.cb = false) (hso : s.core.pending x.so = false)
    (hoff : off = (s.core.src 0 x.cb).toNat) (hobj : so = s.core.src 1 x.so) :
    (off % 64 ≠ 0 ∨ s.core.ctl.frame.toNat < off + 64 ∨ s.core.sp * 16384 < off + 64 →
      exec i s = .next (s.trapAt cSpadRange s.core.issue.slot)) ∧
    (off % 64 = 0 → off + 64 ≤ s.core.ctl.frame.toNat → off + 64 ≤ s.core.sp * 16384 →
      (so ≠ 0 → so.toNat % 64 ≠ 0 ∨ inWindow so.toNat = true → exec i s = .next (s.trapAt cIllegalOperation s.core.issue.slot)) ∧
      (so = 0 ∨ so.toNat % 64 = 0 ∧ inWindow so.toNat = false → 0 < s.core.depth →
        Safety.regionOk i = false ∨ x.rel = true ∨ so ≠ 0 → exec i s = .next (s.trapAt cRegionOp s.core.issue.slot))) := by
  obtain ⟨inRegion, bad, named, unc, bank, heq, hregion, -⟩ := command_form hcmd s
  have htraps (code : Nat) := State.command_traps (code := code) (op := i) (inRegion := inRegion) (bad := bad) (named := named) (unc := unc) (bank := bank) hon hc hcb hso hoff hobj
  simp only [← heq] at htraps
  refine ⟨fun h => htraps _ fun r => ?_, fun hal hframe hshare => ?_⟩
  · have hblock : (off % 64 != 0 || !s.core.belowFrame off 64 || !s.core.inShare off 64) = true := by
      refine Bool.eq_true_of_not_eq_false fun hok => ?_
      have := cmdBlock_ok_iff.1 hok
      omega
    rw [hblock, firstBad_true]
  · have hblock : (off % 64 != 0 || !s.core.belowFrame off 64 || !s.core.inShare off 64) = false :=
      cmdBlock_ok_iff.2 ⟨hal, hframe, hshare⟩
    refine ⟨fun hne hbad => htraps _ fun r => ?_, fun hgood hdepth hforbids => htraps _ fun r => ?_⟩
    · have hso : soBad so = true := by simpa [soBad] using And.intro hne hbad
      rw [hblock, firstBad_false, hso, firstBad_true]
    · have hso : soBad so = false := by
        rcases hgood with h | ⟨h, hw⟩
        · simp [soBad, h]
        · simp [soBad, h, hw]
      have hno : (decide (s.core.depth > 0) && (!inRegion (s.core.blockAt off) || x.rel || so != 0)) = true := by
        rcases hforbids with h | h | h
        · simp [hdepth, hregion h]
        · simp [hdepth, h]
        · simpa [hdepth] using Or.inr h
      rw [hblock, firstBad_false, hso, firstBad_false, hno, firstBad_true]

theorem regionOperandsTrap (s : State) (hc : s.core.issue.checked = false) :
    (∀ x : GReg2, s.core.active x.g = true → s.core.pending x.a = false → s.core.pending x.b = false →
      (s.core.handler.active = true → exec (.ropen x) s = .next (s.trapAt cNestedTrap s.core.issue.slot)) ∧
      (s.core.handler.active = false → s.core.depth = 4 → exec (.ropen x) s = .next (s.trapAt cRegionOp s.core.issue.slot))) ∧
    (∀ x : RkeepF, s.core.active x.g = true → s.core.pending x.a = false → s.core.handler.active = false → s.core.depth = 0 →
      exec (.rkeep x) s = .next (s.trapAt cRegionOp s.core.issue.slot)) ∧
    (∀ g : Guard, s.core.active g = true → s.core.handler.active = false → s.core.depth = 0 →
      exec (.rclose g) s = .next (s.trapAt cRegionOp s.core.issue.slot)) ∧
    (0 < s.core.depth →
      (∀ x : SyncF, s.core.active x.g = true → s.core.pending x.a = false → exec (.rel x) s = .next (s.trapAt cRegionOp s.core.issue.slot)) ∧
      (∀ x : LaunchF, s.core.active x.g = true → s.core.pending x.a = false → exec (.launch x) s = .next (s.trapAt cRegionOp s.core.issue.slot))) := by
  have traps {on : Bool} {bad : Option Nat} {stall : Bool} {e : State → State} {code : Nat} (hon : on = true) (hbad : bad = some code) :
      Host.Outcome.next (s.slot on bad stall e) = (.next (s.trapAt code s.core.issue.slot) : Outcome) :=
    congrArg Host.Outcome.next (State.slot_of_bad hon hc hbad)
  refine ⟨fun x hg ha hb => ⟨fun hact => traps hg ?_, fun hact hdepth => traps hg ?_⟩, fun x hg ha hact hdepth => traps hg ?_,
    fun g hg hact hdepth => traps hg ?_, fun hdepth => ⟨fun x hg ha => traps hg ?_, fun x hg ha => traps hg ?_⟩⟩
  · rw [hact, checks_true]
  · rw [hact, hdepth, ha, hb]; rfl
  · rw [hact, hdepth]; rfl
  · rw [hact, hdepth]; rfl
  · rw [decide_eq_true hdepth, checks_true]
  · rw [decide_eq_true hdepth, checks_true]

/-- Settles O9: each family of checks by the order in which its slot makes them. -/
theorem illegalOperandsTrap : Obligations.IllegalOperandsTrap :=
  ⟨fun x s va hon hr hc hva hb _ hd1 => atomicOperandsTrap x s va hon hr hc hva hb hd1, branchOperandsTrap, commandOperandsTrap, regionOperandsTrap⟩

end Sys2Proof
end

section
/-! PROOFS. The K class and the matrix unit: GatherQueues, StreamBindingAndBarrier, ScalesAndDescriptors, ControlMicroOps,
AccumulatorMicroOps, WeightBankMicroOps, StreamedRows and DrainedTile; MatrixQueueItems fails. -/

namespace Sys2Proof.Machine

/-! ### Gather queues (R57, R349, R358) -/

theorem hintBad_ok {h : Nat} (hh : h = 0 ∨ h ≥ 4) : hintBad h = false := by
  simp only [hintBad, Bool.and_eq_false_iff, decide_eq_false_iff_not]
  omega

/-- The control word of a KAQ. -/
theorem kaqCtl_ok {ctl : Nat} (hshift : ctl / 64 % 64 ≤ 47) (hlt : ctl < 2 ^ 23) (hhint : ctl / 2 ^ 20 = 0 ∨ ctl / 2 ^ 20 ≥ 4) :
    (decide (bitsOf ctl 11 6 > 47) || ctl / 2 ^ 23 != 0 || hintBad (bitsOf ctl 22 20)) = false := by
  have hs : bitsOf ctl 11 6 = ctl / 64 % 64 := rfl
  have hh : bitsOf ctl 22 20 = ctl / 2 ^ 20 := by
    show ctl / 2 ^ 20 % 2 ^ 3 = _
    exact Nat.mod_eq_of_lt (by omega)
  rw [hs, hh, hintBad_ok hhint, Nat.div_eq_of_lt hlt, decide_eq_false (Nat.not_lt.2 hshift)]
  rfl

/-- The addresses that a KAQ queues. -/
def Core.gatherAddrs (c : Core) (x : KaqF) (ctl id n : Nat) : List GatherAddr :=
  (List.range n).map fun i => ⟨id + i, c.fenced 4 ++ c.pushesBefore, ((c.src 0 x.b).toNat + lane 32 i (c.getV x.a) * 2 ^ (bitsOf ctl 11 6)) % 2 ^ 64,
    bitsOf ctl 19 12 + 1, BitVec.ofNat 3 (bitsOf ctl 22 20)⟩

theorem Core.gatherAddrs_get {c : Core} {x : KaqF} {ctl id n i : Nat} {g : GatherAddr} (h : (c.gatherAddrs x ctl id n)[i]? = some g) :
    g.len = ctl / 4096 % 256 + 1 ∧ g.addr = ((c.src 0 x.b).toNat + lane 32 i (c.getV x.a) * 2 ^ (ctl / 64 % 64)) % 2 ^ 64 := by
  unfold Core.gatherAddrs at h
  obtain ⟨a, ha, rfl⟩ := List.getElem?_map .. ▸ h |> Option.map_eq_some_iff.1
  obtain ⟨-, rfl⟩ := List.getElem?_eq_some_iff.1 ha
  rw [List.getElem_range]
  exact ⟨rfl, rfl⟩

/-- The core of a KAQ, as the stores before it leave it. -/
def Core.kaq (c : Core) (x : KaqF) (room : Bool) (new : List GatherAddr) : Core :=
  let c := if x.nb then c.send (.q x.qn room) 1 c.issue.unit else c
  if !room then c
  else if x.aq then { c with copy := { c.copy with aq1 := c.copy.aq1 ++ new } }
  else { c with copy := { c.copy with aq0 := c.copy.aq0 ++ new } }

theorem Core.kaq_room (c : Core) (x : KaqF) (new : List GatherAddr) : c.kaq x true new = { c with
    copy := if x.aq then { c.copy with aq1 := c.copy.aq1 ++ new } else { c.copy with aq0 := c.copy.aq0 ++ new }
    flight := if x.nb then (Safety.withResult c (.q x.qn true) 1 c.issue.unit).flight else c.flight } := by
  unfold Core.kaq
  cases x.nb <;> cases x.aq <;> rfl

/-- The state after a KAQ whose checks pass, from the one that the stores before it leave. -/
def State.kaq (s : State) (x : KaqF) (ctl n : Nat) (room : Bool) : State :=
  ({ s with hm := { s.hm with nextNum := s.hm.nextNum + n } }).onCore fun c => c.kaq x room (c.gatherAddrs x ctl s.hm.nextNum n)

/-- A KAQ without a pending register and with a legal control word. -/
theorem kaq_slot {x : KaqF} {s : State} {ctl n : Nat} (hctl : ctl = (s.core.src 1 (x.b + 1)).toNat) (hn : n = ctl % 64 + 1)
    (hon : s.core.active x.g = true) (hb : s.core.pending x.b = false) (hb1 : s.core.pending (x.b + 1) = false)
    (hshift : ctl / 64 % 64 ≤ 47) (hlt : ctl < 2 ^ 23) (hhint : ctl / 2 ^ 20 = 0 ∨ ctl / 2 ^ 20 ≥ 4) (hlent : s.core.isLent x.a = false)
    {room : Bool} (hroom : room = decide ((if x.aq then s.core.copy.aq1 else s.core.copy.aq0).length + n ≤ 64)) :
    exec (.kaq x) s = .next (s.slot true none (!x.nb && !room) fun s =>
      s.flushStreams.kaq x ctl n room) := by
  show execKaq x s = _
  unfold execKaq
  have hbits : bitsOf ctl 5 0 + 1 = n := by rw [hn, bitsOf, Nat.pow_zero, Nat.div_one]; rfl
  dsimp only
  rw [← hctl, hon, hb, hb1, hlent, kaqCtl_ok hshift hlt hhint, hbits, ← hroom]
  rfl

/-- Rows that have not faulted are not fetched again. -/
theorem State.refetchRows_good : ∀ (l : List GatherRow) (s : State), (∀ r ∈ l, r.fault = none) → s.refetchRows l = (s, l)
  | [], _, _ => rfl
  | r :: l, s, h => by
    have hr : r.fault = none := h r (by simp)
    simp only [State.refetchRows, hr, Option.isSome_none, Bool.false_and, Bool.false_eq_true, if_false,
      State.refetchRows_good l s fun q hq => h q (by simp [hq])]

/-- Without a replay no row is fetched again. -/
theorem State.refetchRows_first : ∀ (l : List GatherRow) (s : State), s.core.issue.replay = none → s.refetchRows l = (s, l)
  | [], _, _ => rfl
  | r :: l, s, h => by
    simp only [State.refetchRows, h, Option.isSome_none, Bool.and_false, Bool.false_eq_true, if_false, State.refetchRows_first l s h]

theorem Core.setDq_self (c : Core) (q : Bool) : c.setDq q (if q then c.copy.dq1 else c.copy.dq0) = c := by
  cases q <;> rfl

theorem kdq_unlent {x : KdqF} {c : Core} {n : Nat} (h : ∀ j, j < n → c.isLent (BitVec.ofNat 5 (x.d.toNat + j)) = false) :
    (((List.range n).map fun j => BitVec.ofNat 5 (x.d.toNat + j)).any c.isLent) = false := by
  rw [List.any_eq_false]
  intro r hr
  obtain ⟨j, hj, rfl⟩ := List.mem_map.1 hr
  rw [h j (List.mem_range.1 hj)]
  exact Bool.false_ne_true

/-- A KDQ that finds its rows. -/
theorem kdq_runs {x : KdqF} {s : State} {q : List GatherRow} {n : Nat} (hq : q = if x.dq then s.core.copy.dq1 else s.core.copy.dq0)
    (hn : n = x.cnt.toNat + 1) (hon : s.core.active x.g = true) (hact : s.core.handler.active = false)
    (hlent : ∀ j, j < n → s.core.isLent (BitVec.ofNat 5 (x.d.toNat + j)) = false) (hlen : n ≤ q.length)
    (hfetch : (s.flow .ran).refetchRows (q.take n) = (s.flow .ran, q.take n)) :
    exec (.kdq x) s = .next ((s.flow .ran).onCore fun c => match (q.take n).findSome? fun r => r.fault with
      | some (code, va) => (c.setDq x.dq q).slotFault code va ⟨c.issue.slot, 0, 0, 0, BitVec.ofNat 64 va⟩
      | none => (c.setDq x.dq (q.drop n)).send (.rows x.d ((q.take n).map fun r => vOfBytes r.data) ((q.take n).any (·.poison))) 2 (5 + c.issue.unit)) := by
  have hany := kdq_unlent hlent
  show execKdq x s = _
  unfold execKdq
  dsimp only
  rw [hon, hact, ← hn, hany, ← hq, firstBad_false, firstBad_false, firstBad_nil, decide_eq_false (Nat.not_lt.2 hlen), State.slot_runs, hfetch]
  dsimp only
  rw [List.take_append_drop]
  generalize (q.take n).findSome? (fun r => r.fault) = fault
  cases fault <;> rfl

end Sys2Proof.Machine

namespace Sys2Proof
open Machine

/-- Settles O22: KAQ by whether its queue has room, KDQ by the rows that it finds. -/
theorem gatherQueues : Obligations.GatherQueues := by
  unfold Obligations.GatherQueues
  refine ⟨?_, ?_⟩
  · intro x s f ctl n hf hctl hn hon hb hb1 hshift hlt hhint hlent
    have hslot {room : Bool} := kaq_slot (room := room) hctl hn hon hb hb1 hshift hlt hhint hlent
    refine ⟨fun hroom => ?_, fun hfull => ⟨fun hnb => ?_, fun hnb hc => ?_⟩⟩
    · refine ⟨f.core.gatherAddrs x ctl f.hm.nextNum n, by simp [Core.gatherAddrs], fun i g hg => Core.gatherAddrs_get hg,
        f.kaq x ctl n true, (hslot (decide_eq_true hroom).symm).trans ?_, ?_⟩
      · rw [Bool.not_true, Bool.and_false, State.slot_runs, ← hf]
      · simp only [State.kaq, State.onCore, Core.kaq_room, and_self]
    · refine ⟨f.kaq x ctl n false, (hslot (decide_eq_false hfull).symm).trans ?_, ?_⟩
      · rw [hnb, Bool.not_true, Bool.false_and, State.slot_runs, ← hf]
      · simp only [State.kaq, State.onCore, Core.kaq, hnb, if_true, Bool.not_false]
        rfl
    · rw [hslot (decide_eq_false hfull).symm, hnb, Bool.not_false, Bool.and_true, State.slot_stalls hc]
  · intro x s q n hq hn hon hact hlent
    refine ⟨fun hlen hgood => ?_, fun hlen hreplay i r code va hi hin hfault hbefore => ?_, fun hshort hc => ?_⟩
    · rw [kdq_runs hq hn hon hact hlent hlen (State.refetchRows_good _ _ hgood), List.findSome?_eq_none_iff.2 hgood]
      rfl
    · have hfirst : (q.take n).findSome? (fun r => r.fault) = some (code, va) := by
        have hir : (q.take n)[i]? = some r := by rw [List.getElem?_take_of_lt hin, hi]
        obtain ⟨hlt, hget⟩ := List.getElem?_eq_some_iff.1 hir
        refine List.findSome?_eq_some_iff.2 ⟨(q.take n).take i, r, (q.take n).drop (i + 1), ?_, hfault, fun r' hr' => ?_⟩
        · rw [← hget, ← List.drop_eq_getElem_cons hlt, List.take_append_drop]
        · obtain ⟨j, hj, hjr⟩ := List.mem_iff_getElem.1 hr'
          rw [List.length_take] at hj
          refine hbefore j r' (by omega) ?_
          rw [← hjr, List.getElem_take, List.getElem_take, List.getElem?_eq_getElem]
      rw [kdq_runs hq hn hon hact hlent hlen (State.refetchRows_first _ _ hreplay), hfirst]
      refine congrArg Host.Outcome.next (State.onCore_mark ?_)
      have hself : s.core.mark.setDq x.dq q = s.core.mark := by rw [hq]; exact Core.setDq_self s.core.mark x.dq
      simp only [hself]
      rfl
    · have hstall : decide (q.length < n) = true := decide_eq_true hshort
      show execKdq x s = _
      unfold execKdq
      dsimp only
      rw [hon, hact, ← hn, ← hq, hstall, kdq_unlent hlent, firstBad_false, firstBad_false, firstBad_nil, State.slot_stalls hc]

end Sys2Proof

namespace Sys2Proof.Machine

/-! ### Stream bindings (R352, R353) and KBAR (R207, R351) -/

/-- The stream that a block binds, in the words of its fields. -/
theorem kbindBlock_eq (c : Core) (b : Nat) :
    (if bitsOf b 80 72 = 0 then none
      else some (⟨bitsOf b 64 64 == 1, bitsOf b 65 65 == 1, bitsOf b 56 0, bindDims b, bitsOf b 66 66 == 1, bitsOf c.ctl.pad.toNat 15 0,
        BitVec.ofNat 3 (bitsOf b 69 67)⟩ : StreamBind)) =
    if b / 2 ^ 72 % 512 = 0 then none
      else some ⟨b.testBit 64, b.testBit 65, b % 2 ^ 57, bindDims b, b.testBit 66, c.ctl.pad.toNat % 65536, BitVec.ofNat 3 (b / 2 ^ 67)⟩ := by
  have hsize : bitsOf b 80 72 = b / 2 ^ 72 % 512 := rfl
  have hbase : bitsOf b 56 0 = b % 2 ^ 57 := by rw [bitsOf, Nat.pow_zero, Nat.div_one]
  have hpad : bitsOf c.ctl.pad.toNat 15 0 = c.ctl.pad.toNat % 65536 := by rw [bitsOf, Nat.pow_zero, Nat.div_one]; rfl
  have hhint : BitVec.ofNat 3 (bitsOf b 69 67) = BitVec.ofNat 3 (b / 2 ^ 67) := by
    apply BitVec.eq_of_toNat_eq
    rw [BitVec.toNat_ofNat, BitVec.toNat_ofNat]
    exact Nat.mod_mod _ _
  rw [bitsOf_bit, bitsOf_bit, bitsOf_bit, hsize, hbase, hpad, hhint]

theorem kbind_runs {x : KBindF} {s f : State} {off b : Nat} (hoff : off = (s.core.src 0 x.a).toNat) (hb : b = leVal (s.core.spRead off 64))
    (hon : s.core.active x.g = true) (ha : s.core.pending x.a = false) (hok : firstBad (s.core.bindBad off b) = none)
    (hf : f = (s.flow .ran).flushStreams) : exec (.kbind x) s = .next (f.onCore fun c =>
      let w := c.stream x.w
      (c.setStream x.w ⟨if bitsOf b 80 72 = 0 then none
        else some ⟨bitsOf b 64 64 == 1, bitsOf b 65 65 == 1, bitsOf b 56 0, bindDims b, bitsOf b 66 66 == 1,
          bitsOf c.ctl.pad.toNat 15 0, BitVec.ofNat 3 (bitsOf b 69 67)⟩, 0, 0, [], w.pushed,
        if w.pushed.isEmpty then none else w.stop, !w.pushed.isEmpty && w.told, c.issue.unit, c.pushesBefore⟩).consumed (c.blockBad off)) := by
  have hblock : s.core.blockAt off = b := hb.symm
  show execKbind x s = _
  unfold execKbind
  dsimp only
  rw [hon, ha, ← hoff, hblock, hok, known_false, State.slot_runs, ← hf]

/-- What a KBAR records: every command and, with class 2, every gather address and push, that is outstanding. -/
def Core.barred (c : Core) (cls : BitVec 3) : List Nat :=
  (c.copy.cmds.filter fun k => kClasses c.id k.op k.block.toNat &&& cls != 0).map (·.id) ++
    (if cls.getLsbD 2 then (c.copy.aq0 ++ c.copy.aq1).map (·.id) ++ c.pushes.map (·.num) else [])

/-- The core after a KBAR: fences of which nothing is outstanding are forgotten. -/
def Core.bar (c : Core) (cls : BitVec 3) : Core :=
  { c with copy := { c.copy with
    fences := (c.copy.fences.filter fun f => f.2.any c.outstanding.contains) ++ [(cls, c.barred cls)], streams := c.copy.streams.map (·.refetch cls) } }

theorem kbar_runs {x : KBarF} {s f : State} (hon : s.core.active x.g = true) (hf : f = (s.flow .ran).flushStreams) :
    exec (.kbar x) s = .next { f with core := f.core.bar x.cls } := by
  show execKbar x s = _
  unfold execKbar
  rw [hon, State.slot_runs, ← hf]
  rfl

theorem Core.barred_command {c : Core} {cls : BitVec 3} {k : Command} (hk : k ∈ c.copy.cmds) (h : kClasses c.id k.op k.block.toNat &&& cls ≠ 0) :
    k.id ∈ c.barred cls :=
  List.mem_append_left _ (List.mem_map_of_mem (List.mem_filter.2 ⟨hk, bne_iff_ne.2 h⟩))

theorem Core.barred_gather {c : Core} {cls : BitVec 3} {g : GatherAddr} (hcls : cls.getLsbD 2 = true) (hg : g ∈ c.copy.aq0 ++ c.copy.aq1) :
    g.id ∈ c.barred cls := by
  rw [Core.barred, hcls, if_pos rfl]
  exact List.mem_append_right _ (List.mem_append_left _ (List.mem_map_of_mem hg))

theorem Core.barred_push {c : Core} {cls : BitVec 3} {e : StreamElem} (hcls : cls.getLsbD 2 = true) (he : e ∈ c.pushes) :
    e.num ∈ c.barred cls := by
  rw [Core.barred, hcls, if_pos rfl]
  exact List.mem_append_right _ (List.mem_append_right _ (List.mem_map_of_mem he))

end Sys2Proof.Machine

namespace Sys2Proof
open Machine

/-- Settles O23: KBIND by its block's fields, KBAR by what is outstanding. -/
theorem streamBindingAndBarrier : Obligations.StreamBindingAndBarrier := by
  unfold Obligations.StreamBindingAndBarrier
  refine ⟨fun x s f off b w hoff hb hon ha hok hf hw => ?_, fun x s off hoff hon ha hc hal => ?_, fun x s f hf hon => ?_⟩
  · rw [kbind_runs hoff hb hon ha hok hf]
    simp only [State.onCore, kbindBlock_eq, Core.consumed_eq, ← hw, Core.blockBad]
    cases w.pushed <;> rfl
  · have hbad : (off % 64 != 0 || !s.core.inShare off 64) = true := by rw [bne_iff_ne.2 hal]; rfl
    refine congrArg Host.Outcome.next (State.slot_of_bad hon hc ?_)
    rw [ha, ← hoff, known_false, Core.bindBad, hbad, firstBad_true]
  · exact ⟨f.core.bar x.cls, f.core.barred x.cls, kbar_runs hon hf, List.getLast?_concat, fun k hk h => Core.barred_command hk h,
      fun hcls => ⟨fun g hg => Core.barred_gather hcls hg, fun e he => Core.barred_push hcls he⟩, rfl⟩

end Sys2Proof

namespace Sys2Proof.Machine

/-! ### A fill of a tile that an injection has spoiled (R337) -/

/-- A core with an empty tile 0, in whose first granule an EINJ has left poison, and a ready tile 1. -/
def spoiledTileCore : Core :=
  { Core.reset 0 with
    tiles := ((Core.reset 0).tiles.set 0 ⟨0, 1, .empty⟩).set 1 ⟨1, 1, .ready⟩
    spoiled := [(0, 0)] }

/-- Compress tile 1 into tile 0. -/
def compressSpoiled : MCompF := ⟨⟨false, 0⟩, 0, 1, 0, 1⟩

end Sys2Proof.Machine

namespace Sys2Proof
open Machine

/-- Refutes O19: with the fill that MCOMP begins, the core forgets what an injection has spoiled of its destination tile (R337), so the
registers, the queue, the tiles and the region's fills are not all that changes. -/
theorem not_matrixQueueItems : ¬ Obligations.MatrixQueueItems := by
  unfold Obligations.MatrixQueueItems
  rintro ⟨-, -, -, hmcomp, -⟩
  obtain ⟨c, ht, -, -, -, hc, -⟩ := hmcomp compressSpoiled { State.reset with core := spoiledTileCore } (by decide) (by decide) (by decide)
    (by decide) (by decide) (by decide) (by decide) (by decide) (by decide)
  have hforgot : (match exec (.mcomp compressSpoiled) { State.reset with core := spoiledTileCore } with
      | .next t => t.core.spoiled | _ => [(0, 0)]) = [] := by rfl
  have hstays : c.spoiled = [(0, 0)] := by rw [hc]; rfl
  rw [ht] at hforgot
  exact absurd (hstays.symm.trans hforgot) (by decide)

end Sys2Proof

namespace Sys2Proof.Machine

/-! ### Scales (R116, R125, R394) -/

/-- A scale tile goes to its side of the unit. -/
def State.sendScale (s : State) (side : Bool) (t : ScaleTile) : State := s.onCore fun c => c.send (.scale side t) (c.latency 12 16) 4

/-- The same of a tile that is still to be read. -/
def State.pendScale (s : State) (side : Bool) (t : ScaleTile) : State :=
  (s.sendScale side t).onCore fun c => { c with mx := { c.mx with pend := c.mx.pend ++ [(t, c.pushesBefore)] } }

/-- An SCLD of a descriptor with a scale, outside a handler. -/
theorem scld_runs {x : ScldF} {s u v : State} {d : Desc} {t : ScaleTile} (hon : s.core.active x.g = true) (hu : u = s.readReload)
    (hact : u.core.handler.active = false) (hd : d = u.core.descAt x.desc.toNat) (hcount : x.desc.toNat ≤ u.core.ctl.tdt.toNat % 256)
    (hscale : d.bscale = true) (hbytes : d.scaleBytes ≤ 65536) (hv : v = (u.flow .ran).flushStreams) (ht : t = d.scaleTile x.desc) :
    exec (.scld x) s = .next (if !v.core.pushesBefore.isEmpty then v.pendScale x.side t
      else match v.readScales t with
      | (s, .ok bs) => s.sendScale x.side { t with scales := some bs }
      | (s, .error (.trans code va)) =>
        (s.onCore fun c => { c with mx := { c.mx with stop := if c.mx.stop.isNone then some (code, va) else c.mx.stop } }).pendScale x.side t
      | (s, .error (.fatal code)) => (s.sendScale x.side t).onCore fun c => c.unitFatal code) := by
  have hcount' : decide (x.desc.toNat > u.core.tdtCount) = false :=
    decide_eq_false (Nat.not_lt.2 (by rw [Core.tdtCount, bitsOf, Nat.pow_zero, Nat.div_one]; exact hcount))
  show execScld x s = _
  unfold execScld
  dsimp only
  rw [hon, if_pos rfl, ← hu, hact, ← hd, hcount', hscale, decide_eq_false (Nat.not_lt.2 hbytes), Bool.false_and, Bool.not_true, Bool.or_self,
    firstBad_false, Bool.or_self, firstBad_false, firstBad_nil, State.slot_runs, ← hv, ← ht]
  rfl

/-- A load of scales that nothing stops is read at the unit's turn. -/
theorem State.readPending_reads {s t : State} {u : ScaleTile} {after : List Nat} {r : List (ScaleTile × List Nat)} {bs : List Byte}
    (hpend : s.core.mx.pend = (u, after) :: r) (hstop : s.core.mx.stop = none) (hafter : ∀ n ∈ after, n ∉ s.core.unperformed)
    (hread : s.readScales u = (t, .ok bs)) : s.readPending = some (t.onCore fun c => c.putScales u bs) := by
  have hnone : after.any s.core.unperformed.contains = false := by
    rw [List.any_eq_false]
    exact fun n hn h => hafter n hn (List.contains_iff_mem.1 h)
  simp only [State.readPending, hpend, hstop, hnone, hread, Option.isSome_none, Bool.or_self, Bool.false_eq_true, if_false]

/-! ### Tensor descriptors (R123, R124, R401) -/

/-- A TDSET whose store translates. -/
theorem tdset_runs {x : TdsetF} {s f : State} {off ea img : Nat} {ps : List Piece} (hon : s.core.active x.g = true) (ha : s.core.pending x.a = false)
    (hreplay : s.core.issue.replay = none) (hoff : off = (s.core.src 0 x.a).toNat) (hal : off % 64 = 0) (hshare : off + 64 ≤ s.core.sp * 16384)
    (hea : ea = s.core.ctl.tdt.toNat / 4096 * 4096 + 64 * x.desc.toNat) (hcount : x.desc.toNat ≤ s.core.ctl.tdt.toNat % 256)
    (himg : img = leVal (s.core.spRead off 64)) (hfmt : (descOf img).fmt ≠ 10) (hptr : (descOf img).bscale = true → (descOf img).sptr % 128 = 0)
    (hps : ((s.flow .ran).onCore fun c => Safety.consumed c (poisonedIn c.poison (c.spBase + off) 64)).flushStreams.pieces .deck true 65 ea 64 =
      (f, .ok ps)) :
    exec (.tdset x) s = .next ((f.ownStore ps (toBytes 64 img) 4).onCore fun c => c.setDesc x.desc (BitVec.ofNat 512 img)) := by
  have hblock : s.core.blockAt off = img := himg.symm
  have hcount' : decide (x.desc.toNat > s.core.tdtCount) = false :=
    decide_eq_false (Nat.not_lt.2 (by rw [Core.tdtCount, bitsOf, Nat.pow_zero, Nat.div_one]; exact hcount))
  have hlegal : ((descOf img).fmt == 10 || ((descOf img).bscale && (descOf img).sptr % 128 != 0)) = false := by
    rw [beq_eq_false_iff_ne.2 hfmt, Bool.false_or, Bool.and_eq_false_iff]
    cases hb : (descOf img).bscale with
    | false => exact .inl rfl
    | true => exact .inr (bne_eq_false_iff_eq.2 (hptr hb))
  have hps' : ((s.flow .ran).onCore fun c => c.consumed (c.blockBad off)).flushStreams.pieces .deck true 65 ea 64 = (f, .ok ps) := hps
  show execTdset x s = _
  unfold execTdset
  dsimp only
  rw [← hoff, hblock, hon, ha, hcount', block_ok hal hshare, hlegal, hreplay]
  simp only [checks, firstBad_false, firstBad_nil, known_false, State.slot_runs, ← hea, hps']

end Sys2Proof.Machine

namespace Sys2Proof
open Machine

/-- Settles O20: SCLD by what stands before its reads, a pending load at the unit's turn, and TDSET by its store. -/
theorem scalesAndDescriptors : Obligations.ScalesAndDescriptors := by
  unfold Obligations.ScalesAndDescriptors
  refine ⟨fun x s u f d bs hon hu hact hd hcount hscale hbytes v hv => ?_, fun s t u after r bs hpend hstop hafter hread => ?_,
    fun x s f off ea ps hon ha hreplay hoff hal hshare hea hcount img himg hfmt hptr hps => ?_, fun x s hon hc hcount => ?_⟩
  · have hruns := scld_runs hon hu hact hd hcount hscale hbytes hv rfl
    refine ⟨fun hfree hread r hr => ?_, fun code va hfree hread r hr => ?_, fun hheld r hr => ?_⟩
    · rw [hruns, hfree, hread, hr]; rfl
    · rw [hruns, hfree, hread, hr]
      simp only [Option.isNone_iff_eq_none]
      rfl
    · have hne : v.core.pushesBefore.isEmpty = false := by simpa using hheld
      rw [hruns, hne, hr]; rfl
  · refine ⟨t.onCore fun c => c.putScales u bs, ?_, rfl, rfl, rfl, fun h => ?_, fun h => ?_, fun p hp => ?_⟩
    · unfold State.matrixTurn
      rw [State.readPending_reads hpend hstop hafter hread]
    · show t.core.mx.scaleL.map (u.fill bs) = _
      rw [h, Option.map_some, ScaleTile.fill, if_pos rfl]
    · show t.core.mx.scaleR.map (u.fill bs) = _
      rw [h, Option.map_some, ScaleTile.fill, if_pos rfl]
    · exact bne_iff_ne.1 (List.mem_filter.1 hp).2
  · exact ⟨_, tdset_runs hon ha hreplay hoff hal hshare hea hcount himg hfmt hptr hps, rfl, rfl⟩
  · have hbad : decide (x.desc.toNat > s.core.tdtCount) = true :=
      decide_eq_true (by rw [Core.tdtCount, bitsOf, Nat.pow_zero, Nat.div_one]; exact hcount)
    refine congrArg Host.Outcome.next (State.slot_of_bad hon hc ?_)
    rw [hbad, checks_true]

end Sys2Proof

namespace Sys2Proof.Machine

/-! ### One micro-operation (R137, R139, R140) -/

/-- A micro-operation that goes on. -/
theorem State.micro_go {s t : State} {r q : Run} {name : String} {f : State → Run → Micro} {pc : Nat} (h : Safety.microRunning s r)
    (hf : f s r = .go t q pc) (hsteps : q.steps = r.steps) (hdone : q.done = false) :
    s.micro name f = .next (Safety.withRun t (Safety.microAt q pc)) := by
  obtain ⟨hrun, hdone', hstop, hlt⟩ := h
  have hshort : ¬ 2 ^ 24 ≤ r.steps + 1 := Nat.not_le.2 hlt
  simp only [State.micro, hrun, hdone', hstop, hf, hsteps, hdone, Option.isSome_none, Bool.or_self, Bool.false_eq_true, if_false, Bool.false_or,
    ge_iff_le, hshort, decide_false, Bool.and_false]
  rw [Safety.microAt, hsteps]
  rfl

/-- A micro-operation that goes on in sequence. -/
theorem State.micro_on {s t : State} {r q : Run} {name : String} {f : State → Run → Micro} (h : Safety.microRunning s r)
    (hf : f s r = q.on t) (hsteps : q.steps = r.steps) (hdone : q.done = false) :
    s.micro name f = .next (Safety.withRun t (Safety.microAt q (q.pc + 1))) := State.micro_go h hf hsteps hdone

/-! ### A run-time error (R52, R137) -/

/-- Tiles that their items leave. -/
def Core.leaveTiles (c : Core) (ts : List Nat) : Core :=
  ts.foldl (fun c t => if (c.tileAt t).state = .filling ∨ (c.tileAt t).state = .draining then c.setTileState t .empty else c) c

theorem Core.leaveTiles_only : ∀ (ts : List Nat) (c : Core), c.leaveTiles ts = { c with tiles := (c.leaveTiles ts).tiles }
  | [], _ => rfl
  | t :: ts, c => by
    have hcons : c.leaveTiles (t :: ts) =
      (if (c.tileAt t).state = .filling ∨ (c.tileAt t).state = .draining then c.setTileState t .empty else c).leaveTiles ts := rfl
    rw [hcons, Core.leaveTiles_only ts]
    split <;> rfl

/-- A tile that an item leaves. -/
def Tile.left (x : Tile) : Tile := if x.state = .filling ∨ x.state = .draining then { x with state := .empty } else x

theorem Tile.left_left (x : Tile) : x.left.left = x.left := by
  unfold Tile.left
  by_cases h : x.state = .filling ∨ x.state = .draining <;> simp [h]

theorem Core.leaveTiles_tileAt : ∀ (ts : List Nat) (c : Core) (m : Nat), (c.leaveTiles ts).tileAt m =
    if ∃ t ∈ ts, t % 64 = m % 64 then (c.tileAt m).left else c.tileAt m
  | [], c, m => by simp [Core.leaveTiles]
  | t :: ts, c, m => by
    have hcons : c.leaveTiles (t :: ts) =
      (if (c.tileAt t).state = .filling ∨ (c.tileAt t).state = .draining then c.setTileState t .empty else c).leaveTiles ts := rfl
    have hone : (if (c.tileAt t).state = .filling ∨ (c.tileAt t).state = .draining then c.setTileState t .empty else c).tileAt m =
        if t % 64 = m % 64 then (c.tileAt m).left else c.tileAt m := by
      have hsame (h : t % 64 = m % 64) : c.tileAt t = c.tileAt m := by
        have : BitVec.ofNat 6 t = BitVec.ofNat 6 m := BitVec.eq_of_toNat_eq (by rw [BitVec.toNat_ofNat, BitVec.toNat_ofNat]; exact h)
        rw [Core.tileAt, this]; rfl
      by_cases h : t % 64 = m % 64
      · rw [if_pos h, hsame h, Tile.left]
        split
        · rw [Core.tileAt_setTileState, if_pos h]
        · rfl
      · rw [if_neg h]
        split
        · rw [Core.tileAt_setTileState, if_neg h]
        · rfl
    rw [hcons, Core.leaveTiles_tileAt ts, hone]
    by_cases h : t % 64 = m % 64
    · simp [h, Tile.left_left]
    · simp [h]

/-- A micro-operation's run-time error gives up the queue. -/
theorem Core.mxFail_eq (s : State) (code : Nat) : (s.onCore fun c => c.mxFail code) = Safety.microFailed s code := by
  have hts : (Core.leaveTiles { s.core with mx := { s.core.mx with queue := [] } } (s.core.mx.queue.flatMap fun i => i.fills ++ i.drains)).tiles =
      (Safety.microFailed s code).core.tiles := by
    apply Vector.ext
    intro i hi
    have hmod : i % 64 = i := Nat.mod_eq_of_lt hi
    have hat (c : Core) : c.tileAt i = c.tiles[i] := by
      rw [Core.tileAt, Core.tile]
      show c.tiles[(BitVec.ofNat 6 i).toNat] = _
      simp only [BitVec.toNat_ofNat, Nat.reducePow, hmod]
    have h := Core.leaveTiles_tileAt (s.core.mx.queue.flatMap fun i => i.fills ++ i.drains) { s.core with mx := { s.core.mx with queue := [] } } i
    rw [hat, hat] at h
    rw [h]
    have hnamed : (∃ t ∈ s.core.mx.queue.flatMap fun i => i.fills ++ i.drains, t % 64 = i % 64) ↔
        (s.core.mx.queue.any fun q => (q.fills ++ q.drains).any fun t => t % 64 == i) = true := by
      simp only [List.any_eq_true, beq_iff_eq, List.mem_flatMap, hmod]
      constructor
      · rintro ⟨t, ⟨q, hq, ht⟩, hti⟩
        exact ⟨q, hq, t, ht, hti⟩
      · rintro ⟨q, hq, t, ht, hti⟩
        exact ⟨t, ⟨q, hq, ht⟩, hti⟩
    show _ = (Vector.ofFn _)[i]
    rw [Vector.getElem_ofFn]
    by_cases hn : (s.core.mx.queue.any fun q => (q.fills ++ q.drains).any fun t => t % 64 == i) = true
    · rw [if_pos (hnamed.2 hn)]
      simp only [hn, true_and]
      rfl
    · rw [if_neg fun h' => hn (hnamed.1 h')]
      simp only [hn, false_and, if_false]
      rfl
  have hdrop (c : Core) : c.dropItems = Core.leaveTiles { c with mx := { c.mx with queue := [] } } (c.mx.queue.flatMap fun i => i.fills ++ i.drains) := rfl
  simp only [State.onCore, Core.mxFail, Core.fatal]
  rw [hdrop, Core.leaveTiles_only, hts]
  rfl

/-- A micro-operation that fails. -/
theorem State.micro_fail {s : State} {r : Run} {name : String} {f : State → Run → Micro} {code : Nat} (h : Safety.microRunning s r)
    (hf : f s r = .fail s code) : s.micro name f = .next (Safety.microFailed s code) := by
  obtain ⟨hrun, hdone, hstop, -⟩ := h
  simp only [State.micro, hrun, hdone, hstop, hf, Option.isSome_none, Bool.or_self, Bool.false_eq_true, if_false, Core.mxFail_eq]

/-- The micro-operation that reaches R137's limit without ending fails. -/
theorem State.micro_runaway {s : State} {r : Run} {name : String} {f : State → Run → Micro} {pc : Nat} (hrun : s.core.mx.run = some r)
    (hdone : r.done = false) (hstop : s.core.mx.stop = none) (hf : f s r = .go s r pc) (hsteps : r.steps + 1 = 2 ^ 24) (hpc : pc < r.prog.length) :
    s.micro name f = .next (Safety.microFailed s cMxRunaway) := by
  simp only [State.micro, hrun, hdone, hstop, hf, hsteps, Option.isSome_none, Bool.or_self, Bool.false_eq_true, if_false, Bool.false_or, ge_iff_le,
    Nat.not_le.2 hpc, decide_false, Bool.not_false, le_refl, decide_true, Bool.and_self, if_true, Core.mxFail_eq]

/-! ### ADDX (R140) -/

theorem addField_eq {fld : BitVec 2} {lo : Nat} (h : fld = 1 ∧ lo = 20 ∨ fld = 2 ∧ lo = 42) (x : Word) (imm : BitVec 32) : addField fld x imm =
    (x &&& ~~~((0x3FFFFF : Word) <<< lo)) ||| (((x.extractLsb' lo 22) + (imm.signExtend 64).setWidth 22).setWidth 64 <<< lo) := by
  rcases h with ⟨rfl, rfl⟩ | ⟨rfl, rfl⟩ <;> rfl

/-- A field put into a word at bit lo: its bits are the field's, every other is the word's. -/
theorem putField_getLsbD (x : Word) (f : BitVec 22) (lo : Nat) (hlo : lo + 22 ≤ 64) (k : Nat) (hk : k < 64) :
    ((x &&& ~~~((0x3FFFFF : Word) <<< lo)) ||| (f.setWidth 64 <<< lo)).getLsbD k =
      if lo ≤ k ∧ k < lo + 22 then f.getLsbD (k - lo) else x.getLsbD k := by
  have hmask (i : Nat) : (0x3FFFFF : Word).getLsbD i = decide (i < 22) := by
    show (BitVec.ofNat 64 (2 ^ 22 - 1)).getLsbD i = _
    rw [BitVec.getLsbD_ofNat, Nat.testBit_two_pow_sub_one]
    by_cases h : i < 22
    · simp [h, show i < 64 by omega]
    · simp [h]
  simp only [BitVec.getLsbD_or, BitVec.getLsbD_and, BitVec.getLsbD_not, BitVec.getLsbD_shiftLeft, BitVec.getLsbD_setWidth, hmask, hk, decide_true,
    Bool.true_and]
  by_cases h1 : lo ≤ k
  · by_cases h2 : k < lo + 22
    · simp [h1, h2, show ¬ k < lo by omega, show k - lo < 22 by omega, show k - lo < 64 by omega]
    · have hf : f.getLsbD (k - lo) = false := BitVec.getLsbD_of_ge f _ (by omega)
      simp [h1, h2, show ¬ k - lo < 22 by omega, hf]
  · simp [h1, show k < lo by omega]

theorem setWidth_signExtend_toInt (imm : BitVec 32) : (imm.signExtend 64).setWidth 22 = BitVec.ofInt 22 imm.toInt := by
  apply BitVec.eq_of_toNat_eq
  rw [BitVec.toNat_setWidth, BitVec.signExtend, BitVec.toNat_ofInt, BitVec.toNat_ofInt]
  omega

end Sys2Proof.Machine

namespace Sys2Proof
open Machine

/-- Settles O39: each control micro-operation by what it does to the routine state. -/
theorem controlMicroOps : Obligations.ControlMicroOps := by
  unfold Obligations.ControlMicroOps
  refine ⟨fun s r h => ?_, fun s r hrun hdone hstop hsteps hpc => State.micro_runaway (name := "MNOP") (f := fun s r => r.on s) hrun hdone hstop rfl hsteps hpc⟩
  have hdone : r.done = false := h.2.1
  refine ⟨?_, State.micro_on (name := "MNOP") (f := fun s r => r.on s) h rfl rfl hdone, fun xs => ?_, fun mode sat xr hmode => ?_, fun mode sat xr hmode => ?_, fun xd imm => ?_, fun xd xa => ?_,
    fun xd fld imm old hfld hold => ?_, fun xc target v hv => ?_⟩
  · obtain ⟨hrun, hdone, hstop, hlt⟩ := h
    show execMxEnd s = _
    simp only [execMxEnd, State.micro, hrun, hdone, hstop, Option.isSome_none, Bool.or_self, Bool.false_eq_true, if_false, Bool.true_or, Bool.not_true,
      Bool.false_and]
    rfl
  · have hscale : (r.getX xs).setWidth 32 = (r.x.get xs.toFin).extractLsb' 0 32 := BitVec.setWidth_eq_extractLsb' (by omega)
    show execSets xs s = _
    rw [← hscale]
    exact State.micro_on (q := { r with scale := (r.getX xs).setWidth 32 }) h rfl rfl hdone
  · show execSetr mode sat xr s = _
    exact State.micro_on (q := { r with mode := mode, sat := sat, seed := r.x.get xr.toFin }) h (if_neg (by omega)) rfl hdone
  · show execSetr mode sat xr s = _
    exact State.micro_fail h (if_pos hmode)
  · show execSetx xd imm s = _
    exact State.micro_on (q := Safety.microSet r xd (BitVec.ofInt 64 imm.toInt)) h rfl rfl hdone
  · show execMovx xd xa s = _
    exact State.micro_on (q := Safety.microSet r xd (r.x.get xa.toFin)) h rfl rfl hdone
  · refine ⟨addField fld old imm, ?_, fun h0 => ?_, fun lo hlo => ?_⟩
    · rw [hold]
      show execAddx xd fld imm s = _
      exact State.micro_on (q := Safety.microSet r xd (addField fld (r.x.get xd.toFin) imm)) h rfl rfl hdone
    · rw [h0]; rfl
    · have hlo' : lo + 22 ≤ 64 := by omega
      rw [addField_eq hlo, setWidth_signExtend_toInt]
      refine ⟨BitVec.eq_of_getLsbD_eq fun k hk => ?_, fun k hk => ?_⟩
      · rw [BitVec.getLsbD_extractLsb', putField_getLsbD old _ lo hlo' (lo + k) (by omega), if_pos (by omega), Nat.add_sub_cancel_left]
        simp [hk]
      · by_cases hk' : k < 64
        · rw [putField_getLsbD old _ lo hlo' k hk', if_neg (by omega)]
        · rw [BitVec.getLsbD_of_ge _ _ (by omega), BitVec.getLsbD_of_ge _ _ (by omega)]
  · show execLoopx xc target s = _
    subst hv
    by_cases h0 : r.x.get xc.toFin = 0
    · rw [if_pos h0]
      exact State.micro_on h (if_pos h0) rfl hdone
    · rw [if_neg h0]
      by_cases h1 : r.x.get xc.toFin = 1
      · rw [if_pos h1]
        refine State.micro_on (q := Safety.microSet r xc (r.x.get xc.toFin - 1)) h ?_ rfl hdone
        have hz : r.getX xc - 1 = 0 := by rw [show r.getX xc = 1 from h1]; rfl
        have hz' : r.x.get xc.toFin - 1 = 0 := hz
        rw [hz']
        exact (if_neg h0).trans (if_pos hz)
      · rw [if_neg h1]
        refine State.micro_go (q := Safety.microSet r xc (r.x.get xc.toFin - 1)) h ?_ rfl hdone
        have hz : ¬ r.getX xc - 1 = 0 := fun hz => h1 (by
          have : r.x.get xc.toFin - 1 = 0 := hz
          bv_omega)
        exact (if_neg h0).trans (if_neg hz)

end Sys2Proof

namespace Sys2Proof.Machine

/-! ### Weight banks (R129, R145) -/

theorem Matrix.bank_setBank (m : Matrix) (b d : Bool) (w : WBank) : (m.setBank b w).bank d = if d = b then w else m.bank d := by
  cases b <;> cases d <;> rfl

@[simp] theorem Matrix.bank_setBank_same (m : Matrix) (b : Bool) (w : WBank) : (m.setBank b w).bank b = w := by
  rw [Matrix.bank_setBank, if_pos rfl]

@[simp] theorem Matrix.bank_setBank_not (m : Matrix) (b : Bool) (w : WBank) : (m.setBank b w).bank (!b) = m.bank (!b) := by
  rw [Matrix.bank_setBank, if_neg (by cases b <;> decide)]

/-- What setting a bank leaves of the unit. -/
theorem Matrix.setBank_only (m : Matrix) (b : Bool) (w : WBank) :
    m.setBank b w = { m with bankA := (m.setBank b w).bankA, bankB := (m.setBank b w).bankB } := by
  cases b <;> rfl

/-- A bank holds a block that has been loaded. -/
def State.bankLoaded (s : State) (b : Bool) (fmt : Nat) (w : List (List Num)) : State :=
  s.onCore fun c => { c with mx := c.mx.setBank b ⟨.idle, true, BitVec.ofNat 5 fmt, w, false⟩ }

/-- A load of a bank that does not drain. -/
theorem Run.loadBank_on {r : Run} {s t : State} {fmt : Nat} {read : State → State × Except MemErr (List (List Num))} {w : List (List Num)}
    (h : (s.core.mx.bank s.core.mx.loadBank).state ≠ .draining) (hread : read s = (t, .ok w)) :
    r.loadBank s fmt read = r.on (t.bankLoaded s.core.mx.loadBank fmt w) := by
  simp only [Run.loadBank, if_neg h, hread]
  rfl

theorem ldw_runs {s s1 s2 : State} {r : Run} {xw : BitVec 4} {o : Operand} {sc : Scales} {w : List (List Num)} (hrun : Safety.microRunning s r)
    (hidle : (s.core.mx.bank s.core.mx.loadBank).state ≠ .draining) (ho : s.core.operand r.call (r.x.get xw.toFin) = some o)
    (hsc : s.scalesFor r.call true o o.ref.row0 = (s1, .ok sc))
    (hrows : s1.elemRows o sc (fun _ => false) 64 o.ref.col0 64 o.ref.row0 = (s2, .ok w)) :
    exec (.ldw xw) s = .next (Safety.withRun (s2.bankLoaded s.core.mx.loadBank o.desc.fmt w) (Safety.microAt r (r.pc + 1))) := by
  show execLdw xw s = _
  refine State.micro_on hrun ?_ rfl hrun.2.1
  simp only [Run.getX, ho]
  exact Run.loadBank_on hidle (by simp only [hsc, hrows])

theorem ldwSparse_runs {s s1 s2 : State} {r : Run} {xw : BitVec 4} {nm : BitVec 2} {o : Operand} {sc : Scales} {cs : List (List Num)}
    (hrun : Safety.microRunning s r) (hidle : (s.core.mx.bank s.core.mx.loadBank).state ≠ .draining)
    (ho : s.core.operand r.call (r.x.get xw.toFin) = some o)
    (hlegal : ¬ (nm = 3 ∨ o.ref.kind ≠ 1 ∨ o.ref.t ∨ o.desc.fmt < 11 ∨ (o.ref.col0 ≠ 0 ∧ o.ref.col0 ≠ 128)))
    (hsc : s.scalesFor r.call true o o.ref.col0 = (s1, .ok sc)) (hcols : s1.sparseColumns o nm sc 64 o.ref.row0 = (s2, .ok cs)) :
    exec (.ldwSparse xw nm) s =
      .next (Safety.withRun (s2.bankLoaded s.core.mx.loadBank o.desc.fmt (rowsOf 128 cs)) (Safety.microAt r (r.pc + 1))) := by
  show execLdwSparse xw nm s = _
  refine State.micro_on hrun ?_ rfl hrun.2.1
  simp only [Run.getX, ho, if_neg hlegal]
  exact Run.loadBank_on hidle (by simp only [hsc, hcols])

theorem mxSwap_runs {s : State} {r : Run} (hrun : Safety.microRunning s r) (hidle : (s.core.mx.bank s.core.mx.loadBank).state ≠ .draining) :
    exec .mxSwap s = .next (Safety.withRun (s.onCore fun c => { c with mx := c.mx.swap }) (Safety.microAt r (r.pc + 1))) := by
  show execMxSwap s = _
  exact State.micro_on hrun (if_neg hidle) rfl hrun.2.1

/-- What a swap does to the banks: the load bank becomes active, and the bank that it replaces drains while it has rows. -/
theorem Matrix.swap_banks (m : Matrix) : m.swap.active = some m.loadBank ∧
    m.swap.bank m.loadBank = { m.bank m.loadBank with state := .active } ∧
    m.swap.bank (!m.loadBank) = (if m.active = none then m.bank (!m.loadBank)
      else { m.bank (!m.loadBank) with state := if (m.bank (!m.loadBank)).rows then .draining else .idle }) ∧
    m.swap = { m with bankA := m.swap.bankA, bankB := m.swap.bankB, active := m.swap.active } := by
  unfold Matrix.swap
  cases h : m.active with
  | none =>
    have hload : m.loadBank = false := by rw [Matrix.loadBank, h]
    rw [hload, if_pos rfl]
    exact ⟨rfl, rfl, rfl, rfl⟩
  | some b =>
    have hload : m.loadBank = !b := by rw [Matrix.loadBank, h]
    rw [hload, if_neg (Option.some_ne_none b)]
    cases b
    · exact ⟨rfl, rfl, rfl, rfl⟩
    · exact ⟨rfl, rfl, rfl, rfl⟩

theorem rowsOf_length (n : Nat) (cols : List (List Num)) : (rowsOf n cols).length = n := by simp [rowsOf]

theorem rowsOf_get {n k : Nat} {cols : List (List Num)} {row : List Num} (h : (rowsOf n cols)[k]? = some row) :
    row = cols.map fun c => c.getD k (.fin false 0 0) := by
  obtain ⟨hlt, rfl⟩ := List.getElem?_eq_some_iff.1 h
  simp [rowsOf]

end Sys2Proof.Machine

namespace Sys2Proof
open Machine

/-- Settles O41: a load puts its block into the bank that is not active, and SWAP makes that bank active. -/
theorem weightBankMicroOps : Obligations.WeightBankMicroOps := by
  unfold Obligations.WeightBankMicroOps
  intro s r load hrun hload
  have hload : load = s.core.mx.loadBank := hload
  subst hload
  refine ⟨fun xw o s1 s2 sc w ho hidle => ⟨fun hsc hrows => ?_, fun nm cs hnm hkind ht hfmt hcol hsc hcols => ?_⟩, fun hidle => ?_⟩
  · exact ⟨_, ldw_runs hrun hidle ho hsc hrows, rfl, Matrix.bank_setBank_same s2.core.mx _ _, Matrix.bank_setBank_not s2.core.mx _ _,
      (congrArg Matrix.active (s2.core.mx.setBank_only _ _) :), rfl, rfl, rfl⟩
  · have hlegal : ¬ (nm = 3 ∨ o.ref.kind ≠ 1 ∨ o.ref.t ∨ o.desc.fmt < 11 ∨ (o.ref.col0 ≠ 0 ∧ o.ref.col0 ≠ 128)) := by
      simp only [hkind, ht, ne_eq, not_true_eq_false, Bool.false_eq_true, false_or, not_or, hnm, not_false_eq_true, true_and]
      omega
    exact ⟨_, ⟨.idle, true, BitVec.ofNat 5 o.desc.fmt, rowsOf 128 cs, false⟩, ldwSparse_runs hrun hidle ho hlegal hsc hcols, rfl,
      Matrix.bank_setBank_same s2.core.mx _ _, rfl, rfl, rfl, rowsOf_length _ _, fun k row => rowsOf_get, Matrix.bank_setBank_not s2.core.mx _ _, rfl, rfl⟩
  · obtain ⟨hactive, hnew, hold, honly⟩ := s.core.mx.swap_banks
    exact ⟨_, mxSwap_runs hrun hidle, rfl, hactive, hnew, hold, rfl, rfl, rfl, (congrArg Matrix.queue honly :)⟩

end Sys2Proof

namespace Sys2Proof.Machine

/-! ### Writes of a call into a tile (R130, R337) -/

/-- A core but for its pool and what a write into a tile does beside it. -/
def Core.unpooled (c : Core) : Core := { c with pool := [], poison := [], spoiled := [], inject := (Core.reset 0).inject }

theorem Core.poolWrite_unpooled (c : Core) (a : Nat) (bs : List Byte) (bad : Bool) : (c.poolWrite a bs bad).unpooled = c.unpooled := by
  unfold Core.poolWrite
  split <;> rfl

theorem Core.tileWrite_unpooled (c : Core) (t : TileRef) (off : Nat) (bs : List Byte) (bad : Bool) :
    (c.tileWrite t off bs bad).unpooled = c.unpooled := by
  unfold Core.tileWrite
  dsimp only
  split
  · exact c.poolWrite_unpooled _ _ _
  · split
    · exact c.poolWrite_unpooled _ _ _
    · exact c.poolWrite_unpooled (t.start + off) bs bad

theorem Core.callWrite_unpooled (c : Core) (k : Call) (t : TileRef) (a : Nat) (bs : List Byte) : (c.callWrite k t a bs).unpooled = c.unpooled := by
  unfold Core.callWrite
  split
  · exact c.tileWrite_unpooled _ _ _ _
  · exact c.poolWrite_unpooled _ _ _

theorem Core.tileWrite_pool (c : Core) (t : TileRef) (off : Nat) (bs : List Byte) (bad : Bool) :
    (c.tileWrite t off bs bad).pool = (c.poolWrite (t.start + off) bs bad).pool := by
  unfold Core.tileWrite
  dsimp only
  split
  · rfl
  · split <;> rfl

theorem Core.callWrite_pool {c : Core} {k : Call} {t : TileRef} {a : Nat} (h : t.start ≤ a) (bs : List Byte) :
    (c.callWrite k t a bs).pool = (c.poolWrite a bs).pool := by
  unfold Core.callWrite
  split
  · rw [Core.tileWrite_pool, Nat.add_sub_cancel' h]
  · rfl

theorem Core.poolWrite_byte (c : Core) (a : Nat) (bs : List Byte) (bad : Bool) (x : Nat) :
    (c.poolWrite a bs bad).pool.byte x = if a ≤ x ∧ x < a + bs.length then bs.getD (x - a) 0 else c.pool.byte x := by
  unfold Core.poolWrite
  split
  · next h =>
    rw [List.isEmpty_iff.1 h, if_neg]
    rw [List.length_nil]
    omega
  · exact Mem.byte_write _ _ _ _

theorem Core.poolWrite_poolWf {c : Core} (h : c.pool.wf = true) (a : Nat) (bs : List Byte) (bad : Bool) : (c.poolWrite a bs bad).pool.wf = true := by
  unfold Core.poolWrite
  split
  · exact h
  · exact Mem.write_wf h _ _

theorem Core.callWrite_byte {c : Core} {k : Call} {t : TileRef} {a : Nat} (h : t.start ≤ a) (bs : List Byte) (x : Nat) :
    (c.callWrite k t a bs).pool.byte x = if a ≤ x ∧ x < a + bs.length then bs.getD (x - a) 0 else c.pool.byte x := by
  rw [Core.callWrite_pool h, Core.poolWrite_byte]

/-! ### Accumulator rows (R130) -/

/-- Byte k of block j of blocks of one length. -/
theorem flatten_getD {w : Nat} : ∀ {ls : List (List Byte)}, (∀ l ∈ ls, l.length = w) → ∀ {j k : Nat}, k < w →
    ls.flatten.getD (w * j + k) 0 = (ls.getD j []).getD k 0
  | [], _, _, _, _ => by simp
  | l :: ls, h, 0, k, hk => by
    have hl := h l List.mem_cons_self
    rw [List.flatten_cons, Nat.mul_zero, Nat.zero_add, List.getD_append _ _ _ _ (by omega), List.getD_cons_zero]
  | l :: ls, h, j + 1, k, hk => by
    have hl := h l List.mem_cons_self
    rw [List.flatten_cons, List.getD_append_right _ _ _ _ (by rw [hl, Nat.mul_succ]; omega), List.getD_cons_succ,
      ← flatten_getD (fun x hx => h x (List.mem_cons_of_mem _ hx)) hk, hl, Nat.mul_succ]
    congr 1
    omega

/-- The bytes of an accumulator row. -/
def MRef.rowBytes (m : MRef) (vals : List Num) : List Byte := (vals.map fun x => toBytes m.width (roundRne m.accFmt x)).flatten

theorem MRef.rowBytes_length (m : MRef) (vals : List Num) : (m.rowBytes vals).length = m.width * vals.length := by
  rw [MRef.rowBytes, flatten_length (n := m.width) (by simp), List.length_map]

theorem MRef.rowBytes_getD {m : MRef} {vals : List Num} {j k : Nat} {x : Num} (hx : vals[j]? = some x) (hk : k < m.width) :
    (m.rowBytes vals).getD (m.width * j + k) 0 = BitVec.ofNat 8 (roundRne m.accFmt x / 256 ^ k) := by
  have hget : (vals.map fun x => toBytes m.width (roundRne m.accFmt x)).getD j [] = toBytes m.width (roundRne m.accFmt x) := by
    rw [List.getD_eq_getElem?_getD, List.getElem?_map, hx]; rfl
  rw [MRef.rowBytes, flatten_getD (by simp) hk, hget, toBytes_getD _ _ _ hk]

theorem Core.putAccRow_byte {c : Core} {k : Call} {m : MRef} {a : Nat} (h : (k.refTile m).start ≤ a) {vals : List Num} (hlen : vals.length = 64) (x : Nat) :
    (c.putAccRow k m a vals).pool.byte x = if a ≤ x ∧ x < a + 64 * m.width then (m.rowBytes vals).getD (x - a) 0 else c.pool.byte x := by
  have hb : (m.rowBytes vals).length = 64 * m.width := by rw [MRef.rowBytes_length, hlen, Nat.mul_comm]
  rw [← hb]
  exact Core.callWrite_byte h _ _

/-- Rows of values, each written at its place, as the rows before it have left the pool; an empty row is left alone. -/
def Core.putRows (c : Core) (k : Call) (m : MRef) (f : Core → Nat → List Num → List Num) : Nat → List (List Num) → Core
  | _, [] => c
  | a, r :: rs => Core.putRows (if r.isEmpty then c else c.putAccRow k m a (f c a r)) k m f (a + 64 * m.width) rs

theorem Core.putAccRows_eq (k : Call) (m : MRef) : ∀ (rows : List (List Num)) (c : Core) (a : Nat),
    c.putAccRows k m a rows = c.putRows k m (fun _ _ r => r) a rows
  | [], _, _ => rfl
  | r :: rs, c, a => by
    rw [Core.putAccRows, Core.putRows]
    exact Core.putAccRows_eq k m rs _ _

theorem Core.streamRows_eq (k : Call) (m : MRef) (narrow : Bool) (cols : List (List Num)) : ∀ (rows : List (List Num)) (c : Core) (a : Nat),
    c.streamRows k m narrow cols a rows =
      c.putRows k m (fun c a x => (List.zip (c.accRow m a) cols).map fun p => accumulate narrow m.accFmt 128 p.1 x p.2) a rows
  | [], _, _ => rfl
  | r :: rs, c, a => by
    rw [Core.streamRows, Core.putRows]
    exact Core.streamRows_eq k m narrow cols rs _ _

theorem Core.putRows_unpooled (k : Call) (m : MRef) (f : Core → Nat → List Num → List Num) : ∀ (rows : List (List Num)) (c : Core) (a : Nat),
    (c.putRows k m f a rows).unpooled = c.unpooled
  | [], _, _ => rfl
  | r :: rs, c, a => by
    rw [Core.putRows, Core.putRows_unpooled k m f rs]
    split
    · rfl
    · exact c.callWrite_unpooled _ _ _ _

section
variable {k : Call} {m : MRef} {f : Core → Nat → List Num → List Num}

/-- A byte outside the rows. -/
theorem Core.putRows_byte_other : ∀ {rows : List (List Num)} {c : Core} {a x : Nat}, (k.refTile m).start ≤ a →
    (∀ r ∈ rows, r ≠ [] → ∀ c a, (f c a r).length = 64) → ¬ (a ≤ x ∧ x < a + 64 * m.width * rows.length) →
    (c.putRows k m f a rows).pool.byte x = c.pool.byte x
  | [], _, _, _, _, _, _ => rfl
  | r :: rs, c, a, x, ha, hlen, hx => by
    rw [List.length_cons, Nat.mul_succ] at hx
    rw [Core.putRows, Core.putRows_byte_other (by omega) (fun q hq => hlen q (List.mem_cons_of_mem _ hq)) (by omega)]
    split
    · rfl
    · next hr =>
      rw [Core.putAccRow_byte ha (hlen r List.mem_cons_self (fun h => hr (List.isEmpty_iff.2 h)) c a), if_neg]
      omega

/-- A byte of a row that is left alone. -/
theorem Core.putRows_byte_skip {rows : List (List Num)} {c : Core} {a i x : Nat} (ha : (k.refTile m).start ≤ a)
    (hlen : ∀ r ∈ rows, r ≠ [] → ∀ c a, (f c a r).length = 64) (hi : rows[i]? = some [])
    (hlo : a + 64 * m.width * i ≤ x) (hhi : x < a + 64 * m.width * i + 64 * m.width) : (c.putRows k m f a rows).pool.byte x = c.pool.byte x := by
  induction rows generalizing c a i with
  | nil => cases hi
  | cons r rs ih =>
    rw [Core.putRows]
    have htail : ∀ r ∈ rs, r ≠ [] → ∀ c a, (f c a r).length = 64 := fun q hq => hlen q (List.mem_cons_of_mem _ hq)
    cases i with
    | zero =>
      obtain rfl : r = [] := by simpa using hi
      rw [Nat.mul_zero, Nat.add_zero] at hlo hhi
      rw [Core.putRows_byte_other (by omega) htail (by omega), List.isEmpty_nil, if_pos rfl]
    | succ i =>
      rw [Nat.mul_succ] at hlo hhi
      rw [ih (by omega) htail (by simpa using hi) (by omega) (by omega)]
      split
      · rfl
      · next hr =>
        rw [Core.putAccRow_byte ha (hlen r List.mem_cons_self (fun h => hr (List.isEmpty_iff.2 h)) c a), if_neg]
        omega

/-- A byte of a row that is written. What a row's values are must not depend on the rows before it. -/
theorem Core.putRows_byte_at {Q : Core → Prop} (hQ : ∀ c a vals, Q c → (k.refTile m).start ≤ a → Q (c.putAccRow k m a vals))
    (hlocal : ∀ c a a' vals r, Q c → (k.refTile m).start ≤ a → vals.length = 64 → a + 64 * m.width ≤ a' → f (c.putAccRow k m a vals) a' r = f c a' r)
    {rows : List (List Num)} {c : Core} {a i j b : Nat} {r : List Num} {v : Num} (ha : (k.refTile m).start ≤ a) (hc : Q c)
    (hlen : ∀ r ∈ rows, r ≠ [] → ∀ c a, (f c a r).length = 64) (hi : rows[i]? = some r) (hr : r ≠ [])
    (hv : (f c (a + 64 * m.width * i) r)[j]? = some v) (hj : j < 64) (hb : b < m.width) :
    (c.putRows k m f a rows).pool.byte (a + 64 * m.width * i + m.width * j + b) = BitVec.ofNat 8 (roundRne m.accFmt v / 256 ^ b) := by
  induction rows generalizing c a i with
  | nil => cases hi
  | cons q rs ih =>
    rw [Core.putRows]
    have htail : ∀ r ∈ rs, r ≠ [] → ∀ c a, (f c a r).length = 64 := fun q hq => hlen q (List.mem_cons_of_mem _ hq)
    cases i with
    | zero =>
      obtain rfl : q = r := by simpa using hi
      have hlt : m.width * j + b < 64 * m.width := by
        have := Nat.mul_le_mul_left m.width (show j + 1 ≤ 64 by omega)
        rw [Nat.mul_succ] at this
        omega
      rw [Nat.mul_zero, Nat.add_zero] at hv ⊢
      rw [Core.putRows_byte_other (by omega) htail (by omega), if_neg fun h => hr (List.isEmpty_iff.1 h),
        Core.putAccRow_byte ha (hlen q List.mem_cons_self hr c a), if_pos (by omega), show a + m.width * j + b - a = m.width * j + b by omega]
      exact MRef.rowBytes_getD hv hb
    | succ i =>
      have hat : a + 64 * m.width * (i + 1) = a + 64 * m.width + 64 * m.width * i := by rw [Nat.mul_succ]; omega
      rw [hat] at hv ⊢
      refine ih (by omega) ?_ htail (by simpa using hi) ?_
      · split
        · exact hc
        · exact hQ c a _ hc ha
      · split
        · exact hv
        · next hq =>
          rw [hlocal c a _ _ r hc ha (hlen q List.mem_cons_self (fun h => hq (List.isEmpty_iff.2 h)) c a) (by omega)]
          exact hv

end

/-! ### The rows of an operand (R132) -/

theorem State.elemRow_length {o : Operand} {sc : Scales} {i : Nat} : ∀ {n j : Nat} {s t : State} {r : List Num},
    s.elemRow o sc i n j = (t, .ok r) → r.length = n
  | 0, _, _, _, _, h => by
    obtain ⟨-, rfl⟩ := Prod.mk.inj h |>.imp_right Except.ok.inj
    rfl
  | n + 1, j, s, t, r, h => by
    unfold State.elemRow at h
    split at h
    · cases h
    · split at h
      · cases h
      · next hr =>
        obtain ⟨-, rfl⟩ := Prod.mk.inj h |>.imp_right Except.ok.inj
        rw [List.length_cons, State.elemRow_length hr]

theorem State.elemRows_length {o : Operand} {sc : Scales} {skip : Nat → Bool} {width j : Nat} : ∀ {n i : Nat} {s t : State} {rs : List (List Num)},
    s.elemRows o sc skip width j n i = (t, .ok rs) →
      rs.length = n ∧ ∀ r ∈ rs, r = [] ∨ r.length = width
  | 0, _, _, _, _, h => by
    obtain ⟨-, rfl⟩ := Prod.mk.inj h |>.imp_right Except.ok.inj
    exact ⟨rfl, fun _ h => by cases h⟩
  | n + 1, i, s, t, rs, h => by
    unfold State.elemRows at h
    split at h
    · cases h
    · next u r hr =>
      split at h
      · cases h
      · next hrs =>
        obtain ⟨-, rfl⟩ := Prod.mk.inj h |>.imp_right Except.ok.inj
        obtain ⟨hlen, hall⟩ := State.elemRows_length hrs
        refine ⟨by rw [List.length_cons, hlen], fun q hq => ?_⟩
        rcases List.mem_cons.1 hq with rfl | hq
        · split at hr
          · exact .inl (Except.ok.inj (Prod.mk.inj hr).2).symm
          · exact .inr (State.elemRow_length hr)
        · exact hall q hq

end Sys2Proof.Machine

namespace Sys2Proof.Machine

/-! ### ZACC and LDACC (R130, R140) -/

theorem Core.accAt_start {c : Core} {k : Call} {m : MRef} {n a : Nat} (h : c.accAt k m n = some a) : (k.refTile m).start ≤ a := by
  simp only [Core.accAt] at h
  split at h
  · cases h
  · obtain rfl := Option.some.inj h
    exact Nat.le_add_right _ _

/-- A micro-operation on accumulator rows that do not exist fails. -/
theorem accMicro_fails {s : State} {r : Run} {xc : BitVec 4} {n : BitVec 6} (hrun : Safety.microRunning s r)
    (hacc : s.core.accAt r.call (mrefOf (r.x.get xc.toFin)) (n.toNat + 1) = none) :
    exec (.zacc xc n) s = .next (Safety.microFailed s cMxOperand) ∧
    ∀ xa, exec (.ldacc xc xa n) s = .next (Safety.microFailed s cMxOperand) ∧
      exec (.drain xc xa n) s = .next (Safety.microFailed s cMxOperand) ∧ exec (.strm xa xc n) s = .next (Safety.microFailed s cMxOperand) := by
  refine ⟨?_, fun xa => ⟨?_, ?_, ?_⟩⟩
  · show execZacc xc n s = _
    refine State.micro_fail hrun ?_
    simp only [Run.getX, hacc]
  · show execLdacc xc xa n s = _
    refine State.micro_fail hrun ?_
    simp only [Run.getX, hacc]
    cases s.core.operand r.call (r.x.get xa.toFin) <;> rfl
  · show execDrain xc xa n s = _
    refine State.micro_fail hrun ?_
    simp only [Run.getX, hacc]
    cases s.core.operand r.call (r.x.get xa.toFin) <;> rfl
  · show execStrm xa xc n s = _
    refine State.micro_fail hrun ?_
    simp only [Run.getX, hacc]
    cases s.core.mx.active with
    | none => rfl
    | some b => cases s.core.operand r.call (r.x.get xa.toFin) <;> rfl

theorem zacc_runs {s : State} {r : Run} {xc : BitVec 4} {n : BitVec 6} {m : MRef} {a : Nat} (hrun : Safety.microRunning s r)
    (hm : m = mrefOf (r.x.get xc.toFin)) (hacc : s.core.accAt r.call m (n.toNat + 1) = some a) :
    exec (.zacc xc n) s = .next (Safety.withRun (s.onCore fun c => c.callWrite r.call (r.call.refTile m) a (zeros (64 * m.width * (n.toNat + 1))))
      (Safety.microAt r (r.pc + 1))) := by
  subst hm
  show execZacc xc n s = _
  refine State.micro_on hrun ?_ rfl hrun.2.1
  simp only [Run.getX, hacc]

theorem ldacc_runs {s s1 s2 : State} {r : Run} {xc xa : BitVec 4} {n : BitVec 6} {m : MRef} {a : Nat} {o : Operand} {sc : Scales}
    {rows : List (List Num)} (hrun : Safety.microRunning s r) (hm : m = mrefOf (r.x.get xc.toFin))
    (hacc : s.core.accAt r.call m (n.toNat + 1) = some a) (ho : s.core.operand r.call (r.x.get xa.toFin) = some o)
    (hfmt : o.desc.fmt = if m.acc64 then 0 else 1) (hsc : s.scalesFor r.call false o o.ref.col0 = (s1, .ok sc))
    (hrows : s1.elemRows o sc (fun _ => false) 64 o.ref.col0 (n.toNat + 1) o.ref.row0 = (s2, .ok rows)) :
    exec (.ldacc xc xa n) s =
      .next (Safety.withRun (s2.onCore fun c => c.putAccRows r.call m a rows) (Safety.microAt r (r.pc + 1))) := by
  have hlegal : ¬ (o.desc.fmt > 1 ∨ (!m.accIs (o.desc.fmt == 0)) = true) := by
    rw [hfmt, MRef.accIs]
    cases m.acc64 <;> simp
  subst hm
  show execLdacc xc xa n s = _
  refine State.micro_on hrun ?_ rfl hrun.2.1
  simp only [Run.getX, ho, hacc, if_neg hlegal, hsc, hrows]

theorem zeros_getD (n i : Nat) : (zeros n).getD i 0 = 0 := by
  rw [zeros, List.getD_eq_getElem?_getD, List.getElem?_replicate]
  split <;> rfl

end Sys2Proof.Machine

namespace Sys2Proof
open Machine

/-- Settles O40: ZACC writes zeros, LDACC writes rows of 64 values, and either changes nothing else of the core but its routine state. -/
theorem accumulatorMicroOps : Obligations.AccumulatorMicroOps := by
  unfold Obligations.AccumulatorMicroOps
  intro s r xc n m w hrun hm hw
  have hw : w = m.width := hw
  subst hw
  refine ⟨fun hnone => accMicro_fails hrun (hm ▸ hnone), fun a hacc => ⟨?_, fun xa o s1 s2 sc rows ho hfmt hsc hrows => ?_⟩⟩
  · have hkept := s.core.callWrite_unpooled r.call (r.call.refTile m) a (zeros (64 * m.width * (n.toNat + 1)))
    refine ⟨_, zacc_runs hrun hm hacc, rfl, rfl, (congrArg Core.regs hkept :), (congrArg Core.tiles hkept :), fun k => ?_⟩
    refine (Core.callWrite_byte (Core.accAt_start hacc) _ k).trans ?_
    rw [zeros_length, zeros_getD]
  · have hstart := Core.accAt_start hacc
    obtain ⟨hlen, hall⟩ := State.elemRows_length hrows
    have h64 : ∀ r ∈ rows, r ≠ [] → ∀ (_ : Machine.Core) (_ : Nat), r.length = 64 := fun q hq hne _ _ => (hall q hq).resolve_left hne
    have hkept := Core.putRows_unpooled r.call m (fun _ _ r => r) rows s2.core a
    rw [← Core.putAccRows_eq] at hkept
    refine ⟨_, ldacc_runs hrun hm hacc ho hfmt hsc hrows, rfl, rfl, (congrArg Core.regs hkept :), (congrArg Core.tiles hkept :), fun k hk => ?_,
      fun i row j x k hi hj hk => ?_⟩
    · show ((s2.core.putAccRows r.call m a rows).pool).byte k = _
      rw [Core.putAccRows_eq, Core.putRows_byte_other hstart h64 (by rw [hlen]; exact hk)]
    · show ((s2.core.putAccRows r.call m a rows).pool).byte _ = _
      have hne : row ≠ [] := fun h => by rw [h] at hj; cases hj
      have hrow : row.length = 64 := (hall row (List.mem_of_getElem? hi)).resolve_left hne
      have hj64 : j < 64 := by rw [← hrow]; exact (List.getElem?_eq_some_iff.1 hj).1
      rw [Core.putAccRows_eq]
      exact Core.putRows_byte_at (Q := fun _ => True) (fun _ _ _ _ _ => trivial) (fun _ _ _ _ _ _ _ _ _ => rfl) hstart trivial h64 hi hne hj hj64 hk

end Sys2Proof

namespace Sys2Proof.Machine

/-! ### The order of an accumulation (R115) -/

theorem groupSum_nil_right : ∀ xs : List Num, groupSum xs [] = none
  | [] => rfl
  | _ :: _ => rfl

/-- One step of an accumulation: group g of the products. -/
def accStep (narrow : Bool) (fmt : Nat) (xs ws : List Num) (acc : Num) (g : Nat) : Num :=
  match groupSum ((xs.drop ((if narrow then 32 else 1) * g)).take (if narrow then 32 else 1))
      ((ws.drop ((if narrow then 32 else 1) * g)).take (if narrow then 32 else 1)) with
  | some total => decodeNum fmt (roundRne fmt (Num.add 0 acc total))
  | none => acc

theorem accStep_succ (narrow : Bool) (fmt : Nat) (xs ws : List Num) (acc : Num) (g : Nat) :
    accStep narrow fmt xs ws acc (g + 1) =
      accStep narrow fmt (xs.drop (if narrow then 32 else 1)) (ws.drop (if narrow then 32 else 1)) acc g := by
  simp only [accStep, List.drop_drop, Nat.mul_succ, Nat.add_comm]

theorem accStep_nil (narrow : Bool) (fmt : Nat) (xs : List Num) (acc : Num) (g : Nat) : accStep narrow fmt xs [] acc g = acc := by
  rw [accStep, List.drop_nil, List.take_nil, groupSum_nil_right]

theorem foldl_accStep_nil (narrow : Bool) (fmt : Nat) (xs : List Num) (acc : Num) (l : List Nat) :
    l.foldl (accStep narrow fmt xs []) acc = acc := by
  induction l with
  | nil => rfl
  | cons g l ih => rw [List.foldl_cons, accStep_nil, ih]

/-- With enough steps the accumulation goes over all groups in order. -/
theorem accumulate_eq (narrow : Bool) (fmt : Nat) : ∀ (fuel : Nat) (acc : Num) (xs ws : List Num),
    xs.length ≤ (if narrow then 32 else 1) * fuel →
    accumulate narrow fmt fuel acc xs ws =
      (List.range ((xs.length + (if narrow then 32 else 1) - 1) / (if narrow then 32 else 1))).foldl (accStep narrow fmt xs ws) acc := by
  generalize hstep : (if narrow then 32 else 1) = step
  have hpos : 0 < step := by rw [← hstep]; split <;> omega
  intro fuel
  induction fuel with
  | zero =>
    intro acc xs ws h
    have hx : xs.length = 0 := by omega
    rw [hx, Nat.zero_add, Nat.div_eq_of_lt (by omega)]
    rfl
  | succ fuel ih =>
    intro acc xs ws h
    rw [accumulate]
    simp only [hstep]
    by_cases hx : xs = []
    · rw [hx, List.length_nil, Nat.zero_add, Nat.div_eq_of_lt (by omega)]
      rfl
    · have hlen : 0 < xs.length := List.length_pos_iff.2 hx
      have hcount : (xs.length + step - 1) / step = ((xs.drop step).length + step - 1) / step + 1 := by
        rw [List.length_drop]
        by_cases hle : step ≤ xs.length
        · rw [show xs.length + step - 1 = xs.length - step + step - 1 + step by omega, Nat.add_div_right _ hpos]
        · rw [show xs.length - step + step - 1 = step - 1 by omega, Nat.div_eq_of_lt (show step - 1 < step by omega),
            show xs.length + step - 1 = (xs.length - 1) + step by omega, Nat.add_div_right _ hpos, Nat.div_eq_of_lt (by omega)]
      rw [if_neg (by rw [List.isEmpty_iff]; exact hx), hcount, List.range_succ_eq_map, List.foldl_cons, List.foldl_map]
      have hshift : (fun a g => accStep narrow fmt xs ws a (Nat.succ g)) = accStep narrow fmt (xs.drop step) (ws.drop step) := by
        funext a g
        rw [Nat.succ_eq_add_one, accStep_succ, hstep]
      have hfirst : accStep narrow fmt xs ws acc 0 = match groupSum (xs.take step) (ws.take step) with
          | some total => decodeNum fmt (roundRne fmt (Num.add 0 acc total))
          | none => acc := by
        rw [accStep, hstep, Nat.mul_zero, List.drop_zero, List.drop_zero]
      rw [hshift, hfirst]
      cases hg : groupSum (xs.take step) (ws.take step) with
      | none =>
        have hws : ws = [] := by
          cases ws with
          | nil => rfl
          | cons w ws =>
            cases xs with
            | nil => exact absurd rfl hx
            | cons x xs =>
              obtain ⟨p, rfl⟩ := Nat.exists_eq_succ_of_ne_zero (Nat.ne_of_gt hpos)
              rw [List.take_succ_cons, List.take_succ_cons, groupSum] at hg
              split at hg <;> cases hg
        rw [hws, List.drop_nil, foldl_accStep_nil]
      | some g =>
        refine ih _ _ _ ?_
        rw [List.length_drop]
        rw [Nat.mul_succ] at h
        omega

theorem accumulated_eq (narrow wide : Bool) (acc : Num) (x w : List Num) (h : x.length ≤ 128) :
    accumulate narrow (if wide then 0 else 1) 128 acc x w = Safety.accumulated narrow wide acc x w := by
  rw [accumulate_eq narrow _ 128 acc x w (by split <;> omega)]
  rfl

/-! ### STRM (R129, R132, R140) -/

/-- A read inside a read. -/
theorem Mem.read_drop_take {m : Mem} (h : m.wf = true) {a n o l : Nat} (hol : o + l ≤ n) : ((m.read a n).drop o).take l = m.read (a + o) l := by
  rw [Mem.read_eq h, Mem.read_eq h]
  apply List.ext_getElem
  · simp
    omega
  · intro i h1 h2
    simp [Nat.add_assoc]

theorem mulAdd_le {w j : Nat} (hj : j < 64) : w * j + w ≤ 64 * w := by
  have := Nat.mul_le_mul_left w (show j + 1 ≤ 64 by omega)
  rw [Nat.mul_succ] at this
  omega

theorem Core.accRow_length (c : Core) (m : MRef) (a : Nat) : (c.accRow m a).length = 64 := by simp [Core.accRow]

theorem Core.accRow_get {c : Core} (h : c.pool.wf = true) (m : MRef) (a i : Nat) {j : Nat} (hj : j < 64) :
    (c.accRow m (a + 64 * m.width * i))[j]? = some (Safety.accValue c m.acc64 a i j) := by
  have hread : ((c.poolRead (a + 64 * m.width * i) (64 * m.width)).drop (m.width * j)).take m.width =
      c.poolRead (a + 64 * m.width * i + m.width * j) m.width := Mem.read_drop_take h (mulAdd_le hj)
  rw [Core.accRow, List.getElem?_map, List.getElem?_range hj, Option.map_some]
  rw [hread]
  rfl

/-- A row of accumulators does not see a write of an earlier row. -/
theorem Core.accRow_putAccRow {c : Core} {k : Call} {m : MRef} {a a' : Nat} {vals : List Num} (h : c.pool.wf = true) (ha : (k.refTile m).start ≤ a)
    (hlen : vals.length = 64) (hle : a + 64 * m.width ≤ a') : (c.putAccRow k m a vals).accRow m a' = c.accRow m a' := by
  have hb : (m.rowBytes vals).length = 64 * m.width := by rw [MRef.rowBytes_length, hlen, Nat.mul_comm]
  have hpool : (c.putAccRow k m a vals).pool = (c.poolWrite a (m.rowBytes vals)).pool := Core.callWrite_pool ha _
  have hread : (c.putAccRow k m a vals).poolRead a' (64 * m.width) = c.poolRead a' (64 * m.width) := by
    rw [Core.poolRead, hpool, Core.poolWrite]
    split
    · rfl
    · exact Mem.read_write_other h _ _ _ _ (.inr (by omega))
  rw [Core.accRow, hread]
  rfl

theorem Core.putAccRow_poolWf {c : Core} {k : Call} {m : MRef} {a : Nat} (vals : List Num) (h : c.pool.wf = true) (ha : (k.refTile m).start ≤ a) :
    (c.putAccRow k m a vals).pool.wf = true := by
  rw [Core.putAccRow, Core.callWrite_pool ha]
  exact Core.poolWrite_poolWf h _ _ _

theorem columnsOf_get (w : List (List Num)) {j : Nat} (hj : j < 64) : (columnsOf w)[j]? = some (w.map fun x => x.getD j (.fin false 0 0)) := by
  rw [columnsOf, List.getElem?_map, List.getElem?_range hj, Option.map_some]

/-- The values of an accumulator row after a streamed row. -/
def Core.streamed (m : MRef) (narrow : Bool) (cols : List (List Num)) (c : Core) (a : Nat) (x : List Num) : List Num :=
  (List.zip (c.accRow m a) cols).map fun p => accumulate narrow m.accFmt 128 p.1 x p.2

theorem Core.streamed_length {m : MRef} {narrow : Bool} {w : List (List Num)} (c : Core) (a : Nat) (x : List Num) :
    (Core.streamed m narrow (columnsOf w) c a x).length = 64 := by
  simp [Core.streamed, Core.accRow_length, columnsOf]

theorem Core.streamed_get {c : Core} (h : c.pool.wf = true) (m : MRef) (narrow : Bool) (w : List (List Num)) (a i : Nat) {x : List Num} (hx : x.length ≤ 128)
    {j : Nat} (hj : j < 64) : (Core.streamed m narrow (columnsOf w) c (a + 64 * m.width * i) x)[j]? =
      some (Safety.accumulated narrow m.acc64 (Safety.accValue c m.acc64 a i j) x (w.map fun x => x.getD j (.fin false 0 0))) := by
  have hzip : (List.zip (c.accRow m (a + 64 * m.width * i)) (columnsOf w))[j]? =
      some (Safety.accValue c m.acc64 a i j, w.map fun x => x.getD j (.fin false 0 0)) :=
    List.getElem?_zip_eq_some.2 ⟨Core.accRow_get h m a i hj, columnsOf_get w hj⟩
  rw [Core.streamed, List.getElem?_map, hzip, Option.map_some]
  exact congrArg some (accumulated_eq narrow m.acc64 _ _ _ hx)

/-- The formats that STRM takes together (R128). -/
theorem strmFormats {wide : Bool} {f : Nat} {g : BitVec 5} (h : (wide = true ∧ f = 0 ∧ g = 0) ∨
      (wide = false ∧ ((f = 1 ∧ g = 1) ∨ (f = 2 ∧ g = 2) ∨ (f = 3 ∧ g = 3) ∨ (11 ≤ f ∧ 11 ≤ g.toNat)))) :
    ((mxGroup f).isNone || mxGroup f != mxGroup g.toNat || !(wide == (mxGroup f == some 0))) = false ∧
    (mxGroup f != some 0 && mxGroup f != some 1) = decide (2 ≤ f) := by
  rcases h with ⟨rfl, rfl, rfl⟩ | ⟨rfl, ⟨rfl, rfl⟩ | ⟨rfl, rfl⟩ | ⟨rfl, rfl⟩ | ⟨hf, hg⟩⟩
  · decide
  · decide
  · decide
  · decide
  · have hf' : mxGroup f = some 11 := if_pos hf
    have hg' : mxGroup g.toNat = some 11 := if_pos hg
    rw [hf', hg']
    exact ⟨rfl, (decide_eq_true (show 2 ≤ f by omega)).symm⟩

theorem strm_runs {s s1 s2 : State} {r : Run} {xa xc : BitVec 4} {n : BitVec 6} {m : MRef} {o : Operand} {b : Bool} {bank : WBank} {a : Nat}
    {sc : Scales} {rows : List (List Num)} (hrun : Safety.microRunning s r) (hm : m = mrefOf (r.x.get xc.toFin)) (hactive : s.core.mx.active = some b)
    (hbank : bank = s.core.mx.bank b) (hvalid : bank.valid = true) (ho : s.core.operand r.call (r.x.get xa.toFin) = some o)
    (hacc : s.core.accAt r.call m (n.toNat + 1) = some a)
    (hfmt : (m.acc64 = true ∧ o.desc.fmt = 0 ∧ bank.fmt = 0) ∨
      (m.acc64 = false ∧ ((o.desc.fmt = 1 ∧ bank.fmt = 1) ∨ (o.desc.fmt = 2 ∧ bank.fmt = 2) ∨ (o.desc.fmt = 3 ∧ bank.fmt = 3) ∨
        (11 ≤ o.desc.fmt ∧ 11 ≤ bank.fmt.toNat))))
    (hsc : s.scalesFor r.call false o o.ref.col0 = (s1, .ok sc))
    (hrows : s1.elemRows o sc (o.padRow r.call) bank.w.length o.ref.col0 (n.toNat + 1) o.ref.row0 = (s2, .ok rows)) :
    exec (.strm xa xc n) s = .next (Safety.withRun (s2.onCore fun c =>
      { c.streamRows r.call m (decide (2 ≤ o.desc.fmt)) (columnsOf bank.w) a rows with
        mx := (c.streamRows r.call m (decide (2 ≤ o.desc.fmt)) (columnsOf bank.w) a rows).mx.setBank b { bank with rows := true } })
      (Safety.microAt r (r.pc + 1))) := by
  obtain ⟨hlegal, hnarrow⟩ := strmFormats hfmt
  have hlegal' : ¬ (!bank.valid || (mxGroup o.desc.fmt).isNone || mxGroup o.desc.fmt != mxGroup bank.fmt.toNat ||
      !m.accIs (mxGroup o.desc.fmt == some 0)) = true := by
    rw [hvalid, Bool.not_true, Bool.false_or, MRef.accIs, hlegal]
    exact Bool.false_ne_true
  subst hm hbank
  show execStrm xa xc n s = _
  refine State.micro_on hrun ?_ rfl hrun.2.1
  simp only [Run.getX, hactive, ho, hacc, if_neg hlegal', hsc, hrows, hnarrow]

end Sys2Proof.Machine

namespace Sys2Proof
open Machine

/-- Settles O42: each streamed row's accumulators take its products in the order of R115, and no row sees what another has left. -/
theorem streamedRows : Obligations.StreamedRows := by
  unfold Obligations.StreamedRows
  intro s s1 s2 r xa xc n m o b bank a w sc rows hrun hm hw hactive hbank hvalid ho hacc hfmt hbl hwf hsc hrows
  have hw : w = m.width := hw
  subst hw
  obtain ⟨hlen, hall⟩ := State.elemRows_length hrows
  have hstart := Core.accAt_start hacc
  have hrows64 : ∀ r ∈ rows, r ≠ [] → ∀ c a, (Core.streamed m (decide (2 ≤ o.desc.fmt)) (columnsOf bank.w) c a r).length = 64 :=
    fun _ _ _ c a => Core.streamed_length c a _
  have hkept := Core.putRows_unpooled r.call m (Core.streamed m (decide (2 ≤ o.desc.fmt)) (columnsOf bank.w)) rows s2.core a
  have hstream := Core.streamRows_eq r.call m (decide (2 ≤ o.desc.fmt)) (columnsOf bank.w) rows s2.core a
  refine ⟨_, strm_runs hrun hm hactive hbank hvalid ho hacc hfmt hsc hrows, rfl, rfl, ?_, fun k hk => ?_, fun i j k hi hj hk => ?_⟩
  · show (s2.core.streamRows r.call m _ _ a rows).regs = _
    rw [hstream]
    exact (congrArg Core.regs hkept :)
  · show (s2.core.streamRows r.call m _ _ a rows).pool.byte k = _
    rw [hstream]
    exact Core.putRows_byte_other hstart hrows64 (by rw [hlen]; exact hk)
  · show (s2.core.streamRows r.call m _ _ a rows).pool.byte _ = _
    rw [hstream]
    have hlt : i < rows.length := by omega
    have hget : rows[i]? = some (rows.getD i []) := by rw [List.getD_eq_getElem?_getD, List.getElem?_eq_getElem hlt]; rfl
    have hle := mulAdd_le (w := m.width) hj
    split
    · next hnil =>
      rw [hnil] at hget
      exact Core.putRows_byte_skip hstart hrows64 hget (by omega) (by omega)
    · next hne =>
      have hx : (rows.getD i []).length ≤ 128 := by
        rw [(hall _ (List.mem_of_getElem? hget)).resolve_left hne]
        exact hbl
      exact Core.putRows_byte_at (Q := fun c => c.pool.wf = true) (fun c a vals hc ha => Core.putAccRow_poolWf vals hc ha)
        (fun c a a' vals q hc ha hv hle => by
          show Core.streamed m _ _ _ a' q = _
          rw [Core.streamed, Core.accRow_putAccRow hc ha hv hle])
        hstart hwf hrows64 hget hne (Core.streamed_get hwf m _ bank.w a i hx hj) hj hk

end Sys2Proof

namespace Sys2Proof.Machine

/-! ### The destination of a drain (R131, R132, R146) -/

/-- An untransposed destination tile outside the call's own fill, whose rows of `row` bytes hold their columns of `es` bytes and lie in the
tile. -/
structure DrainTile (r : Run) (o : Operand) (row es : Nat) : Prop where
  kind : o.ref.kind = 1
  plain : o.ref.t = false
  kept : r.call.flags.getLsbD 0 = false
  stride : o.desc.rstr = row
  size : o.esize = es
  cols : o.desc.cols * es ≤ row
  rows : o.desc.rows * row ≤ o.tile.bytes

/-- The pool offset of a destination element. -/
def Operand.place (o : Operand) (row es a b : Nat) : Nat := o.tile.start + (a * row + b * es)

section
variable {r : Run} {o : Operand} {row es : Nat}

theorem DrainTile.col_le (h : DrainTile r o row es) {b : Nat} (hb : b < o.desc.cols) : b * es + es ≤ row := by
  have := Nat.mul_le_mul_right es (show b + 1 ≤ o.desc.cols from hb)
  rw [Nat.succ_mul] at this
  exact this.trans h.cols

theorem DrainTile.place_in (h : DrainTile r o row es) {a b : Nat} (ha : a < o.desc.rows) (hb : b < o.desc.cols) :
    o.tile.start ≤ o.place row es a b ∧ o.place row es a b + es ≤ o.tile.start + o.tile.bytes := by
  have hcol := h.col_le hb
  have hrow := (Nat.mul_le_mul_right row (show a + 1 ≤ o.desc.rows from ha)).trans h.rows
  rw [Nat.succ_mul] at hrow
  unfold Operand.place
  omega

/-- An element before another one in the tile's order ends before it begins. -/
theorem DrainTile.place_before (h : DrainTile r o row es) {a b a' b' : Nat} (hb : b < o.desc.cols) (hlt : a < a' ∨ a = a' ∧ b < b') :
    o.place row es a b + es ≤ o.place row es a' b' := by
  have hcol := h.col_le hb
  unfold Operand.place
  rcases hlt with hlt | ⟨rfl, hlt⟩
  · have := Nat.mul_le_mul_right row (show a + 1 ≤ a' from hlt)
    rw [Nat.succ_mul] at this
    omega
  · have := Nat.mul_le_mul_right es (show b + 1 ≤ b' from hlt)
    rw [Nat.succ_mul] at this
    omega

end

/-! ### What a drain leaves alone -/

/-- A core but for its pool, and what a drain counts. -/
def Core.undrained (c : Core) : Core := { c with pool := [], poison := [], mx := { c.mx with hist := (Core.reset 0).mx.hist } }

/-- A core that comes from another by writes into a tile. -/
structure InTile (t : TileRef) (c d : Core) : Prop where
  wf : c.pool.wf = true → d.pool.wf = true
  poison : ∀ g ∈ d.poison, g ∈ c.poison
  outside : ∀ y, ¬ (t.start ≤ y ∧ y < t.start + t.bytes) → d.pool.byte y = c.pool.byte y
  rest : d.undrained = c.undrained

theorem InTile.refl (t : TileRef) (c : Core) : InTile t c c := ⟨id, fun _ => id, fun _ _ => rfl, rfl⟩

theorem InTile.trans {t : TileRef} {c d e : Core} (h : InTile t c d) (g : InTile t d e) : InTile t c e :=
  ⟨g.wf ∘ h.wf, fun x hx => h.poison x (g.poison x hx), fun y hy => (g.outside y hy).trans (h.outside y hy), g.rest.trans h.rest⟩

theorem Core.poolWrite_inTile {t : TileRef} {a : Nat} {bs : List Byte} (c : Core) (hlo : t.start ≤ a) (hhi : a + bs.length ≤ t.start + t.bytes) :
    InTile t c (c.poolWrite a bs) := by
  refine ⟨fun h => Core.poolWrite_poolWf h _ _ _, fun g hg => ?_, fun y hy => ?_, ?_⟩
  · unfold Core.poolWrite at hg
    split at hg
    · exact hg
    · exact (List.mem_filter.1 hg).1
  · rw [Core.poolWrite_byte, if_neg (by omega)]
  · unfold Core.poolWrite
    split <;> rfl

theorem Core.countHist_only (c : Core) (x : Num) (e0 : Int) : c.countHist x e0 = { c with mx := { c.mx with hist := (c.countHist x e0).mx.hist } } := by
  unfold Core.countHist
  dsimp only
  split <;> rfl

/-- A granule that is not poisoned stays so. -/
theorem poisonedIn_mono {p q : List Nat} {a n : Nat} (h : ∀ g ∈ q, g ∈ p) (hp : poisonedIn p a n = false) : poisonedIn q a n = false := by
  rw [poisonedIn, List.any_eq_false] at *
  exact fun g hg hq => hp g hg (List.contains_iff_mem.2 (h g (List.contains_iff_mem.1 hq)))

/-! ### The elements of a drain (R114, R146) -/

/-- The code that a drain writes for a value. -/
def Run.drainCode (r : Run) (o : Operand) (i j : Nat) (x : Num) : Nat :=
  drainValue x (f32Num r.scale.toNat) o.desc.fmt r.mode.toNat r.sat (drainWord r.seed i j)

/-- A core with a destination element written and counted. -/
def Core.drainPut (c : Core) (r : Run) (o : Operand) (row es i j : Nat) (x : Num) : Core :=
  if o.ref.row0 + i < o.desc.rows ∧ o.ref.col0 + j < o.desc.cols then
    let d := c.poolWrite (o.place row es (o.ref.row0 + i) (o.ref.col0 + j)) (toBytes es (r.drainCode o i j x))
    if bitsOf r.call.hist.toNat 8 8 = 1 ∧ bitsOf r.call.hist.toNat 7 0 = o.ref.desc then
      d.countHist (decodeNum o.desc.fmt (r.drainCode o i j x)) o.desc.e0 else d
  else c

section
variable {r : Run} {o : Operand} {row es : Nat}

theorem DrainTile.drainOne (h : DrainTile r o row es) (c : Core) (i j : Nat) (x : Num) :
    c.drainOne r o i j x = some (c.drainPut r o row es i j x) := by
  unfold Core.drainOne Core.drainPut
  dsimp only
  rw [h.plain, if_neg Bool.false_ne_true, if_neg Bool.false_ne_true]
  by_cases hin : o.ref.row0 + i < o.desc.rows ∧ o.ref.col0 + j < o.desc.cols
  · obtain ⟨hlo, hhi⟩ := h.place_in hin.1 hin.2
    rw [if_neg (by omega), if_pos hin]
    have hoff : ((o.ref.row0 + i : Nat) : Int) * o.desc.rstr + ((o.ref.col0 + j : Nat) : Int) * o.esize =
        (((o.ref.row0 + i) * row + (o.ref.col0 + j) * es : Nat) : Int) := by
      rw [h.stride, h.size]
      push_cast
      rfl
    have hdest (code : Nat) : c.putDest r.call o (o.ref.row0 + i) (o.ref.col0 + j) code =
        some (c.poolWrite (o.place row es (o.ref.row0 + i) (o.ref.col0 + j)) (toBytes es code)) := by
      have hfit : ¬ ((((o.ref.row0 + i) * row + (o.ref.col0 + j) * es : Nat) : Int) < 0 ∨
          (((o.ref.row0 + i) * row + (o.ref.col0 + j) * es : Nat) : Int) + es > o.tile.bytes) := by
        unfold Operand.place at hhi
        omega
      unfold Core.putDest Core.callWrite
      dsimp only
      rw [h.plain, if_neg Bool.false_ne_true, if_neg Bool.false_ne_true, if_pos h.kind, hoff, h.size, if_neg hfit, h.kept,
        if_neg fun h => Bool.false_ne_true h.1, Int.toNat_natCast]
      rfl
    rw [hdest]
    rfl
  · rw [if_pos (by omega), if_neg hin]

theorem DrainTile.drainPut_byte (c : Core) (i j : Nat) (x : Num) (y : Nat) :
    (c.drainPut r o row es i j x).pool.byte y =
      if o.ref.row0 + i < o.desc.rows ∧ o.ref.col0 + j < o.desc.cols ∧ o.place row es (o.ref.row0 + i) (o.ref.col0 + j) ≤ y ∧
        y < o.place row es (o.ref.row0 + i) (o.ref.col0 + j) + es
      then (toBytes es (r.drainCode o i j x)).getD (y - o.place row es (o.ref.row0 + i) (o.ref.col0 + j)) 0 else c.pool.byte y := by
  unfold Core.drainPut
  by_cases hin : o.ref.row0 + i < o.desc.rows ∧ o.ref.col0 + j < o.desc.cols
  · rw [if_pos hin]
    have hpool : ∀ d : Core, (if bitsOf r.call.hist.toNat 8 8 = 1 ∧ bitsOf r.call.hist.toNat 7 0 = o.ref.desc then
        d.countHist (decodeNum o.desc.fmt (r.drainCode o i j x)) o.desc.e0 else d).pool = d.pool := by
      intro d
      split
      · exact (congrArg Core.pool (d.countHist_only _ _) :)
      · rfl
    dsimp only
    rw [hpool, Core.poolWrite_byte, toBytes_length]
    simp only [hin, true_and]
  · rw [if_neg hin, if_neg fun h => hin ⟨h.1, h.2.1⟩]

theorem DrainTile.drainPut_inTile (h : DrainTile r o row es) (c : Core) (i j : Nat) (x : Num) : InTile o.tile c (c.drainPut r o row es i j x) := by
  unfold Core.drainPut
  split
  · next hin =>
    obtain ⟨hlo, hhi⟩ := h.place_in hin.1 hin.2
    have hw := c.poolWrite_inTile (t := o.tile) (bs := toBytes es (r.drainCode o i j x)) hlo (by rw [toBytes_length]; exact hhi)
    dsimp only
    split
    · refine hw.trans ?_
      rw [Core.countHist_only]
      exact ⟨id, fun _ => id, fun _ _ => rfl, rfl⟩
    · exact hw
  · exact .refl _ c

/-- A row of a drain, from a column on. -/
def Core.drainRow (c : Core) (r : Run) (o : Operand) (row es i : Nat) : Nat → List Num → Core
  | _, [] => c
  | j, x :: xs => Core.drainRow (c.drainPut r o row es i j x) r o row es i (j + 1) xs

theorem DrainTile.drainCols (h : DrainTile r o row es) (i : Nat) : ∀ (xs : List Num) (c : Core) (j : Nat),
    c.drainCols r o i j xs = some (c.drainRow r o row es i j xs)
  | [], _, _ => rfl
  | x :: xs, c, j => by
    simp only [Core.drainCols, h.drainOne, Core.drainRow, h.drainCols i xs]

theorem DrainTile.drainRow_inTile (h : DrainTile r o row es) (i : Nat) : ∀ (xs : List Num) (c : Core) (j : Nat),
    InTile o.tile c (c.drainRow r o row es i j xs)
  | [], c, _ => .refl _ c
  | x :: xs, c, j => (h.drainPut_inTile c i j x).trans (h.drainRow_inTile i xs _ _)

/-- A byte that no element of the row from a column on covers. -/
theorem DrainTile.drainRow_byte_other (i : Nat) : ∀ (xs : List Num) (c : Core) (j y : Nat),
    (∀ b, o.ref.col0 + j ≤ b → o.ref.row0 + i < o.desc.rows → b < o.desc.cols →
      ¬ (o.place row es (o.ref.row0 + i) b ≤ y ∧ y < o.place row es (o.ref.row0 + i) b + es)) →
    (c.drainRow r o row es i j xs).pool.byte y = c.pool.byte y
  | [], _, _, _, _ => rfl
  | x :: xs, c, j, y, hy => by
    rw [Core.drainRow, DrainTile.drainRow_byte_other i xs _ _ y fun b hb => hy b (by omega), DrainTile.drainPut_byte, if_neg]
    exact fun hin => hy _ (Nat.le_refl _) hin.1 hin.2.1 hin.2.2

/-- The bytes of an element. -/
theorem DrainTile.drainRow_byte_at (h : DrainTile r o row es) {i : Nat} (hrow : o.ref.row0 + i < o.desc.rows) :
    ∀ {xs : List Num} {c : Core} {j q k : Nat} {x : Num}, xs[q]? = some x → o.ref.col0 + (j + q) < o.desc.cols → k < es →
    (c.drainRow r o row es i j xs).pool.byte (o.place row es (o.ref.row0 + i) (o.ref.col0 + (j + q)) + k) =
      BitVec.ofNat 8 (r.drainCode o i (j + q) x / 256 ^ k) := by
  intro xs
  induction xs with
  | nil => intro c j q k x hx; cases hx
  | cons v xs ih =>
    intro c j q k x hx hcol hk
    rw [Core.drainRow]
    cases q with
    | zero =>
      obtain rfl : v = x := by simpa using hx
      simp only [Nat.add_zero] at hcol ⊢
      rw [DrainTile.drainRow_byte_other, DrainTile.drainPut_byte, if_pos ⟨hrow, hcol, by omega, by omega⟩, Nat.add_sub_cancel_left, toBytes_getD _ _ _ hk]
      intro b hb _ hbc
      have := h.place_before (a := o.ref.row0 + i) (a' := o.ref.row0 + i) (b' := b) hcol (.inr ⟨rfl, by omega⟩)
      omega
    | succ q =>
      have hadd : j + (q + 1) = j + 1 + q := by omega
      rw [hadd] at hcol ⊢
      exact ih (by simpa using hx) hcol hk

/-! ### The rows of a drain -/

/-- The rows of a drain, none of whose accumulators is poisoned. -/
def Core.drainAll (c : Core) (r : Run) (m : MRef) (o : Operand) (row es a : Nat) : Nat → Nat → Core
  | 0, _ => c
  | n + 1, i =>
    if o.padRow r.call (o.ref.row0 + i) then Core.drainAll c r m o row es a n (i + 1)
    else Core.drainAll (c.drainRow r o row es i 0 (c.accRow m (a + 64 * m.width * i))) r m o row es a n (i + 1)

theorem DrainTile.drainRows (h : DrainTile r o row es) (m : MRef) (a : Nat) : ∀ (n i : Nat) (c : Core),
    (∀ k, i ≤ k → k < i + n → poisonedIn c.poison (a + 64 * m.width * k) (64 * m.width) = false) →
    c.drainRows r m o a n i = some (c.drainAll r m o row es a n i)
  | 0, _, _, _ => rfl
  | n + 1, i, c, hp => by
    rw [Core.drainRows, Core.drainAll]
    split
    · exact h.drainRows m a n (i + 1) c fun k hlo hhi => hp k (by omega) (by omega)
    · simp only [hp i (Nat.le_refl i) (by omega), Bool.false_eq_true, if_false, h.drainCols]
      exact h.drainRows m a n (i + 1) _ fun k hlo hhi => poisonedIn_mono (h.drainRow_inTile i _ c 0).poison (hp k (by omega) (by omega))

theorem DrainTile.drainAll_inTile (h : DrainTile r o row es) (m : MRef) (a : Nat) : ∀ (n i : Nat) (c : Core),
    InTile o.tile c (c.drainAll r m o row es a n i)
  | 0, _, c => .refl _ c
  | n + 1, i, c => by
    rw [Core.drainAll]
    split
    · exact h.drainAll_inTile m a n (i + 1) c
    · exact (h.drainRow_inTile i _ c 0).trans (h.drainAll_inTile m a n (i + 1) _)

theorem DrainTile.drainAll_byte_other (m : MRef) (a : Nat) : ∀ (n i : Nat) (c : Core) (y : Nat),
    (∀ p b, o.ref.row0 + i ≤ p → p < o.desc.rows → b < o.desc.cols → ¬ (o.place row es p b ≤ y ∧ y < o.place row es p b + es)) →
    (c.drainAll r m o row es a n i).pool.byte y = c.pool.byte y
  | 0, _, _, _, _ => rfl
  | n + 1, i, c, y, hy => by
    rw [Core.drainAll]
    split
    · exact DrainTile.drainAll_byte_other m a n (i + 1) c y fun p b hp => hy p b (by omega)
    · rw [DrainTile.drainAll_byte_other m a n (i + 1) _ y fun p b hp => hy p b (by omega),
        DrainTile.drainRow_byte_other i _ _ 0 y fun b _ => hy _ b (Nat.le_refl _)]

/-- Accumulators outside the tile read as they did before the drain. -/
theorem InTile.accValue {t : TileRef} {c d : Core} (h : InTile t c d) (hwf : c.pool.wf = true) {m : MRef} {a i j n : Nat} (hi : i < n) (hj : j < 64)
    (hclear : a + 64 * m.width * n ≤ t.start ∨ t.start + t.bytes ≤ a) :
    Safety.accValue d m.acc64 a i j = Safety.accValue c m.acc64 a i j := by
  have hle := mulAdd_le (w := m.width) hj
  have hrow := Nat.mul_le_mul_left (64 * m.width) (show i + 1 ≤ n from hi)
  rw [Nat.mul_succ] at hrow
  have hread : d.poolRead (a + 64 * m.width * i + m.width * j) m.width = c.poolRead (a + 64 * m.width * i + m.width * j) m.width := by
    rw [Core.poolRead, Core.poolRead, Mem.read_eq (h.wf hwf), Mem.read_eq hwf]
    refine List.map_congr_left fun k hk => h.outside _ ?_
    have := List.mem_range.1 hk
    omega
  exact congrArg (fun bs => decodeNum (if m.acc64 then 0 else 1) (leVal bs)) hread

/-- The bytes of every element inside the tile's rows and columns. -/
theorem DrainTile.drainAll_byte_at (h : DrainTile r o row es) {m : MRef} {a N : Nat} (hclear : a + 64 * m.width * N ≤ o.tile.start ∨ o.tile.start + o.tile.bytes ≤ a) :
    ∀ {n i : Nat} {c : Core} {p j k : Nat}, c.pool.wf = true → i + n ≤ N → p < n → j < 64 → o.ref.row0 + (i + p) < o.desc.rows →
    o.ref.col0 + j < o.desc.cols → o.padRow r.call (o.ref.row0 + (i + p)) = false → k < es →
    (c.drainAll r m o row es a n i).pool.byte (o.place row es (o.ref.row0 + (i + p)) (o.ref.col0 + j) + k) =
      BitVec.ofNat 8 (r.drainCode o (i + p) j (Safety.accValue c m.acc64 a (i + p) j) / 256 ^ k) := by
  intro n
  induction n with
  | zero => intro i c p j k _ _ hp; omega
  | succ n ih =>
    intro i c p j k hwf hN hp hj hrow hcol hpad hk
    rw [Core.drainAll]
    cases p with
    | zero =>
      simp only [Nat.add_zero] at hrow hpad ⊢
      rw [if_neg (by rw [hpad]; exact Bool.false_ne_true), DrainTile.drainAll_byte_other]
      · have := h.drainRow_byte_at hrow (c := c) (j := 0) (Core.accRow_get hwf m a i hj) (by rw [Nat.zero_add]; exact hcol) hk
        rw [Nat.zero_add] at this
        exact this
      · intro q b hq _ hb
        have := h.place_before (a := o.ref.row0 + i) (a' := q) (b' := b) hcol (.inl (by omega))
        omega
    | succ p =>
      have hadd : i + (p + 1) = i + 1 + p := by omega
      rw [hadd] at hrow hpad ⊢
      split
      · exact ih hwf (by omega) (by omega) hj hrow hcol hpad hk
      · have hin := h.drainRow_inTile i (c.accRow m (a + 64 * m.width * i)) c 0
        rw [ih (hin.wf hwf) (by omega) (by omega) hj hrow hcol hpad hk, hin.accValue hwf (by omega) hj hclear]

end

/-- The random word of an element, in 64-bit words. -/
theorem drainWord_eq (seed : Word) (i j : Nat) :
    drainWord seed i j = ((seed + BitVec.ofNat 64 (i * 2 ^ 32 + j)) * 0x9E3779B97F4A7C15).toNat / 2 ^ 48 := by
  rw [drainWord, BitVec.toNat_mul, BitVec.toNat_add, BitVec.toNat_ofNat, Nat.add_mod_mod, ← Nat.add_assoc]
  show _ = (seed.toNat + i * 2 ^ 32 + j) % 2 ^ 64 * 0x9E3779B97F4A7C15 % 2 ^ 64 / 2 ^ 48
  rw [Nat.mod_mul_mod]

theorem drain_runs {s : State} {r : Run} {xc xd : BitVec 4} {n : BitVec 6} {m : MRef} {o : Operand} {a row es : Nat} (hrun : Safety.microRunning s r)
    (hm : m = mrefOf (r.x.get xc.toFin)) (ho : s.core.operand r.call (r.x.get xd.toFin) = some o) (hacc : s.core.accAt r.call m (n.toNat + 1) = some a)
    (hfmt : if m.acc64 then o.desc.fmt = 0 else o.desc.fmt = 1 ∨ o.desc.fmt = 2 ∨ o.desc.fmt = 3 ∨ 11 ≤ o.desc.fmt) (h : DrainTile r o row es)
    (hpoison : ∀ i, i ≤ n.toNat → poisonedIn s.core.poison (a + 64 * m.width * i) (64 * m.width) = false) :
    exec (.drain xc xd n) s = .next (Safety.withRun (s.onCore fun _ => s.core.drainAll r m o row es a (n.toNat + 1) 0) (Safety.microAt r (r.pc + 1))) := by
  have hlegal : ¬ (o.ref.kind = 0 ∨ (mxGroup o.desc.fmt).isNone = true ∨ (!m.accIs (o.desc.fmt == 0)) = true) := by
    rw [h.kind, MRef.accIs]
    cases hacc64 : m.acc64 with
    | true =>
      rw [hacc64, if_pos rfl] at hfmt
      rw [hfmt]
      decide
    | false =>
      rw [hacc64, if_neg Bool.false_ne_true] at hfmt
      rcases hfmt with hf | hf | hf | hf
      · rw [hf]; decide
      · rw [hf]; decide
      · rw [hf]; decide
      · have hg : mxGroup o.desc.fmt = some 11 := if_pos hf
        have h0 : (o.desc.fmt == 0) = false := beq_eq_false_iff_ne.2 (by omega)
        rw [hg, h0]
        decide
  subst hm
  show execDrain xc xd n s = _
  refine State.micro_on hrun ?_ rfl hrun.2.1
  have ho' : s.core.operand r.call (r.getX xd) = some o := ho
  have hacc' : s.core.accAt r.call (mrefOf (r.getX xc)) (n.toNat + 1) = some a := hacc
  have hlegal' : ¬ (o.ref.kind = 0 ∨ (mxGroup o.desc.fmt).isNone = true ∨ (!(mrefOf (r.getX xc)).accIs (o.desc.fmt == 0)) = true) := hlegal
  simp only [ho', hacc', if_neg hlegal', h.drainRows (mrefOf (r.getX xc)) a (n.toNat + 1) 0 s.core fun k _ hk => hpoison k (by omega)]
  rfl

end Sys2Proof.Machine

namespace Sys2Proof
open Machine

/-- Settles O43: the drain writes each element at its place in the tile, and the accumulators, clear of the tile, are read as they stood. -/
theorem drainedTile : Obligations.DrainedTile := by
  unfold Obligations.DrainedTile
  intro s r xc xd n m o a w es hrun hm hw ho hacc hes hfmt hkind ht hflag hwf hstr hcols hrows hclear hpoison
  have hw : w = m.width := hw
  subst hw
  obtain ⟨row, hrow⟩ := Int.eq_ofNat_of_zero_le hstr
  rw [hrow] at hcols hrows
  have h : DrainTile r o row es := ⟨hkind, ht, hflag, hrow, hes.symm, by exact_mod_cast hcols, by exact_mod_cast hrows⟩
  have hin := h.drainAll_inTile m a (n.toNat + 1) 0 s.core
  refine ⟨_, drain_runs hrun hm ho hacc hfmt h hpoison, rfl, rfl, (congrArg Core.regs hin.rest :), fun k hk => hin.outside k hk,
    fun i j hi hj hri hcj hpad k hk at' hat => ?_⟩
  have hplace : o.tile.start + at'.toNat + k = o.place row es (o.ref.row0 + (0 + i)) (o.ref.col0 + j) + k := by
    have hcast : at' = (((o.ref.row0 + i) * row + (o.ref.col0 + j) * es : Nat) : Int) := by
      rw [hat, hrow]
      push_cast
      rfl
    rw [hcast, Int.toNat_natCast, Nat.zero_add, Operand.place]
  rw [hplace]
  refine (h.drainAll_byte_at hclear hwf (by omega) (by omega) hj (by rw [Nat.zero_add]; exact hri) hcj (by rw [Nat.zero_add]; exact hpad) hk).trans ?_
  rw [Nat.zero_add, Run.drainCode, drainWord_eq]

end Sys2Proof
end

section
/-! PROOFS. The system instructions and the faults: ControlRegisters, InjectInvalidateLaunch, RecoveryRegions, SwitchedOffSlots,
ResultsAndLoadsLand and FaultEvents. -/

namespace Sys2Proof.Machine

/-! ### Control registers (R64, R65, R331, R333) -/

/-- The number of the control register that a slot names (R72). -/
theorem Core.ctlNumber_eq (c : Core) (x : CtlF) : c.ctlNumber x = (c.issue.ext.map fun e => e.toNat % 4 * 1024).getD 0 + x.ctl.toNat := by
  unfold Core.ctlNumber
  cases c.issue.ext with
  | none => exact (Nat.zero_add _).symm
  | some e => rfl

theorem vector_toList_getD {α : Type} {n : Nat} (v : Vector α n) (k : Fin n) (d : α) : v.toList.getD k d = v.get k := by
  simp [List.getD_eq_getElem?_getD, Vector.get]

theorem vector_map_getD {α β : Type} {n : Nat} (f : α → β) (v : Vector α n) (k : Fin n) (d : β) : (v.toList.map f).getD k d = f (v.get k) := by
  simp [List.getD_eq_getElem?_getD, Vector.get]

theorem Core.readCtl_dom (c : Core) (time : Nat) (k : Fin 4) : c.readCtl time (0x0C + k) = some (c.ctl.dom.get k) := by
  unfold Core.readCtl
  iterate 12 rw [if_neg (by omega)]
  rw [if_pos (by omega), Nat.add_sub_cancel_left, vector_toList_getD]

/-- The registers with a number of their own. -/
theorem Core.readCtl_named {c : Core} {n : Nat} {v : Word} (time : Nat) (h : (n, v) ∈ Safety.namedCtl c) : c.readCtl time n = some v := by
  simp only [Safety.namedCtl, List.mem_cons, Prod.mk.injEq, List.not_mem_nil, or_false] at h
  rcases h with ⟨rfl, rfl⟩ | ⟨rfl, rfl⟩ | ⟨rfl, rfl⟩ | ⟨rfl, rfl⟩ | ⟨rfl, rfl⟩ | ⟨rfl, rfl⟩ | ⟨rfl, rfl⟩ | ⟨rfl, rfl⟩ | ⟨rfl, rfl⟩ | ⟨rfl, rfl⟩ |
    ⟨rfl, rfl⟩ | ⟨rfl, rfl⟩ | ⟨rfl, rfl⟩ | ⟨rfl, rfl⟩ | ⟨rfl, rfl⟩ | ⟨rfl, rfl⟩ | ⟨rfl, rfl⟩ | ⟨rfl, rfl⟩ | ⟨rfl, rfl⟩ | ⟨rfl, rfl⟩ |
    ⟨rfl, rfl⟩ | ⟨rfl, rfl⟩ | ⟨rfl, rfl⟩
  case inr.inr.inr.inr.inr.inr.inr.inr.inr.inr.inr.inl => exact c.readCtl_dom time 0
  case inr.inr.inr.inr.inr.inr.inr.inr.inr.inr.inr.inr.inl => exact c.readCtl_dom time 1
  case inr.inr.inr.inr.inr.inr.inr.inr.inr.inr.inr.inr.inr.inl => exact c.readCtl_dom time 2
  case inr.inr.inr.inr.inr.inr.inr.inr.inr.inr.inr.inr.inr.inr.inl => exact c.readCtl_dom time 3
  all_goals rfl

/-- Past the registers with a number of their own come the parameters, the rings and the tile entries. -/
theorem Core.readCtl_high (c : Core) (time : Nat) {n : Nat} (h : 0x18 ≤ n) : c.readCtl time n =
    if 0x40 ≤ n ∧ n < 0x48 then some (c.regs.p.toList.getD (n - 0x40) 0)
    else if 0x50 ≤ n ∧ n < 0x60 then some (BitVec.ofNat 64 ((c.rings.toList.map ringWord).getD (n - 0x50) 0))
    else if 0x80 ≤ n ∧ n < 0xC0 then some (BitVec.ofNat 64 ((c.tiles.toList.map tileWord).getD (n - 0x80) 0))
    else none := by
  unfold Core.readCtl
  iterate 21 rw [if_neg (by omega)]

theorem Core.readCtl_param (c : Core) (time : Nat) (k : Fin 8) : c.readCtl time (0x40 + k) = some (c.regs.p.get k) := by
  rw [c.readCtl_high time (by omega), if_pos (by omega), Nat.add_sub_cancel_left, vector_toList_getD]

theorem Core.readCtl_ring (c : Core) (time : Nat) (k : Fin 16) :
    c.readCtl time (0x50 + k) = some (BitVec.ofNat 64 (ringWord (c.rings.get k))) := by
  rw [c.readCtl_high time (by omega), if_neg (by omega), if_pos (by omega), Nat.add_sub_cancel_left, vector_map_getD]

theorem Core.readCtl_tile (c : Core) (time : Nat) (k : Fin 64) :
    c.readCtl time (0x80 + k) = some (BitVec.ofNat 64 (tileWord (c.tiles.get k))) := by
  rw [c.readCtl_high time (by omega), if_neg (by omega), if_neg (by omega), if_pos (by omega), Nat.add_sub_cancel_left, vector_map_getD]

theorem Core.readCtl_unlisted (c : Core) (time : Nat) {n : Nat}
    (h : 0x18 ≤ n ∧ n < 0x40 ∨ 0x48 ≤ n ∧ n < 0x50 ∨ 0x60 ≤ n ∧ n < 0x80 ∨ 0xC0 ≤ n) : c.readCtl time n = none := by
  rw [c.readCtl_high time (by omega), if_neg (by omega), if_neg (by omega), if_neg (by omega)]

/-- Which numbers are listed does not depend on the time. -/
theorem Core.readCtl_listed (c : Core) {n : Nat} (h : n < 0x18 ∨ 0x40 ≤ n ∧ n < 0x48 ∨ 0x50 ≤ n ∧ n < 0x60 ∨ 0x80 ≤ n ∧ n < 0xC0) :
    (c.readCtl 0 n).isNone = false := by
  rcases h with h | h | h | h
  · interval_cases n <;> rfl
  all_goals
    rw [c.readCtl_high 0 (by omega)]
    simp only [h, and_self, if_true, ite_self, apply_ite Option.isNone, Option.isNone_some]

theorem crd_runs {x : CtlF} {s : State} {n : Nat} {v : Word} (hon : s.core.active x.g = true) (hp : s.core.pendingW x.r = false)
    (hn : n = (s.core.issue.ext.map fun e => e.toNat % 4 * 1024).getD 0 + x.ctl.toNat) (h0 : (s.core.readCtl 0 n).isNone = false)
    (hv : s.core.readCtl s.time n = some v) : exec (.crd x) s = .next (Safety.sent s (.s x.r v) 1 0) := by
  rw [← Core.ctlNumber_eq] at hn
  subst hn
  show execCrd x s = _
  refine congrArg Host.Outcome.next ?_
  refine (State.slot_of_runs hon (by rw [h0]; rfl) hp).trans (State.onCore_mark ?_)
  show s.core.mark.send (.s x.r ((s.core.readCtl s.time (s.core.ctlNumber x)).getD 0)) 1 0 = _
  rw [hv]
  rfl

/-- CWR of a register other than tdt whose value passes its checks. -/
theorem cwr_runs {x : CtlF} {s : State} {n : Nat} {v : Word} {d : Core} (hon : s.core.active x.g = true) (hp : s.core.pending x.r = false)
    (hn : n = (s.core.issue.ext.map fun e => e.toNat % 4 * 1024).getD 0 + x.ctl.toNat) (hv : v = s.core.src 0 x.r)
    (hlist : n < 0x18 ∨ 0x40 ≤ n ∧ n < 0x48 ∨ 0x50 ≤ n ∧ n < 0x60 ∨ 0x80 ≤ n ∧ n < 0xC0) (hbad : s.core.cwrBad n v = false) (h9 : n ≠ 9)
    (hd : s.core.mark.writeCtl n v = d.mark) : exec (.cwr x) s = .next (Safety.ranTo s d) := by
  rw [← Core.ctlNumber_eq] at hn
  subst hn hv
  show execCwr x s = _
  refine congrArg Host.Outcome.next ?_
  have h9' : (s.core.ctlNumber x == 0x09) = false := beq_eq_false_iff_ne.2 h9
  refine (State.slot_of_runs hon (by rw [s.core.readCtl_listed hlist, hbad, hp]; rfl) (by rw [hp, h9']; rfl)).trans ?_
  rw [if_neg h9]
  exact State.onCore_mark hd

/-- A forbidden value traps at issue. -/
theorem cwr_traps {x : CtlF} {s : State} {n : Nat} {v : Word} (hon : s.core.active x.g = true) (hp : s.core.pending x.r = false)
    (hn : n = (s.core.issue.ext.map fun e => e.toNat % 4 * 1024).getD 0 + x.ctl.toNat) (hv : v = s.core.src 0 x.r)
    (hlist : n < 0x18 ∨ 0x40 ≤ n ∧ n < 0x48 ∨ 0x50 ≤ n ∧ n < 0x60 ∨ 0x80 ≤ n ∧ n < 0xC0) (hbad : s.core.cwrBad n v = true)
    (hc : s.core.issue.checked = false) : exec (.cwr x) s = .next (s.trapAt cIllegalOperation s.core.issue.slot) := by
  rw [← Core.ctlNumber_eq] at hn
  subst hn hv
  show execCwr x s = _
  refine congrArg Host.Outcome.next ?_
  exact State.slot_of_bad hon hc (by rw [s.core.readCtl_listed hlist, hbad, hp]; rfl)

/-- An unlisted number traps at issue. -/
theorem ctl_unlisted {x : CtlF} {s : State} {n : Nat} (hon : s.core.active x.g = true)
    (hn : n = (s.core.issue.ext.map fun e => e.toNat % 4 * 1024).getD 0 + x.ctl.toNat)
    (h : 0x18 ≤ n ∧ n < 0x40 ∨ 0x48 ≤ n ∧ n < 0x50 ∨ 0x60 ≤ n ∧ n < 0x80 ∨ 0xC0 ≤ n) (hc : s.core.issue.checked = false) :
    exec (.crd x) s = .next (s.trapAt cIllegalOperation s.core.issue.slot) ∧ exec (.cwr x) s = .next (s.trapAt cIllegalOperation s.core.issue.slot) := by
  rw [← Core.ctlNumber_eq] at hn
  subst hn
  constructor
  · show execCrd x s = _
    exact congrArg Host.Outcome.next (State.slot_of_bad hon hc (by rw [s.core.readCtl_unlisted 0 h]; rfl))
  · show execCwr x s = _
    exact congrArg Host.Outcome.next (State.slot_of_bad hon hc (by rw [s.core.readCtl_unlisted 0 h]; rfl))

/-- The values that a register refuses. -/
theorem Core.cwrBad_eq_false {c : Core} {n : Nat} {v : Word} (ha : n = 0x0A → v.toNat % 8 ≤ 5)
    (hd : 0x0C ≤ n → n < 0x10 → c.domBad (n - 0x0C) v = false) (hr : 0x50 ≤ n → n < 0x60 → c.ringBad (n - 0x50) v.toNat = false) :
    c.cwrBad n v = false := by
  simp only [Core.cwrBad, Bool.or_eq_false_iff, Bool.and_eq_false_imp, decide_eq_true_eq, decide_eq_false_iff_not, beq_iff_eq, Bool.and_eq_true, and_imp]
  exact ⟨⟨fun h => by have := ha h; omega, hd⟩, hr⟩

theorem Core.cwrBad_plain {c : Core} {n : Nat} (v : Word) (h : n ≠ 0x0A ∧ (n < 0x0C ∨ 0x10 ≤ n) ∧ (n < 0x50 ∨ 0x60 ≤ n)) : c.cwrBad n v = false :=
  Core.cwrBad_eq_false (fun e => absurd e h.1) (fun h1 h2 => by omega) (fun h1 h2 => by omega)

theorem Core.cwrBad_round {c : Core} {v : Word} (h : 5 < v.toNat % 8) : c.cwrBad 0x0A v = true := by
  simp only [Core.cwrBad, decide_eq_true h]
  rfl

theorem Core.cwrBad_dom {c : Core} {v : Word} {k : Fin 4} (h : c.domBad k v = true) : c.cwrBad (0x0C + k) v = true := by
  simp only [Core.cwrBad, Nat.add_sub_cancel_left, h, decide_eq_true (show 0x0C ≤ 0x0C + k.val by omega),
    decide_eq_true (show 0x0C + k.val < 0x10 by omega), Bool.and_true, Bool.true_or, Bool.or_true]

theorem Core.cwrBad_ring {c : Core} {v : Word} {k : Fin 16} (h : c.ringBad k v.toNat = true) : c.cwrBad (0x50 + k) v = true := by
  simp only [Core.cwrBad, Nat.add_sub_cancel_left, h, decide_eq_true (show 0x50 ≤ 0x50 + k.val by omega),
    decide_eq_true (show 0x50 + k.val < 0x60 by omega), Bool.and_true, Bool.or_true]

/-- A register that is read-only keeps its value. -/
theorem Core.writeCtl_readOnly (c : Core) (v : Word) {n : Nat}
    (h : n ∈ [0x00, 0x02, 0x03, 0x04, 0x05, 0x06, 0x07, 0x0B, 0x11, 0x13, 0x14, 0x16, 0x17] ∨ 0x80 ≤ n ∧ n < 0xC0) : c.writeCtl n v = c := by
  have hn : n ≠ 0x01 ∧ n ≠ 0x08 ∧ n ≠ 0x09 ∧ n ≠ 0x0A ∧ ¬ (0x0C ≤ n ∧ n < 0x10) ∧ n ≠ 0x10 ∧ n ≠ 0x12 ∧ n ≠ 0x15 ∧ ¬ (0x40 ≤ n ∧ n < 0x48) ∧
      ¬ (0x50 ≤ n ∧ n < 0x60) := by
    simp only [List.mem_cons, List.not_mem_nil, or_false] at h
    omega
  obtain ⟨h1, h8, h9, ha, hc, h10, h12, h15, h40, h50⟩ := hn
  unfold Core.writeCtl
  rw [if_neg h1, if_neg h8, if_neg h9, if_neg ha, dif_neg hc, if_neg h10, if_neg h12, if_neg h15, dif_neg h40, dif_neg h50]

theorem Core.writeCtl_dom (c : Core) (v : Word) (k : Fin 4) : c.writeCtl (0x0C + k) v =
    { c with ctl := { c.ctl with dom := c.ctl.dom.set k (v &&& 0xFFFF0001FFFF) } } := by
  unfold Core.writeCtl
  iterate 4 rw [if_neg (by omega)]
  rw [dif_pos (by omega)]
  simp only [Nat.add_sub_cancel_left]
  rfl

theorem Core.writeCtl_param (c : Core) (v : Word) (k : Fin 8) : c.writeCtl (0x40 + k) v =
    { c with regs := { c.regs with p := c.regs.p.set k v } } := by
  unfold Core.writeCtl
  iterate 4 rw [if_neg (by omega)]
  rw [dif_neg (by omega), if_neg (by omega), if_neg (by omega), if_neg (by omega), dif_pos (by omega)]
  simp only [Nat.add_sub_cancel_left]

theorem Core.writeCtl_ring (c : Core) (v : Word) (k : Fin 16) : c.writeCtl (0x50 + k) v =
    { c with rings := c.rings.set k (ringOf v.toNat (c.rings.get k).kbar) } := by
  unfold Core.writeCtl
  iterate 4 rw [if_neg (by omega)]
  rw [dif_neg (by omega), if_neg (by omega), if_neg (by omega), if_neg (by omega), dif_neg (by omega), dif_pos (by omega)]
  simp only [Nat.add_sub_cancel_left]
  rfl

/-- A ring handle is the fields of the word. -/
theorem ringOf_word (v : Word) (kbar : BitVec 16) :
    ringOf v.toNat kbar = ⟨v.extractLsb' 0 6, v.extractLsb' 6 7, v.extractLsb' 16 16, v.extractLsb' 32 16, kbar⟩ := by
  unfold ringOf
  congr 1
  all_goals refine BitVec.eq_of_toNat_eq ?_
  all_goals simp only [bitsOf, BitVec.toNat_ofNat, BitVec.extractLsb'_toNat, Nat.shiftRight_eq_div_pow]
  all_goals omega

/-- The reload that CWR has just queued takes the table that was read. -/
theorem Core.lastReload_append {c : Core} {q : List MxItem} {w : Word} {a : List Nat} (tab : Vector (BitVec 512) 256)
    (h : c.mx.queue = q ++ [.reload w none [] a]) :
    c.lastReload tab = { c with mx := { c.mx with queue := q ++ [.reload w (some tab) [] a] } } := by
  simp only [Core.lastReload, h, List.reverse_append, List.reverse_cons, List.reverse_nil, List.nil_append, List.singleton_append, Core.lastReload.put,
    List.reverse_reverse]

theorem cwr_tdt {x : CtlF} {s : State} (hon : s.core.active x.g = true) (hp : s.core.pending x.r = false)
    (hn : 0x09 = (s.core.issue.ext.map fun e => e.toNat % 4 * 1024).getD 0 + x.ctl.toNat) (hq : s.core.mx.queue.length < 8) {v w : Word}
    (hv : v = s.core.src 0 x.r) (hw : w = v &&& 0x1FFFFFFFFFFF0FF) : exec (.cwr x) s = .next (
      if !(s.flow .ran).flushStreams.core.pushesBefore.isEmpty then (s.flow .ran).flushStreams.onCore fun c => c.writeCtl 9 v
      else match (s.flow .ran).flushStreams.readTable w with
      | (f, .ok t) => f.onCore fun c => (c.writeCtl 9 v).lastReload t
      | (f, .error _) => f.onCore fun c => c.writeCtl 9 v) := by
  rw [← Core.ctlNumber_eq] at hn
  show execCwr x s = _
  refine congrArg Host.Outcome.next ?_
  simp only [← hn, ← hv]
  have hlen : decide (s.core.mx.queue.length ≥ 8) = false := decide_eq_false (by omega)
  rw [State.slot_of_runs hon (by rw [s.core.readCtl_listed (Or.inl (by omega)), Core.cwrBad_plain v (by omega), hp]; rfl)
    (by rw [hp, hlen]; rfl)]
  subst hw
  rfl

end Sys2Proof.Machine

namespace Sys2Proof
open Machine

/-- Settles O36: the register that a number names is read in `readCtl`'s table and written in `writeCtl`'s, once the number is listed and the
value allowed. -/
theorem controlRegisters : Obligations.ControlRegisters := by
  unfold Obligations.ControlRegisters
  refine ⟨fun x s hon hp n hn => ⟨fun v hv => ?_, fun h => ?_, fun k h => ?_, fun k r h hr => ?_, fun k t h ht => ?_, fun h hc => ctl_unlisted hon hn h hc⟩,
    fun x s n v hon hp hn hv => ⟨fun h => ?_, fun h => ?_, fun h => ?_, fun h => ?_, fun h hr => ?_, fun h => ?_, fun h => ?_, fun k h hd => ?_,
      fun k h => ?_, fun k r h hr he => ?_, fun hc h => ?_, fun h hq e f tab w hw he => ⟨fun hb ht => ?_, fun hb => ?_⟩⟩⟩
  · exact crd_runs hon hp hn (by rw [Core.readCtl_named 0 hv]; rfl) (Core.readCtl_named _ hv)
  · subst h
    exact crd_runs hon hp hn rfl rfl
  · subst h
    exact crd_runs hon hp hn (by rw [Core.readCtl_param]; rfl) (Core.readCtl_param _ _ k)
  · subst h hr
    exact crd_runs hon hp hn (by rw [Core.readCtl_ring]; rfl) (Core.readCtl_ring _ _ k)
  · subst h ht
    exact crd_runs hon hp hn (by rw [Core.readCtl_tile]; rfl) (Core.readCtl_tile _ _ k)
  · have hcase := h
    simp only [List.mem_cons, List.not_mem_nil, or_false] at hcase
    exact cwr_runs hon hp hn hv (by omega) (Core.cwrBad_plain v (by omega)) (by omega) (Core.writeCtl_readOnly _ v h)
  · subst h
    exact cwr_runs hon hp hn hv (by omega) (Core.cwrBad_plain v (by omega)) (by omega) rfl
  · subst h
    exact cwr_runs hon hp hn hv (by omega) (Core.cwrBad_plain v (by omega)) (by omega) rfl
  · subst h
    refine cwr_runs hon hp hn hv (by omega) (Core.cwrBad_plain v (by omega)) (by omega) ?_
    show (if v.getLsbD 10 then _ else _) = _
    cases v.getLsbD 10 <;> rfl
  · subst h
    exact cwr_runs hon hp hn hv (by omega) (Core.cwrBad_eq_false (fun _ => hr) (fun h1 h2 => by omega) fun h1 h2 => by omega) (by omega) rfl
  · subst h
    exact cwr_runs hon hp hn hv (by omega) (Core.cwrBad_plain v (by omega)) (by omega) rfl
  · subst h
    exact cwr_runs hon hp hn hv (by omega) (Core.cwrBad_plain v (by omega)) (by omega) rfl
  · subst h
    exact cwr_runs hon hp hn hv (by omega) (Core.cwrBad_eq_false (fun h1 => by omega) (fun _ _ => by rw [Nat.add_sub_cancel_left]; exact hd) fun h1 h2 => by omega)
      (by omega) (Core.writeCtl_dom _ v k)
  · subst h
    exact cwr_runs hon hp hn hv (by omega) (Core.cwrBad_plain v (by omega)) (by omega) (Core.writeCtl_param _ v k)
  · subst h he
    refine cwr_runs hon hp hn hv (by omega) (Core.cwrBad_eq_false (fun h1 => by omega) (fun h1 h2 => by omega) fun _ _ => by
      rw [Nat.add_sub_cancel_left]; exact hr) (by omega) ?_
    rw [Core.writeCtl_ring, ringOf_word]
    rfl
  · rcases h with ⟨h, hr⟩ | ⟨k, h, hd⟩ | ⟨k, h, hr⟩
    · subst h
      exact cwr_traps hon hp hn hv (by omega) (Core.cwrBad_round hr) hc
    · subst h
      exact cwr_traps hon hp hn hv (by omega) (Core.cwrBad_dom hd) hc
    · subst h
      exact cwr_traps hon hp hn hv (by omega) (Core.cwrBad_ring hr) hc
  · subst h he
    rw [cwr_tdt hon hp hn hq hv hw, if_neg (by rw [hb]; exact Bool.false_ne_true), ht]
    subst hw
    exact congrArg (fun d => Host.Outcome.next { f with core := d })
      (Core.lastReload_append (c := f.core.writeCtl 9 v) (q := f.core.mx.queue) (a := f.core.pushesBefore) tab rfl)
  · subst h he
    rw [cwr_tdt hon hp hn hq hv hw, if_pos (by simpa using hb)]
    subst hw
    rfl

end Sys2Proof

namespace Sys2Proof.Machine

/-! ### EINJ, XINV and LAUNCH (R198, R241, R337) -/

theorem einj_runs {x : EinjF} {s : State} (hon : s.core.active x.g = true) (hp : s.core.pending x.a = false) :
    exec (.einj x) s = .next (Safety.ranTo s { s.core with
      inject := Vector.ofFn fun i : Fin 4 => if i.val = x.kind.toNat then some (s.core.src 0 x.a) else s.core.inject.get i }) := by
  show execEinj x s = _
  refine congrArg Host.Outcome.next ?_
  exact (State.slot_of_runs hon rfl hp).trans (State.onCore_mark rfl)

theorem xinvPage_window {x : GReg} {s : State} (hon : s.core.active x.g = true) (hp : s.core.pending x.a = false)
    (hw : inWindow (s.core.src 0 x.a).toNat = true) : exec (.xinvPage x) s = .next (Safety.ranTo s s.core) := by
  show execXinvPage x s = _
  refine congrArg Host.Outcome.next ?_
  exact (State.slot_of_runs hon rfl hp).trans (if_pos hw)

theorem xinvPage_runs {x : GReg} {s : State} (hon : s.core.active x.g = true) (hp : s.core.pending x.a = false)
    (hw : inWindow (s.core.src 0 x.a).toNat = false) : exec (.xinvPage x) s = .next ((s.flow .ran).flushStreams.dropXlat
      fun t => t.root == s.root && t.page == (s.core.src 0 x.a).toNat / t.size) := by
  show execXinvPage x s = _
  refine congrArg Host.Outcome.next ?_
  exact (State.slot_of_runs hon rfl hp).trans (if_neg (by rw [show (s.flow .ran).core.src 0 x.a = s.core.src 0 x.a from rfl, hw]; exact Bool.false_ne_true))

theorem xinvAll_runs {x : GReg} {s : State} (hon : s.core.active x.g = true) :
    exec (.xinvAll x) s = .next ((s.flow .ran).flushStreams.dropXlat fun t => t.root == s.root) := by
  show execXinvAll x s = _
  exact congrArg Host.Outcome.next (State.slot_of_runs hon rfl rfl)

theorem State.dropXlat_keeps (f : State) (gone : Xlat → Bool) : (f.dropXlat gone).mem = f.mem ∧ (f.dropXlat gone).core.regs = f.core.regs := ⟨rfl, rfl⟩

/-- What `dropXlat` names is cached nowhere on the core's deck (R198). -/
theorem State.dropXlat_gone (f : State) (gone : Xlat → Bool) {y : Xlat} (h : gone y = true) :
    y ∉ (f.dropXlat gone).core.tlb ∧ y ∉ (f.dropXlat gone).walkP ∧ (y ∉ (f.dropXlat gone).walkA ∨ onDeckB f.core.id = true) ∧
      (y ∉ (f.dropXlat gone).walkB ∨ onDeckB f.core.id = false) := by
  have hkeep : ∀ l : List Xlat, y ∉ l.filter fun x => !gone x := fun l hy => by
    have hn := (List.mem_filter.1 hy).2
    rw [h] at hn
    exact Bool.false_ne_true hn
  refine ⟨hkeep _, hkeep _, ?_, ?_⟩
  · cases hb : onDeckB f.core.id with
    | true => exact Or.inr rfl
    | false =>
      left
      show y ∉ (if onDeckB f.core.id then f.walkA else _)
      rw [hb]
      exact hkeep _
  · cases hb : onDeckB f.core.id with
    | false => exact Or.inr rfl
    | true =>
      left
      show y ∉ (if onDeckB f.core.id then _ else f.walkB)
      rw [hb]
      exact hkeep _

/-- LAUNCH once its record's address is translated. -/
theorem launch_eq {x : LaunchF} {s s1 : State} {va : Word} {ps : List Piece} (hon : s.core.active x.g = true) (hp : s.core.pending x.a = false)
    (hva : va = s.core.srcAddr x.a) (hd : s.core.depth = 0) (hal : va.toNat % 128 = 0) (hw : inWindow va.toNat = false)
    (hsrc : (s.queue x.queue.toNat).cfg.src = 3) (hkey : (s.queue x.queue.toNat).cfg.key = (s.task.map (·.key)).getD 0)
    (hps : (s.flow .ran).flushStreams.pieces .deck false 129 va.toNat 128 = (s1, .ok ps)) :
    exec (.launch x) s = .next (if (s1.uncontain s1.core.part.task).core.unperformed.isEmpty then
      (match (s1.uncontain s1.core.part.task).readOwn ps with
        | (u, .error e) => u.onCore fun c => c.memFault e ⟨c.issue.slot, c.src 0 x.a, 0, 0, va⟩
        | (u, .ok raw) => if u.poisonedOwn ps then u.onCore Core.uncorrectable else u.launchCard x.queue.toNat (va.toNat % 2 ^ 57) raw)
      else (s1.uncontain s1.core.part.task).onCore fun c => c.holdAccess c.unperformed (.launch x.queue.toNat (va.toNat % 2 ^ 57) ps)) := by
  subst hva
  show execLaunch x s = _
  refine congrArg Host.Outcome.next ?_
  refine (State.slot_of_runs hon ?_ hp).trans ?_
  · simp only [hd, hsrc, hkey, hal, hw, hp]
    simp only [Nat.lt_irrefl, decide_false, bne_self_eq_false, Bool.or_self]
    rfl
  · simp only [hps] <;> rfl

end Sys2Proof.Machine

namespace Sys2Proof
open Machine

/-- Settles O37: EINJ writes one injection, XINV filters the cached translations, and LAUNCH reads its record and hands it over. -/
theorem injectInvalidateLaunch : Obligations.InjectInvalidateLaunch := by
  unfold Obligations.InjectInvalidateLaunch
  refine ⟨fun x s hon hp => ⟨_, einj_runs hon hp, fun i => by simp⟩, fun x s f va hf hva hon hp => ⟨fun hw => ?_, fun hw => ?_⟩,
    fun x s f hf hon => ?_, fun x s s1 s2 va ps raw hon hp hva hd hal hw hsrc hkey hps u hu => ⟨fun hun hraw => ⟨fun hbad => ?_, fun hbad hnum hempty => ?_,
      fun hbad hnum => ?_⟩, fun hun => ?_⟩⟩
  · subst hva
    exact xinvPage_window hon hp hw
  · subst hva hf
    have hrun := xinvPage_runs hon hp hw
    generalize (s.flow .ran).flushStreams = f at hrun
    obtain ⟨hmem, hregs⟩ := f.dropXlat_keeps fun t => t.root == s.root && t.page == (s.core.src 0 x.a).toNat / t.size
    refine ⟨_, hrun, hmem, hregs, fun y hy => f.dropXlat_gone _ ?_⟩
    obtain ⟨hroot, hpage⟩ := hy
    rw [hroot, hpage, beq_self_eq_true, beq_self_eq_true]
    rfl
  · subst hf
    have hrun := xinvAll_runs hon
    generalize (s.flow .ran).flushStreams = f at hrun
    obtain ⟨hmem, hregs⟩ := f.dropXlat_keeps fun t => t.root == s.root
    exact ⟨_, hrun, hmem, hregs, fun y hroot => f.dropXlat_gone _ (by rw [hroot, beq_self_eq_true])⟩
  · subst hu
    rw [launch_eq hon hp hva hd hal hw hsrc hkey hps, if_pos (by rw [hun]; rfl), hraw]
    exact congrArg Host.Outcome.next (if_pos hbad)
  · subst hu
    rw [launch_eq hon hp hva hd hal hw hsrc hkey hps, if_pos (by rw [hun]; rfl), hraw]
    refine congrArg Host.Outcome.next ((if_neg (by rw [hbad]; exact Bool.false_ne_true)).trans (if_pos ?_))
    rw [hnum, hempty]
    rfl
  · subst hu
    rw [launch_eq hon hp hva hd hal hw hsrc hkey hps, if_pos (by rw [hun]; rfl), hraw]
    refine congrArg Host.Outcome.next ((if_neg (by rw [hbad]; exact Bool.false_ne_true)).trans (if_neg ?_))
    rw [hnum, Bool.false_and]
    exact Bool.false_ne_true
  · subst hu
    rw [launch_eq hon hp hva hd hal hw hsrc hkey hps, if_neg (by simpa using hun)]
    rfl

end Sys2Proof

namespace Sys2Proof.Machine

/-! ### Recovery regions (R267, R268, R388) -/

theorem Core.setDepth_eq (c : Core) {d : Nat} (h : d < 8) : c.setDepth d = { c with ctl := { c.ctl with rgn := Safety.rgnDepth c.ctl.rgn d } } := by
  unfold Core.setDepth Safety.rgnDepth
  rw [Nat.mod_eq_of_lt h]

/-- Elements that stand outside every region take no room of its buffer. -/
theorem Core.buffered_outside {c : Core} (hb : c.regions.buf = []) (h : ∀ e ∈ c.pushes, e.depth = 0) : c.buffered = 0 := by
  have hf : c.pushes.filter (fun e => decide (e.depth > 0)) = [] := List.filter_eq_nil_iff.2 fun e he => by
    rw [h e he]
    decide
  rw [Core.buffered, hb, hf]
  rfl

/-- The core of a ROPEN that opens its region. -/
def Core.opened (c : Core) (t l : Nat) : Core :=
  let c := if c.depth = 0 then { c with regions := ⟨[], l % 2 ^ 32, l % 2 ^ 32 + l / 2 ^ 32, l % 2 ^ 32, [], []⟩ } else c
  let c := { c with regions := { c.regions with stack := ⟨t, c.regions.logPos, c.buffered⟩ :: c.regions.stack } }
  c.setDepth c.depth

theorem Core.opened_outer {c : Core} {t l : Nat} (h : c.depth = 0) (hp : ∀ e ∈ c.pushes, e.depth = 0) : c.opened t l = { c with
    regions := ⟨[⟨t, l % 2 ^ 32, 0⟩], l % 2 ^ 32, l % 2 ^ 32 + l / 2 ^ 32, l % 2 ^ 32, [], []⟩
    ctl := { c.ctl with rgn := Safety.rgnDepth c.ctl.rgn 1 } } := by
  have hb : ({ c with regions := ⟨[], l % 2 ^ 32, l % 2 ^ 32 + l / 2 ^ 32, l % 2 ^ 32, [], []⟩ } : Core).buffered = 0 := Core.buffered_outside rfl hp
  unfold Core.opened
  simp only [if_pos h, hb]
  exact Core.setDepth_eq _ (Nat.succ_le_succ (Nat.succ_le_succ (Nat.zero_le 6)))

theorem Core.opened_inner {c : Core} {t l : Nat} (h : 0 < c.depth) (h4 : c.depth < 4) : c.opened t l = { c with
    regions := { c.regions with stack := ⟨t, c.regions.logPos, c.buffered⟩ :: c.regions.stack }
    ctl := { c.ctl with rgn := Safety.rgnDepth c.ctl.rgn (c.depth + 1) } } := by
  unfold Core.opened
  simp only [if_neg (Nat.pos_iff_ne_zero.1 h)]
  exact Core.setDepth_eq _ (show c.depth + 1 < 8 by omega)

/-- A ROPEN that passes its checks. -/
theorem ropen_runs {x : GReg2} {s : State} {l t : Nat} (hon : s.core.active x.g = true) (ha : s.core.pending x.a = false)
    (hb : s.core.pending x.b = false) (hh : s.core.handler.active = false) (hl : l = (s.core.src 0 x.a).toNat) (ht : t = (s.core.src 1 x.b).toNat)
    (hlt : t ≤ 0x7FF0) (h16 : t % 16 = 0) (h4 : s.core.depth < 4) (hlog : (if s.core.depth = 0 then s.core.logBad l else l != 0) = false)
    (hroll : s.core.bound.rollback = none) : exec (.ropen x) s = .next ((s.flow .ran).flushStreams.onCore (·.opened t l)) := by
  subst hl ht
  show execRopen x s = _
  refine congrArg Host.Outcome.next ?_
  have h4' : (s.core.depth == 4) = false := beq_eq_false_iff_ne.2 (by omega)
  refine (State.slot_of_runs hon (by rw [hh, h4', ha, hb, hlog, targetBad_ok hlt h16]; rfl) (by rw [ha, hb]; rfl)).trans ?_
  refine (if_neg ?_).trans rfl
  rw [show (s.flow .ran).core.bound.rollback = none from hroll]
  exact Bool.false_ne_true

theorem rkeep_runs {x : RkeepF} {s : State} {mask : Word} (hon : s.core.active x.g = true) (hh : s.core.handler.active = false)
    (hd : 0 < s.core.depth) (hmask : mask = s.core.src 0 x.a) (hp : s.core.pending x.a = false)
    (hn : ∀ r : BitVec 6, mask.getLsbD r.toNat = true → s.core.pending r = false) (hbank : ∀ k, k < 4 → x.vb.getLsbD k = true → s.core.bankLent k = false) :
    exec (.rkeep x) s = .next (Safety.ranTo s (s.core.logAll (s.core.keepRecords mask x.vb)).1) := by
  subst hmask
  have hd' : (s.core.depth == 0) = false := beq_eq_false_iff_ne.2 (by omega)
  have hlent : ((List.range 4).any fun k => x.vb.getLsbD k && s.core.bankLent k) = false := List.any_eq_false.2 fun k hk => by
    cases hv : x.vb.getLsbD k with
    | false => exact Bool.false_ne_true
    | true =>
      rw [hbank k (List.mem_range.1 hk) hv]
      exact Bool.false_ne_true
  have hnamed : ((List.range 64).any fun i => i != 0 && (s.core.src 0 x.a).getLsbD i && s.core.pending (BitVec.ofNat 6 i)) = false :=
    List.any_eq_false.2 fun i hi => by
      have hi := List.mem_range.1 hi
      cases hm : (s.core.src 0 x.a).getLsbD i with
      | false =>
        rw [Bool.and_false, Bool.false_and]
        exact Bool.false_ne_true
      | true =>
        rw [hn (BitVec.ofNat 6 i) (by rw [BitVec.toNat_ofNat, Nat.mod_eq_of_lt hi]; exact hm), Bool.and_false]
        exact Bool.false_ne_true
  show execRkeep x s = _
  refine congrArg Host.Outcome.next ?_
  refine (State.slot_of_runs hon (by rw [hh, hd', hlent]; rfl) (by rw [hp, hnamed]; rfl)).trans (State.onCore_mark ?_)
  exact congrArg Prod.fst (Core.mark_logAll (s.core.keepRecords (s.core.src 0 x.a) x.vb) s.core)

/-- What RCLOSE closes: a deeper region loses its marks, the outermost one performs its stores. -/
def State.closed (s : State) : State :=
  if s.core.depth > 1 then s.onCore fun c => { c with regions := { c.regions with stack := c.regions.stack.drop 1 } }
  else (s.onCore fun c => { c with regions := { c.regions with stack := [], buf := [], logPos := c.regions.logBase } }).commitStores
    (inProgramOrder s.core.regions.buf)

/-- What the closed region leaves belongs to the enclosing one. -/
theorem Core.rejoined {c : Core} {d : Nat} (hd : c.depth = d) (h : d < 8) :
    ((c.setDepth c.depth).joinRegion).regions = { c.regions with
      buf := c.regions.buf.map fun b => { b with depth := min b.depth d }
      filled := if d = 0 then [] else c.regions.filled.map fun p => (min p.1 d, p.2) } ∧
    ((c.setDepth c.depth).joinRegion).ctl = { c.ctl with rgn := Safety.rgnDepth c.ctl.rgn d } ∧
    ∀ k ∈ ((c.setDepth c.depth).joinRegion).copy.cmds, k.depth ≤ d := by
  subst hd
  rw [Core.setDepth_eq c h]
  refine ⟨rfl, rfl, fun k hk => ?_⟩
  obtain ⟨k', -, rfl⟩ := List.mem_map.1 hk
  exact Nat.min_le_right _ _

theorem rclose_runs {x : Guard} {s : State} (hon : s.core.active x = true) (hh : s.core.handler.active = false) (hd : 0 < s.core.depth)
    (hroll : s.core.bound.rollback = none) : exec (.rclose x) s = .next ((s.flow .ran).flushStreams.closed.onCore fun c => (c.setDepth c.depth).joinRegion) := by
  have hd' : (s.core.depth == 0) = false := beq_eq_false_iff_ne.2 (by omega)
  show execRclose x s = _
  refine congrArg Host.Outcome.next ?_
  refine (State.slot_of_runs hon (by rw [hh, hd']; rfl) rfl).trans ?_
  refine (if_neg ?_).trans rfl
  rw [show (s.flow .ran).core.bound.rollback = none from hroll]
  exact Bool.false_ne_true

theorem State.closed_inner {f : State} (h : 1 < f.core.depth) :
    f.closed = f.onCore fun c => { c with regions := { c.regions with stack := c.regions.stack.drop 1 } } := if_pos h

theorem State.closed_outer {f : State} (h : f.core.depth = 1) : f.closed =
    (f.onCore fun c => { c with regions := { c.regions with stack := [], buf := [], logPos := c.regions.logBase } }).commitStores
      (inProgramOrder f.core.regions.buf) := if_neg (by omega)

/-- Without a buffered store nothing is performed. -/
theorem State.commitStores_nil (s : State) : (s.commitStores []).mem = s.mem ∧ (s.commitStores []).core.regions = s.core.regions ∧
    (s.commitStores []).core.ctl = s.core.ctl := by
  unfold State.commitStores
  split <;> exact ⟨rfl, rfl, rfl⟩

/-- One buffered store of device memory is performed whole. -/
theorem State.commitStores_one {s : State} {b : BufStore} (hb : b.bytes ≠ []) (hdev : isDevice b.pa = true) (hdir : Safety.performsDirect s)
    (hleft : s.core.fenceLeft = []) : (s.commitStores [b]).mem = s.mem.write b.pa b.bytes ∧ (s.commitStores [b]).core.regions = s.core.regions := by
  let p : Piece := ⟨0, b.pa, b.bytes.length, ⟨0, 0, 1, 0, true, false, false⟩⟩
  let u : State := s.onCore fun c => c.supersede b.num b.va b.bytes.length
  have hu : u.core.regions = s.core.regions ∧ u.core.part = s.core.part := by
    show (s.core.supersede _ _ _).regions = _ ∧ (s.core.supersede _ _ _).part = _
    rw [Core.supersede_only]
    exact ⟨rfl, rfl⟩
  have hw : u.writePieces false [p] b.bytes = (u.store b.pa b.bytes false, none) := by
    rw [State.writePieces_one (p := p) hdev (performsDirect_congr (s := s) (t := u) hdir rfl hu.2)]
    exact congrArg (fun l => (u.store b.pa l false, none)) List.take_length
  obtain ⟨sy, hsy⟩ := State.performStore_written (num := b.num) hw
  have hcommit : s.commitStores [b] = { u.store b.pa b.bytes false with core := { (u.store b.pa b.bytes false).core with sync := sy } } := by
    rw [State.commitStores, hleft]
    exact hsy
  obtain ⟨sy', hkept⟩ := State.store_coreKept u b.pa b.bytes false
  rw [hcommit, ← hu.1]
  refine ⟨State.store_mem hb _ _, ?_⟩
  show (u.store b.pa b.bytes false).core.regions = _
  rw [hkept]

/-- The state that an RCLOSE leaves. -/
def State.rclosed (f : State) : State := f.closed.onCore fun c => (c.setDepth c.depth).joinRegion

theorem State.rclosed_inner {f : State} {n : Nat} (hf : f.core.depth = n) (h1 : 1 < n) (h4 : n ≤ 4) : f.rclosed.core.regions = { f.core.regions with
        stack := f.core.regions.stack.drop 1
        buf := f.core.regions.buf.map fun b => { b with depth := min b.depth (n - 1) }
        filled := f.core.regions.filled.map fun p => (min p.1 (n - 1), p.2) } ∧
    f.rclosed.core.ctl = { f.core.ctl with rgn := Safety.rgnDepth f.core.ctl.rgn (n - 1) } ∧ f.rclosed.mem = f.mem ∧
    f.rclosed.core.pool = f.core.pool ∧ ∀ k ∈ f.rclosed.core.copy.cmds, k.depth < n := by
  have hlen : (f.core.regions.stack.drop 1).length = n - 1 := by
    rw [List.length_drop]
    exact congrArg (· - 1) hf
  obtain ⟨hreg, hctl, hcmd⟩ := Core.rejoined (c := { f.core with regions := { f.core.regions with stack := f.core.regions.stack.drop 1 } }) hlen (by omega)
  rw [if_neg (by omega)] at hreg
  rw [State.rclosed, State.closed_inner (by omega)]
  exact ⟨hreg, hctl, rfl, rfl, fun k hk => Nat.lt_of_le_of_lt (hcmd k hk) (by omega)⟩

theorem State.rclosed_none {f : State} (hf : f.core.depth = 1) (hbuf : f.core.regions.buf = []) :
    f.rclosed.core.regions = { f.core.regions with stack := [], buf := [], logPos := f.core.regions.logBase, filled := [] } ∧
    f.rclosed.core.ctl = { f.core.ctl with rgn := Safety.rgnDepth f.core.ctl.rgn 0 } ∧ f.rclosed.mem = f.mem ∧
    ∀ k ∈ f.rclosed.core.copy.cmds, k.depth = 0 := by
  rw [State.rclosed, State.closed_outer hf, hbuf, show inProgramOrder [] = [] from rfl]
  generalize hu : f.onCore (fun c => { c with regions := { c.regions with stack := [], buf := [], logPos := c.regions.logBase } }) = u
  have hur : u.core.regions = { f.core.regions with stack := [], buf := [], logPos := f.core.regions.logBase } := by rw [← hu]; rfl
  have huc : u.core.ctl = f.core.ctl := by rw [← hu]; rfl
  obtain ⟨hmem, hreg, hctl⟩ := u.commitStores_nil
  have hd : (u.commitStores []).core.depth = 0 := by
    rw [Core.depth, hreg, hur]
    rfl
  obtain ⟨hreg', hctl', hcmd⟩ := Core.rejoined hd (by decide)
  rw [hreg, hur] at hreg'
  rw [hctl, huc] at hctl'
  exact ⟨hreg'.trans rfl, hctl'.trans rfl, hmem.trans (by rw [← hu]; rfl), fun k hk => Nat.le_zero.1 (hcmd k hk)⟩

theorem State.rclosed_one {f : State} {b : BufStore} (hf : f.core.depth = 1) (hbuf : f.core.regions.buf = [b]) (hbytes : b.bytes ≠ [])
    (hdev : isDevice b.pa = true) (hdir : Safety.performsDirect f) (hleft : f.core.fenceLeft = []) :
    f.rclosed.core.regions.buf = [] ∧ f.rclosed.mem = f.mem.write b.pa b.bytes := by
  rw [State.rclosed, State.closed_outer hf, hbuf, show inProgramOrder [b] = [b] from rfl]
  generalize hu : f.onCore (fun c => { c with regions := { c.regions with stack := [], buf := [], logPos := c.regions.logBase } }) = u
  have hur : u.core.regions = { f.core.regions with stack := [], buf := [], logPos := f.core.regions.logBase } := by rw [← hu]; rfl
  obtain ⟨hmem, hreg⟩ := State.commitStores_one (s := u) hbytes hdev (performsDirect_congr hdir (by rw [← hu]; rfl) (by rw [← hu]; rfl))
    (by rw [← hu]; exact hleft)
  have hd : (u.commitStores [b]).core.depth = 0 := by
    rw [Core.depth, hreg, hur]
    rfl
  obtain ⟨hreg', -, -⟩ := Core.rejoined hd (by decide)
  rw [hreg, hur] at hreg'
  exact ⟨(congrArg Regions.buf hreg').trans rfl, hmem.trans (by rw [← hu]; rfl)⟩

end Sys2Proof.Machine

namespace Sys2Proof
open Machine

/-- Settles O35: a region opens with its marks, logs its records, and closes with its stores performed and what is left clamped to the enclosing depth. -/
theorem recoveryRegions : Obligations.RecoveryRegions := by
  unfold Obligations.RecoveryRegions
  refine ⟨fun x s f l t hf hon ha hb hh hl ht hlt h16 hdepth hroll => ⟨fun h0 hlog hpush => ?_, fun h1 h4 hl0 => ?_⟩,
    fun x s mask hon hh hd hmask hp hn hbank => rkeep_runs hon hh hd hmask hp hn hbank,
    fun x s f hf hon hh hdepth h4 hroll => ⟨fun h1 => ?_, fun h1 hbuf => ?_, fun h1 b hbuf hbytes hdev hdir hleft => ?_⟩⟩
  · subst hf
    rw [ropen_runs hon ha hb hh hl ht hlt h16 (by omega) (by rw [if_pos h0]; exact hlog) hroll]
    exact congrArg (fun d => Host.Outcome.next { (s.flow .ran).flushStreams with core := d }) (Core.opened_outer (by rw [hdepth, h0]) hpush)
  · subst hf
    rw [ropen_runs hon ha hb hh hl ht hlt h16 h4 (by rw [if_neg (by omega), hl0]; rfl) hroll]
    rw [← hdepth]
    exact congrArg (fun d => Host.Outcome.next { (s.flow .ran).flushStreams with core := d }) (Core.opened_inner (c := (s.flow .ran).flushStreams.core) (by rw [hdepth]; exact h1) (by rw [hdepth]; exact h4))
  · subst hf
    exact ⟨_, rclose_runs hon hh (by omega) hroll, State.rclosed_inner hdepth h1 h4⟩
  · subst hf
    exact ⟨_, rclose_runs hon hh (by omega) hroll, State.rclosed_none (hdepth.trans h1) hbuf⟩
  · subst hf
    exact ⟨_, rclose_runs hon hh (by omega) hroll, State.rclosed_one (hdepth.trans h1) hbuf hbytes hdev hdir hleft⟩

end Sys2Proof

namespace Sys2Proof.Machine

/-! ### Switched-off slots (R59, R61, R396) -/

/-- A slot that its guard switches off is not replayed, and is suppressed or finds its predicate false. -/
theorem Core.active_off {c : Core} {g : Guard} (hr : c.issue.replay = none) (h : c.issue.suppressed = true ∨ c.getQ g.q = g.neg) : c.active g = false := by
  rw [Core.active, hr]
  rcases h with h | h
  · rw [h]
    rfl
  · rw [h, bne_self_eq_false, Bool.and_false]
    rfl

theorem exec_mcall_off {x : MCallF} {s : State} (h : s.core.active x.g = false) : exec (.mcall x) s = .next (s.flow .ran) := by
  show execMcall x s = _
  simp only [execMcall, h]
  rfl

theorem exec_scld_off {x : ScldF} {s : State} (h : s.core.active x.g = false) : exec (.scld x) s = .next (s.flow .ran) := by
  show execScld x s = _
  simp only [execScld, h]
  rfl

theorem exec_cbwait_off {x : CbWaitF} {s : State} (h : s.core.active x.g = false) : exec (.cbwait x) s = .next (s.flow .ran) := by
  show execCbwait x s = _
  simp only [execCbwait, h]
  rfl

theorem exec_mwait_off {x : GReg} {s : State} (h : s.core.active x.g = false) : exec (.mwait x) s = .next (s.flow .ran) := by
  show execMwait x s = _
  simp only [execMwait, State.sampling, h]
  rfl

theorem exec_dbar_off {x : DbarF} {s : State} (h : s.core.active x.g = false) : exec (.dbar x) s = .next (s.flow .ran) := by
  show execDbar x s = _
  simp only [execDbar, State.sampling, h]
  rfl

/-- A guarded instruction whose guard is off: the slot runs and nothing happens. -/
theorem exec_guarded_off {i : Instr} {g : Guard} {s : State} (h : Safety.guardOf i = some g) (hoff : s.core.active g = false) :
    exec i s = .next (s.flow .ran) := by
  have hslot (hi : ∃ bad stall e, exec i s = .next (s.slot (s.core.active g) bad stall e)) : exec i s = .next (s.flow .ran) := by
    obtain ⟨bad, stall, e, hi⟩ := hi
    rw [hi, hoff, State.slot_off]
  cases i <;> cases h
  case mcall x => exact exec_mcall_off hoff
  case scld x => exact exec_scld_off hoff
  case cbwait x => exact exec_cbwait_off hoff
  case mwait x => exact exec_mwait_off hoff
  case dbar x => exact exec_dbar_off hoff
  all_goals exact hslot ⟨_, _, _, rfl⟩

/-- A V operation or SEL is one slot that LOOPF alone switches off. -/
theorem exec_unguarded {i : Instr} (s : State) (h : Safety.unguarded i = true) :
    ∃ bad stall e, exec i s = .next (s.slot (!s.core.issue.suppressed) bad stall e) := by
  cases i <;> cases h <;> exact ⟨_, _, _, rfl⟩

end Sys2Proof.Machine

namespace Sys2Proof
open Machine

/-- Settles O38: a switched-off slot is marked as run. -/
theorem switchedOffSlots : Obligations.SwitchedOffSlots := by
  unfold Obligations.SwitchedOffSlots
  refine ⟨fun i g s hi hr hoff => exec_guarded_off hi (Core.active_off hr hoff), fun i s hi hsup => ?_⟩
  obtain ⟨bad, stall, e, h⟩ := exec_unguarded s hi
  rw [h, hsup]
  rfl

end Sys2Proof

namespace Sys2Proof.Machine

/-! ### Registers of one kind keep when another kind is written (R43, R46) -/

@[simp] theorem Core.getQ_setS (c : Core) (d : BitVec 6) (x : Word) (r : BitVec 4) : (c.setS d x).getQ r = c.getQ r := by unfold Core.setS; split <;> rfl
@[simp] theorem Core.getM_setS (c : Core) (d : BitVec 6) (x : Word) (r : BitVec 3) : (c.setS d x).getM r = c.getM r := by unfold Core.setS; split <;> rfl
@[simp] theorem Core.getV_setS (c : Core) (d : BitVec 6) (x : Word) (r : BitVec 5) : (c.setS d x).getV r = c.getV r := by unfold Core.setS; split <;> rfl
@[simp] theorem Core.getS_setQ (c : Core) (d : BitVec 4) (x : Bool) (r : BitVec 6) : (c.setQ d x).getS r = c.getS r := by unfold Core.setQ; split <;> rfl
@[simp] theorem Core.getM_setQ (c : Core) (d : BitVec 4) (x : Bool) (r : BitVec 3) : (c.setQ d x).getM r = c.getM r := by unfold Core.setQ; split <;> rfl
@[simp] theorem Core.getV_setQ (c : Core) (d : BitVec 4) (x : Bool) (r : BitVec 5) : (c.setQ d x).getV r = c.getV r := by unfold Core.setQ; split <;> rfl
@[simp] theorem Core.getS_setM (c : Core) (d : BitVec 3) (x : Mask) (r : BitVec 6) : (c.setM d x).getS r = c.getS r := by unfold Core.setM; split <;> rfl
@[simp] theorem Core.getQ_setM (c : Core) (d : BitVec 3) (x : Mask) (r : BitVec 4) : (c.setM d x).getQ r = c.getQ r := by unfold Core.setM; split <;> rfl
@[simp] theorem Core.getV_setM (c : Core) (d : BitVec 3) (x : Mask) (r : BitVec 5) : (c.setM d x).getV r = c.getV r := by unfold Core.setM; split <;> rfl
@[simp] theorem Core.getS_setV (c : Core) (d : BitVec 5) (x : VReg) (r : BitVec 6) : (c.setV d x).getS r = c.getS r := rfl
@[simp] theorem Core.getQ_setV (c : Core) (d : BitVec 5) (x : VReg) (r : BitVec 4) : (c.setV d x).getQ r = c.getQ r := rfl
@[simp] theorem Core.getM_setV (c : Core) (d : BitVec 5) (x : VReg) (r : BitVec 3) : (c.setV d x).getM r = c.getM r := rfl

/-- Rows change vector registers alone. -/
theorem Core.setRows_only : ∀ (xs : List VReg) (c : Core) (d : Nat), ∃ v, c.setRows d xs = { c with regs := { c.regs with v := v } }
  | [], c, _ => ⟨c.regs.v, rfl⟩
  | _ :: xs, c, d => by
    obtain ⟨v, h⟩ := Core.setRows_only xs (c.setV (BitVec.ofNat 5 d) _) (d + 1)
    exact ⟨v, h⟩

/-- Rows land in consecutive vector registers (R358). -/
theorem Core.getV_setRows (r : BitVec 5) : ∀ (xs : List VReg) (c : Core) (d : Nat), d + xs.length ≤ 32 →
    (c.setRows d xs).getV r = if d ≤ r.toNat then xs.getD (r.toNat - d) (c.getV r) else c.getV r
  | [], c, d, _ => by simp [Core.setRows]
  | x :: xs, c, d, h => by
    rw [List.length_cons] at h
    have hr := r.isLt
    rw [Core.setRows, Core.getV_setRows r xs _ (d + 1) (by omega), Core.getV_setV]
    have hd : (BitVec.ofNat 5 d).toNat = d := by rw [BitVec.toNat_ofNat]; exact Nat.mod_eq_of_lt (by omega)
    rcases Nat.lt_trichotomy d r.toNat with hlt | heq | hgt
    · have hne : r ≠ BitVec.ofNat 5 d := fun e => by rw [e, hd] at hlt; omega
      obtain ⟨k, hk⟩ : ∃ k, r.toNat - d = k + 1 := ⟨r.toNat - d - 1, by omega⟩
      rw [if_neg hne, if_pos (show d + 1 ≤ r.toNat by omega), if_pos (Nat.le_of_lt hlt), hk, List.getD_cons_succ,
        show r.toNat - (d + 1) = k by omega]
    · have he : r = BitVec.ofNat 5 d := BitVec.eq_of_toNat_eq (by rw [hd, heq])
      rw [if_neg (by omega), if_pos he, if_pos (by omega), heq, Nat.sub_self, List.getD_cons_zero]
    · have hne : r ≠ BitVec.ofNat 5 d := fun e => by rw [e, hd] at hgt; omega
      rw [if_neg (by omega), if_neg hne, if_neg (by omega)]

/-! ### One result lands (R44) -/

theorem Core.dropSlow_none {c : Core} (h : ∀ f ∈ c.flight, f.slow = false) (d : BitVec 6) (i k : Nat) : c.dropSlow d i k = c := by
  have hany : c.flight.any (·.slow) = false := List.any_eq_false.2 fun f hf => by rw [h f hf]; exact Bool.false_ne_true
  rw [Core.dropSlow, hany]
  rfl

/-- A result without a twin, none being left in flight. -/
theorem Core.landOne_plain {c : Core} {f : Flight} (hf : f.twin = .none) (hc : c.flight = []) : c.landOne f = match f.res with
    | .s d x => c.setS d x
    | .q d x => c.setQ d x
    | .v d x keep => c.setV d ((x &&& keep) ||| (c.getV d &&& ~~~keep))
    | .vv d x y => (c.setV d x).setV (d + 1) y
    | .m d x keep => c.setM d ((x &&& keep) ||| (c.getM d &&& ~~~keep))
    | .scale side t => { c with mx := if side then { c.mx with scaleR := some t } else { c.mx with scaleL := some t } }
    | .rows d xs poison => if poison then (c.setRows d.toNat xs).uncorrectable else c.setRows d.toNat xs := by
  unfold Core.landOne
  cases f.res with
  | s d x =>
    have hslow : ∀ g ∈ (c.setS d x).flight, g.slow = false := fun g hg => by
      rw [Core.setS_flight, hc] at hg
      cases hg
    simp only [hf, Core.landTwin, Core.dropSlow_none hslow]
  | _ => simp only [hf, Core.landTwin]

theorem Core.uncorrectable_regs (c : Core) : c.uncorrectable.regs = c.regs := by
  show (c.caught _ _).regs = _
  rw [Core.caught_eq]

theorem Core.uncorrectable_flight (c : Core) : c.uncorrectable.flight = c.flight := by
  show (c.caught _ _).flight = _
  rw [Core.caught_eq]

theorem Core.uncorrectable_mx (c : Core) : c.uncorrectable.mx = c.mx := by
  show (c.caught _ _).mx = _
  rw [Core.caught_eq]

theorem Core.landOne_rows_regs {c : Core} (d : BitVec 5) (xs : List VReg) (poison : Bool) :
    (if poison then (c.setRows d.toNat xs).uncorrectable else c.setRows d.toNat xs).regs = (c.setRows d.toNat xs).regs ∧
    (if poison then (c.setRows d.toNat xs).uncorrectable else c.setRows d.toNat xs).mx = c.mx ∧
    (if poison then (c.setRows d.toNat xs).uncorrectable else c.setRows d.toNat xs).flight = c.flight := by
  obtain ⟨v, hv⟩ := Core.setRows_only xs c d.toNat
  rw [hv]
  cases poison
  · exact ⟨rfl, rfl, rfl⟩
  · exact ⟨Core.uncorrectable_regs _, Core.uncorrectable_mx _, Core.uncorrectable_flight _⟩

theorem Core.landOne_flight {c : Core} {f : Flight} (hf : f.twin = .none) (hc : c.flight = []) : (c.landOne f).flight = [] := by
  rw [Core.landOne_plain hf hc]
  cases f.res with
  | rows d xs poison => exact (Core.landOne_rows_regs d xs poison).2.2.trans hc
  | s d x => exact (Core.setS_flight c d x).trans hc
  | q d x => exact (Core.setQ_flight c d x).trans hc
  | m d x keep => exact (Core.setM_flight c d _).trans hc
  | _ => exact hc

theorem Core.landOne_getS {c : Core} {f : Flight} (hf : f.twin = .none) (hc : c.flight = []) (r : BitVec 6) :
    (c.landOne f).getS r = match f.res with | .s d x => (if r = d ∧ r ≠ 0 then x else c.getS r) | _ => c.getS r := by
  rw [Core.landOne_plain hf hc]
  cases f.res with
  | s d x =>
    refine (Core.getS_setS c r d x).trans ?_
    by_cases h : r = d
    · subst h; rfl
    · simp only [h, false_and]
  | q d x => exact Core.getS_setQ c d x r
  | m d x keep => exact Core.getS_setM c d _ r
  | rows d xs poison =>
    obtain ⟨v, hv⟩ := Core.setRows_only xs c d.toNat
    show Core.getS (if poison then _ else _) r = _
    unfold Core.getS
    rw [(Core.landOne_rows_regs d xs poison).1, hv]
  | _ => rfl

theorem Core.landOne_getQ {c : Core} {f : Flight} (hf : f.twin = .none) (hc : c.flight = []) (r : BitVec 4) :
    (c.landOne f).getQ r = match f.res with | .q d x => (if r = d ∧ r ≠ 0 then x else c.getQ r) | _ => c.getQ r := by
  rw [Core.landOne_plain hf hc]
  cases f.res with
  | q d x =>
    refine (Core.getQ_setQ c r d x).trans ?_
    by_cases h : r = d
    · subst h; rfl
    · simp only [h, false_and]
  | s d x => exact Core.getQ_setS c d x r
  | m d x keep => exact Core.getQ_setM c d _ r
  | rows d xs poison =>
    obtain ⟨v, hv⟩ := Core.setRows_only xs c d.toNat
    show Core.getQ (if poison then _ else _) r = _
    unfold Core.getQ
    rw [(Core.landOne_rows_regs d xs poison).1, hv]
  | _ => rfl

theorem Core.landOne_getM {c : Core} {f : Flight} (hf : f.twin = .none) (hc : c.flight = []) (r : BitVec 3) :
    (c.landOne f).getM r = match f.res with
      | .m d x keep => (if r = d ∧ r ≠ 0 then (x &&& keep) ||| (c.getM r &&& ~~~keep) else c.getM r)
      | _ => c.getM r := by
  rw [Core.landOne_plain hf hc]
  cases f.res with
  | m d x keep =>
    refine (Core.getM_setM c r d _).trans ?_
    by_cases h : r = d
    · subst h; rfl
    · simp only [h, false_and, if_false]
  | s d x => exact Core.getM_setS c d x r
  | q d x => exact Core.getM_setQ c d x r
  | rows d xs poison =>
    obtain ⟨v, hv⟩ := Core.setRows_only xs c d.toNat
    show Core.getM (if poison then _ else _) r = _
    unfold Core.getM
    rw [(Core.landOne_rows_regs d xs poison).1, hv]
  | _ => rfl

theorem Core.landOne_getV {c : Core} {f : Flight} (hf : f.twin = .none) (hc : c.flight = [])
    (hrows : ∀ d xs p, f.res = .rows d xs p → d.toNat + xs.length ≤ 32) (r : BitVec 5) : (c.landOne f).getV r = match f.res with
      | .v d x keep => (if r = d then (x &&& keep) ||| (c.getV r &&& ~~~keep) else c.getV r)
      | .vv d x y => (if r = d + 1 then y else if r = d then x else c.getV r)
      | .rows d xs _ => (if d.toNat ≤ r.toNat then xs.getD (r.toNat - d.toNat) (c.getV r) else c.getV r)
      | _ => c.getV r := by
  rw [Core.landOne_plain hf hc]
  cases hres : f.res with
  | v d x keep =>
    refine (Core.getV_setV c r d _).trans ?_
    by_cases h : r = d
    · subst h; rfl
    · simp only [h, if_false]
  | vv d x y => exact (Core.getV_setV _ r _ y).trans (by rw [Core.getV_setV])
  | s d x => exact Core.getV_setS c d x r
  | q d x => exact Core.getV_setQ c d x r
  | m d x keep => exact Core.getV_setM c d _ r
  | rows d xs poison =>
    refine Eq.trans ?_ (Core.getV_setRows r xs c d.toNat (hrows d xs poison hres))
    show Core.getV (if poison then _ else _) r = _
    unfold Core.getV
    rw [(Core.landOne_rows_regs d xs poison).1]
  | _ => rfl

theorem Core.landOne_mx {c : Core} {f : Flight} (hf : f.twin = .none) (hc : c.flight = []) : (c.landOne f).mx = match f.res with
    | .scale side x => (if side then { c.mx with scaleR := some x } else { c.mx with scaleL := some x })
    | _ => c.mx := by
  rw [Core.landOne_plain hf hc]
  cases f.res with
  | s d x => exact Core.setS_mx c d x
  | q d x => exact Core.setQ_mx c d x
  | m d x keep => exact Core.setM_mx c d _
  | rows d xs poison => exact (Core.landOne_rows_regs d xs poison).2.1
  | _ => rfl

/-! ### RESULT_LAND and LOAD_RETURN (R44, R365) -/

theorem resultLand_runs {s : State} {f : Flight} (hr : s.core.fetch.replay = none) (hf : f ∈ s.core.flight) (hl : f.land ≤ s.core.fetch.cycle) :
    exec .resultLand s = .next (s.onCore Core.landDue) := by
  show execResultLand s = _
  have hany : (s.core.flight.any fun f => decide (f.land ≤ s.core.fetch.cycle)) = true := List.any_eq_true.2 ⟨f, hf, decide_eq_true hl⟩
  rw [execResultLand, hr, hany]
  rfl

theorem resultLand_refused {s : State} (h : ∀ f ∈ s.core.flight, s.core.fetch.cycle < f.land) : exec .resultLand s = .refused (.notEnabled "RESULT_LAND") := by
  show execResultLand s = _
  have hany : (s.core.flight.any fun f => decide (f.land ≤ s.core.fetch.cycle)) = false := List.any_eq_false.2 fun f hf => by
    have := h f hf
    rw [decide_eq_true_eq]
    omega
  rw [execResultLand, hany, Bool.and_false]
  rfl

/-- When every result is due they land in the order of their issue. -/
theorem Core.landDue_all {c : Core} (h : ∀ f ∈ c.flight, f.land ≤ c.fetch.cycle) :
    c.landDue = (sortFlight c.flight).foldl Core.landOne { c with flight := [] } := by
  have hdue : c.flight.filter (fun f => decide (f.land ≤ c.fetch.cycle)) = c.flight := List.filter_eq_self.2 fun f hf => decide_eq_true (h f hf)
  have hrest : c.flight.filter (fun f => !decide (f.land ≤ c.fetch.cycle)) = [] := List.filter_eq_nil_iff.2 fun f hf => by
    rw [decide_eq_true (h f hf)]
    exact Bool.false_ne_true
  rw [Core.landDue, Core.landThose, hdue, hrest]

theorem sortFlight_pair {l : List Flight} {f g : Flight} (hl : l = [f, g] ∨ l = [g, f]) (h : f.issued < g.issued ∨ (f.issued = g.issued ∧ f.slot < g.slot)) :
    sortFlight l = [f, g] := by
  rcases hl with rfl | rfl
  · show insertFlight g [f] = _
    rw [insertFlight, if_neg (by omega)]
    rfl
  · show insertFlight f [g] = _
    rw [insertFlight, if_pos h]

theorem Core.landDue_one {c : Core} {f : Flight} (hf : c.flight = [f]) (h : f.land ≤ c.fetch.cycle) :
    c.landDue = ({ c with flight := [] } : Core).landOne f := by
  rw [Core.landDue_all (by rw [hf]; exact List.forall_mem_singleton.2 h), hf]
  rfl

theorem Core.landDue_settled_eq {c d : Core} (h : d.settled = c.settled) : d.ctl = c.ctl ∧ d.pool = c.pool :=
  ⟨(congrArg Core.ctl h :), (congrArg Core.pool h :)⟩

theorem loadReturn_runs {s : State} {k : Nat} {l : Load} (hk : s.core.loads[k]? = some l) (hf : l.fault = none) (hl : l.late = false) :
    exec (.loadReturn k) s = .next (s.onCore fun c => { c with loads := dropAt k c.loads }.returnLoad l) := by
  show execLoadReturn k s = _
  rw [execLoadReturn, hk]
  simp only [hf, hl]
  rfl

/-- The core that a load returns to, but for poison. -/
def Core.loaded (c : Core) (l : Load) : Core :=
  let c := (c.setS l.dest l.value).dropSlow l.dest c.fetch.cycle 0
  if !l.atomic && (c.inject.get 2).isSome then { c with inject := c.inject.set 2 none } else c

theorem Core.returnLoad_eq (c : Core) (l : Load) : c.returnLoad l = Safety.consumed (c.loaded l) (l.poison || (!l.atomic && (c.inject.get 2).isSome)) := by
  have hinj : ((c.setS l.dest l.value).dropSlow l.dest c.fetch.cycle 0).inject = c.inject := by
    unfold Core.dropSlow
    split <;> exact Core.setS_inject _ _ _
  unfold Core.returnLoad Core.loaded Safety.consumed
  dsimp only
  rw [hinj]

/-- What consuming a value leaves for the boundary depends on the depth and on what waits there already. -/
theorem Core.consumed_bound_congr {c d : Core} (hb : d.bound = c.bound) (hr : d.depth = c.depth) (bad : Bool) :
    (Safety.consumed d bad).bound = (Safety.consumed c bad).bound := by
  cases bad
  · exact hb
  · show (d.caught 1 cUncorrectable).bound = (c.caught 1 cUncorrectable).bound
    rw [Core.caught_eq, Core.caught_eq, hb, hr]

theorem Core.dropSlow_only (c : Core) (d : BitVec 6) (i k : Nat) : c.dropSlow d i k = { c with flight := (c.dropSlow d i k).flight } := by
  unfold Core.dropSlow
  split <;> rfl

theorem Core.loaded_only (c : Core) (l : Load) : ∃ fl inj, c.loaded l = { c.setS l.dest l.value with flight := fl, inject := inj } ∧
    ((∀ f ∈ c.flight, f.slow = false) → fl = c.flight) := by
  have hslow : (∀ f ∈ c.flight, f.slow = false) → ((c.setS l.dest l.value).dropSlow l.dest c.fetch.cycle 0).flight = c.flight := fun h => by
    rw [Core.dropSlow_none (by rw [Core.setS_flight]; exact h), Core.setS_flight]
  refine ⟨((c.setS l.dest l.value).dropSlow l.dest c.fetch.cycle 0).flight, (c.loaded l).inject, ?_, hslow⟩
  unfold Core.loaded
  dsimp only
  rw [Core.dropSlow_only]
  split <;> rfl

/-- The core that a load returns to: its register, the results in flight, the injections and the boundary's state. -/
theorem Core.returnLoad_only (c : Core) (l : Load) : ∃ fl inj, c.returnLoad l = { c.setS l.dest l.value with
      flight := fl, inject := inj, bound := (Safety.consumed c (l.poison || (!l.atomic && (c.inject.get 2).isSome))).bound } ∧
    ((∀ f ∈ c.flight, f.slow = false) → fl = c.flight) := by
  obtain ⟨fl, inj, hload, hslow⟩ := c.loaded_only l
  refine ⟨fl, inj, ?_, hslow⟩
  rw [Core.returnLoad_eq, hload]
  generalize (l.poison || (!l.atomic && (c.inject.get 2).isSome)) = bad
  have hb : (c.setS l.dest l.value).bound = c.bound := Core.setS_bound _ _ _
  have hd : (c.setS l.dest l.value).depth = c.depth := congrArg (fun r => r.stack.length) (Core.setS_regions c l.dest l.value)
  refine (Core.consumed_only _ bad).trans ?_
  exact congrArg (fun b => { c.setS l.dest l.value with flight := fl, inject := inj, bound := b })
    (Core.consumed_bound_congr (d := { c.setS l.dest l.value with flight := fl, inject := inj }) hb hd bad)

end Sys2Proof.Machine

namespace Sys2Proof
open Machine

/-- Settles O44: results land in the order of their issue, and a load returns its value. -/
theorem resultsAndLoadsLand : Obligations.ResultsAndLoadsLand := by
  unfold Obligations.ResultsAndLoadsLand
  refine ⟨fun s f hr hfl hl htw hrows => ?_, fun s f g d x y hr hfl hlf hlg htf htg hf hg hd hord => ?_, fun s h => resultLand_refused h,
    fun s k l bad hk hf hl hbad => ?_⟩
  · refine ⟨_, resultLand_runs hr (hfl ▸ List.mem_singleton_self f) hl, ?_⟩
    obtain ⟨hctl, hpool⟩ := Core.landDue_settled_eq s.core.landDue_settled
    have hone := Core.landDue_one hfl hl
    refine ⟨(congrArg Core.flight hone).trans (Core.landOne_flight htw rfl), rfl, rfl, hctl, hpool, fun r => ?_, fun r => ?_, fun r => ?_, fun r => ?_, ?_⟩
    · exact (congrArg (Core.getS · r) hone).trans (Core.landOne_getS htw rfl r)
    · exact (congrArg (Core.getQ · r) hone).trans (Core.landOne_getQ htw rfl r)
    · exact (congrArg (Core.getM · r) hone).trans (Core.landOne_getM htw rfl r)
    · exact (congrArg (Core.getV · r) hone).trans (Core.landOne_getV htw rfl hrows r)
    · exact (congrArg Core.mx hone).trans (Core.landOne_mx htw rfl)
  · have hmem : f ∈ s.core.flight ∧ ∀ q ∈ s.core.flight, q.land ≤ s.core.fetch.cycle := by
      rcases hfl with h | h <;> rw [h] <;> simp [hlf, hlg]
    have hdue := Core.landDue_all hmem.2
    rw [sortFlight_pair hfl hord] at hdue
    have hfirst := Core.landOne_flight (c := { s.core with flight := [] }) htf rfl
    refine ⟨_, resultLand_runs hr hmem.1 hlf, (congrArg Core.flight hdue).trans (Core.landOne_flight htg hfirst),
      (congrArg (Core.getS · d) hdue).trans ((Core.landOne_getS htg hfirst d).trans ?_)⟩
    rw [hg]
    exact if_pos ⟨rfl, hd⟩
  · refine ⟨_, loadReturn_runs hk hf hl, ?_⟩
    obtain ⟨fl, inj, hret, hslow⟩ := Core.returnLoad_only { s.core with loads := dropAt k s.core.loads } l
    have hdrop : dropAt k s.core.loads = s.core.loads.eraseIdx k := by
      rw [List.eraseIdx_eq_take_drop_succ]
      rfl
    refine ⟨(congrArg Core.loads hret).trans ((Core.setS_loads _ _ _).trans hdrop), rfl, fun r => ?_, ?_, fun h => ?_, ?_⟩
    · refine (congrArg (Core.getS · r) hret).trans ((Core.getS_setS _ r l.dest l.value).trans ?_)
      by_cases h : r = l.dest
      · subst h; rfl
      · simp only [h, false_and, if_false]
        rfl
    · refine (congrArg Core.bound hret).trans ?_
      subst hbad
      exact Core.consumed_bound_congr (c := s.core) (d := { s.core with loads := dropAt k s.core.loads }) rfl rfl (l.poison || (!l.atomic && (s.core.inject.get 2).isSome))
    · exact (congrArg Core.flight hret).trans (hslow h)
    · exact (congrArg Core.pool hret).trans (Core.setS_pool _ _ _)

end Sys2Proof

namespace Sys2Proof.Machine

/-! ### Engine fault reports (R257, R265) -/

theorem Core.returnLoad_settled (c : Core) (l : Load) : (c.returnLoad l).settled = c.settled := by
  obtain ⟨fl, inj, hload, -⟩ := c.loaded_only l
  have hset : (c.loaded l).settled = c.settled := by
    rw [hload]
    exact c.setS_settled l.dest l.value
  rw [Core.returnLoad_eq]
  refine Eq.trans ?_ hset
  cases l.poison || (!l.atomic && (c.inject.get 2).isSome)
  · rfl
  · exact Core.uncorrectable_settled _

/-- Draining the loads keeps the control registers, the commands and the bundle stream's place. -/
theorem Core.drainLoads_keeps (c : Core) : c.drainLoads.ctl = c.ctl ∧ c.drainLoads.copy.cmds = c.copy.cmds := by
  have hfold (l : List Load) (d : Core) : (l.foldl Core.returnLoad d).settled = d.settled := foldl_settled Core.returnLoad_settled l d
  have hsettle := hfold (c.loads.filter fun l => l.fault.isNone && !l.late) { c with loads := c.loads.filter fun l => !(l.fault.isNone && !l.late) }
  have hctl : c.settleLoads.ctl = c.ctl := (congrArg Core.ctl hsettle :)
  have hcopy : c.settleLoads.copy = c.copy := (congrArg Core.copy hsettle :)
  unfold Core.drainLoads
  dsimp only
  rw [Core.dropHeld_eq]
  exact ⟨hctl, (congrArg CopyUnits.cmds hcopy :)⟩

/-- What the handler finds of a trap, whether or not its bundle was being replayed. -/
theorem Core.takeTrap_finds {c : Core} (h : c.handler.active = false) (hv : c.ctl.tvec ≠ 0) (t : TrapInfo) {va : Nat} (ht : t.addr = some va) (epc : Nat) :
    (c.takeTrap t epc).ctl.cause = causeWord t.code t.slot ∧ (c.takeTrap t epc).ctl.fault = faultWord va ∧
    (c.takeTrap t epc).ctl.epc = BitVec.ofNat 64 epc ∧ (c.takeTrap t epc).fetch.pc = c.ctl.tvec.toNat ∧
    (c.takeTrap t epc).handler.active = true ∧ (c.takeTrap t epc).copy.cmds = c.copy.cmds := by
  obtain ⟨hctl, hcmds⟩ := c.drainLoads_keeps
  have hset := c.drainLoads.landDue_settled
  have hctl' : c.drainLoads.landDue.ctl = c.ctl := (congrArg Core.ctl hset :).trans hctl
  have hcmds' : c.drainLoads.landDue.copy.cmds = c.copy.cmds := (congrArg (fun d => d.copy.cmds) hset :).trans hcmds
  delta Core.takeTrap
  rw [if_neg (by rw [h]; exact Bool.false_ne_true), if_neg hv]
  extract_lets d t' frozen k entries ct d' e f
  have ht' : t'.code = t.code ∧ t'.slot = t.slot ∧ t'.addr = t.addr := by
    simp only [t']
    cases d.fetch.replay with
    | none => exact ⟨rfl, rfl, rfl⟩
    | some r => cases hr : t.replay <;> exact ⟨rfl, rfl, rfl⟩
  obtain ⟨hcode, hslot, haddr⟩ := ht'
  have he : e.unpooled = d'.unpooled := Core.poolWrite_unpooled _ _ _ _
  clear_value e
  have hec : e.ctl = d'.ctl := (congrArg Core.ctl he :)
  have hecmds : e.copy.cmds = d'.copy.cmds := (congrArg (fun c => c.copy.cmds) he :)
  have hdctl : d.ctl = c.ctl := hctl'
  have hfault : d'.ctl.fault = faultWord va := by
    simp only [d', haddr, ht]
  have hcause : d'.ctl.cause = causeWord t.code t.slot := by
    simp only [d', hcode, hslot]
  refine ⟨(congrArg Ctl.cause hec).trans hcause, (congrArg Ctl.fault hec).trans hfault, congrArg Ctl.epc hec, ?_, rfl, hecmds.trans hcmds'⟩
  show e.ctl.tvec.toNat = _
  rw [hec]
  exact congrArg (fun c => c.tvec.toNat) hdctl


theorem engineFaultReport_runs {s : State} {k : Command} {code va : Nat} (hh : s.core.part.halted = false) (ha : s.core.handler.active = false)
    (hst : s.core.part.status = .running) (hroll : s.core.bound.rollback = none)
    (hk : s.core.copy.cmds.find? (fun c => c.stop.isSome && !c.told) = some k) (hstop : k.stop = some (code, va)) :
    exec .engineFaultReport s = .next (s.onCore fun _ => (s.core.mapCmd k.id fun x => { x with told := true }).takeTrap
      ⟨code, 0, 2, engineOf k, some va, false, 0, []⟩ s.core.fetch.pc) := by
  show execEngineFaultReport s = _
  rw [execEngineFaultReport, hh, ha, hst]
  have hdue : s.core.reportDue = some (engineOf k, code, va, s.core.mapCmd k.id fun x => { x with told := true }) := by
    rw [Core.reportDue, hroll]
    show s.core.unreported = _
    rw [Core.unreported, hk]
    show k.stop.map _ = _
    rw [hstop]
    rfl
  rw [hdue]
  rfl

/-! ### Cores and tasks that end (R247, R266, R275) -/

theorem Core.releaseTiles_only (c : Core) (k : Command) : c.releaseTiles k = { c with tiles := (c.releaseTiles k).tiles } := by
  have hfold (st : TileState) : ∀ (ts : List Nat) (c : Core), (ts.foldl (fun c t => if (c.tileAt t).state = st then c.setTileState t .empty else c) c) =
      { c with tiles := (ts.foldl (fun c t => if (c.tileAt t).state = st then c.setTileState t .empty else c) c).tiles } := by
    intro ts
    induction ts with
    | nil => exact fun _ => rfl
    | cons t ts ih =>
      intro c
      rw [List.foldl_cons, ih]
      split <;> rfl
  have hfold' : ∀ (rs : List TileRef) (c : Core), (rs.foldl (fun c r => if (c.tileAt r.idx).state = .filling then c.setTileState r.idx .empty else c) c) =
      { c with tiles := (rs.foldl (fun c r => if (c.tileAt r.idx).state = .filling then c.setTileState r.idx .empty else c) c).tiles } := by
    intro rs
    induction rs with
    | nil => exact fun _ => rfl
    | cons r rs ih =>
      intro c
      rw [List.foldl_cons, ih]
      split <;> rfl
  unfold Core.releaseTiles
  dsimp only
  rw [hfold, hfold']

theorem Core.releaseAllTiles_only : ∀ (ks : List Command) (c : Core), ks.foldl Core.releaseTiles c = { c with tiles := (ks.foldl Core.releaseTiles c).tiles }
  | [], _ => rfl
  | k :: ks, c => by
    rw [List.foldl_cons, Core.releaseAllTiles_only ks, Core.releaseTiles_only]

theorem Core.dropItems_only (c : Core) : c.dropItems = { c with mx := { c.mx with queue := [] }, tiles := c.dropItems.tiles } :=
  Core.leaveTiles_only _ _

/-- A core whose task ends: nothing of it runs any more. -/
def Core.isKilled (c : Core) : Prop :=
  c.part.status ≠ .running ∧ c.copy.cmds = [] ∧ c.mx.queue = [] ∧ c.flight = [] ∧ c.loads = []

theorem Core.kill_isKilled (c : Core) : c.kill.isKilled := by
  refine ⟨?_, rfl, ?_, rfl, rfl⟩
  · show (match c.part.status with | .ended a => PartStatus.ended a | .ending a => .ending a | .none => .none | _ => .ending false) ≠ _
    cases c.part.status <;> exact PartStatus.noConfusion
  · show ((c.copy.cmds.foldl Core.releaseTiles c).dropItems.dropHeld FencedOp.isMonitor).mx.queue = []
    rw [Core.dropHeld_eq, Core.dropItems_only]

theorem Core.kill_task (c : Core) : c.kill.part.task = c.part.task := by
  show ((c.copy.cmds.foldl Core.releaseTiles c).dropItems.dropHeld FencedOp.isMonitor).part.task = _
  rw [Core.dropHeld_eq, Core.dropItems_only, Core.releaseAllTiles_only]

/-- The cores that a task leaves when it is stopped: its own are killed. -/
theorem State.killTask_cores {s : State} {n : Nat} {flush : Bool} {c : Core} (hc : c ∈ (s.killTask n flush).cores) :
    ∃ d : Core, c = if d.part.task = n ∧ d.part.status ≠ .none then d.kill else d := by
  obtain ⟨u, hu⟩ : ∃ u : State, (s.killTask n flush).cores = u.cores.map fun c => if c.part.task = n ∧ c.part.status ≠ .none then c.kill else c :=
    ⟨_, rfl⟩
  rw [hu] at hc
  obtain ⟨d, -, hd⟩ := List.mem_map.1 hc
  exact ⟨d, hd.symm⟩

theorem State.unevented_cores {s t : State} (h : t.unevented = s.unevented) {c : Core} (hc : c ∈ t.cores) :
    ∃ d ∈ s.cores, c.unmonitored = d.unmonitored := by
  rcases List.mem_cons.1 hc with rfl | hc
  · exact ⟨s.core, List.mem_cons_self, State.unevented_core h⟩
  · obtain ⟨d, hd, he⟩ := State.unevented_rest h.symm hc
    exact ⟨d, List.mem_cons_of_mem _ hd, he.symm⟩

/-- The tasks of a number as `mapTask` leaves them. -/
theorem State.mapTask_named {s : State} {n : Nat} (f : Task → Task) {v : Task} (hv : v ∈ (s.mapTask n f).hm.tasks)
    (hn : v.num = n) : ∃ t, v = f t := by
  obtain ⟨t, -, ht⟩ := List.mem_map.1 hv
  split at ht
  · exact ⟨t, ht.symm⟩
  · next h =>
    subst ht
    exact absurd hn h

/-- A task that ends FAULTED: its status, and its cores stopped. -/
theorem State.faultTask_ends (s : State) (u : Task) (code : Nat) :
    (∀ v ∈ (s.faultTask u code).hm.tasks, v.num = u.num → v.status = 3 ∧ v.cause = code ∧ v.staged = []) ∧
    ∀ c ∈ (s.faultTask u code).cores, c.part.task = u.num → c.part.status ≠ .none → c.isKilled := by
  let k := (s.killTask u.num (!s.contained u)).mapTask u.num fun t => { t.unstaged with status := stFaulted, cause := code }
  have hev : (s.faultTask u code).unevented = k.unevented := State.emit_unevented k _
  refine ⟨fun v hv hn => ?_, fun c hc htask hstatus => ?_⟩
  · have htasks : (s.faultTask u code).hm.tasks = k.hm.tasks := (congrArg (fun s => s.hm.tasks) hev :)
    rw [htasks] at hv
    obtain ⟨t, rfl⟩ := State.mapTask_named (s := s.killTask u.num (!s.contained u)) (fun t => { t.unstaged with status := stFaulted, cause := code }) hv hn
    exact ⟨rfl, rfl, rfl⟩
  · obtain ⟨d, hd, he⟩ := State.unevented_cores hev hc
    have hpart : c.part = d.part := (congrArg Core.part he :)
    obtain ⟨e, rfl⟩ := State.killTask_cores (show d ∈ (s.killTask u.num (!s.contained u)).cores from hd)
    have hkilled : (if e.part.task = u.num ∧ e.part.status ≠ .none then e.kill else e).isKilled := by
      split at hpart
      · next h => rw [if_pos h]; exact e.kill_isKilled
      · next h =>
        rw [hpart] at htask hstatus
        exact absurd ⟨htask, hstatus⟩ h
    obtain ⟨h1, h2, h3, h4, h5⟩ := hkilled
    exact ⟨by rw [hpart]; exact h1, (congrArg (fun c => c.copy.cmds) he :).trans h2, (congrArg (fun c => c.mx.queue) he :).trans h3,
      (congrArg Core.flight he :).trans h4, (congrArg Core.loads he :).trans h5⟩


theorem impreciseFault_runs {s : State} {code : Nat} {rest : List Nat} {u : Task} (hh : s.core.part.halted = false)
    (hf : s.core.bound.fatal = code :: rest) (hu : s.task = some u) (h0 : u.status = 0) (hover : u.phase ≠ .over) (hst : s.core.part.status ≠ .none)
    (hcaught : (caughtCode code && s.contained u) = false) : exec .impreciseFault s = .next (s.faultTask u code) := by
  have hdue : s.dueFatal = some (code, some u) := by
    rw [State.dueFatal, hh, State.pendingFatal, hf, hu]
    rfl
  have hgone : ¬ (u.status ≠ 0 ∨ u.phase = .over ∨ s.core.part.status = .none) := by
    rintro (h | h | h)
    · exact h h0
    · exact hover h
    · exact hst h
  show execImpreciseFault s = _
  rw [execImpreciseFault, hdue]
  simp only [if_neg hgone, hcaught, Bool.false_eq_true, if_false]

/-- The state of a contained node's requeue, its card and its cores done with. -/
def State.reentered (s : State) (u : Task) (k : Card) : State :=
  let s := ((s.killTask u.num false).freeBerth u.num).mapCard k.num fun c => { c with nrq := c.nrq + 1 }
  { s with hm := { s.hm with snapWait := s.hm.snapWait.filter fun x => x.1 != u.num } }

/-- The state that a contained node's requeue leaves. -/
def State.requeued (s : State) (u : Task) (k : Card) : State :=
  (s.reentered u k).mapTask u.num fun t => { t.unstaged with phase := .requeue, cores := [], saved := [], epoch := 0, paths := [], acks := [], joins := [] }

theorem containedRequeue_runs {s : State} {code : Nat} {rest : List Nat} {u : Task} {k : Card} (hh : s.core.part.halted = false)
    (hf : s.core.bound.fatal = code :: rest) (hu : s.task = some u) (h0 : u.status = 0) (hover : u.phase ≠ .over)
    (hcaught : caughtCode code = true) (hcon : s.contained u = true) (hk : s.cardOf u.card = some k)
    (hmax : k.nrq + 1 ≤ (s.queue k.queue).cfg.maxrq.toNat) : exec .containedRequeue s = .next (s.requeued u k) := by
  have hdue : s.dueFatal = some (code, some u) := by
    rw [State.dueFatal, hh, State.pendingFatal, hf, hu]
    rfl
  have hover' : (u.phase == .over) = false := beq_eq_false_iff_ne.2 hover
  show execContainedRequeue s = _
  rw [execContainedRequeue, hdue]
  simp only [h0, hover', hcaught, hcon, hk, if_neg (Nat.not_lt.2 hmax)]
  rfl

theorem State.requeued_tasks {s : State} {u : Task} {k : Card} {v : Task} (hv : v ∈ (s.requeued u k).hm.tasks) (hn : v.num = u.num) :
    v.phase = .requeue ∧ v.cores = [] ∧ v.staged = [] ∧ v.saved = [] := by
  obtain ⟨t, rfl⟩ := State.mapTask_named (s := s.reentered u k) _ hv hn
  exact ⟨rfl, rfl, rfl, rfl⟩

theorem State.requeued_card {s : State} {u : Task} {k : Card} (hk : s.cardOf u.card = some k) :
    ∃ k' ∈ (s.requeued u k).hm.cards, k'.num = k.num ∧ k'.nrq = k.nrq + 1 := by
  have hmem : k ∈ s.hm.cards := List.mem_of_find?_eq_some hk
  refine ⟨{ k with nrq := k.nrq + 1 }, ?_, rfl, rfl⟩
  show _ ∈ s.hm.cards.map fun c => if c.num = k.num then { c with nrq := c.nrq + 1 } else c
  exact List.mem_map.2 ⟨k, hmem, if_pos rfl⟩

theorem State.requeued_cores {s : State} {u : Task} {k : Card} {c : Core} (hc : c ∈ (s.requeued u k).cores) (ht : c.part.task = u.num) :
    c.part.status = .none := by
  obtain ⟨x, hx⟩ : ∃ x : State, (s.requeued u k).cores = x.cores.map fun c => if c.part.task = u.num ∧ c.part.status ≠ .none then c.leave else c :=
    ⟨_, rfl⟩
  rw [hx] at hc
  obtain ⟨d, -, rfl⟩ := List.mem_map.1 hc
  split
  · unfold Core.leave
    dsimp only
    split <;> rfl
  · next h =>
    rw [if_neg h] at ht
    by_contra hs
    exact h ⟨ht, hs⟩


/-! ### Rollback (R271, R272) -/

/-- The core of a rollback, the region's commands dropped. -/
def Core.cmdsDropped (c : Core) (ks : List Command) : Core := ks.foldl (fun c k => (c.releaseTiles k).dropCmd k.id) c

/-- The core of a rollback, the region's tiles emptied as well. -/
def Core.emptied (c : Core) : Core :=
  let e := c.cmdsDropped (c.copy.cmds.filter fun k => decide (k.depth ≥ c.depth))
  e.setTiles .empty ((e.regions.filled.filter fun f => decide (f.1 ≥ c.depth)).map (·.2))

/-- The core of a rollback, the region's log undone as well. -/
def Core.undone (c : Core) (r : Region) : Core :=
  (c.emptied.logRecords (c.emptied.regions.logPos / 8 + 1) r.logMark []).foldl Core.undo c.emptied

/-- What a rollback leaves of the core that it has restored. -/
theorem Core.rollBack_fields (c : Core) (why : Nat) (r : Region) :
    (c.rollBack why r).fetch.pc = r.target ∧ (c.rollBack why r).regions.stack = (c.undone r).regions.stack.drop 1 ∧
    (c.rollBack why r).regions.logPos = r.logMark ∧
    (c.rollBack why r).regions.buf = (c.undone r).regions.buf.filter (fun b => decide (b.depth < c.depth)) ∧
    (c.rollBack why r).flight = [] ∧ (c.rollBack why r).loads = [] ∧
    (c.rollBack why r).ctl.rgn = BitVec.ofNat 64 ((c.depth - 1) + c.depth * 2 ^ 3 + why * 2 ^ 6 + 2 ^ 10) ∧
    (c.rollBack why r).bound.rollback = none ∧
    (c.rollBack why r).copy.cmds = (c.undone r).copy.cmds.map (fun k => { k with told := false }) ∧
    (c.rollBack why r).tiles = (c.undone r).tiles ∧ (c.rollBack why r).regs = (c.undone r).regs ∧
    (c.rollBack why r).pool = (c.undone r).pool ∧ (c.rollBack why r).copy.fenced = (c.undone r).copy.fenced := by
  have hfold : ((c.cmdsDropped (c.copy.cmds.filter fun k => decide (k.depth ≥ c.depth))).regions.filled.filter fun f => decide (f.1 ≥ c.depth)).foldl
      (fun c f => c.setTileState f.2 .empty) (c.cmdsDropped (c.copy.cmds.filter fun k => decide (k.depth ≥ c.depth))) = c.emptied := by
    rw [Core.emptied, Core.setTiles, List.foldl_map]
  unfold Core.rollBack
  dsimp only
  rw [show (c.copy.cmds.filter fun k => decide (k.depth ≥ c.depth)).foldl (fun c k => (c.releaseTiles k).dropCmd k.id) c =
    c.cmdsDropped (c.copy.cmds.filter fun k => decide (k.depth ≥ c.depth)) from rfl, hfold]
  exact ⟨rfl, rfl, rfl, rfl, rfl, rfl, rfl, rfl, rfl, rfl, rfl, rfl, rfl⟩

/-- Dropping commands changes tiles and the list of commands; the dropped ones are gone. -/
theorem Core.cmdsDropped_only : ∀ (ks : List Command) (c : Core), ∃ ts cs, c.cmdsDropped ks = { c with tiles := ts, copy := { c.copy with cmds := cs } } ∧
    ∀ k ∈ cs, k ∈ c.copy.cmds ∧ ∀ g ∈ ks, k.id ≠ g.id
  | [], c => ⟨c.tiles, c.copy.cmds, rfl, fun k hk => ⟨hk, fun g hg => nomatch hg⟩⟩
  | g :: ks, c => by
    obtain ⟨ts, cs, he, hcs⟩ := Core.cmdsDropped_only ks ((c.releaseTiles g).dropCmd g.id)
    have hrel := c.releaseTiles_only g
    refine ⟨ts, cs, ?_, fun k hk => ?_⟩
    · rw [Core.cmdsDropped, List.foldl_cons]
      refine he.trans ?_
      unfold Core.dropCmd
      rw [hrel]
    · obtain ⟨hmem, hne⟩ := hcs k hk
      have hmem' : k ∈ (c.releaseTiles g).copy.cmds.filter fun k => k.id != g.id := hmem
      rw [hrel, List.mem_filter] at hmem'
      refine ⟨hmem'.1, fun x hx => ?_⟩
      rcases List.mem_cons.1 hx with rfl | hx
      · exact bne_iff_ne.1 hmem'.2
      · exact hne x hx

/-- Emptying the region changes tiles and the list of commands: no command of the region stays, and each tile that it filled is empty. -/
theorem Core.emptied_only (c : Core) : ∃ ts cs, c.emptied = { c with tiles := ts, copy := { c.copy with cmds := cs } } ∧
    (∀ k ∈ cs, k.depth < c.depth) ∧ ∀ f ∈ c.regions.filled, c.depth ≤ f.1 → (c.emptied.tileAt f.2).state = .empty := by
  obtain ⟨ts, cs, he, hcs⟩ := Core.cmdsDropped_only (c.copy.cmds.filter fun k => decide (k.depth ≥ c.depth)) c
  have hall : c.emptied = (c.cmdsDropped (c.copy.cmds.filter fun k => decide (k.depth ≥ c.depth))).setTiles .empty
      ((c.regions.filled.filter fun f => decide (f.1 ≥ c.depth)).map (·.2)) := by
    unfold Core.emptied
    rw [he]
  refine ⟨_, cs, by rw [hall, Core.setTiles_only, he], fun k hk => ?_, fun f hf hd => ?_⟩
  · obtain ⟨hmem, hne⟩ := hcs k hk
    by_contra hlt
    exact hne k (List.mem_filter.2 ⟨hmem, decide_eq_true (Nat.not_lt.1 hlt)⟩) rfl
  · rw [hall, Core.tileAt_setTiles, if_pos ⟨f.2, List.mem_map.2 ⟨f, List.mem_filter.2 ⟨hf, decide_eq_true hd⟩, rfl⟩, rfl⟩]

/-- A log that stands at its mark has no record of the region. -/
theorem Core.logRecords_none {c : Core} {p : Nat} (h : c.regions.logPos = p) (n : Nat) : c.logRecords (n + 1) p [] = [] := by
  rw [Core.logRecords, if_pos (by omega)]

/-- A log with one scratchpad record past the mark. -/
theorem Core.logRecords_one {c : Core} {p off : Nat} {old : List Byte} (h : c.regions.logPos = p + 8 + padTo8 old.length) (hlen : old.length < 4096)
    (hoff : off < 2 ^ 21) (hhead : leVal (c.spRead p 8) = off + old.length * 2 ^ 32) (hold : c.spRead (p + 8) old.length = old) :
    c.logRecords (c.regions.logPos / 8 + 1) p [] = [(0, off, old)] := by
  have hn : bitsOf (leVal (c.spRead p 8)) 43 32 = old.length := by
    rw [hhead]
    show (off + old.length * 2 ^ 32) / 2 ^ 32 % 2 ^ 12 = _
    omega
  have hk : bitsOf (leVal (c.spRead p 8)) 25 24 = 0 := by
    rw [hhead]
    show (off + old.length * 2 ^ 32) / 2 ^ 24 % 2 ^ 2 = _
    omega
  have ho : bitsOf (leVal (c.spRead p 8)) 20 0 = off := by
    rw [hhead]
    show (off + old.length * 2 ^ 32) / 2 ^ 0 % 2 ^ 21 = _
    omega
  obtain ⟨n, hfuel⟩ : ∃ n, c.regions.logPos / 8 + 1 = n + 1 + 1 := ⟨c.regions.logPos / 8 - 1, by omega⟩
  rw [hfuel, Core.logRecords, if_neg (by omega)]
  dsimp only
  rw [hn, hk, ho, hold, Core.logRecords, if_pos (by omega)]

/-- Undoing a scratchpad record writes its old bytes: of the core the pool and its poison change. -/
theorem Core.undo_scratch (c : Core) (off : Nat) (old : List Byte) : (c.undo (0, off, old)).unpooled = c.unpooled ∧
    ∀ a, (c.undo (0, off, old)).pool.byte a = if c.spBase + off ≤ a ∧ a < c.spBase + off + old.length then old.getD (a - (c.spBase + off)) 0 else c.pool.byte a :=
  ⟨Core.poolWrite_unpooled c (c.spBase + off) old false, fun a => Core.poolWrite_byte c (c.spBase + off) old false a⟩


/-- The log of the region undone: but for the pool the core is as it was, and the pool has its old bytes back. -/
theorem Core.undone_only {c : Core} {r : Region} {old : List Byte} {off : Nat}
    (hlog : (c.regions.logPos = r.logMark ∧ old = []) ∨
      (c.regions.logPos = r.logMark + 8 + padTo8 old.length ∧ old ≠ [] ∧ old.length < 4096 ∧ off < 2 ^ 21 ∧ r.logMark < 2 ^ 21 ∧
        leVal (c.spRead r.logMark 8) = off + old.length * 2 ^ 32 ∧ c.spRead (r.logMark + 8) old.length = old)) :
    (c.undone r).unpooled = c.emptied.unpooled ∧ ∀ a, (c.undone r).pool.byte a =
      if c.spBase + off ≤ a ∧ a < c.spBase + off + old.length then old.getD (a - (c.spBase + off)) 0 else c.pool.byte a := by
  obtain ⟨ts, cs, he, -⟩ := c.emptied_only
  rcases hlog with ⟨hpos, rfl⟩ | ⟨hpos, -, hlen, hoff, -, hhead, hold⟩
  · have hund : c.undone r = c.emptied := by
      rw [Core.undone, Core.logRecords_none (by rw [he]; exact hpos)]
      rfl
    rw [hund]
    refine ⟨rfl, fun a => ?_⟩
    rw [he, if_neg]
    rw [List.length_nil]
    omega
  · have hread (o n : Nat) : c.emptied.spRead o n = c.spRead o n := Core.spRead_congr (by rw [he]) (by rw [he]) o n
    have hund : c.undone r = c.emptied.undo (0, off, old) := by
      rw [Core.undone, Core.logRecords_one (by rw [he]; exact hpos) hlen hoff ((congrArg leVal (hread _ _)).trans hhead) ((hread _ _).trans hold)]
      rfl
    obtain ⟨hun, hbyte⟩ := c.emptied.undo_scratch off old
    rw [hund]
    refine ⟨hun, fun a => ?_⟩
    rw [hbyte, he]
    rfl

theorem State.afterRollback_keeps {u : State} (h : u.core.copy.fenced = []) (stores : Bool) :
    (u.afterRollback stores).mem = u.mem ∧ ∃ tlb, (u.afterRollback stores).core = { u.core with tlb := tlb } := by
  unfold State.afterRollback
  rw [State.releaseAll_none h]
  cases stores
  · exact ⟨rfl, u.core.tlb, rfl⟩
  · exact ⟨rfl, [], rfl⟩

/-- The state that a rollback leaves when nothing stands behind a FENCE. -/
theorem rollback_runs {s : State} {why : Nat} {r : Region} {rs : List Region} (hw : s.core.bound.rollback = some why)
    (hs : s.core.regions.stack = r :: rs) (hq : ∀ i ∈ s.core.mx.queue, i.depth < s.core.depth)
    (hh : s.core.part.halted = false ∨ s.core.bound.byUnit = false) (hf : (s.core.rollBack why r).copy.fenced = []) :
    ∃ t : State, exec .rollback s = .next t ∧ t.mem = s.mem ∧ ∃ tlb, t.core = { s.core.rollBack why r with tlb := tlb } := by
  have hdue : s.core.rollbackDue = some why := by
    rw [Core.rollbackDue, if_neg, hw]
    rcases hh with h | h <;> rw [h] <;> simp
  have hitems : s.core.regionItems = false := List.any_eq_false.2 fun i hi => by
    have := hq i hi
    rw [decide_eq_true_eq]
    omega
  refine ⟨(s.onCore fun c => c.rollBack why r).afterRollback (!s.core.regions.buf.isEmpty), ?_, ?_⟩
  · show execRollback s = _
    rw [execRollback]
    simp only [hdue, hs, hitems]
    rfl
  · exact State.afterRollback_keeps (u := s.onCore fun c => c.rollBack why r) hf _

end Sys2Proof.Machine

namespace Sys2Proof
open Machine

theorem caughtCode_false {code : Nat} (h : code ≠ 0x148 ∧ code ≠ 0x149 ∧ code ≠ 0x14A) : caughtCode code = false := by
  obtain ⟨h1, h2, h3⟩ := h
  simp only [caughtCode, Bool.or_eq_false_iff, beq_eq_false_iff_ne]
  exact ⟨⟨h1, h2⟩, h3⟩

theorem caughtCode_true {code : Nat} (h : code = 0x148 ∨ code = 0x149 ∨ code = 0x14A) : caughtCode code = true := by
  have hdef : caughtCode code = (code == 0x148 || code == 0x149 || code == 0x14A) := by
    delta caughtCode cUncorrectable cChkFail cPoison
    exact Eq.refl _
  rw [hdef]
  simpa only [Bool.or_eq_true, beq_iff_eq, or_assoc] using h

/-- Settles O45: the report is a trap with the command's stop, the fatal fault kills the task's cores, and the rollback undoes the region's log. -/
theorem faultEvents : Obligations.FaultEvents := by
  unfold Obligations.FaultEvents
  refine ⟨fun s k code va hh ha hst hroll hk hstop htv => ?_, fun s code rest u hh hf hu h0 hover hst => ⟨fun hcode => ?_, fun k hcode hcon hk hmax => ?_⟩,
    fun s why d r rs hw hs hd hq hh hfen old off hlog => ?_⟩
  · have hrun := engineFaultReport_runs hh ha hst hroll hk hstop
    obtain ⟨hcause, hfault, hepc, hpc, hact, hcmds⟩ := Core.takeTrap_finds (c := s.core.mapCmd k.id fun x => { x with told := true }) ha htv
      ⟨code, 0, 2, engineOf k, some va, false, 0, []⟩ rfl s.core.fetch.pc
    generalize Core.takeTrap _ _ _ = e at hcause hfault hepc hpc hact hcmds hrun
    have hword : causeWord code 0 = BitVec.ofNat 64 (code + 2 ^ 16) := by
      simp only [causeWord, Nat.zero_mod, Nat.zero_mul, Nat.add_zero]
    refine ⟨_, hrun, hcause.trans hword, hfault, hepc, hpc, hact, rfl, fun c hc hid => ?_⟩
    have hc' : c ∈ e.copy.cmds := hc
    rw [hcmds] at hc'
    obtain ⟨x, -, rfl⟩ := List.mem_map.1 hc'
    split
    · rfl
    · next h =>
      rw [if_neg h] at hid
      exact absurd hid h
  · have hcaught : (caughtCode code && s.contained u) = false := by
      cases hcon : s.contained u with
      | false => exact Bool.and_false _
      | true =>
        have hne : code ≠ 0x148 ∧ code ≠ 0x149 ∧ code ≠ 0x14A := by
          rcases hcode with h | h
          · exact h
          · rw [hcon] at h
            exact absurd h.symm Bool.false_ne_true
        rw [caughtCode_false hne]
        rfl
    obtain ⟨htasks, hcores⟩ := s.faultTask_ends u code
    exact ⟨_, impreciseFault_runs hh hf hu h0 hover hst hcaught, htasks, hcores⟩
  · exact ⟨_, containedRequeue_runs hh hf hu h0 hover (caughtCode_true hcode) hcon hk hmax, fun v hv hn => State.requeued_tasks hv hn,
      State.requeued_card hk, fun c hc ht => State.requeued_cores hc ht⟩
  · have hdepth : s.core.depth = d := by
      rw [hd, Core.depth, hs]
      rfl
    obtain ⟨hpc, hstack, hpos, hbuf, hfl, hlo, hrgn, hbound, hcmds, htiles, hregs, hpool, hfenced⟩ := s.core.rollBack_fields why r
    obtain ⟨hun, hbytes⟩ := Core.undone_only hlog
    obtain ⟨ts, cs, he, hcs, hempty⟩ := s.core.emptied_only
    have hunc : (s.core.undone r).regions = s.core.regions := ((congrArg Core.regions hun :) : (s.core.undone r).regions = s.core.emptied.regions).trans (congrArg Core.regions he :)
    have huncopy : (s.core.undone r).copy = { s.core.copy with cmds := cs } := ((congrArg Core.copy hun :) : (s.core.undone r).copy = s.core.emptied.copy).trans (congrArg Core.copy he :)
    have hunregs : (s.core.undone r).regs = s.core.regs := ((congrArg Core.regs hun :) : (s.core.undone r).regs = s.core.emptied.regs).trans (congrArg Core.regs he :)
    have huntiles : (s.core.undone r).tiles = s.core.emptied.tiles := (congrArg Core.tiles hun :)
    obtain ⟨t, hrun, hmem, tlb, hcore⟩ := rollback_runs hw hs (by rw [hdepth]; exact hq) hh (by rw [hfenced, huncopy]; exact hfen)
    refine ⟨t, hrun, ?_⟩
    rw [hcore]
    rw [hdepth] at hbuf hrgn hcs hempty
    clear hcore hrun
    generalize s.core.rollBack why r = e at hpc hstack hpos hbuf hfl hlo hrgn hbound hcmds htiles hregs hpool ⊢
    refine ⟨hpc, hstack.trans (by rw [hunc, hs]; rfl), hpos, hbuf.trans (by rw [hunc]), hfl, hlo, hrgn, hbound, fun k hk => ?_, fun f hf hfd => ?_, hmem,
      hregs.trans hunregs, fun a => ?_⟩
    · have hk' : k ∈ e.copy.cmds := hk
      rw [hcmds, huncopy] at hk'
      obtain ⟨x, hx, rfl⟩ := List.mem_map.1 hk'
      exact hcs x hx
    · have htile : e.tiles = s.core.emptied.tiles := htiles.trans huntiles
      have := hempty f hf hfd
      unfold Core.tileAt Core.tile at this ⊢
      rw [← htile] at this
      exact this
    · exact (congrArg (fun p => Mem.byte p a) hpool).trans (hbytes a)

end Sys2Proof
end

section
/-! PROOFS. The engines, the launch queues, the tasks and the memory system: EngineEvents, QueueEvents, TaskEvents and
MemorySystemEvents. -/

namespace Sys2Proof.Machine

/-! ### Gather rows and stream elements (R56, R57, R354, R358) -/

/-- What waits for nothing outstanding. -/
theorem any_contains_false {l m : List Nat} (h : ∀ n ∈ l, n ∉ m) : l.any m.contains = false :=
  List.any_eq_false.2 fun n hn hc => h n hn (List.contains_iff_mem.1 hc)

/-- The oldest address of a gather queue is fetched. -/
theorem gatherRowArrival_runs {s s1 : State} {q : Bool} {g : GatherAddr} {r : List GatherAddr} {row : GatherRow}
    (haq : (if q then s.core.copy.aq1 else s.core.copy.aq0) = g :: r) (hdq : (if q then s.core.copy.dq1 else s.core.copy.dq0).length < 64)
    (hafter : ∀ id ∈ g.after, id ∉ s.core.outstanding) (hrow : s.fetchRow g = (s1, row)) :
    exec (.gatherRowArrival q) s = .next (s1.onCore fun c => { c with copy :=
      if q then { c.copy with aq1 := r, dq1 := c.copy.dq1 ++ [row] } else { c.copy with aq0 := r, dq0 := c.copy.dq0 ++ [row] } }) := by
  have hno : ¬ ((if q then s.core.copy.dq1 else s.core.copy.dq0).length ≥ 64 ∨ g.after.any s.core.outstanding.contains = true) := by
    rw [any_contains_false hafter]
    rintro (h | h)
    · omega
    · exact Bool.false_ne_true h
  show execGatherRowArrival q s = _
  simp only [execGatherRowArrival, haq, if_neg hno, hrow]

/-- A gather queue pair after a row's arrival. -/
theorem gatherRow_queues {c : Core} {q : Bool} {r : List GatherAddr} {row : GatherRow} {d : Core}
    (hd : d = { c with copy := if q then { c.copy with aq1 := r, dq1 := c.copy.dq1 ++ [row] } else { c.copy with aq0 := r, dq0 := c.copy.dq0 ++ [row] } }) :
    (if q then d.copy.aq1 else d.copy.aq0) = r ∧ (if q then d.copy.dq1 else d.copy.dq0) = (if q then c.copy.dq1 else c.copy.dq0) ++ [row] := by
  subst hd
  cases q <;> exact ⟨rfl, rfl⟩

/-- A stream that may fetch its next element. -/
theorem streamFill_runs {s : State} {w : BitVec 3} {x : Stream} {b : StreamBind} (hx : x = s.core.stream w) (hb : x.bind = some b)
    (hw : b.write = false) (hstop : x.stop = none) (hroom : x.fifo.length < 8 * s.core.rf) (hleft : x.moved < b.total)
    (hf : ∀ cls, s.core.fenced cls = []) (hafter : ∀ n ∈ x.after, n ∉ s.core.outstanding) :
    exec (.streamFill w) s = .next (s.fillStream w b) := by
  subst hx
  have h1 : decide (256 * ((s.core.stream w).fifo.length + 1) > 2048 * s.core.rf) = false := decide_eq_false (by omega)
  have h2 : decide ((s.core.stream w).moved ≥ b.total) = false := decide_eq_false (by omega)
  show execStreamFill w s = _
  simp only [execStreamFill, hb, hw, hstop, h1, h2, hf, any_contains_false hafter, Bool.and_false, Option.isSome_none, List.isEmpty_nil, Bool.not_true,
    Bool.or_self, Bool.false_eq_true, if_false]

/-! ### Pushed elements (R354) -/

theorem keepRuns_go_none (keep : Mask) (d : VReg) : ∀ is : List Nat, (∀ i ∈ is, keep.getLsbD i = false) → keepRuns.go keep d is none = []
  | [], _ => rfl
  | i :: is, h => by
    rw [keepRuns.go, if_neg (by rw [h i List.mem_cons_self]; exact Bool.false_ne_true)]
    exact keepRuns_go_none keep d is fun j hj => h j (List.mem_cons_of_mem _ hj)

theorem keepRuns_zero (d : VReg) : keepRuns 0 d = [] := keepRuns_go_none 0 d _ fun i _ => BitVec.getLsbD_zero

theorem keepRuns_go_all (keep : Mask) (d : VReg) (o : Nat) : ∀ (is : List Nat) (bs : List Byte), (∀ i ∈ is, keep.getLsbD i = true) →
    keepRuns.go keep d is (some (o, bs)) = [(o, bs.reverse ++ is.map fun i => BitVec.ofNat 8 (lane 8 i d))]
  | [], bs, _ => by rw [keepRuns.go, List.map_nil, List.append_nil]
  | i :: is, bs, h => by
    rw [keepRuns.go, if_pos (h i List.mem_cons_self)]
    refine (keepRuns_go_all keep d o is _ fun j hj => h j (List.mem_cons_of_mem _ hj)).trans ?_
    rw [List.reverse_cons, List.append_assoc]
    rfl

/-- A whole element is one run of its 256 bytes. -/
theorem keepRuns_all (d : VReg) : keepRuns (BitVec.allOnes 256) d = [(0, (List.range 256).map fun i => BitVec.ofNat 8 (lane 8 i d))] := by
  have hkeep : ∀ i ∈ List.range 256, (BitVec.allOnes 256).getLsbD i = true := fun i hi => by
    rw [BitVec.getLsbD_allOnes]
    exact decide_eq_true (List.mem_range.1 hi)
  have hrange : List.range 256 = 0 :: List.range' 1 255 := by
    rw [List.range_eq_range', List.range'_succ]
  rw [hrange] at hkeep
  show keepRuns.go _ d (List.range 256) none = _
  rw [hrange, keepRuns.go, if_pos (hkeep 0 List.mem_cons_self)]
  exact keepRuns_go_all _ d 0 _ _ fun j hj => hkeep j (List.mem_cons_of_mem _ hj)

/-- The first pushed element is gone. -/
theorem Stream.dropPushed_pushed {x : Stream} {e : StreamElem} {r : List StreamElem} (h : x.pushed = e :: r) : x.dropPushed.pushed = r := by
  unfold Stream.pushed at h
  unfold Stream.dropPushed
  cases ho : x.old with
  | nil =>
    rw [ho, List.nil_append] at h
    cases hw : x.isWrite with
    | false =>
      rw [hw] at h
      cases h
    | true =>
      rw [hw, if_pos rfl] at h
      show [] ++ (if x.isWrite then x.fifo.drop 1 else []) = r
      rw [hw, h]
      rfl
  | cons o os =>
    rw [ho, List.cons_append] at h
    show (o :: os).drop 1 ++ (if x.isWrite then x.fifo else []) = r
    exact (List.cons.inj h).2

/-- A stream whose oldest push nothing holds back. -/
theorem Core.drainable_ok {c : Core} {w : BitVec 3} {e : StreamElem} {r : List StreamElem} (hp : (c.stream w).pushed = e :: r)
    (hstop : (c.stream w).stop = none) (hafter : ∀ n ∈ e.after, n ∉ c.outstanding) (hmeets : ∀ f ∈ c.pushes, f.num < e.num → f.meets e = false)
    (hfen : c.copy.fenced = []) : c.drainable (c.stream w) = true := by
  have hm : (c.pushes.any fun f => decide (f.num < e.num) && f.meets e) = false := List.any_eq_false.2 fun f hf => by
    by_cases hlt : f.num < e.num
    · rw [hmeets f hf hlt, Bool.and_false]
      exact Bool.false_ne_true
    · rw [decide_eq_false hlt]
      exact Bool.false_ne_true
  have hs : c.fencedStores = [] := by rw [Core.fencedStores, hfen]; rfl
  simp only [Core.drainable, hstop, hp, any_contains_false hafter, hm, hs]
  rfl


theorem streamDrain_eq {s : State} {w : BitVec 3} (h : s.core.drainable (s.core.stream w) = true) :
    exec (.streamDrain w) s = .next (s.drainStream w).releaseAll := by
  show execStreamDrain w s = _
  rw [execStreamDrain, if_pos h]

theorem streamDrain_idle {s : State} {w : BitVec 3} (h : s.core.drainable (s.core.stream w) = false) :
    (s.core.fencedReady = true → exec (.streamDrain w) s = .next s.releaseAll) ∧
    (s.core.fencedReady = false → exec (.streamDrain w) s = .refused (.notEnabled "STREAM_DRAIN")) := by
  have hno : ¬ s.core.drainable (s.core.stream w) = true := by rw [h]; exact Bool.false_ne_true
  constructor
  · intro hr
    show execStreamDrain w s = _
    rw [execStreamDrain, if_neg hno, if_pos hr]
  · intro hr
    show execStreamDrain w s = _
    rw [execStreamDrain, if_neg hno, if_neg (by rw [hr]; exact Bool.false_ne_true)]

theorem State.drainStream_eq {s t : State} {w : BitVec 3} {e : StreamElem} {r : List StreamElem} (hp : (s.core.stream w).pushed = e :: r)
    (h : s.storeRuns e.hint.toNat e e.cost (keepRuns e.keep e.data) = (t, none)) :
    s.drainStream w = t.onCore fun c => c.setStream w (c.stream w).dropPushed := by
  unfold State.drainStream
  rw [hp]
  simp only [h]

/-- A padding element leaves and writes nothing. -/
theorem State.drainStream_nothing {s : State} {w : BitVec 3} {e : StreamElem} {r : List StreamElem} (hp : (s.core.stream w).pushed = e :: r)
    (hk : e.keep = 0) : s.drainStream w = s.onCore fun c => c.setStream w (c.stream w).dropPushed :=
  State.drainStream_eq hp (by rw [hk, keepRuns_zero]; rfl)

theorem State.hinted_only (s : State) (ps : List Piece) (hint : Nat) : ∃ q, s.hinted ps hint = { s with quays := q } := by
  unfold State.hinted
  split
  · exact ⟨s.quays, rfl⟩
  · next p _ =>
    induction ps generalizing s with
    | nil => exact ⟨s.quays, rfl⟩
    | cons x ps ih =>
      rw [List.foldl_cons]
      split
      · exact ih s
      · obtain ⟨q, hq⟩ := s.cached_only x.pa x.len (some p)
        obtain ⟨q', hq'⟩ := ih (s.cached x.pa x.len (some p))
        exact ⟨q', by rw [hq', hq]⟩

/-- A whole element that lies in one page is written there. -/
theorem State.drainStream_whole {s s1 : State} {w : BitVec 3} {e : StreamElem} {r : List StreamElem} {p : Piece} (hp : (s.core.stream w).pushed = e :: r)
    (hk : e.keep = BitVec.allOnes 256) (hps : s.pieces .deck true 257 e.addr 256 = (s1, .ok [p])) (hdev : isDevice p.pa = true)
    (hdir : Safety.performsDirect s1) (hdepth : e.depth = 0) (hlen : p.len = 256) :
    (s.drainStream w).mem = s1.mem.write p.pa ((List.range 256).map fun i => BitVec.ofNat 8 (lane 8 i e.data)) ∧
    (s.drainStream w).core.copy.fenced = s1.core.copy.fenced := by
  generalize hbs : (List.range 256).map (fun i => BitVec.ofNat 8 (lane 8 i e.data)) = bs
  have hbl : bs.length = 256 := by rw [← hbs, List.length_map, List.length_range]
  have hw : s1.writePieces false [p] bs = (s1.store p.pa bs false, none) := by
    rw [State.writePieces_one hdev hdir, List.take_of_length_le (by omega)]
  obtain ⟨sy, hsy⟩ := State.performStore_written (num := e.num) hw
  obtain ⟨q, hq⟩ := (s1.performStore e.num [p] bs).hinted_only [p] e.hint.toNat
  have hps' : s.pieces .deck true (256 + 1) (e.addr + 0) 256 = (s1, .ok [p]) := hps
  have hruns : s.storeRuns e.hint.toNat e e.cost (keepRuns e.keep e.data) = ((s1.performStore e.num [p] bs).hinted [p] e.hint.toNat, none) := by
    rw [hk, keepRuns_all, hbs, State.storeRuns, hbl, hps']
    simp only [hdepth, Nat.lt_irrefl, gt_iff_lt, if_false]
    rfl
  rw [State.drainStream_eq hp hruns, hq, hsy]
  obtain ⟨sy', hkept⟩ := State.store_coreKept s1 p.pa bs false
  refine ⟨State.store_mem (List.ne_nil_of_length_pos (by omega)) p.pa false, ?_⟩
  show (s1.store p.pa bs false).core.copy.fenced = _
  rw [hkept]


/-! ### What a translation leaves of the core (R198) -/

/-- Translation changes of the core its cached translations. -/
def State.translatedFrom (s t : State) : Prop := ∃ tlb, t.core = { s.core with tlb := tlb }

theorem State.translatedFrom_refl (s : State) : s.translatedFrom s := ⟨s.core.tlb, rfl⟩

theorem State.translatedFrom_trans {s t u : State} (h : s.translatedFrom t) (h' : t.translatedFrom u) : s.translatedFrom u := by
  obtain ⟨x, hx⟩ := h
  obtain ⟨y, hy⟩ := h'
  exact ⟨y, by rw [hy, hx]⟩

theorem State.touchWalk_core (s : State) (t : Option Task) (root va : Nat) : (s.touchWalk t root va).core = s.core := by
  have hfold : ∀ (l : List Nat) (s : State), (l.foldl (fun s a => s.touch a 8) s).core = s.core := by
    intro l
    induction l with
    | nil => exact fun _ => rfl
    | cons a l ih =>
      intro s
      obtain ⟨q, w, h⟩ := s.touch_only a 8
      rw [List.foldl_cons, ih, h]
  unfold State.touchWalk
  split
  · rfl
  · exact hfold _ _

theorem State.xlat_translated (s : State) (via : Via) (va : Nat) : s.translatedFrom (s.xlat via va).1 := by
  have hw (t : Option Task) (root : Nat) := s.touchWalk_core t root va
  have walked (t : Option Task) (root : Nat) : s.translatedFrom (s.touchWalk t root va) := ⟨s.core.tlb, hw t root⟩
  unfold State.xlat
  dsimp only
  split
  · exact s.translatedFrom_refl
  · split
    · exact s.translatedFrom_refl
    · split
      · split
        · exact s.translatedFrom_refl
        · split
          · exact walked _ _
          · exact walked _ _
      · split
        · exact s.translatedFrom_refl
        · split
          · exact walked _ _
          · exact walked _ _
      · split
        · exact s.translatedFrom_refl
        · split
          · exact ⟨_, rfl⟩
          · split
            · split
              · exact ⟨_, by rw [hw]⟩
              · exact ⟨_, by rw [hw]⟩
            · exact walked _ _

theorem State.pieces_translated (via : Via) (write : Bool) : ∀ (fuel : Nat) (s : State) (va len : Nat),
    s.translatedFrom (s.pieces via write fuel va len).1
  | 0, s, _, _ => s.translatedFrom_refl
  | fuel + 1, s, va, len => by
    have hx := s.xlat_translated via va
    unfold State.pieces
    split
    · exact s.translatedFrom_refl
    · generalize s.xlat via va = r at hx
      obtain ⟨u, _ | x⟩ := r
      · exact hx
      · dsimp only at hx ⊢
        split
        · exact hx
        · split
          · exact hx
          · have hp := State.pieces_translated via write fuel u (va + min len (x.size - va % x.size)) (len - min len (x.size - va % x.size))
            generalize u.pieces via write fuel (va + min len (x.size - va % x.size)) (len - min len (x.size - va % x.size)) = r at hp
            obtain ⟨v, _ | ps⟩ := r
            · exact State.translatedFrom_trans hx hp
            · exact State.translatedFrom_trans hx hp

/-! ### Tiles at the end of a command or a call (R52, R135, R271) -/

theorem Core.unitCaught_only (c : Core) (why code : Nat) : ∃ b, c.unitCaught why code = { c with bound := b } := by
  obtain ⟨b, hb⟩ : ∃ b, c.caught why code = { c with bound := b } := ⟨_, c.caught_eq why code⟩
  unfold Core.unitCaught
  rw [hb]
  dsimp only
  split <;> exact ⟨_, rfl⟩

/-- A filled tile becomes ready; what else changes is its poison and what waits at the boundary. -/
theorem Core.tileReady_only (c : Core) (inRegion : Bool) (r : TileRef) : ∃ p sp b, c.tileReady inRegion r =
    { (if (c.tileAt r.idx).state = .filling then c.setTileState r.idx .ready else c) with poison := p, spoiled := sp, bound := b } := by
  unfold Core.tileReady
  dsimp only
  generalize (if (c.tileAt r.idx).state = .filling then c.setTileState r.idx .ready else c) = d
  have hspoil : ∃ p sp, d.spoil r.idx = { d with poison := p, spoiled := sp } := by
    unfold Core.spoil
    split
    · exact ⟨d.poison, d.spoiled, rfl⟩
    · exact ⟨_, _, rfl⟩
  obtain ⟨p, sp, hs⟩ := hspoil
  rw [hs]
  split
  · split
    · obtain ⟨b, hb⟩ := Core.unitCaught_only { d with poison := p, spoiled := sp } 3 cPoison
      exact ⟨p, sp, b, hb⟩
    · exact ⟨p, sp, _, rfl⟩
  · exact ⟨p, sp, d.bound, rfl⟩

theorem Core.tileAt_tileReady (c : Core) (inRegion : Bool) (r : TileRef) (n : Nat) : ((c.tileReady inRegion r).tileAt n).state =
    if r.idx % 64 = n % 64 ∧ (c.tileAt n).state = .filling then .ready else (c.tileAt n).state := by
  obtain ⟨p, sp, b, h⟩ := c.tileReady_only inRegion r
  have ht : (c.tileReady inRegion r).tileAt n = (if (c.tileAt r.idx).state = .filling then c.setTileState r.idx .ready else c).tileAt n := by
    rw [h]
    rfl
  have hsame (e : r.idx % 64 = n % 64) : c.tileAt r.idx = c.tileAt n := by
    have : BitVec.ofNat 6 r.idx = BitVec.ofNat 6 n := BitVec.eq_of_toNat_eq (by rw [BitVec.toNat_ofNat, BitVec.toNat_ofNat]; exact e)
    rw [Core.tileAt, Core.tileAt, this]
  rw [ht]
  by_cases e : r.idx % 64 = n % 64
  · rw [hsame e]
    by_cases hf : (c.tileAt n).state = .filling <;> simp [hf, e, Core.tileAt_setTileState]
  · by_cases hf : (c.tileAt r.idx).state = .filling <;> simp [hf, e, Core.tileAt_setTileState]

/-- The core with these tiles ready where they were filling. -/
def Core.tilesReady (c : Core) (inRegion : Core → Bool) (rs : List TileRef) : Core := rs.foldl (fun c r => c.tileReady (inRegion c) r) c

theorem Core.tilesReady_only (inRegion : Core → Bool) : ∀ (rs : List TileRef) (c : Core), ∃ ts p sp b, c.tilesReady inRegion rs =
    { c with tiles := ts, poison := p, spoiled := sp, bound := b }
  | [], c => ⟨c.tiles, c.poison, c.spoiled, c.bound, rfl⟩
  | r :: rs, c => by
    obtain ⟨ts, p, sp, b, h⟩ := Core.tilesReady_only inRegion rs (c.tileReady (inRegion c) r)
    obtain ⟨p', sp', b', h'⟩ := c.tileReady_only (inRegion c) r
    refine ⟨ts, p, sp, b, h.trans ?_⟩
    rw [h']
    split <;> rfl

theorem Core.tileAt_tilesReady (inRegion : Core → Bool) (n : Nat) : ∀ (rs : List TileRef) (c : Core), ((c.tilesReady inRegion rs).tileAt n).state =
    if (c.tileAt n).state = .filling ∧ (∃ r ∈ rs, r.idx % 64 = n % 64) then .ready else (c.tileAt n).state
  | [], c => by
    rw [if_neg]
    · rfl
    · rintro ⟨-, r, hr, -⟩
      cases hr
  | r :: rs, c => by
    refine (Core.tileAt_tilesReady inRegion n rs (c.tileReady (inRegion c) r)).trans ?_
    rw [Core.tileAt_tileReady]
    by_cases hf : (c.tileAt n).state = .filling <;> by_cases e : r.idx % 64 = n % 64 <;> simp [hf, e]

/-- The core with these tiles empty where they were draining. -/
def Core.tilesDrained (c : Core) (ts : List Nat) : Core :=
  ts.foldl (fun c t => if (c.tileAt t).state = .draining then c.setTileState t .empty else c) c

theorem Core.tilesDrained_only : ∀ (ts : List Nat) (c : Core), c.tilesDrained ts = { c with tiles := (c.tilesDrained ts).tiles }
  | [], _ => rfl
  | t :: ts, c => by
    have hcons : c.tilesDrained (t :: ts) = (if (c.tileAt t).state = .draining then c.setTileState t .empty else c).tilesDrained ts := rfl
    rw [hcons, Core.tilesDrained_only ts]
    split <;> rfl

theorem Core.tileAt_tilesDrained (n : Nat) : ∀ (ts : List Nat) (c : Core), ((c.tilesDrained ts).tileAt n).state =
    if (∃ t ∈ ts, t % 64 = n % 64) ∧ (c.tileAt n).state = .draining then .empty else (c.tileAt n).state
  | [], c => by
    rw [if_neg]
    · rfl
    · rintro ⟨⟨t, ht, -⟩, -⟩
      cases ht
  | t :: ts, c => by
    have hcons : c.tilesDrained (t :: ts) = (if (c.tileAt t).state = .draining then c.setTileState t .empty else c).tilesDrained ts := rfl
    have hone : ((if (c.tileAt t).state = .draining then c.setTileState t .empty else c).tileAt n).state =
        if t % 64 = n % 64 ∧ (c.tileAt n).state = .draining then .empty else (c.tileAt n).state := by
      by_cases e : t % 64 = n % 64
      · have hsame : c.tileAt t = c.tileAt n := by
          have : BitVec.ofNat 6 t = BitVec.ofNat 6 n := BitVec.eq_of_toNat_eq (by rw [BitVec.toNat_ofNat, BitVec.toNat_ofNat]; exact e)
          rw [Core.tileAt, Core.tileAt, this]
        rw [hsame]
        by_cases hf : (c.tileAt n).state = .draining <;> simp [hf, e, Core.tileAt_setTileState]
      · by_cases hf : (c.tileAt t).state = .draining <;> simp [hf, e, Core.tileAt_setTileState]
    rw [hcons, Core.tileAt_tilesDrained n ts, hone]
    by_cases hf : (c.tileAt n).state = .draining <;> by_cases e : t % 64 = n % 64 <;> simp [hf, e]

/-- The end of a command: its sources drained, its place in the list given up, its tiles ready. -/
theorem Core.endCmd_eq (c : Core) (k : Command) :
    c.endCmd k = ((c.tilesDrained k.cons).dropCmd k.id).tilesReady (fun c => decide (k.depth > 0) && decide (c.depth > 0)) k.dsts := rfl

theorem Core.endCmd_only (c : Core) (k : Command) : ∃ ts p sp b, c.endCmd k = { c with
    tiles := ts, poison := p, spoiled := sp, bound := b, copy := { c.copy with cmds := c.copy.cmds.filter fun x => x.id != k.id } } := by
  obtain ⟨ts, p, sp, b, h⟩ := Core.tilesReady_only (fun c => decide (k.depth > 0) && decide (c.depth > 0)) k.dsts ((c.tilesDrained k.cons).dropCmd k.id)
  refine ⟨ts, p, sp, b, (c.endCmd_eq k).trans (h.trans ?_)⟩
  rw [Core.dropCmd, Core.tilesDrained_only]

theorem Core.endCmd_gone (c : Core) (k : Command) : ∀ x ∈ (c.endCmd k).copy.cmds, x.id ≠ k.id := by
  obtain ⟨ts, p, sp, b, h⟩ := c.endCmd_only k
  intro x hx
  rw [h] at hx
  exact bne_iff_ne.1 (List.mem_filter.1 hx).2

/-- The tiles of a command that ends. -/
theorem Core.endCmd_tile (c : Core) (k : Command) {n : Nat} (hn : n < 64) (hd : ∀ r ∈ k.dsts, r.idx < 64) (hc : ∀ t ∈ k.cons, t < 64) :
    ((c.endCmd k).tileAt n).state = if n ∈ k.cons ∧ (c.tileAt n).state = .draining then .empty
      else if (c.tileAt n).state = .filling ∧ (∃ r ∈ k.dsts, r.idx = n) then .ready else (c.tileAt n).state := by
  have hcons : (∃ t ∈ k.cons, t % 64 = n % 64) ↔ n ∈ k.cons :=
    ⟨fun ⟨t, ht, e⟩ => by rw [Nat.mod_eq_of_lt (hc t ht), Nat.mod_eq_of_lt hn] at e; exact e ▸ ht, fun h => ⟨n, h, rfl⟩⟩
  have hdsts : (∃ r ∈ k.dsts, r.idx % 64 = n % 64) ↔ ∃ r ∈ k.dsts, r.idx = n := by
    constructor
    · rintro ⟨r, hr, e⟩
      exact ⟨r, hr, by rw [Nat.mod_eq_of_lt (hd r hr), Nat.mod_eq_of_lt hn] at e; exact e⟩
    · rintro ⟨r, hr, e⟩
      exact ⟨r, hr, by rw [e]⟩
  have hdrop : (((c.tilesDrained k.cons).dropCmd k.id).tileAt n).state =
      if n ∈ k.cons ∧ (c.tileAt n).state = .draining then .empty else (c.tileAt n).state := by
    refine Eq.trans ?_ ((Core.tileAt_tilesDrained n k.cons c).trans ?_)
    · rfl
    · simp only [hcons]
  rw [Core.endCmd_eq, Core.tileAt_tilesReady, hdrop]
  simp only [hdsts]
  by_cases h : n ∈ k.cons ∧ (c.tileAt n).state = .draining
  · simp [h]
  · rw [if_neg h, if_neg h]


/-! ### The matrix queue's items end (R129, R136, R334) -/

theorem State.scanStart_idle {s : State} (h : s.core.part.scan = 0) : s.scanStart = s := by
  have hscan : s.core.scanFrom s.time = s.core := by
    rw [Core.scanFrom, if_neg]
    rintro ⟨h1, -⟩
    omega
  show { s with core := s.core.scanFrom s.time } = s
  rw [hscan]

theorem matrixCallComplete_runs {s t : State} (h : s.completeItem = .next t) (hscan : t.core.part.scan = 0) :
    exec .matrixCallComplete s = .next t := by
  show execMatrixCallComplete s = _
  rw [execMatrixCallComplete, h]
  exact congrArg Host.Outcome.next (State.scanStart_idle hscan)

theorem completeItem_call {s : State} {k : Call} {r : List MxItem} {run : Run} (hstop : s.core.mx.stop = none) (hq : s.core.mx.queue = .call k :: r)
    (hrun : s.core.mx.run = some run) (hdone : run.done = true) : s.completeItem = .next (s.onCore fun c => c.endCall k) := by
  simp only [State.completeItem, hstop, hq, hrun, Option.map_some, hdone, Option.getD_some, Option.isSome_none, Bool.false_eq_true, if_false, if_true]

theorem matrixCallComplete_refused {s : State} {k : Call} {r : List MxItem} {run : Run} (hstop : s.core.mx.stop = none) (hq : s.core.mx.queue = .call k :: r)
    (hrun : s.core.mx.run = some run) (hdone : run.done = false) : exec .matrixCallComplete s = .refused (.notEnabled "MATRIX_CALL_COMPLETE") := by
  show execMatrixCallComplete s = _
  rw [execMatrixCallComplete]
  simp only [State.completeItem, hstop, hq, hrun, Option.map_some, hdone, Option.getD_some, Option.isSome_none, Bool.false_eq_true, if_false]

/-- A finished call leaves the queue; its primary tile takes its state. -/
theorem Core.endCall_only (c : Core) (k : Call) : ∃ ts p sp b, c.endCall k = { c.popItem with tiles := ts, poison := p, spoiled := sp, bound := b } := by
  unfold Core.endCall
  dsimp only
  split
  · obtain ⟨p, sp, b, h⟩ := c.popItem.tileReady_only (decide (k.depth > 0) && decide (c.popItem.depth > 0)) k.tile
    refine ⟨(if (c.popItem.tileAt k.tile.idx).state = .filling then c.popItem.setTileState k.tile.idx .ready else c.popItem).tiles, p, sp, b, h.trans ?_⟩
    split <;> rfl
  · split
    · exact ⟨_, c.poison, c.spoiled, c.bound, rfl⟩
    · exact ⟨c.tiles, c.poison, c.spoiled, c.bound, rfl⟩

theorem Core.endCall_tile (c : Core) (k : Call) {n : Nat} (hn : n < 64) (hk : k.tile.idx < 64) : ((c.endCall k).tileAt n).state =
    if n = k.tile.idx ∧ k.flags.getLsbD 0 = true ∧ (c.tileAt n).state = .filling then .ready
    else if n = k.tile.idx ∧ k.flags.getLsbD 0 = false ∧ k.flags.getLsbD 1 = true then .empty else (c.tileAt n).state := by
  have hmod : k.tile.idx % 64 = n % 64 ↔ n = k.tile.idx := by
    rw [Nat.mod_eq_of_lt hk, Nat.mod_eq_of_lt hn]
    exact eq_comm
  unfold Core.endCall
  dsimp only
  cases h0 : k.flags.getLsbD 0 with
  | true =>
    rw [if_pos rfl, Core.tileAt_tileReady]
    have hpop : c.popItem.tileAt n = c.tileAt n := rfl
    simp only [hmod, hpop, true_and, Bool.true_eq_false, false_and, and_false, if_false]
  | false =>
    rw [if_neg Bool.false_ne_true]
    cases h1 : k.flags.getLsbD 1 with
    | true =>
      rw [if_pos rfl, Core.tileAt_setTileState]
      by_cases h : n = k.tile.idx
      · simp [hmod, h]
      · simp only [hmod, h, false_and, if_false]
        rfl
    | false =>
      simp only [Bool.false_eq_true, false_and, and_false, if_false]
      rfl

theorem completeItem_mload {s : State} {n d : Nat} {ws : List (BitVec 64)} {r : List MxItem} (hstop : s.core.mx.stop = none)
    (hq : s.core.mx.queue = .mload n ws d :: r) : s.completeItem = .next (s.onCore fun c =>
      { c.popItem with mx := { c.popItem.mx with store := (n, ws) :: c.mx.store.filter fun p => p.1 != n } }) := by
  simp only [State.completeItem, hstop, hq, Option.isSome_none, Bool.false_eq_true, if_false]

/-- A routine store with one routine put in. -/
theorem store_put {l : List (Nat × List (BitVec 64))} {n : Nat} (ws : List (BitVec 64)) (m : Nat) :
    ((n, ws) :: l.filter fun p => p.1 != n).find? (fun p => p.1 == m) = if m = n then some (n, ws) else l.find? fun p => p.1 == m := by
  by_cases h : m = n
  · rw [if_pos h, List.find?_cons_of_pos (by rw [h]; exact beq_self_eq_true n)]
  · rw [if_neg h, List.find?_cons_of_neg (by rw [beq_iff_eq]; exact fun e => h e.symm), List.find?_filter]
    congr 1
    funext p
    by_cases hp : p.1 = m
    · rw [hp, beq_self_eq_true, bne_iff_ne.2 h]
      rfl
    · simp [hp]

theorem completeItem_mswap {s : State} {d : Nat} {r : List MxItem} (hstop : s.core.mx.stop = none) (hq : s.core.mx.queue = .mswap d :: r)
    (hst : (s.core.mx.bank s.core.mx.loadBank).state ≠ .draining) :
    s.completeItem = .next (s.onCore fun c => { c.popItem with mx := c.popItem.mx.swap }) := by
  simp only [State.completeItem, hstop, hq, Option.isSome_none, Bool.false_eq_true, if_false, if_neg hst]

theorem Matrix.drained_of {m : Matrix} {b : Bool} (h : (m.bank b).state = .draining) : m.drained b = m.setBank b { m.bank b with state := .idle, rows := false } :=
  if_pos h

theorem bankDrained_runs {s : State} {b : Bool} (h : (s.core.mx.bank b).state = .draining) (hn : (s.core.mx.bank (!b)).state ≠ .draining) :
    exec .bankDrained s = .next (s.onCore fun c => { c with mx := c.mx.setBank b { c.mx.bank b with state := .idle, rows := false } }) := by
  show execBankDrained s = _
  cases b with
  | false =>
    have h' : s.core.mx.bankA.state = .draining := h
    simp only [execBankDrained, if_pos h']
    exact congrArg (fun m => Host.Outcome.next (s.onCore fun c => { c with mx := m })) (Matrix.drained_of h)
  | true =>
    have h' : s.core.mx.bankB.state = .draining := h
    have hn' : ¬ s.core.mx.bankA.state = .draining := hn
    simp only [execBankDrained, if_neg hn', if_pos h']
    exact congrArg (fun m => Host.Outcome.next (s.onCore fun c => { c with mx := m })) (Matrix.drained_of h)


/-! ### KPEER's arrival (R54, R359) -/

/-- Poison in a part of an area is poison in the area. -/
theorem poisonedIn_part {p : List Nat} {a n b m : Nat} (hb : a ≤ b) (hm : b + m ≤ a + n) (h : poisonedIn p a n = false) : poisonedIn p b m = false := by
  rw [poisonedIn, List.any_eq_false] at *
  intro g hg
  refine h g ?_
  unfold granules at hg ⊢
  split at hg
  · cases hg
  · rw [if_neg (by omega)]
    obtain ⟨j, hj, rfl⟩ := List.mem_map.1 hg
    have hj := List.mem_range.1 hj
    exact List.mem_map.2 ⟨j + b / 32 - a / 32, List.mem_range.2 (by omega), by omega⟩

/-- The state after a copy of n bytes without poison has landed in the ring of the core dst. -/
def State.peerLanded (s : State) (id dst : Nat) (h : BitVec 4) (bs : List Byte) : State :=
  (((s.onCore fun c => { c with inject := c.inject.set 3 none }).mapCores fun c => if c.id = dst then c.landPeer h bs [] else c).onCore fun c =>
    c.mapCmd id fun x => { x with sig := true })

theorem kpeerArrival_runs {s : State} {id n dst : Nat} {k : Command} {x : Cmd} {ref : TileRef} {d : Core} {h : BitVec 4} (hk : s.cmd id = some k)
    (hop : k.op = .kpeer x) (hsig : k.sig = false) (hstop : k.stop = none) (hafter : k.after = []) (hsrcs : k.srcs = [ref])
    (hdst : dst = k.block.toNat / 2 ^ 8 % 2 ^ 8) (hh : h = BitVec.ofNat 4 (k.block.toNat / 2 ^ 16)) (hn : n = k.block.toNat / 2 ^ 32 % 2 ^ 21)
    (hd : s.coreOf dst = some d) (htakes : d.ringTakes h n = true) (hinj : s.core.inject.get 3 = none)
    (hpoison : s.core.tilePoison ref (k.block.toNat / 2 ^ 64 % 2 ^ 21) n = false) :
    exec (.kpeerArrival id) s = .next (s.peerLanded id dst h (s.core.tileRead ref (k.block.toNat / 2 ^ 64 % 2 ^ 21) n)) := by
  have hb1 : bitsOf k.block.toNat 15 8 = dst := hdst.symm
  have hb2 : BitVec.ofNat 4 (bitsOf k.block.toNat 19 16) = h := by
    rw [hh]
    refine BitVec.eq_of_toNat_eq ?_
    rw [BitVec.toNat_ofNat, BitVec.toNat_ofNat]
    show k.block.toNat / 2 ^ 16 % 2 ^ 4 % 2 ^ 4 = _
    exact Nat.mod_mod _ _
  have hb3 : bitsOf k.block.toNat 52 32 = n := hn.symm
  have hb4 : bitsOf k.block.toNat 84 64 = k.block.toNat / 2 ^ 64 % 2 ^ 21 := rfl
  generalize k.block.toNat / 2 ^ 64 % 2 ^ 21 = off at hpoison hb4 ⊢
  have hbad : (List.range ((n + 31) / 32)).filter (fun j =>
      s.core.tilePoison ref (off + 32 * j) (min 32 (n - 32 * j)) || (j == 0 && (s.core.inject.get 3).isSome)) = [] :=
    List.filter_eq_nil_iff.2 fun j hj => by
      have hj := List.mem_range.1 hj
      have hp : s.core.tilePoison ref (off + 32 * j) (min 32 (n - 32 * j)) = false := poisonedIn_part (by omega) (by omega) hpoison
      rw [hp, hinj, Option.isSome_none, Bool.and_false]
      exact Bool.false_ne_true
  show execKpeerArrival id s = _
  unfold execKpeerArrival
  simp only [hk, hb1, hb2, hb3, hb4, hd, htakes, hop, hsig, hstop, hafter, hsrcs, hbad]
  rfl

theorem Core.setRing_ring (c : Core) (h : BitVec 4) (x : Ring) : (c.setRing h x).ring h = x :=
  (vget_set c.rings h.toNat h.isLt x h.toFin).trans (if_pos rfl)

theorem Core.landPeer_ring (c : Core) (h : BitVec 4) (bs : List Byte) : (c.landPeer h bs []).ring h =
    { c.ring h with prod := (c.ring h).prod + 1, kbar := (c.ring h).kbar + 1 } := by
  exact Core.setRing_ring _ h _

theorem Core.landPeer_id (c : Core) (h : BitVec 4) (bs : List Byte) : (c.landPeer h bs []).id = c.id := by
  show (c.poolWrite _ bs).id = _
  unfold Core.poolWrite
  split <;> rfl

theorem Core.landPeer_tile (c : Core) (h : BitVec 4) (bs : List Byte) :
    ((c.landPeer h bs []).tileAt ((c.ring h).slotTile (c.ring h).prod.toNat)).state = .ready := by
  show ((Core.setTileState _ _ _).tileAt _).state = _
  rw [Core.tileAt_setTileState, if_pos rfl]

theorem Core.landPeer_pool (c : Core) (h : BitVec 4) {bs : List Byte} (hbs : bs ≠ []) : (c.landPeer h bs []).pool =
    c.pool.write (16384 * (c.tileAt ((c.ring h).slotTile (c.ring h).prod.toNat)).base.toNat) bs := by
  show (c.poolWrite _ bs).pool = _
  unfold Core.poolWrite
  rw [if_neg (by simpa using hbs)]
  rfl

/-! ### The end of a command (R34, R206, R356) -/

theorem commandComplete_runs {s t : State} {id : Nat} {k : Command} (hk : s.cmd id = some k) (hstop : k.stop = none) (hafter : k.after = [])
    (hst : s.core.part.status = .running) (ht : (if k.sig then s.completeCmd k else s.work k) = .next t) :
    exec (.commandComplete id) s = .next t.scanStart := by
  have hready : s.core.commandReady k = true := by
    rw [Core.commandReady, hstop, hafter]
    rfl
  show execCommandComplete id s = _
  unfold execCommandComplete
  rw [hk]
  simp only [hready, hst, ht]
  rfl

theorem completeCmd_plain {s : State} {k : Command} (hso : k.so = 0) (hw : k.waits = []) :
    s.completeCmd k = .next (s.onCore fun c => (c.mapCmd k.id fun x => { x with sig := true }).endCmd k) := by
  unfold State.completeCmd
  simp only [hso, hw, bne_self_eq_false, Bool.and_false, Bool.false_and, Bool.false_eq_true, if_false, List.isEmpty_nil, Bool.not_true,
    State.completeCmd.go, if_true]
  rfl

theorem State.scanStart_keeps (s : State) : s.scanStart.mem = s.mem ∧ ∃ p, s.scanStart.core = { s.core with part := p } := by
  refine ⟨rfl, ?_⟩
  show ∃ p, s.core.scanFrom s.time = _
  unfold Core.scanFrom
  split
  · exact ⟨_, rfl⟩
  · exact ⟨s.core.part, rfl⟩

/-- The copy of one row of at most 4 KiB within the scratchpad. -/
theorem workKcopy_row {s : State} {k : Command} {cb : CopyBlock} (hcb : cb = copyBlock k.block.toNat) (hprog : k.prog = 0) (hs : cb.skind = 1)
    (hd : cb.dkind = 1) (hr : cb.rows = 1) (hbk : cb.bucket = false) (h0 : 0 < cb.len) (h4 : cb.len ≤ 4096)
    (hp : poisonedIn s.core.poison (s.core.spBase + cb.src) cb.len = false) :
    s.workKcopy k = (s.onCore fun c => c.spWrite cb.dst (s.core.spRead cb.src cb.len)).completeCmd k := by
  have hper : (cb.len + 4095) / 4096 = 1 := by omega
  have hmin : min 4096 (cb.len - 4096 * 0) = cb.len := by omega
  have hrows : paddedRows cb.bucket k.pad cb.rows = 1 := by
    rw [hbk, hr]
    rfl
  have hpos (a : Nat) (d : Int) : ((a : Int) + (0 : Nat) * d + 4096 * (0 : Nat)) = a := by omega
  have hread : s.copyRead k cb cb.src cb.len = (s, .ok (s.core.spRead cb.src cb.len, false)) := by
    unfold State.copyRead
    rw [if_neg (by rw [hs]; decide)]
    simp only [hs, if_true, Int.toNat_natCast, hp]
  have hput : s.copyPut k cb cb.src cb.dst (s.core.spRead cb.src cb.len) false = (s.onCore fun c => c.spWrite cb.dst (s.core.spRead cb.src cb.len), none) := by
    unfold State.copyPut State.copyWrite
    rw [if_pos (show (!false) = true from rfl), if_neg (by rw [hd]; decide), if_pos hd, Int.toNat_natCast]
  have hchunks : s.copyChunks k cb (cb.rows * ((cb.len + 4095) / 4096) - k.prog) k.prog =
      (s.onCore fun c => c.spWrite cb.dst (s.core.spRead cb.src cb.len), none) := by
    rw [hr, hper, hprog]
    show s.copyChunks k cb 1 0 = _
    unfold State.copyChunks
    dsimp only
    rw [hper, hrows, show (0 : Nat) / 1 = 0 from rfl, show (0 : Nat) % 1 = 0 from rfl, hmin, hpos, hpos, if_neg (by omega), hread]
    dsimp only
    rw [hput]
    rfl
  subst hcb
  unfold State.workKcopy
  dsimp only
  rw [if_neg (by rw [hd]; omega), if_neg (by rw [hd]; omega), hchunks]

/-- The signal of a command whose object lies in device memory. -/
theorem completeCmd_signals {s f : State} {k : Command} {p : Piece} {o : SyncObj} (hw : k.waits = []) (hrel : k.rel = false) (hso : k.so ≠ 0)
    (hrels : ∀ r ∈ s.core.sync.rels, r.num ∉ k.rels)
    (hf : (s.onCore fun c => c.mapCmd k.id fun x => { x with sig := true }).syncPiece k.so.toNat 0 = (f, .ok p)) (hpw : p.x.w = true)
    (hdev : isDevice p.pa = true) (hbond : p.x.bond = false) (hlen : p.len = 64) (hsees : Safety.seesMemory f) (hwin : f.windows = [])
    (hpoison : f.poisonedAt [p] = false) (ho : o = syncOf (leVal (f.mem.read p.pa 64))) (hlegal : o.illegal = false) :
    s.completeCmd k = .next ((f.store p.pa (syncHead o.raised)).onCore fun c => c.endCmd k) := by
  have hso' : (k.so != 0) = true := bne_iff_ne.2 hso
  have hany : (s.core.sync.rels.any fun r => k.rels.contains r.num) = false := List.any_eq_false.2 fun r hr hc =>
    hrels r hr (List.contains_iff_mem.1 hc)
  have hsig : (s.onCore fun c => c.mapCmd k.id fun x => { x with sig := true }).signalObj k.so.toNat 0 =
      (f.store p.pa (syncHead o.raised), none) := by
    unfold State.signalObj
    rw [hf]
    dsimp only
    rw [hpw, State.readSync_device hdev hbond hsees hwin, hpoison, hlen]
    simp only [Bool.not_true, Bool.false_eq_true, if_false, ← ho, hlegal]
    exact State.writeSync_device hdev hsees _ _
  unfold State.completeCmd
  have hrels' : ((s.onCore fun c => c.mapCmd k.id fun x => { x with sig := true }).core.sync.rels.any fun r => k.rels.contains r.num) = false := hany
  simp only [hso', hrel, hrels', hw, Bool.and_false, Bool.false_and, Bool.false_eq_true, if_false, List.isEmpty_nil, Bool.not_true,
    State.completeCmd.go, if_neg hso, hsig]

theorem descriptorReload_runs {s : State} {w : Word} {tab : Vector (BitVec 512) 256} {o : List (Nat × BitVec 512)} {after : List Nat} {r : List MxItem}
    (hstop : s.core.mx.stop = none) (hq : s.core.mx.queue = .reload w (some tab) o after :: r) :
    exec .descriptorReload s = .next (s.onCore fun c => c.endReload tab o) := by
  show execDescriptorReload s = _
  unfold execDescriptorReload
  simp only [hstop, hq, Option.isSome_none, Bool.false_eq_true, if_false]

end Sys2Proof.Machine

namespace Sys2Proof
open Machine

/-- The copy unit's part of O46: gather rows and stream elements (R56, R57, R354). -/
theorem engineEvents_rows {s s1 : State} {q : Bool} {g : GatherAddr} {r : List GatherAddr}
    (haq : (if q then s.core.copy.aq1 else s.core.copy.aq0) = g :: r) (hdq : (if q then s.core.copy.dq1 else s.core.copy.dq0).length < 64)
    (hafter : ∀ id ∈ g.after, id ∉ s.core.outstanding) {row : GatherRow} (hrow : s.fetchRow g = (s1, row)) :
    ∃ t, exec (.gatherRowArrival q) s = .next t ∧ t.mem = s1.mem ∧ t.core.regs = s1.core.regs ∧
      (if q then t.core.copy.aq1 else t.core.copy.aq0) = r ∧
      (if q then t.core.copy.dq1 else t.core.copy.dq0) = (if q then s1.core.copy.dq1 else s1.core.copy.dq0) ++ [row] := by
  obtain ⟨hq1, hq2⟩ := gatherRow_queues (c := s1.core) (q := q) (r := r) (row := row) rfl
  exact ⟨_, gatherRowArrival_runs haq hdq hafter hrow, rfl, rfl, hq1, hq2⟩

/-- Settles O46: each event does its one piece of work; the ends of commands and calls go through `endCmd` and `endCall`. -/
theorem engineEvents : Obligations.EngineEvents := by
  unfold Obligations.EngineEvents
  refine ⟨⟨fun s s1 q g r haq hdq hafter => ⟨fun bs bad h => ?_, fun code va h => ?_⟩,
      fun s w x b hx hb hw hstop hroom hleft hf hafter => ⟨fun hpad => ?_, fun hpad hsp => ?_, fun hpad hsp s1 s2 ps bs hps hbs u hu => ?_⟩,
      fun s s1 w e r hp hstop hafter hmeets hfen => ⟨fun hk => ?_, fun hk p hps hdev hdir hdepth hlen => ?_⟩,
      fun s w h => streamDrain_idle h,
      fun s id n dst k x ref d h hk hop hsig hstop hafter hsrcs hdst hh hn hne hd hbound hempty hacc hfit h0 hinj hpoison => ?_,
      fun s id k hk hstop hafter hst hscan hso => ⟨fun hsig hw hdsts hcons => ?_,
        fun hsig hw hprog hop hcons hdsts cb hcb hs hd hr hbk h0 h4 hp => ?_⟩,
      fun s f id k p o hk hstop hafter hst hscan hsig hw hrel hso hrels hf hpw hdev hbond hlen hsees hwin hpoison ho hmode => ?_⟩,
    ⟨fun s r hstop hscan => ⟨fun k run hq hrun hdone => ?_, fun n ws d hq => ?_, fun d load hq hload hst => ?_,
        fun k run hq hrun hdone => matrixCallComplete_refused hstop hq hrun hdone⟩,
      fun s b h hn => ?_, fun s w tab after hstop hq => ?_⟩⟩
  · exact engineEvents_rows haq hdq hafter (by rw [State.fetchRow, h])
  · obtain ⟨t, ht, -, -, h1, h2⟩ := engineEvents_rows haq hdq hafter (s1 := s1) (row := ⟨g, [], some (code, g.addr), false⟩) (by rw [State.fetchRow, h])
    exact ⟨t, ht, h1, h2⟩
  · rw [streamFill_runs hx hb hw hstop hroom hleft hf hafter]
    subst hx
    unfold State.fillStream
    simp only [hpad, if_true]
    rfl
  · rw [streamFill_runs hx hb hw hstop hroom hleft hf hafter]
    subst hx
    unfold State.fillStream
    simp only [hpad, hsp, if_true, Bool.false_eq_true, if_false]
    rfl
  · rw [streamFill_runs hx hb hw hstop hroom hleft hf hafter]
    subst hx hu
    unfold State.fillStream
    simp only [hpad, hsp, Bool.false_eq_true, if_false, hps, hbs]
    rfl
  · have hdrain := State.drainStream_nothing hp hk
    have hrel : (s.drainStream w).releaseAll = s.drainStream w := State.releaseAll_none (by rw [hdrain]; exact hfen)
    refine ⟨_, streamDrain_eq (Core.drainable_ok hp hstop hafter hmeets hfen), ?_⟩
    rw [hrel, hdrain]
    refine ⟨?_, rfl, rfl⟩
    show (Core.stream (Core.setStream _ _ _) w).pushed = r
    rw [Core.setStream_stream]
    exact Stream.dropPushed_pushed hp
  · obtain ⟨hmem, hfenced⟩ := State.drainStream_whole hp hk hps hdev hdir hdepth hlen
    obtain ⟨tlb, htr⟩ := State.pieces_translated .deck true 257 s e.addr 256
    rw [hps] at htr
    have hf1 : s1.core.copy.fenced = [] := (congrArg (fun c => c.copy.fenced) htr :).trans hfen
    have hrel : (s.drainStream w).releaseAll = s.drainStream w := State.releaseAll_none (hfenced.trans hf1)
    exact ⟨_, streamDrain_eq (Core.drainable_ok hp hstop hafter hmeets hfen), by rw [hrel, hmem]⟩
  · have htakes : d.ringTakes h n = true := by
      simp only [Core.ringTakes, hempty, hacc, decide_eq_true hfit, bne_iff_ne.2 hbound]
      rfl
    have hid : d.id = dst := by
      have := List.find?_some hd
      exact beq_iff_eq.1 this
    have hrest : d ∈ s.rest := by
      rcases List.mem_cons.1 (List.mem_of_find?_eq_some hd) with rfl | hm
      · exact absurd hid hne
      · exact hm
    generalize hbs : s.core.tileRead ref (k.block.toNat / 2 ^ 64 % 2 ^ 21) n = bs
    have hrun := kpeerArrival_runs hk hop hsig hstop hafter hsrcs hdst hh hn hd htakes hinj hpoison
    rw [hbs] at hrun
    have hbs0 : bs ≠ [] := by
      rw [← hbs]
      refine List.ne_nil_of_length_pos ?_
      show 0 < (Mem.read _ _ _).length
      rw [Mem.read_length]
      exact h0
    have hcore : (s.peerLanded id dst h bs).core = ({ s.core with inject := s.core.inject.set 3 none } : Machine.Core).mapCmd id fun x => { x with sig := true } := by
      exact congrArg (fun c => Core.mapCmd c id fun x => { x with sig := true }) (if_neg hne)
    refine ⟨_, d.landPeer h bs [], hrun, rfl, by rw [hcore]; rfl, ?_, (d.landPeer_id h bs).trans hid, ?_, ?_, Core.landPeer_tile d h bs, ?_, fun c hc hcid => ?_⟩
    · exact List.mem_map.2 ⟨d, hrest, if_pos hid⟩
    · rw [Core.landPeer_ring]
    · rw [Core.landPeer_ring]
    · rw [Core.landPeer_pool d h hbs0, ← hbs]
      rfl
    · rw [hcore] at hc
      obtain ⟨x, -, rfl⟩ := List.mem_map.1 hc
      split
      · rfl
      · next hx =>
        rw [if_neg hx] at hcid
        exact absurd hcid hx
  · have hid : k.id = id := beq_iff_eq.1 (List.find?_some hk :)
    have hrun := commandComplete_runs hk hstop hafter hst (t := s.onCore fun c => (c.mapCmd k.id fun x => { x with sig := true }).endCmd k)
      (by rw [hsig]; exact completeCmd_plain hso hw)
    obtain ⟨ts, pz, sp, b, hend⟩ := Core.endCmd_only (s.core.mapCmd k.id fun x => { x with sig := true }) k
    rw [State.scanStart_idle (by show (Core.endCmd _ _).part.scan = 0; rw [hend]; exact hscan)] at hrun
    refine ⟨_, hrun, fun c hc => ?_, rfl, ?_, fun n hn => ?_⟩
    · rw [← hid]
      exact Core.endCmd_gone _ k c hc
    · show (Core.endCmd _ _).pool = _
      rw [hend]
      rfl
    · exact (Core.endCmd_tile (s.core.mapCmd k.id fun x => { x with sig := true }) k hn hdsts hcons).trans rfl
  · have hid : k.id = id := beq_iff_eq.1 (List.find?_some hk :)
    obtain ⟨x, hx⟩ := hop
    have hwork : s.work k = (s.onCore fun c => c.spWrite cb.dst (s.core.spRead cb.src cb.len)).completeCmd k := by
      rw [State.work, hx]
      exact workKcopy_row hcb hprog hs hd hr hbk h0 h4 hp
    have hne : s.core.spRead cb.src cb.len ≠ [] := by
      refine List.ne_nil_of_length_pos ?_
      show 0 < (Mem.read _ _ _).length
      rw [Mem.read_length]
      exact h0
    let c1 : Machine.Core := (s.core.spWrite cb.dst (s.core.spRead cb.src cb.len)).mapCmd k.id fun x => { x with sig := true }
    have hc1 : c1 = (Safety.withScratch s.core cb.dst (s.core.spRead cb.src cb.len)).mapCmd k.id fun x => { x with sig := true } := by
      show Core.mapCmd _ _ _ = _
      rw [Core.spWrite_eq _ _ hne]
    obtain ⟨ts, pz, sp, b, hend⟩ := Core.endCmd_only c1 k
    have hrun := commandComplete_runs hk hstop hafter hst (t := s.onCore fun _ => c1.endCmd k)
      (by rw [hsig, if_neg Bool.false_ne_true, hwork, completeCmd_plain hso hw]; rfl)
    rw [State.scanStart_idle (by show (Core.endCmd _ _).part.scan = 0; rw [hend, hc1]; exact hscan)] at hrun
    refine ⟨_, hrun, fun c hc => ?_, rfl, ?_, ?_⟩
    · rw [← hid]
      exact Core.endCmd_gone _ k c hc
    · show (Core.endCmd _ _).regs = _
      rw [hend, hc1]
      rfl
    · show (Core.endCmd _ _).pool = _
      rw [hend, hc1]
      rfl
  · have hid : k.id = id := beq_iff_eq.1 (List.find?_some hk :)
    have hlegal : o.illegal = false := SyncObj.legal_of (by rcases hmode with h | h | h <;> omega) (fun h => by rcases hmode with h' | h' | h' <;> omega)
    have hrun := commandComplete_runs hk hstop hafter hst (t := (f.store p.pa (syncHead o.raised)).onCore fun c => c.endCmd k)
      (by rw [hsig]; exact completeCmd_signals hw hrel hso hrels hf hpw hdev hbond hlen hsees hwin hpoison ho hlegal)
    obtain ⟨hmem, part, hcore⟩ := State.scanStart_keeps ((f.store p.pa (syncHead o.raised)).onCore fun c => c.endCmd k)
    refine ⟨_, hrun, fun c hc => ?_, hmem.trans ?_⟩
    · rw [hcore] at hc
      rw [← hid]
      exact Core.endCmd_gone _ k c hc
    · have hraised : syncHead o.raised = Safety.objBytes (Safety.objRaised o false) := by
        unfold Safety.objRaised
        rw [if_neg fun h => Bool.false_ne_true h.2]
        rfl
      rw [← hraised]
      refine State.store_mem ?_ p.pa false
      unfold syncHead
      intro h
      have := congrArg List.length h
      simp [toBytes] at this
  · obtain ⟨ts, pz, sp, b, hend⟩ := s.core.endCall_only k
    have hrun := matrixCallComplete_runs (completeItem_call hstop hq hrun hdone) (by show (Core.endCall _ _).part.scan = 0; rw [hend]; exact hscan)
    refine ⟨_, hrun, ?_, ?_, rfl, ?_, fun n hn hk => Core.endCall_tile s.core k hn hk⟩
    · show (Core.endCall _ _).mx = _
      rw [hend]
      show { s.core.mx with queue := s.core.mx.queue.drop 1, run := none } = _
      rw [hq]
      rfl
    · show (Core.endCall _ _).pool = _
      rw [hend]
      rfl
    · show (Core.endCall _ _).regs = _
      rw [hend]
      rfl
  · refine ⟨_, matrixCallComplete_runs (completeItem_mload hstop hq) hscan, ?_, ?_, fun m hm => ?_⟩
    · have hqd : s.core.mx.queue.drop 1 = r := by rw [hq]; rfl
      exact congrArg (fun q => { s.core.mx with queue := q, run := none, store := (n, ws) :: s.core.mx.store.filter fun p => p.1 != n }) hqd
    · exact (store_put ws n).trans (if_pos rfl)
    · exact (store_put ws m).trans (if_neg hm)
  · have hl : s.core.mx.loadBank = load := hload.symm
    rw [← hl] at hst ⊢
    obtain ⟨hact, hbank, -, honly⟩ := s.core.popItem.mx.swap_banks
    have hmx : s.core.popItem.mx.loadBank = s.core.mx.loadBank := rfl
    refine ⟨_, matrixCallComplete_runs (completeItem_mswap hstop hq hst) hscan, ?_, hact, hbank, rfl, rfl⟩
    show s.core.popItem.mx.swap.queue = r
    rw [honly]
    show s.core.mx.queue.drop 1 = r
    rw [hq]
    rfl
  · exact ⟨_, bankDrained_runs h hn, Matrix.bank_setBank_same _ _ _, Matrix.bank_setBank_not _ _ _, rfl, rfl, rfl⟩
  · rw [descriptorReload_runs hstop hq]
    have hend : s.core.endReload tab [] = { s.core with mx := { s.core.mx with queue := [], descs := tab } } := by
      unfold Core.endReload
      rw [hq]
      rfl
    exact congrArg (fun c => Host.Outcome.next { s with core := c }) hend

end Sys2Proof

namespace Sys2Proof.Machine

/-! ### Reads of the Harbourmaster and of the page walkers (R167, R198, R444) -/

/-- What translation and the Harbourmaster's reads may change: the caches of the Quays and the walkers, the focused core's cached
translations, and what goes out to other modules. -/
def State.readsTo (s t : State) : Prop := ∃ q w a b p tlb f n, w.length = s.windows.length ∧
  t = { s with quays := q, windows := w, walkA := a, walkB := b, walkP := p, core := { s.core with tlb := tlb }, ferry := f, fresh := n }

theorem State.readsTo_refl (s : State) : s.readsTo s := ⟨_, _, _, _, _, _, _, _, rfl, rfl⟩

theorem State.readsTo_trans {s t u : State} (h : s.readsTo t) (h' : t.readsTo u) : s.readsTo u := by
  obtain ⟨q, w, a, b, p, tlb, f, n, hw, rfl⟩ := h
  obtain ⟨q', w', a', b', p', tlb', f', n', hw', rfl⟩ := h'
  exact ⟨q', w', a', b', p', tlb', f', n', hw'.trans hw, rfl⟩

theorem State.touch_windows (s : State) (pa n : Nat) : (s.touch pa n).windows.length = s.windows.length := by
  unfold State.touch
  split
  · rfl
  · exact List.length_map ..

theorem State.touch_readsTo (s : State) (pa n : Nat) : s.readsTo (s.touch pa n) := by
  obtain ⟨q, w, h⟩ := s.touch_only pa n
  have hw := s.touch_windows pa n
  rw [h] at hw ⊢
  exact ⟨q, w, s.walkA, s.walkB, s.walkP, s.core.tlb, s.ferry, s.fresh, hw, rfl⟩

theorem State.touchWalk_readsTo (s : State) (t : Option Task) (root va : Nat) : s.readsTo (s.touchWalk t root va) := by
  have hfold : ∀ (l : List Nat) (s : State), s.readsTo (l.foldl (fun s a => s.touch a 8) s) := by
    intro l
    induction l with
    | nil => exact fun s => s.readsTo_refl
    | cons a l ih => exact fun s => State.readsTo_trans (s.touch_readsTo a 8) (ih _)
  unfold State.touchWalk
  split
  · exact s.readsTo_refl
  · exact hfold _ _

theorem State.xlat_readsTo (s : State) (via : Via) (va : Nat) : s.readsTo (s.xlat via va).1 := by
  have walked (t : Option Task) (root : Nat) := s.touchWalk_readsTo t root va
  have cachedP (t : Option Task) (root : Nat) (x : Xlat) :
      s.readsTo { s.touchWalk t root va with walkP := x :: (s.touchWalk t root va).walkP } :=
    State.readsTo_trans (walked t root) ⟨_, _, _, _, _, _, _, _, rfl, rfl⟩
  unfold State.xlat
  dsimp only
  split
  · exact s.readsTo_refl
  · split
    · exact s.readsTo_refl
    · split
      · split
        · exact s.readsTo_refl
        · split
          · exact cachedP _ _ _
          · exact walked _ _
      · split
        · exact s.readsTo_refl
        · split
          · exact cachedP _ _ _
          · exact walked _ _
      · split
        · exact s.readsTo_refl
        · split
          · exact ⟨_, _, _, _, _, _, _, _, rfl, rfl⟩
          · split
            · split
              · exact State.readsTo_trans (walked s.task s.root) ⟨_, _, _, _, _, _, _, _, rfl, rfl⟩
              · exact State.readsTo_trans (walked s.task s.root) ⟨_, _, _, _, _, _, _, _, rfl, rfl⟩
            · exact walked _ _

theorem State.pieces_readsTo (via : Via) (write : Bool) : ∀ (fuel : Nat) (s : State) (va len : Nat),
    s.readsTo (s.pieces via write fuel va len).1
  | 0, s, _, _ => s.readsTo_refl
  | fuel + 1, s, va, len => by
    have hx := s.xlat_readsTo via va
    unfold State.pieces
    split
    · exact s.readsTo_refl
    · generalize s.xlat via va = r at hx
      obtain ⟨u, _ | x⟩ := r
      · exact hx
      · dsimp only at hx ⊢
        split
        · exact hx
        · split
          · exact hx
          · have hp := State.pieces_readsTo via write fuel u (va + min len (x.size - va % x.size)) (len - min len (x.size - va % x.size))
            generalize u.pieces via write fuel (va + min len (x.size - va % x.size)) (len - min len (x.size - va % x.size)) = r at hp
            obtain ⟨v, _ | ps⟩ := r
            · exact State.readsTo_trans hx hp
            · exact State.readsTo_trans hx hp

theorem State.hmReadPieces_readsTo (x : HmCtx) : ∀ (ps : List Piece) (s : State), s.readsTo (s.hmReadPieces x ps).1
  | [], s => s.readsTo_refl
  | p :: ps, s => by
    unfold State.hmReadPieces
    extract_lets s1 bs one
    have h1 : s.readsTo one.1 := by
      dsimp only [one]
      split
      · split
        · exact s.touch_readsTo _ _
        · exact s.touch_readsTo _ _
      · split
        · exact s.readsTo_refl
        · split
          · exact s.readsTo_refl
          · exact ⟨_, _, _, _, _, _, _, _, rfl, rfl⟩
        · exact s.touch_readsTo _ _
    clear_value one
    obtain ⟨u, _ | bs⟩ := one
    · exact h1
    · have h2 := State.hmReadPieces_readsTo x ps u
      dsimp only
      generalize u.hmReadPieces x ps = r at h2
      obtain ⟨v, _ | y⟩ := r
      · exact State.readsTo_trans h1 h2
      · exact State.readsTo_trans h1 h2

theorem State.readPreds_readsTo (x : HmCtx) : ∀ (ps : List Nat) (s : State), s.readsTo (s.readPreds x ps).1
  | [], s => s.readsTo_refl
  | p :: ps, s => by
    unfold State.readPreds
    have h1 := State.pieces_readsTo (.hm x.root) false 33 s p 32
    generalize s.pieces (.hm x.root) false 33 p 32 = r at h1
    obtain ⟨u, _ | l⟩ := r
    · exact h1
    · have h2 := State.hmReadPieces_readsTo x l u
      dsimp only at h1 ⊢
      generalize u.hmReadPieces x l = r at h2
      obtain ⟨v, _ | bs⟩ := r
      · exact State.readsTo_trans h1 h2
      · have h3 := State.readPreds_readsTo x ps v
        have h12 := State.readsTo_trans h1 h2
        dsimp only at h12 ⊢
        split
        · exact State.readsTo_trans h12 h3
        · split
          · exact h12
          · generalize v.readPreds x ps = r at h3
            obtain ⟨w, _ | d⟩ := r
            · exact State.readsTo_trans h12 h3
            · exact State.readsTo_trans h12 h3

theorem State.readsTo_hm {s t : State} (h : s.readsTo t) : t.hm = s.hm := by
  obtain ⟨q, w, a, b, p, tlb, f, n, -, rfl⟩ := h
  rfl

theorem State.readsTo_mem {s t : State} (h : s.readsTo t) : t.mem = s.mem := by
  obtain ⟨q, w, a, b, p, tlb, f, n, -, rfl⟩ := h
  rfl

/-! ### Launch queues (R236 to R238) -/

theorem State.emit_hm (s : State) (e : RawEvent) : (s.emit e).hm.queues = s.hm.queues ∧ (s.emit e).hm.cards = s.hm.cards ∧
    (s.emit e).hm.tasks = s.hm.tasks :=
  have h := s.emit_unevented e
  ⟨(congrArg (·.hm.queues) h :), (congrArg (·.hm.cards) h :), (congrArg (·.hm.tasks) h :)⟩

theorem State.queue_congr {s t : State} (h : t.hm.queues = s.hm.queues) (q : Nat) : t.queue q = s.queue q := by
  rw [State.queue, State.queue, h]

theorem State.queue_setQueue {s : State} {q : Nat} (hq : q < 64) (x : Queue) (j : Nat) :
    (s.setQueue q x).queue j = if j = q then x else s.queue j := by
  rw [State.queue, State.setQueue, dif_pos hq]
  by_cases hj : j = q
  · subst hj
    simp [State.queue, List.getD_eq_getElem?_getD, hq]
  · rw [if_neg hj]
    simp [State.queue, List.getD_eq_getElem?_getD, List.getElem?_set, Ne.symm hj]

theorem State.queue_setQueue_same {s : State} {q : Nat} (hq : q < 64) (x : Queue) : (s.setQueue q x).queue q = x := by
  rw [State.queue_setQueue hq, if_pos rfl]

/-- A queue's setting touches nothing but the queues. -/
theorem State.setQueue_only (s : State) (q : Nat) (x : Queue) : ∃ v, s.setQueue q x = { s with hm := { s.hm with queues := v } } := by
  unfold State.setQueue
  split
  · exact ⟨_, rfl⟩
  · exact ⟨s.hm.queues, rfl⟩

/-- A queue fault gives the queue's source up (R236). -/
theorem State.queue_queueFault {s : State} {q : Nat} (hq : q < 64) (code : Nat) :
    (s.queueFault q code).queue q = { s.queue q with cfg := { (s.queue q).cfg with src := 0 }, rereads := 0 } := by
  rw [State.queueFault, State.queue_congr (State.emit_hm _ _).1, State.queue_setQueue_same hq]

theorem State.mapCard_queues (s : State) (n : Nat) (f : Card → Card) : (s.mapCard n f).hm.queues = s.hm.queues := rfl

theorem State.retireCard_queues (s : State) (n sub : Nat) : (s.retireCard n sub).hm.queues = s.hm.queues := rfl

/-- A card's admission leaves the queues. -/
theorem State.admitCard_queues (s : State) (c : Card) (full : Bool) : (s.admitCard c full).hm.queues = s.hm.queues := by
  have hqs {t u : State} (h : t.hm.queues = s.hm.queues) (hr : t.readsTo u) : u.hm.queues = s.hm.queues :=
    (congrArg Harbour.queues (State.readsTo_hm hr)).trans h
  unfold State.admitCard
  extract_lets cfg c' h u live v
  split
  · exact (s.emit_hm _).1
  · have hv : v.hm.queues = s.hm.queues := rfl
    have hp := State.readPreds_readsTo (v.hmFor c') c'.preds v
    have hu : u.hm.queues = s.hm.queues := rfl
    clear_value v u h c'
    generalize v.readPreds (v.hmFor c') c'.preds = r at hp
    split
    · exact hu
    · split
      · exact hu
      · split
        · exact hu
        · split
          · exact hu
          · obtain ⟨w, sub | deps⟩ := r
            · have hw : w.hm.queues = s.hm.queues := hqs hv hp
              exact hw
            · have hw : w.hm.queues = s.hm.queues := hqs hv hp
              exact hw

/-- The queue whose record is consumed counts it, and every other is as it was. -/
theorem State.queue_consume {s : State} {q : Nat} (hq : q < 64) (raw : List Byte) (addr : Option Nat) (j : Nat) :
    (s.consume q raw addr).queue j = if j = q then { s.queue q with
      cfg := { (s.queue q).cfg with seq := (s.queue q).cfg.seq + 1 }, consumed := (s.queue q).consumed + 1, rereads := 0 } else s.queue j := by
  unfold State.consume
  dsimp only
  rw [State.queue_congr (State.admitCard_queues _ _ _), State.queue_setQueue hq]
  rfl

/-! ### Doorbells (R237, R290) -/

theorem State.wake_keeps (s : State) : s.wake.hm = s.hm ∧ s.wake.mem = s.mem ∧ s.wake.cores = s.cores ∧ s.wake.ferry = s.ferry ∧
    s.wake.pilot.recovery = s.pilot.recovery ∧ s.wake.pilot.power ≠ .c3 := by
  unfold State.wake
  split
  · exact ⟨rfl, rfl, rfl, rfl, rfl, nofun⟩
  · exact ⟨rfl, rfl, rfl, rfl, rfl, ‹_›⟩

theorem State.queue_wake (s : State) (q : Nat) : s.wake.queue q = s.queue q :=
  State.queue_congr (congrArg Harbour.queues s.wake_keeps.1) q

theorem Queue.overrun_iff (x : Queue) : x.overrun = true ↔ x.cfg.src = 1 ∧ 2 ^ x.cfg.lsize.toNat < (x.prod - x.consumed).toNat := by
  rw [Queue.overrun, Bool.and_eq_true, beq_iff_eq, decide_eq_true_iff, gt_iff_lt]

/-- A doorbell sets prod, and disables a queue that overruns its ring. -/
theorem queueDoorbell_runs {s : State} {q : Nat} (hq : q < 64) (prod : BitVec 32) {x : Queue} (hx : x = s.queue q) :
    exec (.queueDoorbell q prod) s = .next (if ({ x with prod := prod } : Queue).overrun
      then (s.wake.setQueue q { x with prod := prod }).queueFault q cRingOver else s.wake.setQueue q { x with prod := prod }) := by
  subst hx
  show execQueueDoorbell q prod s = _
  unfold execQueueDoorbell
  rw [if_neg (by omega)]
  dsimp only
  rw [State.queue_wake]

/-! ### The record in hand (R237, R238) -/

theorem State.consumeLaunch_none {s : State} (h : s.hm.launches = []) (q : Nat) : s.consumeLaunch q = none := by
  unfold State.consumeLaunch
  rw [h]

/-- A read of a record that waits, for the first time or again. -/
theorem recordRead_runs {s : State} {q : Nat} {x : Queue} (hq : q < 64) (hmay : s.mayConsume = true) (hl : s.hm.launches = [])
    (hx : x = s.queue q) (hsrc : x.cfg.src = 1) (hprod : x.prod ≠ x.consumed) :
    exec (if x.rereads = 0 then .recordRead q else .recordReread q) s = .next (s.readRecord q) := by
  have hw : (s.queue q).waits = true := by
    rw [← hx, Queue.waits, hsrc]
    exact bne_iff_ne.2 hprod
  split
  · next h =>
    rw [hx] at h
    show execRecordRead q s = _
    simp [execRecordRead, State.consumeLaunch_none hl, hmay, hw, h, hq]
  · next h =>
    rw [hx] at h
    show execRecordReread q s = _
    simp [execRecordReread, hmay, hw, hq, Nat.pos_of_ne_zero h]

/-- The record in hand is there to read: the ring is not overrun, and the Harbourmaster reaches it. -/
theorem State.readRecord_reads {s : State} {q pa : Nat} {x : Queue} (hx : x = s.queue q) (hover : x.overrun = false)
    (hpa : pa = x.cfg.rbase.toNat + 128 * (x.cfg.seq.toNat % 2 ^ x.cfg.lsize.toNat)) (hreach : ringReaches pa = true) :
    s.readRecord q =
      (if leVal ((s.mem.read pa 128).drop 124) = x.cfg.seq.toNat ∧ !poisonedIn s.poison pa 128 then
        let t := s.consume q (s.mem.read pa 128) (some pa)
        if (List.range 4).all fun i => ringReaches ((t.queue q).cfg.consa.toNat + i) then
          t.store (t.queue q).cfg.consa.toNat (toBytes 4 (t.queue q).consumed.toNat) else t.queueFault q cRingAddr
      else if x.rereads ≥ 8 then s.queueFault q cRecordTorn
      else s.setQueue q { x with rereads := x.rereads + 1 }) := by
  subst hx hpa
  unfold State.readRecord
  dsimp only
  rw [if_neg (Bool.eq_false_iff.1 hover), hreach]
  rfl

/-- A ring that is overrun, or that the Harbourmaster does not reach, disables its queue. -/
theorem State.readRecord_faults {s : State} {q pa : Nat} {x : Queue} (hx : x = s.queue q)
    (hpa : pa = x.cfg.rbase.toNat + 128 * (x.cfg.seq.toNat % 2 ^ x.cfg.lsize.toNat)) (h : x.overrun = true ∨ ringReaches pa = false) :
    ∃ code, s.readRecord q = s.queueFault q code := by
  subst hx hpa
  unfold State.readRecord
  dsimp only
  by_cases ho : (s.queue q).overrun = true
  · exact ⟨_, if_pos ho⟩
  · rw [if_neg ho, h.resolve_left ho]
    exact ⟨_, rfl⟩

/-! ### Launch packets (R179, R237) -/

/-- A packet that is not a duplicate is taken, and its number is remembered. -/
theorem launchPacket_runs {s : State} {p : LaunchPkt} (hrec : s.pilot.recovery = false) (hseen : (p.src, p.psn) ∉ s.ferry.seen) :
    exec (.launchPacket p) s =
      .next (({ s.wake with ferry := { s.ferry with seen := (p.src, p.psn) :: s.ferry.seen } } : State).takeLaunch p) := by
  obtain ⟨-, -, -, hf, hr, -⟩ := s.wake_keeps
  show Host.Outcome.next (s.wake.receive p.src p.psn fun s => s.takeLaunch p) = _
  unfold State.receive
  rw [hf, hr, hrec, Bool.false_or, if_neg fun h => hseen (List.contains_iff_mem.1 h)]

theorem launchPacket_seen {s : State} {p : LaunchPkt} (hseen : (p.src, p.psn) ∈ s.ferry.seen) : exec (.launchPacket p) s = .next s.wake := by
  obtain ⟨-, -, -, hf, -, -⟩ := s.wake_keeps
  show Host.Outcome.next (s.wake.receive p.src p.psn fun s => s.takeLaunch p) = _
  unfold State.receive
  rw [hf, List.contains_iff_mem.2 hseen, Bool.or_true, if_pos rfl]

/-- A packet that its queue does not take counts as a key error. -/
theorem State.takeLaunch_refused {s : State} {p : LaunchPkt} {q : Nat} {x : Queue} {stamp : BitVec 32} (hq : q = p.tag.toNat % 64)
    (hx : x = s.queue q) (hst : stamp = BitVec.ofNat 32 (leVal (p.record.drop 124)))
    (h : p.key ∈ s.ferry.revoked ∨ x.cfg.src ≠ 2 ∨ p.key ≠ x.cfg.key ∨ 64 ≤ (stamp - x.cfg.seq).toNat) :
    s.takeLaunch p = s.keyError q p.src := by
  subst hq hx hst
  unfold State.takeLaunch
  refine if_pos ?_
  simp only [Bool.or_eq_true, List.contains_iff_mem, bne_iff_ne, decide_eq_true_iff, ge_iff_le]
  tauto

/-- A packet within the window is held. -/
theorem State.takeLaunch_held {s : State} {p : LaunchPkt} {q : Nat} {x : Queue} {stamp : BitVec 32} (hq : q = p.tag.toNat % 64)
    (hx : x = s.queue q) (hst : stamp = BitVec.ofNat 32 (leVal (p.record.drop 124))) (hkey : p.key ∉ s.ferry.revoked) (hsrc : x.cfg.src = 2)
    (hk : p.key = x.cfg.key) (hwin : (stamp - x.cfg.seq).toNat < 64) (hnew : ∀ h ∈ x.held, h.1 ≠ stamp) :
    s.takeLaunch p = (let t := s.setQueue q { x with held := x.held ++ [(stamp, p.record.take 128)] }
      if t.mayConsume then (t.consumeHeld q).getD t else t) := by
  subst hq hx hst
  unfold State.takeLaunch
  dsimp only
  rw [if_neg, if_neg]
  · simp only [List.any_eq_true, beq_iff_eq, not_exists, not_and]
    exact hnew
  · simp only [Bool.or_eq_true, List.contains_iff_mem, bne_iff_ne, decide_eq_true_iff, ge_iff_le]
    rintro (((h | h) | h) | h)
    · exact hkey h
    · exact h hsrc
    · exact h hk
    · omega

theorem State.consumeHeld_none {s : State} {q : Nat} (h : ∀ y ∈ (s.queue q).held, y.1 ≠ (s.queue q).cfg.seq) : s.consumeHeld q = none := by
  unfold State.consumeHeld
  dsimp only
  split
  · rfl
  · rw [List.find?_eq_none.2 fun y hy => by rw [beq_iff_eq]; exact h y hy]

theorem State.consumeHeld_some {s : State} {q : Nat} {l : List (BitVec 32 × List Byte)} {y : BitVec 32 × List Byte} (hsrc : (s.queue q).cfg.src = 2)
    (hl : (s.queue q).held = l ++ [y]) (hy : y.1 = (s.queue q).cfg.seq) (h : ∀ y ∈ l, y.1 ≠ (s.queue q).cfg.seq) :
    s.consumeHeld q = some ((s.setQueue q { s.queue q with held := l }).consume q y.2 none) := by
  have hfind : (s.queue q).held.find? (fun h => h.1 == (s.queue q).cfg.seq) = some y := by
    rw [hl, List.find?_append, List.find?_eq_none.2 fun y hy => by rw [beq_iff_eq]; exact h y hy]
    simp [hy]
  have hkeep : (s.queue q).held.filter (fun h => h.1 != (s.queue q).cfg.seq) = l := by
    rw [hl, List.filter_append, List.filter_eq_self.2 fun y hy => bne_iff_ne.2 (h y hy)]
    simp [hy]
  unfold State.consumeHeld
  dsimp only
  rw [hfind, hkeep]
  exact if_neg fun h => h hsrc

end Sys2Proof.Machine

namespace Sys2Proof

open Machine

/-- Settles O47: a doorbell sets its queue's count; a record read consumes, counts the reread or disables its queue; a launch packet is
counted, discarded, held or consumed. -/
theorem queueEvents : Obligations.QueueEvents := by
  unfold Obligations.QueueEvents
  refine ⟨?_, ?_, ?_⟩
  on_goal 1 => refine fun s q prod x hq hx => ⟨fun hok => ?_, fun hsrc hover => ?_⟩
  on_goal 3 => intro s q pa x i hq hmay hl hx hsrc hprod hpa hi
  on_goal 4 => refine fun s p q x stamp hq hx hst hrec => ⟨launchPacket_seen, fun hseen => ?_⟩
  · have hno : ({ x with prod := prod } : Queue).overrun = false := by
      refine Bool.eq_false_iff.2 fun h => ?_
      obtain ⟨h1, h2⟩ := (Queue.overrun_iff _).1 h
      exact hok.elim (fun h => h h1) fun h => absurd h2 (by simpa using h)
    obtain ⟨hhm, hmem, hcores, -⟩ := s.wake_keeps
    refine ⟨_, by rw [queueDoorbell_runs hq prod hx, if_neg (Bool.eq_false_iff.1 hno)], State.queue_setQueue_same hq _, fun j hj => ?_, ?_, ?_⟩
    · rw [State.queue_setQueue hq, if_neg hj, State.queue_wake]
    · obtain ⟨v, hv⟩ := s.wake.setQueue_only q { x with prod := prod }
      rw [hv]
      exact hmem
    · obtain ⟨v, hv⟩ := s.wake.setQueue_only q { x with prod := prod }
      rw [hv]
      exact hcores
  · have hyes : ({ x with prod := prod } : Queue).overrun = true := (Queue.overrun_iff _).2 ⟨hsrc, hover⟩
    refine ⟨_, by rw [queueDoorbell_runs hq prod hx, if_pos hyes], ?_, ?_⟩
    · rw [State.queue_queueFault hq, State.queue_setQueue_same hq]
    · rw [State.queue_queueFault hq, State.queue_setQueue_same hq]
  · have hrun := recordRead_runs hq hmay hl hx hsrc hprod
    rw [← hi] at hrun
    have faults (h : ∃ code, s.readRecord q = s.queueFault q code) :
        ∃ t, exec i s = .next t ∧ (t.queue q).cfg = { x.cfg with src := 0 } := by
      obtain ⟨code, h⟩ := h
      exact ⟨_, hrun.trans (congrArg Host.Outcome.next h), by rw [State.queue_queueFault hq, hx]⟩
    refine ⟨fun hover => faults (State.readRecord_faults hx hpa (.inl ((Queue.overrun_iff x).2 ⟨hsrc, hover⟩))), fun hfits => ?_⟩
    have hno : x.overrun = false := Bool.eq_false_iff.2 fun h => absurd ((Queue.overrun_iff x).1 h).2 (by omega)
    refine ⟨fun hreach hstamp hcons hclean => ?_, fun hreach hstamp hre => ?_, fun hreach hstamp hre => faults ⟨cRecordTorn, ?_⟩,
      fun hreach => faults (State.readRecord_faults hx hpa (.inr hreach))⟩
    · have hread := State.readRecord_reads hx hno hpa hreach
      rw [if_pos ⟨hstamp, by rw [hclean]; rfl⟩] at hread
      have hqueue := State.queue_consume (s := s) hq (s.mem.read pa 128) (some pa) q
      rw [if_pos rfl, ← hx] at hqueue
      generalize s.consume q (s.mem.read pa 128) (some pa) = u at hread hqueue
      dsimp only at hread
      rw [hqueue, if_pos (List.all_eq_true.2 fun i hi => hcons i (List.mem_range.1 hi))] at hread
      dsimp only at hread
      have hq' : (u.store x.cfg.consa.toNat (toBytes 4 (x.consumed + 1).toNat)).queue q = u.queue q :=
        have h : (u.store x.cfg.consa.toNat (toBytes 4 (x.consumed + 1).toNat)).hm = u.hm := (congrArg State.hm (u.store_unstored x.cfg.consa.toNat (toBytes 4 (x.consumed + 1).toNat) false) :)
        State.queue_congr (congrArg Harbour.queues h) q
      refine ⟨_, hrun.trans (congrArg Host.Outcome.next hread), by rw [hq', hqueue], by rw [hq', hqueue], by rw [hq', hqueue], fun j hj => ?_⟩
      rw [State.store_mem (List.ne_nil_of_length_pos (by rw [toBytes_length]; omega)), Mem.byte_write, toBytes_length, if_pos (by omega),
        Nat.add_sub_cancel_left, toBytes_getD 4 _ j hj]
    · have hread := State.readRecord_reads hx hno hpa hreach
      rw [if_neg (fun h => hstamp h.1), if_neg (by omega)] at hread
      refine ⟨_, hrun.trans (congrArg Host.Outcome.next hread), State.queue_setQueue_same hq _, ?_⟩
      obtain ⟨v, hv⟩ := s.setQueue_only q { x with rereads := x.rereads + 1 }
      rw [hv]
    · rw [State.readRecord_reads hx hno hpa hreach, if_neg (fun h => hstamp h.1), if_pos hre]
  · have hrun := launchPacket_runs hrec hseen
    obtain ⟨hhm, hmem, -, hf, -, hpow⟩ := s.wake_keeps
    have hq64 : q < 64 := by omega
    obtain ⟨u, hu⟩ : ∃ u : State, ({ s.wake with ferry := { s.ferry with seen := (p.src, p.psn) :: s.ferry.seen } } : State) = u := ⟨_, rfl⟩
    have hux : x = u.queue q := by
      rw [← hu, hx]
      exact (s.queue_wake q).symm
    have hur : u.ferry = { s.ferry with seen := (p.src, p.psn) :: s.ferry.seen } := by rw [← hu]
    have huhm : u.hm = s.hm := by rw [← hu]; exact hhm
    have humem : u.mem = s.mem := by rw [← hu]; exact hmem
    have hupow : u.pilot.power ≠ .c3 := by rw [← hu]; exact hpow
    rw [hu] at hrun
    clear hu
    refine ⟨fun hbad => ?_, fun hkey hsrc hk hwin hnew => ⟨fun hne hwait => ?_, fun heq hpool hnum => ?_⟩⟩
    · have ht := State.takeLaunch_refused hq hux hst (by rw [hur]; exact hbad)
      obtain ⟨v, hv⟩ : ∃ v : State, ({ u with ferry := { u.ferry with keyErrors := u.ferry.keyErrors + 1 } } : State) = v := ⟨_, rfl⟩
      have hev := v.emit_hm ⟨6, q, 0, BitVec.ofNat 64 p.src⟩
      have hfer : (v.emit ⟨6, q, 0, BitVec.ofNat 64 p.src⟩).ferry = v.ferry := (congrArg (·.ferry) (v.emit_unevented _) :)
      rw [State.keyError, hv] at ht
      obtain ⟨h1, h2, h3⟩ := hev
      refine ⟨_, hrun.trans (congrArg Host.Outcome.next ht), ?_, h1.trans ?_, h2.trans ?_, h3.trans ?_⟩
      · rw [hfer, ← hv, hur]
      · rw [← hv]; exact congrArg Harbour.queues huhm
      · rw [← hv]; exact congrArg Harbour.cards huhm
      · rw [← hv]; exact congrArg Harbour.tasks huhm
    · have ht := State.takeLaunch_held hq hux hst (by rw [hur]; exact hkey) hsrc hk hwin hnew
      obtain ⟨w, hw⟩ : ∃ w : State, u.setQueue q { x with held := x.held ++ [(stamp, p.record.take 128)] } = w := ⟨_, rfl⟩
      have hwq : w.queue q = { x with held := x.held ++ [(stamp, p.record.take 128)] } := by rw [← hw, State.queue_setQueue_same hq64]
      have hnone : w.consumeHeld q = none := State.consumeHeld_none fun y hy => by
        rw [hwq] at hy ⊢
        obtain hy | hy := List.mem_append.1 hy
        · exact hwait y hy
        · rw [List.mem_singleton.1 hy]; exact hne
      rw [hw] at ht
      dsimp only at ht
      rw [hnone, Option.getD_none, ite_self] at ht
      refine ⟨_, hrun.trans (congrArg Host.Outcome.next ht), hwq, ?_⟩
      obtain ⟨v, hv⟩ := u.setQueue_only q { x with held := x.held ++ [(stamp, p.record.take 128)] }
      rw [← hw, hv]
      exact humem
    · have ht := State.takeLaunch_held hq hux hst (by rw [hur]; exact hkey) hsrc hk hwin hnew
      obtain ⟨v, hv⟩ := u.setQueue_only q { x with held := x.held ++ [(stamp, p.record.take 128)] }
      obtain ⟨w, hw⟩ : ∃ w : State, u.setQueue q { x with held := x.held ++ [(stamp, p.record.take 128)] } = w := ⟨_, rfl⟩
      have hwq : w.queue q = { x with held := x.held ++ [(stamp, p.record.take 128)] } := by rw [← hw, State.queue_setQueue_same hq64]
      have hmay : w.mayConsume = true := by
        have h1 : w.poolFull = s.poolFull := by
          rw [← hw, hv]
          show ({ u with hm := { u.hm with queues := v } } : State).poolFull = s.poolFull
          unfold State.poolFull State.poolCards
          rw [huhm]
        have h2 : w.canNumber = s.canNumber := by
          rw [← hw, hv]
          unfold State.canNumber
          rw [huhm]
        have h3 : w.pilot.power ≠ .c3 := by
          rw [← hw, hv]
          exact hupow
        rw [State.mayConsume, h1, h2, hpool, hnum, Bool.not_false, Bool.true_and, Bool.true_and]
        exact bne_iff_ne.2 h3
      have hsome := State.consumeHeld_some (s := w) (q := q) (l := x.held) (y := (stamp, p.record.take 128)) (by rw [hwq]; exact hsrc) (by rw [hwq])
        (by rw [hwq]; exact heq) (by rw [hwq]; exact fun y hy => heq ▸ hnew y hy)
      rw [hw] at ht
      dsimp only at ht
      rw [hmay, hsome, if_pos rfl, Option.getD_some] at ht
      refine ⟨_, hrun.trans (congrArg Host.Outcome.next ht), ?_, ?_, ?_⟩ <;>
        rw [State.queue_consume hq64, if_pos rfl, State.queue_setQueue_same hq64, hwq]

end Sys2Proof

namespace Sys2Proof.Machine

/-! ### The tasks that the Harbourmaster ends (R24, R240, R247) -/

/-- What a task that ends is left with, whatever becomes of its card and berth. -/
theorem State.endTask_ends {s : State} {u : Task} {st : Nat} {v : Task} (hv : v ∈ (s.endTask u st).hm.tasks) (hn : v.num = u.num) :
    v.phase = .over ∧ v.status = st := by
  obtain ⟨x, hx⟩ : ∃ x : State, (s.endTask u st).hm.tasks =
      (x.mapTask u.num fun t => { t.unstaged with phase := .over, status := st, saved := [] }).hm.tasks := by
    refine ⟨if st = stFaulted then s else s.commit u.num, ?_⟩
    unfold State.endTask
    dsimp only
    split
    · split <;> rfl
    · rfl
  rw [hx] at hv
  obtain ⟨t, rfl⟩ := State.mapTask_named _ hv hn
  exact ⟨rfl, rfl⟩

theorem State.failLoad_ends {s : State} {u : Task} {cause : Nat} {v : Task} (hv : v ∈ (s.failLoad u cause).hm.tasks) (hn : v.num = u.num) :
    v.phase = .over ∧ v.status = 3 := State.endTask_ends hv hn

theorem State.taskOf_num {s : State} {n : Nat} {u : Task} (h : s.taskOf n = some u) : u.num = n := by
  simpa using List.find?_some h

theorem State.cardOf_num {s : State} {n : Nat} {c : Card} (h : s.cardOf n = some c) : c.num = n := by
  simpa using List.find?_some h

/-! ### Dispatch (R242 to R244, R279) -/

/-- The first ready task is given the cores of its berth; without a resident image it waits for one. -/
theorem dispatch_places {s : State} {c : Card} {u : Task} {l : List Nat} (hnum : s.canNumber = true) (hfirst : s.firstReady = some (c, u))
    (hrag : c.ragged = false) (hu : u.phase = .pooled) (hl : placeBerth c.berth s.freeCores = some l) (hres : s.resident c = none) :
    exec .dispatch s = .next (s.mapTask u.num fun _ =>
      { u with cores := l, unc := false, status := 0, cause := 0, acode := none, phase := .loading }) := by
  have hphase : ¬ u.phase = .preempted := by rw [hu]; exact TaskPhase.noConfusion
  show execDispatch s = _
  simp only [execDispatch, hnum, hfirst, hrag, hl, if_neg hphase, Bool.not_true, Bool.false_eq_true, if_false]
  unfold State.startTask
  dsimp only
  rw [show (s.mapTask u.num fun _ => { u with cores := l, unc := false, status := 0, cause := 0, acode := none, phase := .loading }).resident c =
    none from hres]

/-- A pre-empted task whose cores are all free takes them back. -/
theorem dispatch_restores {s : State} {c : Card} {u : Task} (hnum : s.canNumber = true) (hfirst : s.firstReady = some (c, u))
    (hrag : c.ragged = false) (hu : u.phase = .preempted) (hfree : ∀ n ∈ u.cores, n ∈ s.freeCores) : exec .dispatch s = .next (s.restoreTask u) := by
  have hall : u.cores.all s.vacant = true := List.all_eq_true.2 fun n hn => by
    rw [State.vacant, List.contains_iff_mem.2 (hfree n hn), Bool.true_or]
  show execDispatch s = _
  simp only [execDispatch, hnum, hfirst, hrag, if_pos hu, hall, Bool.not_true, Bool.false_eq_true, if_false, if_true]

/-- The cores of a module with a pre-empted task's contexts back in place. -/
def State.tookBack (s : State) (u : Task) : State :=
  (s.dropWalks u.root).mapCores fun c => match u.saved.find? fun k => k.id == c.id with
    | some k => k.restored
    | none => c

theorem Core.restored_runs {k : Core} (h : k.part.status = .saved) : k.restored.part.status = .running ∧ k.restored.part.task = k.part.task := by
  unfold Core.restored
  dsimp only
  rw [if_pos h]
  exact ⟨rfl, rfl⟩

theorem State.mem_tookBack {s : State} {u : Task} {c k : Core} (hc : c ∈ s.cores) (hk : u.saved.find? (fun k => k.id == c.id) = some k) :
    k.restored ∈ (s.tookBack u).cores := by
  show _ ∈ s.cores.map fun c => match u.saved.find? fun k => k.id == c.id with
    | some k => k.restored
    | none => c
  exact List.mem_map.2 ⟨c, hc, by rw [hk]⟩

/-- With no faulted load saved and a part that still runs, what is left of a restored task are its cores and its messages. -/
theorem State.restoreTask_eq {s : State} {u : Task} (hloads : ∀ k ∈ u.saved, ∀ l ∈ k.loads, l.fault = none)
    (hend : (s.tookBack u).allEnded u.num = false) : ∃ f : Ferry, s.restoreTask u =
      ({ s.tookBack u with ferry := f } : State).mapTask u.num fun t => { t with phase := .running, saved := [] } := by
  have hnone : u.saved.filter (fun c => c.loads.any fun l => l.fault.isSome) = [] := by
    refine List.filter_eq_nil_iff.2 fun k hk h => ?_
    obtain ⟨l, hl, hf⟩ := List.any_eq_true.1 h
    rw [hloads k hk l hl] at hf
    exact Bool.false_ne_true hf
  refine ⟨{ s.ferry with sent := s.ferry.sent ++ (s.ferry.sent.filter fun x => match x with
    | .payload id _ _ => (u.saved.flatMap fun c => c.copy.cmds.filterMap fun k => match k.fx with
      | some x => if x.unacked > 0 then some k.id else none | none => none).contains id
    | _ => false) }, ?_⟩
  unfold State.restoreTask
  dsimp only
  rw [hnone]
  exact if_neg (Bool.eq_false_iff.1 hend)

/-! ### The code image (R23, R240, R253) -/

theorem codeImageLoad_bad {s s1 : State} {n : Nat} {u : Task} {c : Card} {e : MemErr} (hu : s.taskOf n = some u) (hc : s.cardOf u.card = some c)
    (hp : u.phase = .loading) (hb : c.bits 256 256 = 0) (hr : s.hmRead ⟨u.root, u.key, none⟩ (c.bits 56 0) 64 = (s1, .error e)) :
    exec (.codeImageLoad n) s = .next (s1.failLoad u (subBadImage * 2 ^ 16)) := by
  show execCodeImageLoad n s = _
  simp only [execCodeImageLoad, hu, hc, hp, hb, hr, ne_eq, not_true_eq_false, if_false, if_true]

theorem codeImageLoad_good {s s1 s2 : State} {n : Nat} {u : Task} {c : Card} {head body : List Byte} {h : ImageHead} {im : CodeImage} {entry : Nat}
    (hu : s.taskOf n = some u) (hc : s.cardOf u.card = some c) (hp : u.phase = .loading) (hb : c.bits 256 256 = 0)
    (hr : s.hmRead ⟨u.root, u.key, none⟩ (c.bits 56 0) 64 = (s1, .ok head)) (hh : imageHead head = some h)
    (hr2 : s1.hmRead ⟨u.root, u.key, none⟩ (c.bits 56 0 + 64) h.body = (s2, .ok body)) (ht : s2.untranslatable head = false)
    (him : expandImage (head ++ body) true = some im) (hen : launchEntry c (head ++ body) im = some entry) :
    exec (.codeImageLoad n) s = .next (s2.launchTask c u im entry) := by
  have hlaunch : s2.launchWith c u (head ++ body) = s2.launchTask c u im entry := by
    have hno : ¬ c.bits 256 256 = 1 := by omega
    simp only [State.launchWith, him, hen, if_neg hno]
  show execCodeImageLoad n s = _
  simp only [execCodeImageLoad, hu, hc, hp, hb, hr, hh, hr2, ht, hlaunch, ne_eq, not_true_eq_false, if_false, if_true, Bool.false_eq_true]

/-- Every core of the berth starts at the entry with the launch state. -/
theorem State.launchTask_core {s : State} {c : Card} {u : Task} {im : CodeImage} {entry : Nat} {k : Core} (hk : k ∈ s.cores) (hid : k.id ∈ u.cores) :
    ∃ (wbud : Word) (rank : Nat) (halted : Bool), launchCore c u wbud im entry k.id rank halted ∈ (s.launchTask c u im entry).cores := by
  obtain ⟨rank, hrank⟩ : ∃ rank, u.cores.findIdx? (· == k.id) = some rank := by
    rw [← Option.isSome_iff_exists, List.findIdx?_isSome]
    exact List.any_eq_true.2 ⟨k.id, hid, beq_self_eq_true _⟩
  refine ⟨(s.queue c.queue).cfg.wbud, rank, s.pilot.halts c.queue, ?_⟩
  show _ ∈ s.cores.map fun d => match u.cores.findIdx? (· == d.id) with
    | some rank => launchCore c u (s.queue c.queue).cfg.wbud im entry d.id rank (s.pilot.halts c.queue)
    | none => d
  exact List.mem_map.2 ⟨k, hk, by rw [hrank]⟩

/-! ### Pre-emption (R277 to R279) -/

theorem corePreemptStop_saves {s : State} (hp : s.core.bound.preempt = true) (hst : s.core.part.status = .running) (hl : s.core.loads = [])
    (hb : s.beforePreemption = false) :
    exec .corePreemptStop s = .next { s with core := { s.core with part := { s.core.part with status := .saved } } } := by
  have hsettle : s.core.settleLoads = s.core := by
    unfold Core.settleLoads
    dsimp only
    rw [hl]
    exact congrArg (fun l => ({ s.core with loads := l } : Core)) hl.symm
  show execCorePreemptStop s = _
  unfold execCorePreemptStop
  dsimp only
  rw [if_pos (by rw [hp, hst, hb]; rfl)]
  unfold State.onCore
  dsimp only
  rw [hsettle]

/-- The contexts of a stopped task are saved, and its berth is free. -/
theorem preemptionComplete_runs {s : State} {n : Nat} {u : Task} {mine : List Core} (hu : s.taskOf n = some u) (hp : u.phase = .stopping)
    (h0 : u.status = 0) (hend : s.allEnded n = false) (hmine : mine = s.cores.filter fun c => c.part.task == n && c.part.status != .none)
    (hack : ∀ c ∈ mine, c.acknowledges = true) (hsnap : s.hm.snapWait = []) :
    exec (.preemptionComplete n) s = .next ((s.mapTask n fun t => { t with saved := mine, phase := .preempted }).mapCores fun c =>
      if c.part.task = n ∧ c.part.status ≠ .none then
        { Core.reset c.id with pool := c.pool, poison := c.poison, part := { (Core.reset c.id).part with clean := false } } else c) := by
  have hall : (s.cores.filter fun c => c.part.task == n && c.part.status != .none).all Core.acknowledges = true := by
    rw [← hmine]
    exact List.all_eq_true.2 hack
  show execPreemptionComplete n s = _
  simp only [execPreemptionComplete, hu]
  rw [if_neg (by rw [hp, h0, hend, hall]; exact Bool.false_ne_true), hsnap, ← hmine]
  simp only [List.any_nil, Bool.false_eq_true, if_false]
  obtain ⟨w, hw⟩ : ∃ w, (s.mapTask n fun t => { t with saved := mine, phase := .preempted }).mapCores (fun c =>
      if c.part.task = n ∧ c.part.status ≠ .none then
        { Core.reset c.id with pool := c.pool, poison := c.poison, part := { (Core.reset c.id).part with clean := false } } else c) = w := ⟨_, rfl⟩
  have hws : w.hm.snapWait = [] := by rw [← hw]; exact hsnap
  rw [hw, State.flushSnaps, hws]
  rfl

/-- The last step of a waiting budget: the task stops, and its snapshot is due. -/
theorem waitingBudgetExhausted_runs {s : State} {u : Task} (hu : s.task = some u) (hp : u.phase = .running) (hw : s.core.ctl.wbudget = 0)
    (hst : s.core.part.status = .running) : exec .waitingBudgetExhausted s = .next { s.preemptTask u.num with hm := { (s.preemptTask u.num).hm with
      snapWait := s.hm.snapWait ++ [(u.num, (s.preemptTask u.num).core.id)] } } := by
  show execWaitingBudgetExhausted s = _
  simp only [execWaitingBudgetExhausted, hu]
  rw [if_pos (by rw [hp, hw, Core.inPart, hst]; rfl)]
  rfl

/-- A pre-emption signals the task's cores and names its phase. -/
theorem State.preemptTask_core (s : State) (n : Nat) : (s.preemptTask n).core.id = s.core.id := by
  show (if s.core.part.task = n then ({ s.core with bound := { s.core.bound with preempt := true } } : Core) else s.core).id = _
  split <;> rfl

theorem State.preemptTask_signals {s : State} {n : Nat} {c : Core} (hc : c ∈ (s.preemptTask n).cores) (ht : c.part.task = n) :
    c.bound.preempt = true := by
  obtain ⟨x, hx⟩ : ∃ x : State, (s.preemptTask n).cores =
      x.cores.map fun c => if c.part.task = n then { c with bound := { c.bound with preempt := true } } else c := ⟨s, rfl⟩
  rw [hx] at hc
  obtain ⟨d, -, rfl⟩ := List.mem_map.1 hc
  split
  · rfl
  · next h => rw [if_neg h] at ht; exact absurd ht h

/-! ### Expiry (R243) -/

/-- A late card's waiting tasks are dropped, and its status is EXPIRED unless a task gave it one before. -/
theorem cardExpire_runs {s : State} {k : Nat} {c : Card} {u : Task} (hc : s.cardOf k = some c) (hl : c.late = true) (hd : c.noDeadline = false)
    (ht : c.deadline < s.time) (hu : u ∈ s.hm.tasks) (huk : u.card = k) (hup : u.phase = .pooled) :
    exec (.cardExpire k) s = .next (s.dropPooled k stExpired 0 fun t => t.phase == .pooled) := by
  have hany : s.hm.tasks.any (fun t => t.card == k && t.phase == .pooled) = true :=
    List.any_eq_true.2 ⟨u, hu, by rw [huk, hup, beq_self_eq_true]; rfl⟩
  show execCardExpire k s = _
  simp only [execCardExpire, hc]
  rw [if_pos (by rw [hl, hd, hany, decide_eq_true ht]; rfl)]

theorem Card.settle_keeps (c : Card) : c.settle.num = c.num ∧ (c.status ≠ 0 → c.settle.status = c.status) := by
  unfold Card.settle
  split
  · exact ⟨rfl, fun h => if_neg h⟩
  · exact ⟨rfl, fun _ => rfl⟩

theorem Card.note_keeps (c : Card) (status sub cause : Nat) (acode : BitVec 32) : (c.note status sub cause acode).num = c.num ∧
    (c.status = 0 → status ≠ stDone → (c.note status sub cause acode).status = status) := by
  unfold Card.note
  split
  · exact ⟨rfl, fun _ _ => rfl⟩
  · next h => exact ⟨rfl, fun h0 hs => absurd ⟨h0, hs⟩ h⟩

/-- The card whose waiting tasks are dropped. -/
theorem State.dropPooled_card {s : State} {k status sub : Nat} {which : Task → Bool} {c : Card} (hc : s.cardOf k = some c)
    (h0 : status ≠ 0) (h1 : status ≠ stDone) : ∃ c' ∈ (s.dropPooled k status sub which).hm.cards, c'.num = k ∧ (c.status = 0 → c'.status = status) := by
  obtain ⟨d, hd⟩ : ∃ d : Card, { c with todo := c.todo - (s.hm.tasks.filter fun t => t.card == k && which t).length } = d := ⟨_, rfl⟩
  have hdnum : d.num = k := by rw [← hd]; exact (State.cardOf_num hc : c.num = k)
  have hdst : d.status = c.status := by rw [← hd]
  obtain ⟨hn1, hn2⟩ := d.note_keeps status sub 0 0
  obtain ⟨hs1, hs2⟩ := (d.note status sub 0 0).settle_keeps
  refine ⟨(d.note status sub 0 0).settle, ?_, by rw [hs1, hn1, hdnum], fun h => ?_⟩
  · show _ ∈ s.hm.cards.map fun c => if c.num = k then
        (({ c with todo := c.todo - (s.hm.tasks.filter fun t => t.card == k && which t).length } : Card).note status sub 0 0).settle else c
    exact List.mem_map.2 ⟨c, List.mem_of_find?_eq_some hc, by rw [if_pos (State.cardOf_num hc), hd]⟩
  · have hst := hn2 (hdst.trans h) h1
    rw [hs2 (by rw [hst]; exact h0), hst]

/-! ### The end of a part (R42, R245, R335) -/

/-- A task without the fabric instances that its module has joined. -/
def Task.unjoined (t : Task) : Task := { t with joins := [] }

theorem State.joinFabric_tasks (s : State) (level k : Nat) (d : Word) :
    (s.joinFabric level k d).hm.tasks.map Task.unjoined = s.hm.tasks.map Task.unjoined := by
  unfold State.joinFabric
  split
  · dsimp only
    rw [State.mapTask_tasks, List.map_map]
    refine List.map_congr_left fun t _ => ?_
    show Task.unjoined (if t.num = _ then _ else t) = _
    split <;> rfl
  · rfl

theorem State.joinEnded_tasks (s : State) : s.joinEnded.hm.tasks.map Task.unjoined = s.hm.tasks.map Task.unjoined := by
  have hfold : ∀ (l : List (Nat × Word)) (s : State),
      (l.foldl (fun s p => s.joinFabric 3 p.1 p.2) s).hm.tasks.map Task.unjoined = s.hm.tasks.map Task.unjoined := by
    intro l
    induction l with
    | nil => exact fun _ => rfl
    | cons p l ih => exact fun s => (ih _).trans (s.joinFabric_tasks 3 p.1 p.2)
  exact hfold _ _

/-- Tasks that differ in the joined instances alone are found alike. -/
theorem State.taskOf_unjoined {s t : State} (h : t.hm.tasks.map Task.unjoined = s.hm.tasks.map Task.unjoined) (n : Nat) :
    (t.taskOf n).map Task.unjoined = (s.taskOf n).map Task.unjoined := by
  have hfind (l : List Task) : (l.find? fun t => t.num == n).map Task.unjoined = (l.map Task.unjoined).find? fun t => t.num == n :=
    (List.find?_map (f := Task.unjoined) (p := fun t : Task => t.num == n)).symm
  rw [State.taskOf, State.taskOf, hfind, hfind, h]

theorem corePartEnd_runs {s e : State} {a : Bool} (ha : s.core.part.status = .ending a) (hf : s.core.finished = true)
    (he : e = ({ s with core := { s.core with part := { s.core.part with status := .ended a, clean := false } } } : State).joinEnded) :
    exec .corePartEnd s = match e.taskOf s.core.part.task with
      | some t => .next (if e.allEnded s.core.part.task && (t.phase == .running || t.phase == .stopping) then e.endTask t (e.taskStatus t) else e)
      | none => .next e := by
  subst he
  show execCorePartEnd s = _
  simp only [execCorePartEnd, ha, hf, Bool.not_true, Bool.false_eq_true, if_false]
  rfl

theorem State.taskStatus_eq (s : State) (u : Task) [Decidable (∃ c ∈ s.cores, c.part.task = u.num ∧ c.part.status = .ended true)] :
    s.taskStatus u = if u.status ≠ 0 then u.status
      else if ∃ c ∈ s.cores, c.part.task = u.num ∧ c.part.status = .ended true then 2 else 1 := by
  have hany : s.cores.any (fun c => c.part.task == u.num && c.part.status == .ended true) = true ↔
      ∃ c ∈ s.cores, c.part.task = u.num ∧ c.part.status = .ended true := by
    simp only [List.any_eq_true, Bool.and_eq_true, beq_iff_eq]
  unfold State.taskStatus
  simp only [hany]
  rfl

/-! ### The completion record (R240, R246) -/

theorem State.notifyCards_mem (pa : Nat) (done : Bool) : ∀ (l : List Card) (s : State), (s.notifyCards pa done l).mem = s.mem
  | [], _ => rfl
  | c :: l, s => by
    unfold State.notifyCards
    rw [State.notifyCards_mem pa done l]
    split
    · split <;> rfl
    · rfl

theorem State.freeBerths_mem (l : List Task) (s : State) : (l.foldl (fun s t => s.freeBerth t.num) s).mem = s.mem := by
  induction l generalizing s with
  | nil => rfl
  | cons t l ih => rw [List.foldl_cons, ih]; rfl

theorem State.notifyAll_mem (done : Bool) (l : List Nat) (s : State) : (l.foldl (fun s pa => s.notifyCards pa done s.hm.cards) s).mem = s.mem := by
  induction l generalizing s with
  | nil => rfl
  | cons pa l ih => rw [List.foldl_cons, ih, State.notifyCards_mem]

/-- The record of a card without an object to signal, written without a fault: the card and its tasks leave. -/
theorem completionRecordWrite_runs {s s1 e : State} {k : Nat} {c : Card} (hc : s.cardOf k = some c) (hclosed : c.closed = true)
    (hnum : s.canNumber = true) (hcso : c.cso = 0) (he : e = s.number ⟨1, c.queue, c.taskId 0, BitVec.ofNat 64 c.cpl⟩)
    (hw : e.hmWrite (s.hmFor c) c.cpl (c.record e.time) = (s1, none)) : ∃ t : State, t.mem = s1.mem ∧
      exec (.completionRecordWrite k) s = .next { t with hm := { t.hm with
        cards := t.hm.cards.filter fun c => c.num != k
        tasks := t.hm.tasks.filter fun t => t.card != k } } := by
  have hp := State.readsTo_mem (State.pieces_readsTo (.hm (s.hmFor c).root) false 33 s1 c.cpl 32)
  have hrun : execCompletionRecordWrite k s = (
      let (u, now) := match s1.pieces (.hm (s.hmFor c).root) false 33 c.cpl 32 with
        | (u, .ok (p :: _)) => (u, [p.pa])
        | (u, _) => (u, [])
      let u := (now ++ c.cplPa.toList).eraseDups.foldl (fun u pa => u.notifyCards pa (c.status == stDone) u.hm.cards) u
      let u := (u.hm.tasks.filter fun t => t.card == k).foldl (fun u t => u.freeBerth t.num) u
      .next { u with hm := { u.hm with
        cards := u.hm.cards.filter fun c => c.num != k
        tasks := u.hm.tasks.filter fun t => t.card != k } }) := by
    subst he
    simp only [execCompletionRecordWrite, hc, hclosed, hnum, hw, hcso, Bool.not_true, Bool.or_self, Bool.false_eq_true, if_false, if_true]
    rfl
  obtain ⟨r, hr⟩ : ∃ r : State × List Nat, (match s1.pieces (.hm (s.hmFor c).root) false 33 c.cpl 32 with
        | (u, .ok (p :: _)) => (u, [p.pa])
        | (u, _) => (u, [])) = r := ⟨_, rfl⟩
  have hr1 : r.1.mem = s1.mem := by
    rw [← hr, ← hp]
    split <;> simp_all
  rw [hr] at hrun
  obtain ⟨u, now⟩ := r
  refine ⟨_, ?_, hrun⟩
  rw [State.freeBerths_mem, State.notifyAll_mem, hr1]

end Sys2Proof.Machine

namespace Sys2Proof

open Machine

/-- Settles O48: dispatch, the code image, pre-emption, expiry, the end of a part, the completion record, the waiting budget, the pool's
clearing and the event ring's consumer. -/
theorem taskEvents : Obligations.TaskEvents := by
  unfold Obligations.TaskEvents
  refine ⟨?_, ?_, ?_, ?_, ?_, ?_, ?_, ?_, ?_, ?_⟩
  on_goal 1 => intro s c u hnum hfirst hrag
  on_goal 2 => intro s s1 n u c hu hc hp hb
  on_goal 3 => exact fun s hp hst hl hb => corePreemptStop_saves hp hst hl hb
  on_goal 3 => intro s n u mine hu hp h0 hend hmine hack hsnap
  on_goal 4 => intro s k c u hc hl hd ht hu huk hup
  on_goal 5 => intro s a e ha hf he
  on_goal 6 => intro s s1 e k c hc hclosed hnum hcso he hw
  on_goal 7 => intro s u hu hp hw hst
  on_goal 8 => intro s hst hcl
  on_goal 9 => intro s n hback hwait hsnap hlost
  · refine ⟨fun l hu hl hres => ⟨_, dispatch_places hnum hfirst hrag hu hl hres, rfl, fun v hv hn => ?_⟩, fun hu hfree hloads hex => ?_⟩
    · obtain ⟨t, rfl⟩ := State.mapTask_named _ hv hn
      exact ⟨rfl, rfl⟩
    · obtain ⟨d, hd, k, hk, hsaved, htask⟩ := hex
      have hrun := Core.restored_runs hsaved
      have hend : (s.tookBack u).allEnded u.num = false := by
        refine Bool.eq_false_iff.2 fun h => ?_
        have hk' := List.all_eq_true.1 h k.restored (State.mem_tookBack hd hk)
        rw [hrun.1, hrun.2, htask] at hk'
        simp at hk'
      obtain ⟨f, hf⟩ := State.restoreTask_eq hloads hend
      refine ⟨_, (dispatch_restores hnum hfirst hrag hu hfree).trans (congrArg Host.Outcome.next hf), rfl, fun v hv hn => ?_, fun c hc k hk => ?_⟩
      · obtain ⟨t, rfl⟩ := State.mapTask_named _ hv hn
        exact ⟨rfl, rfl⟩
      · exact State.mem_tookBack hc hk
  · have hn' := State.taskOf_num hu
    refine ⟨fun e hr => ⟨_, codeImageLoad_bad hu hc hp hb hr, fun v hv hn => State.failLoad_ends hv (hn.trans hn'.symm)⟩,
      fun s2 head h body im entry hr hh hr2 ht him hen _ =>
        ⟨_, codeImageLoad_good hu hc hp hb hr hh hr2 ht him hen, rfl, fun v hv hn => ?_, fun k hk hid => ?_⟩⟩
    · have hv' : v ∈ (s2.mapTask u.num fun t => { t with phase := .running }).hm.tasks := hv
      obtain ⟨t, rfl⟩ := State.mapTask_named _ hv' (hn.trans hn'.symm)
      rfl
    · obtain ⟨wbud, rank, halted, hmem⟩ := State.launchTask_core (c := c) (im := im) (entry := entry) hk hid
      exact ⟨_, hmem, rfl, rfl, rfl, rfl, rfl, hn', rfl, rfl, rfl, rfl⟩
  · have hall : ∀ c ∈ mine, c.acknowledges = true := fun c hc => by
      obtain ⟨h1, h2, h3, h4⟩ := hack c hc
      have hcmds : (c.copy.cmds.all fun k => !(k.runsOut && c.commandReady k)) = true := List.all_eq_true.2 fun k hk => by
        cases hr : k.runsOut
        · rfl
        · rw [h4 k hk hr]; rfl
      rw [Core.acknowledges, bne_iff_ne.2 h1, bne_iff_ne.2 h2, h3, hcmds]
      rfl
    refine ⟨_, preemptionComplete_runs hu hp h0 hend hmine hall hsnap, rfl, fun v hv hn => ?_, fun c hc ht => ?_⟩
    · obtain ⟨t, rfl⟩ := State.mapTask_named _ hv hn
      exact ⟨rfl, rfl⟩
    · rw [State.mapCores_cores] at hc
      obtain ⟨d, -, rfl⟩ := List.mem_map.1 hc
      split
      · rfl
      · next h =>
        rw [if_neg h] at ht
        by_contra hs
        exact h ⟨ht, hs⟩
  · refine ⟨_, cardExpire_runs hc hl hd ht hu huk hup, rfl, fun v hv hvk hvp => ?_, State.dropPooled_card hc (by decide) (by decide)⟩
    have hv' := (List.mem_filter.1 (show v ∈ s.hm.tasks.filter fun t => !(t.card == k && t.phase == .pooled) from hv)).2
    rw [hvk, hvp, beq_self_eq_true] at hv'
    exact Bool.false_ne_true hv'
  · have htask := State.taskOf_unjoined (State.joinEnded_tasks
      { s with core := { s.core with part := { s.core.part with status := .ended a, clean := false } } }) s.core.part.task
    rw [← he] at htask
    replace htask : (e.taskOf s.core.part.task).map Task.unjoined = (s.taskOf s.core.part.task).map Task.unjoined := htask
    have hrun := corePartEnd_runs ha hf he
    refine ⟨fun h => ?_, fun u hu hall hp => ?_⟩
    · rw [hrun]
      rcases h with h | h
      · rw [h, Option.map_none, Option.map_eq_none_iff] at htask
        rw [htask]
      · rw [h]
        cases e.taskOf s.core.part.task <;> rfl
    · rw [hu, Option.map_some] at htask
      obtain ⟨u', hu', heq⟩ := Option.map_eq_some_iff.1 htask
      have hph : u'.phase = u.phase := (congrArg Task.phase heq :)
      have hnum : u'.num = u.num := (congrArg Task.num heq :)
      have hstat : u'.status = u.status := (congrArg Task.status heq :)
      rw [hu'] at hrun
      dsimp only at hrun
      rw [hall, hph, hp] at hrun
      refine ⟨_, hrun, fun v hv hn => ?_⟩
      obtain ⟨h1, h2⟩ := State.endTask_ends hv (hn.trans hnum.symm)
      refine ⟨h1, ?_⟩
      rw [h2, State.taskStatus_eq, hstat, hnum]
  · have hclock : e.clock = s.clock := by
      rw [he]
      exact (congrArg State.clock (s.number_unevented _) :)
    have htime : e.time = s.clock / 36 := by rw [State.time, hclock]
    obtain ⟨t, hmem, hrun⟩ := completionRecordWrite_runs hc hclosed hnum hcso he (by rw [htime]; exact hw)
    refine ⟨_, hrun, hmem, fun c' hc' hk => ?_, fun v hv hk => ?_⟩
    · have := (List.mem_filter.1 hc').2
      rw [hk] at this
      exact absurd rfl (bne_iff_ne.1 this)
    · have := (List.mem_filter.1 hv).2
      rw [hk] at this
      exact absurd rfl (bne_iff_ne.1 this)
  · refine ⟨_, waitingBudgetExhausted_runs hu hp hw hst, rfl, by rw [State.preemptTask_core], fun v hv hn => ?_, fun c hc ht =>
      State.preemptTask_signals (s := s) (n := u.num) hc ht⟩
    have hv' : v ∈ (s.mapTask u.num fun t => { t with phase := .stopping }).hm.tasks := hv
    obtain ⟨t, rfl⟩ := State.mapTask_named _ hv' hn
    rfl
  · show execPoolClearDone s = _
    unfold execPoolClearDone
    rw [hst, hcl]
    rfl
  · show execEventConsumerWrite n s = _
    unfold execEventConsumerWrite State.catchUp State.numberLost State.flushSnaps
    simp [hback, hwait, hsnap, hlost, State.writeEvents, State.emitWaiting, State.writeSnaps]

end Sys2Proof

namespace Sys2Proof.Machine

/-! ### The hot-row cache (R158) -/

theorem dropAt_eq {α : Type} (k : Nat) (l : List α) : dropAt k l = l.eraseIdx k := (List.eraseIdx_eq_take_drop_succ l k).symm

/-- A row that lies in one range is written as one block. -/
theorem State.storeRow_one (s : State) {a : Nat} {data : List Byte} (hd : data ≠ []) (bad : List Nat) :
    (s.storeRow [(a, data.length)] data bad).mem = s.mem.write a data ∧ (s.storeRow [(a, data.length)] data bad).hot = s.hot := by
  have hstore : (([(a, data.length)] : List (Nat × Nat)).foldl (fun (b : State × List Byte) r => (b.1.store r.1 (b.2.take r.2), b.2.drop r.2)) (s, data)).1 =
      s.store a data := by
    simp
  have hhot : (s.store a data).hot = s.hot := (congrArg State.hot (s.store_unstored a data false) :)
  unfold State.storeRow
  dsimp only
  rw [hstore]
  exact ⟨State.store_mem hd a false, hhot⟩

/-! ### Quays (R223, R224) -/

theorem vector_set_get {α : Type} {n : Nat} (v : Vector α n) (i : Nat) (h : i < n) (x : α) (j : Fin n) :
    (v.set i x h).get j = if j.val = i then x else v.get j := by
  show (v.set i x h)[j.val] = if j.val = i then x else v[j.val]
  rw [Vector.getElem_set]
  simp only [eq_comm]

theorem State.mapQuay_get {s : State} {q : Nat} (h : q < 8) (f : Quay → Quay) (j : Fin 8) :
    (s.mapQuay q f).quays.get j = if j.val = q then f (s.quays.get j) else s.quays.get j := by
  unfold State.mapQuay
  rw [dif_pos h, vector_set_get]
  split
  · next hj =>
    obtain rfl : j = ⟨q, h⟩ := Fin.ext hj
    rfl
  · rfl

theorem State.mapQuay_only (s : State) (q : Nat) (f : Quay → Quay) : ∃ v, s.mapQuay q f = { s with quays := v } := by
  unfold State.mapQuay
  split
  · exact ⟨_, rfl⟩
  · exact ⟨s.quays, rfl⟩

theorem State.queueDrop_only (s : State) (region mark : Nat) : ∃ v, s.queueDrop region mark = { s with quays := v } := by
  unfold State.queueDrop
  split
  · exact ⟨s.quays, rfl⟩
  · exact s.mapQuay_only _ _

theorem State.queueDrops_only (region : Nat) (l : List Nat) (s : State) :
    ∃ v, l.foldl (fun s m => s.queueDrop region m) s = { s with quays := v } := by
  induction l generalizing s with
  | nil => exact ⟨s.quays, rfl⟩
  | cons m l ih =>
    obtain ⟨v, hv⟩ := s.queueDrop_only region m
    obtain ⟨w, hw⟩ := ih (s.queueDrop region m)
    exact ⟨w, by rw [List.foldl_cons, hw, hv]⟩

theorem markQuay_lt (m : Nat) : markQuay m < 8 := by
  unfold markQuay bitsOf
  exact Nat.mod_lt _ (by decide)

theorem markQuay_eq (m : Nat) : markQuay m = m / 2 ^ 8 % 8 := rfl

/-- A queued decrement stands in the queue of its mark's Quay, and every other one stays where it is. -/
theorem State.queueDrop_queues {s : State} {region m : Nat} (hm : m ≠ 0) (j : Fin 8) : ((s.queueDrop region m).quays.get j).queue =
    (s.quays.get j).queue ++ (if j.val = markQuay m then [(region, BitVec.ofNat 128 m)] else []) := by
  unfold State.queueDrop
  rw [if_neg hm, State.mapQuay_get (markQuay_lt m)]
  split
  · rfl
  · exact (List.append_nil _).symm

theorem State.queueDrop_keeps (s : State) (region m : Nat) (j : Fin 8) {x : Nat × BitVec 128} (hx : x ∈ (s.quays.get j).queue) :
    x ∈ ((s.queueDrop region m).quays.get j).queue := by
  by_cases hm : m = 0
  · rw [State.queueDrop, if_pos hm]
    exact hx
  · rw [State.queueDrop_queues hm]
    exact List.mem_append_left _ hx

theorem State.queueDrops_keep (region : Nat) (l : List Nat) (s : State) (j : Fin 8) {x : Nat × BitVec 128} (hx : x ∈ (s.quays.get j).queue) :
    x ∈ ((l.foldl (fun s m => s.queueDrop region m) s).quays.get j).queue := by
  induction l generalizing s with
  | nil => exact hx
  | cons m l ih => exact ih _ (s.queueDrop_keeps region m j hx)

theorem State.queueDrops_mem (region : Nat) (l : List Nat) (s : State) {m : Nat} (hm : m ∈ l) (h0 : m ≠ 0) (j : Fin 8) (hj : j.val = markQuay m) :
    (region, BitVec.ofNat 128 m) ∈ ((l.foldl (fun s m => s.queueDrop region m) s).quays.get j).queue := by
  induction l generalizing s with
  | nil => exact absurd hm List.not_mem_nil
  | cons a l ih =>
    rcases List.mem_cons.1 hm with rfl | hm
    · refine State.queueDrops_keep region l _ j ?_
      rw [State.queueDrop_queues h0, if_pos hj]
      exact List.mem_append_right _ List.mem_cons_self
    · exact ih _ hm

theorem reclaimDecrement_runs {s : State} {n region : Nat} {mark : BitVec 128} {r : List (Nat × BitVec 128)} (h : n < 8)
    (hq : (s.quays.get ⟨n, h⟩).queue = (region, mark) :: r) :
    exec (.reclaimDecrement n) s = .next ((s.mapQuay n fun q => { q with queue := r }).dropCount region mark.toNat) := by
  have hget : s.quays.toList[n]? = some (s.quays.get ⟨n, h⟩) := by
    simp [Vector.get, h]
  show execReclaimDecrement n s = _
  simp only [execReclaimDecrement, hget, hq]

/-- One decrement: a line at its last count dies, an immortal or dying one stays as it is. -/
theorem State.dropCount_lines (s : State) (region : Nat) (mark : BitVec 128) : (s.dropCount region mark.toNat).bond.lines =
    s.bond.lines.map fun l => if l.region = region ∧ l.mark = mark ∧ l.dying = false ∧ l.count ≠ 0xFFFFFF then
      (if l.count ≤ 1 then { l with count := 0, dying := true, since := s.hm.nextNum } else { l with count := l.count - 1 }) else l := by
  show (s.bond.lines.map fun l => if l.region = region ∧ l.mark.toNat = mark.toNat then
    (if l.dying || l.immortal then l
    else if l.count ≤ 1 then { l with count := 0, dying := true, since := s.hm.nextNum }
    else { l with count := l.count - 1 }) else l) = _
  refine List.map_congr_left fun l _ => ?_
  have hmark : l.mark.toNat = mark.toNat ↔ l.mark = mark := ⟨BitVec.eq_of_toNat_eq, congrArg BitVec.toNat⟩
  have himm : (l.dying || l.immortal) = true ↔ ¬ (l.dying = false ∧ l.count ≠ 0xFFFFFF) := by
    rw [Bool.or_eq_true, Line.immortal, beq_iff_eq, not_and_or, Bool.not_eq_false, not_not]
  simp only [hmark, himm]
  by_cases hline : l.region = region ∧ l.mark = mark
  · by_cases hlive : l.dying = false ∧ l.count ≠ 0xFFFFFF
    · have hall : l.region = region ∧ l.mark = mark ∧ l.dying = false ∧ l.count ≠ 0xFFFFFF := ⟨hline.1, hline.2, hlive⟩
      rw [if_pos hline, if_neg (not_not.2 hlive), if_pos hall]
    · rw [if_pos hline, if_pos hlive, if_neg fun h => hlive h.2.2]
  · rw [if_neg hline, if_neg fun h => hline ⟨h.1, h.2.1⟩]

theorem lineFree_runs {s : State} {region : Nat} {mark : BitVec 128} {l : Line} (hl : s.line region mark.toNat = some l) (hd : l.dying = true)
    (hidle : ∀ c ∈ s.cores ++ s.hm.tasks.flatMap (·.saved), ∀ k ∈ c.copy.cmds, isBondOp k.op = true → l.since ≤ k.id) :
    exec (.lineFree region mark) s = .next (
      let t := { s with bond := { s.bond with lines := s.bond.lines.filter fun x => !(x.region == region && x.mark == mark) } }
      if l.interior then (childrenOf l.data).foldl (fun s c => s.queueDrop region c) t else t) := by
  have hnone : (s.allCores.any fun c => c.copy.cmds.any fun k => isBondOp k.op && decide (k.id < l.since)) = false := by
    refine List.any_eq_false.2 fun c hc h => ?_
    obtain ⟨k, hk, hb⟩ := List.any_eq_true.1 h
    rw [Bool.and_eq_true, decide_eq_true_iff] at hb
    have := hidle c hc k hk hb.1
    omega
  show execLineFree region mark s = _
  simp only [execLineFree, hl, hd, hnone, Bool.not_true, Bool.or_self, Bool.false_eq_true, if_false]

/-! ### Pinned windows (R167) -/

theorem State.store_windows (s : State) (pa : Nat) (bs : List Byte) (bad : Bool) : (s.store pa bs bad).windows.length = s.windows.length := by
  unfold State.store
  split
  · rfl
  · exact s.touch_windows pa bs.length

theorem State.writeEvents_windows : ∀ (n : Nat) (s : State), (s.writeEvents n).windows.length = s.windows.length
  | 0, _ => rfl
  | n + 1, s => by
    unfold State.writeEvents
    split
    · rfl
    · split
      · dsimp only
        rw [State.writeEvents_windows n]
        exact s.store_windows _ _ _
      · rfl

theorem State.emit_windows (s : State) (e : RawEvent) : (s.emit e).windows.length = s.windows.length := by
  unfold State.emit State.number State.numberLost State.addEvent
  dsimp only
  split
  · rw [State.writeEvents_windows]
    dsimp only
    split
    · exact State.writeEvents_windows _ _
    · rfl
  · split <;> rfl

theorem State.readsTo_windows {s t : State} (h : s.readsTo t) : t.windows.length = s.windows.length := by
  obtain ⟨q, w, a, b, p, tlb, f, n, hw, rfl⟩ := h
  exact hw

theorem State.hmWritePieces_windows (x : HmCtx) : ∀ (ps : List Piece) (bs : List Byte) (s : State),
    (s.hmWritePieces x ps bs).1.windows.length = s.windows.length
  | [], _, _ => rfl
  | p :: ps, bs, s => by
    unfold State.hmWritePieces
    extract_lets one
    have h1 : one.1.windows.length = s.windows.length := by
      dsimp only [one]
      split
      · rfl
      · split <;> rfl
      · exact s.store_windows _ _ _
    clear_value one
    obtain ⟨u, _ | e⟩ := one
    · exact (State.hmWritePieces_windows x ps _ u).trans h1
    · exact h1

theorem State.hmSignal_windows (s : State) (x : HmCtx) (va : Nat) : (s.hmSignal x va).1.windows.length = s.windows.length := by
  have hp := State.readsTo_windows (State.pieces_readsTo (.hm x.root) true 2 s va 64)
  unfold State.hmSignal
  generalize s.pieces (.hm x.root) true 2 va 64 = r at hp
  obtain ⟨u, _ | ps⟩ := r
  · exact hp
  · have hr := State.readsTo_windows (u.hmReadPieces_readsTo x ps)
    dsimp only at hp ⊢
    split
    · split
      · exact hp
      · split
        · exact hp
        · exact hp
    · split
      · exact hp
      · generalize u.hmReadPieces x ps = r at hr
        obtain ⟨v, _ | bs⟩ := r
        · exact hr.trans hp
        · dsimp only at hr ⊢
          split
          · exact hr.trans hp
          · exact (State.hmWritePieces_windows x _ _ v).trans (hr.trans hp)

theorem State.signalRso_windows (s : State) (w : Window) : (s.signalRso w).windows.length = s.windows.length := by
  unfold State.signalRso
  split
  · rfl
  · have hs := s.hmSignal_windows ⟨w.root, 0, none⟩ w.rso
    generalize s.hmSignal ⟨w.root, 0, none⟩ w.rso = r at hs
    obtain ⟨u, _ | _ | _⟩ := r
    · exact hs
    · exact hs
    · dsimp only at hs ⊢
      split
      · exact (u.emit_windows _).trans hs
      · exact (u.emit_windows _).trans hs

/-- The window that a tick leaves of one that it finds. -/
def Window.faded (w : Window) : Window := { w with count := if w.hit then w.fade else w.count - 1, hit := false }

/-- One window fades: it stays while its count is left. -/
theorem State.fadeTick_one {s : State} {w : Window} (hw : s.windows = [w]) : s.fadeTick =
    (if w.faded.count = 0 then ({ s with fades := s.fades + 1, windows := [w.faded] } : State).releaseWindow w.faded
    else { s with fades := s.fades + 1, windows := [w.faded] }) := by
  unfold State.fadeTick
  dsimp only
  rw [hw]
  show (List.foldl State.releaseWindow _ ([w.faded].filter fun w => w.count == 0)) = _
  by_cases h : w.faded.count = 0
  · rw [if_pos h, List.filter_cons_of_pos (p := fun w : Window => w.count == 0) (beq_iff_eq.2 h)]
    rfl
  · rw [if_neg h, List.filter_cons_of_neg (p := fun w : Window => w.count == 0) (fun h' => h (beq_iff_eq.1 h'))]
    rfl

theorem State.releaseWindow_gone {s : State} {w : Window} (hw : s.windows = [w]) : (s.releaseWindow w).windows = [] := by
  refine List.eq_nil_of_length_eq_zero ((State.signalRso_windows _ w).trans ?_)
  show (s.windows.filter fun x => x.num != w.num).length = 0
  simp [hw]

/-! ### The memory controllers (R248) -/

/-- The class that is served: one that waits, of the greatest accumulator, the lowest number first. -/
theorem nextClass_best {acc : Vector Int 16} : ∀ {l : List (Nat × Nat)}, l ≠ [] → ∃ p, nextClass acc l = some p ∧ p ∈ l ∧
    ∀ q ∈ l, acc.toList.getD q.1 0 < acc.toList.getD p.1 0 ∨ (acc.toList.getD q.1 0 = acc.toList.getD p.1 0 ∧ p.1 ≤ q.1)
  | [], h => absurd rfl h
  | p :: r, _ => by
    by_cases hr : r = []
    · subst hr
      exact ⟨p, rfl, List.mem_cons_self, fun q hq => .inr (by rw [List.mem_singleton.1 hq]; exact ⟨rfl, Nat.le_refl _⟩)⟩
    · obtain ⟨q, hq, hmem, hbest⟩ := nextClass_best (acc := acc) hr
      have hstep : nextClass acc (p :: r) = if acc.toList.getD q.1 0 > acc.toList.getD p.1 0 ∨
          (acc.toList.getD q.1 0 = acc.toList.getD p.1 0 ∧ q.1 < p.1) then some q else some p := by
        simp only [nextClass, hq]
      rw [hstep]
      split
      · next h =>
        refine ⟨q, rfl, List.mem_cons_of_mem _ hmem, fun x hx => ?_⟩
        rcases List.mem_cons.1 hx with rfl | hx
        · omega
        · exact hbest x hx
      · next h =>
        refine ⟨p, rfl, List.mem_cons_self, fun x hx => ?_⟩
        rcases List.mem_cons.1 hx with rfl | hx
        · exact .inr ⟨rfl, Nat.le_refl _⟩
        · have := hbest x hx
          omega

theorem Card.bclass_eq (c : Card) : c.bclass = c.raw.toNat / 2 ^ 272 % 16 := rfl

theorem Card.bclass_lt (c : Card) : c.bclass < 16 := Nat.mod_lt _ (by decide)

theorem State.requestClass_lt (s : State) (r : Requester) : s.requestClass r < 16 := by
  cases r with
  | task num =>
    show (match s.hm.tasks.find? fun t => t.num == num with | some t => s.classOf t | none => 0) < 16
    split
    · next t _ =>
      unfold State.classOf
      cases s.cardOf t.card with
      | none => decide
      | some c => exact c.bclass_lt
    · decide
  | host => exact (by decide : (0 : Nat) < 16)
  | pilot => exact (by decide : (0 : Nat) < 16)
  | bond => exact (by decide : (0 : Nat) < 16)

theorem memoryRequestServe_runs {s : State} (ctrl : Fin 16) {pending : List (Requester × Nat)} {c b : Nat}
    (hc : nextClass (s.ctrls.get ctrl) (pending.map fun p => (s.requestClass p.1, p.2)) = some (c, b)) :
    exec (.memoryRequestServe ctrl pending) s = .next { s with
      ctrls := s.ctrls.set ctrl.val (servedAcc (s.ctrls.get ctrl) (if ctrl.val < 8 then s.pilot.hbm else s.pilot.lpddr) c b) ctrl.isLt } := by
  show execMemoryRequestServe ctrl pending s = _
  unfold execMemoryRequestServe
  rw [dif_pos ctrl.isLt]
  dsimp only
  rw [show s.ctrls.get ⟨ctrl.val, ctrl.isLt⟩ = s.ctrls.get ctrl from rfl, hc]

theorem servedAcc_get (acc : Vector Int 16) (shares : Vector Nat 16) (c b : Nat) (i : Fin 16) : (servedAcc acc shares c b).get i =
    (if i.val = c then Max.max (Min.min (acc.get i + (shares.get i * b : Nat)) (64 * 16384) - 64 * b) (-(64 * 16384))
     else Min.min (acc.get i + (shares.get i * b : Nat)) (64 * 16384)) := by
  show (Vector.ofFn _)[i.val] = _
  rw [Vector.getElem_ofFn]

end Sys2Proof.Machine

namespace Sys2Proof

open Machine

/-- Settles O49: promotions and write-backs, decrements and freed lines, the tick that fades the pinned windows, and the memory controllers'
choice. -/
theorem memorySystemEvents : Obligations.MemorySystemEvents := by
  unfold Obligations.MemorySystemEvents
  refine ⟨?_, ?_, ?_, ?_, ?_, ?_, ?_, ?_⟩
  on_goal 1 => intro s k p hp
  on_goal 2 => intro s k a w hw hd hhome
  on_goal 3 => intro s n region mark q r h hq hqueue
  on_goal 4 => intro s region mark l hl hd hidle
  on_goal 5 => intro s hle
  on_goal 6 => intro s w n hlt hw hn
  on_goal 7 => intro s ctrl pending shares hne hshares
  on_goal 8 => intro s
  · show execPromotionComplete k s = _
    simp only [execPromotionComplete, hp, dropAt_eq]
  · have hrun : exec (.writeBackArrival k) s = .next (s.landBack w) := by
      show execWriteBackArrival k s = _
      simp only [execWriteBackArrival, hw]
    obtain ⟨hmem, hhot⟩ := s.storeRow_one (a := a) hd w.bad
    rw [← hhome] at hmem hhot
    refine ⟨_, hrun, hmem, fun x hx => ?_, (congrArg HotRows.ways hhot :)⟩
    exact bne_iff_ne.1 (List.mem_filter.1 hx).2
  · subst hq
    refine ⟨_, reclaimDecrement_runs h hqueue, ?_, ?_, ?_⟩
    · show (s.mapQuay n fun q => { q with queue := r }).quays.get ⟨n, h⟩ = _
      rw [State.mapQuay_get h, if_pos rfl]
    · obtain ⟨v, hv⟩ := s.mapQuay_only n fun q => { q with queue := r }
      show (s.mapQuay n fun q => { q with queue := r }).mem = s.mem
      rw [hv]
    · obtain ⟨v, hv⟩ := s.mapQuay_only n fun q => { q with queue := r }
      rw [State.dropCount_lines, hv]
  · refine ⟨_, lineFree_runs hl hd hidle, ?_⟩
    generalize ht : ({ s with bond := { s.bond with lines := s.bond.lines.filter fun x => !(x.region == region && x.mark == mark) } } : State) = t
    have hmem : t.mem = s.mem := by rw [← ht]
    have hlines : t.bond.lines = s.bond.lines.filter fun x => !(x.region == region && x.mark == mark) := by rw [← ht]
    have hquays : t.quays = s.quays := by rw [← ht]
    obtain ⟨v, hv⟩ := State.queueDrops_only region (childrenOf l.data) t
    dsimp only
    cases hi : l.interior with
    | false => exact ⟨hmem, hlines, fun _ => hquays, fun h => Bool.noConfusion h⟩
    | true =>
      rw [if_pos rfl]
      refine ⟨by rw [hv]; exact hmem, by rw [hv]; exact hlines, fun h => Bool.noConfusion h, fun _ c hc m hm h0 => ?_⟩
      refine ⟨⟨m / 2 ^ 8 % 8, Nat.mod_lt _ (by decide)⟩, rfl, State.queueDrops_mem region _ t ?_ h0 _ (markQuay_eq m).symm⟩
      rw [hm]
      exact List.mem_map.2 ⟨c, List.mem_range.2 hc, rfl⟩
  · show execWindowFadeTick s = _
    exact if_neg (by unfold State.time; omega)
  · have hrun : exec .windowFadeTick s = .next s.fadeTick := if_pos hlt
    have hf := State.fadeTick_one hw
    have hcount : w.faded.count = n := hn.symm
    rw [hcount] at hf
    refine ⟨fun h0 => hrun.trans ?_, fun h0 => ⟨_, hrun, ?_⟩⟩
    · rw [hf, if_neg h0, hn]
      rfl
    · rw [hf, if_pos h0]
      exact State.releaseWindow_gone rfl
  · obtain ⟨⟨c, b⟩, hbest, hmem, hall⟩ := nextClass_best (acc := s.ctrls.get ctrl) (l := pending.map fun p => (s.requestClass p.1, p.2))
      (fun h => hne (List.map_eq_nil_iff.1 h))
    obtain ⟨⟨r, b'⟩, hr, hrc⟩ := List.mem_map.1 hmem
    obtain ⟨hclass, rfl⟩ := Prod.mk.inj hrc
    have hc : c < 16 := hclass ▸ s.requestClass_lt r
    have hget (d : Fin 16) : (s.ctrls.get ctrl).toList.getD d.val 0 = (s.ctrls.get ctrl).get d := vector_toList_getD _ d 0
    refine ⟨_, ⟨c, hc⟩, b', memoryRequestServe_runs ctrl hbest, ⟨r, hr, hclass⟩, fun p hp d hd => ?_, fun i => ?_, fun j hj => ?_, rfl⟩
    · have h := hall (s.requestClass p.1, p.2) (List.mem_map.2 ⟨p, hp, rfl⟩)
      dsimp only at h
      rw [hd, hget d, hget ⟨c, hc⟩] at h
      exact h
    · rw [vector_set_get, if_pos rfl, servedAcc_get, hshares]
      simp only [Fin.ext_iff]
    · rw [vector_set_get, if_neg fun h => hj (Fin.ext h)]
  · refine ⟨rfl, rfl, rfl, fun u c hu hc => ?_⟩
    show (match s.hm.tasks.find? fun t => t.num == u.num with | some t => s.classOf t | none => 0) = _
    rw [hu]
    show ((s.cardOf u.card).map Card.bclass).getD 0 = _
    rw [hc]
    exact c.bclass_eq

end Sys2Proof
end

section
/-! PROOFS. The fabric, the host, the management messages, the links and the spares: FabricMessages, HostAndAttestation,
ManagementMessages, LinksPowerAndSpares and SparesAndRemaps. -/

namespace Sys2Proof

open Machine

/-- A module at reset whose byte 0 is 1 and whose fabric group 0 has the key 0 on its list. -/
def listedState : State :=
  { State.reset with mem := [(0, 1)], ferry := { State.reset.ferry with keyLists := [(0, [0])] } }

/-- An ATOM of code 7 (the greater, unsigned) on the 32-bit word at address 0, with a bit above the operand's 32. -/
def overwideAtom : RemotePkt := ⟨0, 1, 0, 0, 0, 0, 0, .atom 7 false (2 ^ 32)⟩

/-- Refutes O50: at width 32 a remote ATOM takes the low 32 bits of its operand, as R299 has it of a core's own, while the statement compares
the whole 64 bits. For the greater of 1 and an operand whose low word is 0, the model leaves 1 and the statement asks for 0. -/
theorem not_fabricMessages : ¬ Obligations.FabricMessages := by
  unfold Obligations.FabricMessages
  rintro ⟨-, -, -, -, -, -, -, -, hremote, -⟩
  obtain ⟨-, hlisted⟩ := hremote listedState overwideAtom [(1, 0)] (by decide) (by decide) (by decide) _ rfl
  obtain ⟨-, hclean⟩ := hlisted (by decide) (by decide) (by decide) (by decide)
  obtain ⟨-, hatom⟩ := hclean (by decide)
  obtain ⟨t, ht, hmem, -⟩ := hatom 7 false (2 ^ 32) 4 rfl rfl (by decide)
  have hleft : (match exec (.remoteAccessPacket overwideAtom) listedState with | .next t => t.mem.byte 0 | _ => 0) = 1 := by rfl
  rw [ht] at hleft
  have hasked : t.mem.byte 0 = 0 := by rw [hmem]; rfl
  exact absurd (hasked.symm.trans hleft) (by decide)

end Sys2Proof

namespace Sys2Proof.Machine

/-! ### The host's accesses (R210 to R212, R281, R287) -/

theorem State.touch_host (s : State) (pa n : Nat) : (s.touch pa n).mem = s.mem ∧ (s.touch pa n).cores = s.cores ∧ (s.touch pa n).host = s.host := by
  obtain ⟨q, w, h⟩ := s.touch_only pa n
  rw [h]
  exact ⟨rfl, rfl, rfl⟩

theorem State.store_host (s : State) (pa : Nat) (bs : List Byte) : (s.store pa bs).host = s.host :=
  (congrArg State.host (s.store_unstored pa bs false) :)

theorem populated_eq {pa n : Nat} (h : 0 < n) : populated pa n = (isDevice pa && isDevice (pa + n - 1)) := by
  rw [populated, bne_iff_ne.2 (by omega : n ≠ 0), Bool.true_and]

theorem hostBar2Read_runs {s : State} {off len : Nat} (hrec : s.pilot.recovery = false) (hlen : 0 < len) (hbar : off + len ≤ 2 ^ 36) :
    exec (.hostBar2Read off len) s = .next (if isDevice (s.host.bar2 + off) && isDevice (s.host.bar2 + off + len - 1)
      then (s.touch (s.host.bar2 + off) len).hostReply
        (.hostRead (s.host.bar2 + off) (s.mem.read (s.host.bar2 + off) len) (poisonedIn s.poison (s.host.bar2 + off) len))
      else s.hostReply (.hostRead (s.host.bar2 + off) (List.replicate len 0xFF) false)) := by
  have hok : (decide (len = 0) || decide (off + len > barSize)) = false := by
    rw [decide_eq_false (by omega), decide_eq_false (by unfold barSize; omega)]
    rfl
  show execHostBar2Read off len s = _
  simp only [execHostBar2Read, hok, hrec, populated_eq hlen, Bool.false_eq_true, if_false]
  split <;> rfl

theorem hostBar2Read_recovery {s : State} {off len : Nat} (hrec : s.pilot.recovery = true) (hlen : 0 < len) (hbar : off + len ≤ 2 ^ 36) :
    exec (.hostBar2Read off len) s = .next s := by
  have hok : (decide (len = 0) || decide (off + len > barSize)) = false := by
    rw [decide_eq_false (by omega), decide_eq_false (by unfold barSize; omega)]
    rfl
  show execHostBar2Read off len s = _
  simp only [execHostBar2Read, hok, hrec, Bool.false_eq_true, if_false, if_true]

theorem hostBar2Write_runs {s : State} {off : Nat} {bs : List Byte} (hrec : s.pilot.recovery = false) (hbs : bs ≠ [])
    (hbar : off + bs.length ≤ 2 ^ 36) : exec (.hostBar2Write off bs) s =
      .next (if isDevice (s.host.bar2 + off) && isDevice (s.host.bar2 + off + bs.length - 1) then s.store (s.host.bar2 + off) bs
        else s.hostLog (s.host.bar2 + off)) := by
  have hok : (bs.isEmpty || decide (off + bs.length > barSize)) = false := by
    rw [List.isEmpty_eq_false_iff.2 hbs, decide_eq_false (by unfold barSize; omega)]
    rfl
  show execHostBar2Write off bs s = _
  simp only [execHostBar2Write, hok, hrec, populated_eq (List.length_pos_iff.2 hbs), Bool.false_eq_true, if_false]

/-- The value that an AtomicOp stores (R211). -/
theorem atomicValue_eq {op : BitVec 2} (hop : op ≠ 3) (old operand compare n : Nat) : atomicValue op old operand compare (8 * n) =
    some (if op = 0 then (old + operand) % 256 ^ n else if op = 1 then operand % 256 ^ n
      else if old = compare % 256 ^ n then operand % 256 ^ n else old) := by
  have hpow : 2 ^ (8 * n) = 256 ^ n := Nat.pow_mul 2 8 n
  obtain rfl | rfl | rfl : op = 0 ∨ op = 1 ∨ op = 2 := by
    revert op
    decide
  · simp [atomicValue, hpow]
  · simp [atomicValue, hpow]
  · simp [atomicValue, hpow]

/-- The state of an AtomicOp that the host completes with an abort. -/
def State.atomicAbort (s : State) (addr : Nat) : State := (s.hostLog addr).hostReply (.completerAbort addr)

theorem hostAtomicop_runs {s : State} {addr n v : Nat} {op : BitVec 2} {wide : Bool} {operand compare : Word} (hrec : s.pilot.recovery = false)
    (hn : n = if wide then 8 else 4) (h1 : isDevice addr = true) (h2 : isDevice (addr + n - 1) = true) (hal : addr % n = 0)
    (hattr : addr / 65536 ∈ s.host.attr)
    (hv : atomicValue op (leVal (s.mem.read addr n)) operand.toNat compare.toNat (8 * n) = some v) :
    exec (.hostAtomicop addr op wide operand compare) s = .next ((s.store addr (toBytes n v)).hostReply
      (.atomicOld addr (BitVec.ofNat 64 (leVal (s.mem.read addr n))) (poisonedIn s.poison addr n))) := by
  have hpos : 0 < n := by rw [hn]; split <;> omega
  show execHostAtomicop addr op wide operand compare s = _
  simp only [execHostAtomicop, ← hn, hrec, populated_eq hpos, h1, h2, hal, List.contains_iff_mem.2 hattr, hv, Bool.false_eq_true, if_false,
    Bool.and_self, Bool.not_true, Bool.or_self, bne_self_eq_false]

theorem hostAtomicop_aborts {s : State} {addr : Nat} {op : BitVec 2} {wide : Bool} {operand compare : Word} (hrec : s.pilot.recovery = false)
    (hattr : addr / 65536 ∉ s.host.attr) : exec (.hostAtomicop addr op wide operand compare) s = .next (s.atomicAbort addr) := by
  have hno : s.host.attr.contains (addr / 65536) = false := by
    rw [← Bool.not_eq_true, List.contains_iff_mem]
    exact hattr
  show execHostAtomicop addr op wide operand compare s = _
  simp only [execHostAtomicop, hrec, hno, Bool.not_false, Bool.or_true, Bool.false_eq_true, if_false, if_true]
  rfl

/-- Outside recovery the host always has its answer. -/
theorem hostAtomicop_next {s : State} (hrec : s.pilot.recovery = false) (addr : Nat) (op : BitVec 2) (wide : Bool) (operand compare : Word) :
    ∃ t, exec (.hostAtomicop addr op wide operand compare) s = .next t := by
  show ∃ t, execHostAtomicop addr op wide operand compare s = .next t
  unfold execHostAtomicop
  dsimp only
  rw [hrec, if_neg Bool.false_ne_true]
  generalize (if wide then 8 else 4) = n
  split
  · exact ⟨_, rfl⟩
  · split <;> exact ⟨_, rfl⟩

/-! ### The SPDM responder (R288) -/

theorem State.spdm_down {s : State} (hd : s.pilot.down = true) (t : State) (name : Nat) (bs : List Byte) : s.spdm t name bs = .next s := by
  rw [State.spdm, hd]
  rfl

theorem State.spdm_answers {s : State} (hd : s.pilot.down = false) (hr : s.pilot.recovery = false) (t : State) (name : Nat) (bs : List Byte) :
    s.spdm t name bs = .next (t.hostReply (.spdm name bs)) := by
  rw [State.spdm, hd, hr]
  rfl

theorem State.spdmAfter_answers {s : State} (hd : s.pilot.down = false) (hr : s.pilot.recovery = false) (hn : s.pilot.negotiated = true)
    (name : Nat) (bs : List Byte) : s.spdmAfter name bs = .next (s.hostReply (.spdm name bs)) := by
  rw [State.spdmAfter, if_pos hn, State.spdm_answers hd hr]

theorem State.hostReply_responded (s : State) (name : Nat) (bs : List Byte) : Safety.responded s name bs (s.hostReply (.spdm name bs)) :=
  ⟨rfl, rfl, rfl⟩

theorem SpdmReq.signed_eq (r : SpdmReq) (bs : List Byte) :
    Machine.SpdmReq.signed r bs = if r.sign then bs ++ (r.nonce ++ Config.spdmSign (r.nonce ++ bs)) else bs := by
  unfold Machine.SpdmReq.signed
  split
  · rfl
  · exact List.append_nil bs

end Sys2Proof.Machine

namespace Sys2Proof

open Machine

/-- Settles O51: the host's accesses through BAR2, its AtomicOps, and the responder's answers. -/
theorem hostAndAttestation : Obligations.HostAndAttestation := by
  unfold Obligations.HostAndAttestation
  refine ⟨⟨?_, ?_, ?_, fun s off len hrec => hostBar2Read_recovery hrec⟩, fun s hrec => ⟨fun hdown => ?_, fun hdown r => ?_⟩⟩
  · intro s off len pa hrec hpa hlen hbar
    subst hpa
    refine ⟨_, hostBar2Read_runs hrec hlen hbar, ?_⟩
    obtain ⟨h1, h2, h3⟩ := s.touch_host (s.host.bar2 + off) len
    split
    · exact ⟨h1, h2, by rw [State.hostReply, h3]⟩
    · exact ⟨rfl, rfl, rfl⟩
  · intro s off pa bs hrec hpa hbs hbar
    subst hpa
    refine ⟨_, hostBar2Write_runs hrec hbs hbar, fun h1 h2 => ?_, fun h1 => ?_⟩
    · rw [h1, h2]
      exact ⟨State.store_mem hbs _ _, s.store_host _ _⟩
    · rw [h1]
      exact ⟨rfl, rfl⟩
  · intro s addr n old new op wide operand compare hrec hn hold hnew
    obtain ⟨t, ht⟩ := hostAtomicop_next hrec addr op wide operand compare
    refine ⟨t, ht, fun h1 h2 hal hattr hop => ?_, fun hattr => ?_⟩
    · have hv := atomicValue_eq hop (leVal (s.mem.read addr n)) operand.toNat compare.toNat n
      rw [← hold, ← hnew, hold] at hv
      have hrun := hostAtomicop_runs (wide := wide) hrec hn h1 h2 hal hattr hv
      obtain rfl := Host.Outcome.next.inj (ht.symm.trans hrun)
      have hne : toBytes n new ≠ [] := List.ne_nil_of_length_pos (by rw [toBytes_length, hn]; split <;> omega)
      exact ⟨State.store_mem hne _ _, by rw [State.hostReply, State.store_host, hold]⟩
    · obtain rfl := Host.Outcome.next.inj (ht.symm.trans (hostAtomicop_aborts hrec hattr))
      exact ⟨rfl, rfl⟩
  · exact ⟨State.spdm_down hdown _ _ _, State.spdm_down hdown _ _ _, by
      show s.spdmAfter _ _ = _
      unfold State.spdmAfter
      split <;> exact State.spdm_down hdown _ _ _⟩
  · have answers := State.spdm_answers hdown hrec
    have refuses (code : Byte) : s.spdmError code = .next (s.hostReply (.spdm 0x7F [code, 0])) := answers s _ _
    refine ⟨⟨_, answers _ _ _, ⟨rfl, rfl, rfl⟩, rfl⟩, ⟨_, _, answers _ _ _, s.hostReply_responded _ _, rfl⟩,
      ⟨_, _, answers _ _ _, ⟨rfl, rfl, rfl⟩, rfl⟩, ⟨_, _, refuses 1, s.hostReply_responded _ _, rfl⟩, fun hneg => ?_, fun hsec => ?_⟩
    · have after := State.spdmAfter_answers hdown hrec hneg
      refine ⟨⟨_, after _ _, s.hostReply_responded _ _, rfl⟩, fun part rest hslot hoff hpart hrest => ?_, fun hslot hsec => ?_, fun bs hbs => ?_⟩
      · have hlen : rest.length = (Config.certificate 0).length - r.offset - part.length := by
          rw [hrest, List.length_drop, Nat.sub_sub]
        refine ⟨s.hostReply (.spdm _ _), ?_, rfl, s.hostReply_responded _ _⟩
        show execGetCertificate r s = _
        unfold execGetCertificate
        dsimp only
        rw [if_pos (by rw [hslot, decide_eq_true hoff]; rfl), ← hpart, ← hlen]
        exact after _ _
      · refine ⟨_, ?_, s.hostReply_responded _ _, rfl⟩
        show execChallenge r s = _
        unfold execChallenge
        rw [if_neg (by rw [hslot]; simpa using hsec)]
        exact after _ _
      · have hbytes : bs = (if r.index = 0 then [6] else if r.index = 0xFF then (List.range 6).flatMap fun i => s.measurement (i + 1)
            else s.measurement r.index) ∧ (r.index ≤ 6 ∨ r.index = 0xFF) := by
          rcases hbs with ⟨h0, rfl⟩ | ⟨h1, h6, rfl⟩
          · exact ⟨by rw [if_pos h0], .inl (by omega)⟩
          · exact ⟨by rw [if_neg (by omega), if_neg (by omega)], .inl h6⟩
        refine ⟨s.hostReply (.spdm _ _), ?_, rfl, s.hostReply_responded _ _⟩
        show execGetMeasurements r s = _
        unfold execGetMeasurements
        dsimp only
        rw [if_pos hbytes.2, ← hbytes.1, SpdmReq.signed_eq]
        exact after _ _
    · refine ⟨s.hostReply (.spdm 0x7F [1, 0]), [1, 0], ?_, s.hostReply_responded _ _, rfl⟩
      show execChallenge r s = _
      unfold execChallenge
      rw [if_pos (by rw [hsec]; rfl)]
      exact refuses 1

end Sys2Proof

namespace Sys2Proof.Machine

/-! ### Answers of the pilot core (R292, R293) -/

/-- The state with an answer of the pilot core and the interrupt that announces it. -/
def State.withAnswer (s : State) (r : Response) : State :=
  { s with host := { s.host with replies := s.host.replies ++ [r], msix := s.host.msix ++ [1] } }

theorem State.withAnswer_answered {s t : State} (h : t.host = s.host) (r : Response) : Safety.answered s r (t.withAnswer r) := by
  show ({ t.host with replies := t.host.replies ++ [r], msix := t.host.msix ++ [1] } : HostPort) = _
  rw [h]

theorem State.answer_runs {s : State} (hd : s.pilot.down = false) (t : State) (r : Response) : s.answer (t, r) = .next (t.withAnswer r) := by
  unfold State.answer
  rw [hd]
  rfl

theorem State.applied_ok {s : State} {ok : Bool} (hd : s.pilot.down = false) (hok : ok = true) (code : Nat) (t : State) :
    s.applied code ok t = .next (t.withAnswer (.ok code)) := by
  rw [State.applied, hok]
  exact State.answer_runs hd t _

theorem State.applied_error {s : State} {ok : Bool} (hd : s.pilot.down = false) (hok : ok = false) (code : Nat) (t : State) :
    s.applied code ok t = .next (s.withAnswer (.error code)) := by
  rw [State.applied, hok]
  exact State.answer_runs hd s _

theorem State.setQueue_host (s : State) (q : Nat) (x : Queue) : (s.setQueue q x).host = s.host := by
  obtain ⟨v, hv⟩ := s.setQueue_only q x
  rw [hv]

/-! ### Shares (R18) -/

theorem sharesOf_toList {l : List Nat} (h : l.length = 16) : (sharesOf l).toList = l := by
  refine List.ext_getElem (by simp [h]) fun i h1 h2 => ?_
  simp [sharesOf, List.getD_eq_getElem?_getD, h2]

theorem sharesOk_iff (l : List Nat) : sharesOk l = true ↔ l.length = 16 ∧ l.sum ≤ 64 := by
  rw [sharesOk, Bool.and_eq_true, beq_iff_eq, decide_eq_true_iff]

/-! ### Snapshots (R249) -/

theorem State.flushSnaps_none {s : State} (h : s.hm.snapWait = []) : s.flushSnaps = s := by
  rw [State.flushSnaps, h]
  rfl

/-- A task's slot is freed; with no snapshot waiting nothing else happens. -/
theorem State.freeSlot_eq {s : State} (h : s.hm.snapWait = []) (tid : Word) :
    s.freeSlot tid = { s with hm := { s.hm with snaps := s.hm.snaps.filter fun x => x.2 != tid } } :=
  State.flushSnaps_none (s := { s with hm := { s.hm with snaps := s.hm.snaps.filter fun x => x.2 != tid } }) h

/-- A faulted task performs nothing, so its end touches the Harbourmaster and the cores alone. -/
theorem State.endTask_faulted (s : State) (t : Task) : ∃ c r cards tasks, s.endTask t stFaulted =
    { s with core := c, rest := r, hm := { s.hm with cards := cards, tasks := tasks } } := by
  unfold State.endTask
  dsimp only
  rw [if_pos rfl]
  split
  · split
    · exact ⟨_, _, _, _, rfl⟩
    · exact ⟨_, _, _, _, rfl⟩
  · exact ⟨_, _, _, _, rfl⟩

/-- The state with the refusal reports of saved contexts dropped. -/
def State.unreported (s : State) (l : List Core) : State :=
  l.foldl (fun (s : State) c => { s with ferry := { s.ferry with reports := s.ferry.reports.filter fun r => r.core != c.id } }) s

theorem State.unreported_only (l : List Core) (s : State) : ∃ f, s.unreported l = { s with ferry := f } := by
  induction l generalizing s with
  | nil => exact ⟨s.ferry, rfl⟩
  | cons c l ih =>
    obtain ⟨f, hf⟩ := ih { s with ferry := { s.ferry with reports := s.ferry.reports.filter fun r => r.core != c.id } }
    exact ⟨f, hf⟩

theorem mem_filter_ne {α : Type} {l : List (α × Word)} {tid : Word} {x : α × Word} (h : x ∈ l.filter fun x => x.2 != tid) : x.2 ≠ tid :=
  bne_iff_ne.1 (List.mem_filter.1 h).2

/-- The context of a restored snapshot with its part of the host's budgets. -/
def Core.budgeted (c : Core) (cores : List Nat) (budget : List Word) : Core := c.setBudget (budget.getD (cores.findIdx (· == c.id)) 0)

/-- The task of a snapshot that goes back to the pool. -/
def Task.rebudgeted (t : Task) (cores : List Nat) (budget : List Word) : Task :=
  { t with phase := .preempted, saved := t.saved.map fun c => c.budgeted cores budget }

theorem mgmtSnapshotRestore_runs {s : State} {tid : Word} {budget : List Word} {u : Task} (hd : s.pilot.down = false)
    (hu : s.snapshotOf tid = some u) (hlen : budget.length = u.cores.length) : exec (.mgmtSnapshotRestore tid budget) s =
      .next (((s.mapTask u.num fun t => t.rebudgeted u.cores budget).freeSlot tid).withAnswer (.ok 6)) := by
  show execMgmtSnapshotRestore tid budget s = _
  unfold execMgmtSnapshotRestore
  rw [hu]
  exact State.applied_ok hd (beq_iff_eq.2 hlen) _ _

theorem mgmtSnapshotRetire_runs {s : State} {tid : Word} {u : Task} (hd : s.pilot.down = false) (hu : s.snapshotOf tid = some u) :
    exec (.mgmtSnapshotRetire tid) s =
      .next ((((s.unreported u.saved).endTask { u with cause := subHostRetired * 2 ^ 16 } stFaulted).freeSlot tid).withAnswer (.ok 6)) := by
  show execMgmtSnapshotRetire tid s = _
  unfold execMgmtSnapshotRetire
  rw [hu]
  exact State.applied_ok hd rfl _ _

/-! ### Debug tokens (R289) -/

theorem State.haltCores_only (s : State) : ∃ f : Core → Core, (∀ c, (f c).pool = c.pool) ∧ s.haltCores = s.mapAllCores f := by
  refine ⟨_, fun c => ?_, rfl⟩
  dsimp only
  split <;> rfl

theorem State.scrub_keys (s : State) : ∀ e ∈ s.scrub.bond.regions.toList, e.key = 0 := by
  intro e he
  have he' : e ∈ (s.bond.regions.map fun (e : RegionEntry) => { e with key := 0 }).toList := he
  rw [Vector.toList_map] at he'
  obtain ⟨x, -, rfl⟩ := List.mem_map.1 he'
  rfl

theorem State.scrub_pool {s : State} {c : Core} (hc : c ∈ s.scrub.cores) : c.pool = [] := by
  obtain ⟨x, hx⟩ : ∃ x : State, s.scrub.cores = x.cores.map Core.scrubbed := ⟨s, rfl⟩
  rw [hx] at hc
  obtain ⟨d, -, rfl⟩ := List.mem_map.1 hc
  rfl

theorem State.mapAllCores_pool {s : State} {f : Core → Core} (hf : ∀ c, (f c).pool = c.pool) (h : ∀ c ∈ s.cores, c.pool = []) :
    ∀ c ∈ (s.mapAllCores f).cores, c.pool = [] := by
  intro c hc
  obtain ⟨d, hd, rfl⟩ := List.mem_map.1 (show c ∈ s.cores.map f from hc)
  rw [hf, h d hd]

/-- The state that a token leaves, before its contexts halt. -/
def State.unlocked (s : State) (d : DebugToken) (x : Security) : State :=
  { s with pilot := { s.pilot with
      fused := s.pilot.fused || (d.zaevo && d.fuse), security := x, halt := d.halt, trace := d.trace, debugQs := d.queues } }

theorem mgmtDebugToken_customer {s : State} {d : DebugToken} (hd : s.pilot.down = false) (hs : d.signed = true) (hz : d.zaevo = false)
    (hk : d.key = s.pilot.customer) (hp : s.pilot.security = .production) (hq : d.queues.length ≤ 16) (hq64 : ∀ q ∈ d.queues, q < 64) :
    exec (.mgmtDebugToken d) s = .next ((s.unlocked d .customerDebug).haltCores.withAnswer (.ok 0x0C)) := by
  have hall : d.queues.all (fun q => decide (q < 64)) = true := List.all_eq_true.2 fun q h => decide_eq_true (hq64 q h)
  show execMgmtDebugToken d s = _
  unfold execMgmtDebugToken
  dsimp only
  rw [State.applied_ok hd (by rw [hs, hz, hk, hp, hall, decide_eq_true hq, beq_self_eq_true]; rfl), State.unlocked, hz]
  rfl

theorem mgmtDebugToken_vendor {s : State} {d : DebugToken} (hd : s.pilot.down = false) (hs : d.signed = true) (hz : d.zaevo = true)
    (hp : s.pilot.security = .production) : exec (.mgmtDebugToken d) s =
      .next ((s.scrub.unlocked d .vendorReturn).haltCores.withAnswer (.ok 0x0C)) := by
  show execMgmtDebugToken d s = _
  unfold execMgmtDebugToken
  dsimp only
  rw [State.applied_ok hd (by rw [hs, hz, hp]; rfl), State.unlocked, hz, if_pos rfl, hp]
  rfl

/-! ### Overflows enlarged (R185) -/

/-- With no message held, nothing is delivered: the Ferry alone may acknowledge flushes. -/
theorem State.retryHeld_none {s : State} (h : s.ferry.held = []) : s.retryHeld = { s with ferry := s.ferry.ackFlushes } := by
  have hdrop : s.dropOrphans = s := by
    unfold State.dropOrphans
    rw [h]
    exact congrArg (fun l => ({ s with ferry := { s.ferry with held := l } } : State)) h.symm
  unfold State.retryHeld
  dsimp only
  rw [hdrop, h]
  rfl

theorem Command.enlarge_overflow {k : Command} {tag : BitVec 32} {old : Nat} (h : k.overflowOf tag = some old) (n : Nat) :
    (k.enlarge tag n).overflowOf tag = some n := by
  have he : k.enlarge tag n = { k with fx := k.fx.map fun (x : Exchange) => { x with ovbytes := n }, acc := [n] } := by
    unfold Command.enlarge
    rw [h]
    rfl
  obtain ⟨is, his⟩ : ∃ is, is = (match k.op with | .fxch _ => true | .fxchPayload _ => true | _ => false) := ⟨_, rfl⟩
  have hover (fx : Option Exchange) (acc : List Nat) : ({ k with fx := fx, acc := acc } : Command).overflowOf tag =
      if is && (fxchBlock k.block.toNat).tag == tag then
        some (match fx with | some x => x.ovbytes | none => acc.headD (bitsOf k.block.toNat 287 256)) else none := by
    rw [Command.overflowOf, his] <;> rfl
  replace h := (hover k.fx k.acc).symm.trans h
  rw [he, hover]
  split at h
  · next hc =>
    rw [if_pos hc]
    cases k.fx <;> rfl
  · exact nomatch h

/-- The state with the overflow regions of a core's exchanges enlarged. -/
def State.enlarged (s : State) (core : Nat) (tag : BitVec 32) (n : Nat) : State :=
  s.mapAllCores fun c => if c.id = core then { c with copy := { c.copy with cmds := c.copy.cmds.map fun k => k.enlarge tag n } } else c

theorem mgmtEnlargeOverflow_runs (s : State) (core : Nat) (tag : BitVec 32) (n : Nat) {olds : List Nat}
    (ho : olds = (s.allCores.filter fun c => c.id == core).flatMap fun c => c.copy.cmds.filterMap fun k => k.overflowOf tag) :
    exec (.mgmtEnlargeOverflow core tag n) s =
      s.applied 0x0E (!olds.isEmpty && olds.all (fun m => decide (m ≤ n)) && decide (n < 2 ^ 32)) (s.enlarged core tag n).retryHeld := by
  subst ho
  rfl

/-! ### The event ring (R252) -/

theorem State.caughtUp {s : State} (hb : s.hm.backlog = []) (hw : s.hm.waiting = []) (hs : s.hm.snapWait = []) (hl : s.hm.lost = 0) :
    (s.writeEvents s.hm.backlog.length).catchUp = s := by
  unfold State.catchUp State.numberLost
  simp [hb, hw, hl, State.writeEvents, State.emitWaiting, State.flushSnaps_none hs]

end Sys2Proof.Machine

namespace Sys2Proof

open Machine

/-- Settles O52: each message of the management mailbox, applied or refused, is answered. -/
theorem managementMessages : Obligations.ManagementMessages := by
  unfold Obligations.ManagementMessages
  intro s hd
  have ok {ok : Bool} (h : ok = true) (code : Nat) (t : State) := State.applied_ok hd h code t
  have error {ok : Bool} (h : ok = false) (code : Nat) (t : State) := State.applied_error hd h code t
  have answered {t : State} (h : t.host = s.host) (r : Response) := State.withAnswer_answered h r
  refine ⟨?_, ?_, ?_, ?_, ?_, ?_, ?_, ?_, ?_, ?_, ?_, ?_, ?_, ?_, ?_, ?_, ?_, ?_, ?_, ?_, ?_, ?_, ?_, ?_⟩
  -- queue configurations
  · refine fun q c hq => ⟨fun hsrc hlegal hrec => ?_, fun hsrc hne => ?_⟩
    · have hok : (decide (q < 64) && (if (s.queue q).cfg.src = 0 then configLegal c && !(s.pilot.recovery && c.src != 0)
          else c == { (s.queue q).cfg with src := 0 })) = true := by
        rw [if_pos hsrc, decide_eq_true hq, hlegal, hrec]
        rfl
      refine ⟨_, ok hok 1 _, ?_, fun j hj => ?_, answered (s.setQueue_host _ _) _⟩
      · show ((s.setQueue q _).queue q).cfg = c
        rw [State.queue_setQueue_same hq]
      · show (s.setQueue q _).queue j = _
        rw [State.queue_setQueue hq, if_neg hj]
    · have hok : (decide (q < 64) && (if (s.queue q).cfg.src = 0 then configLegal c && !(s.pilot.recovery && c.src != 0)
          else c == { (s.queue q).cfg with src := 0 })) = false := by
        rw [if_neg hsrc, beq_eq_false_iff_ne.2 hne, Bool.and_false]
      exact ⟨_, error hok 1 _, rfl, answered rfl _⟩
  -- region entries
  · intro n e h hlegal hbusy hspans
    have hothers : ((List.range 64).filter fun i => i != n).any (fun i => spansOverlap e (s.region i)) = false := by
      refine List.any_eq_false.2 fun i hi => ?_
      obtain ⟨hi, hne⟩ := List.mem_filter.1 hi
      rw [hspans i (List.mem_range.1 hi) (bne_iff_ne.1 hne)]
      exact Bool.false_ne_true
    have hok : (decide (n < 64) && entryLegal e && !s.bondBusy n &&
        !((List.range 64).filter fun i => i != n).any fun i => spansOverlap e (s.region i)) = true := by
      rw [decide_eq_true h, hlegal, hbusy, hothers]
      rfl
    have hrun : exec (.mgmtRegionEntry n e) s = _ := ok hok 2 _
    rw [dif_pos h] at hrun
    refine ⟨_, hrun, ?_, fun i hi => ?_, rfl, answered rfl _⟩
    · show (s.bond.regions.set n e h).get ⟨n, h⟩ = e
      rw [vector_set_get, if_pos rfl]
    · show (s.bond.regions.set n e h).get i = _
      rw [vector_set_get, if_neg hi]
  -- bandwidth shares
  · intro hbm lpddr h1 h2 h3 h4
    have hok : (sharesOk hbm && sharesOk lpddr) = true := by rw [(sharesOk_iff hbm).2 ⟨h1, h3⟩, (sharesOk_iff lpddr).2 ⟨h2, h4⟩]; rfl
    exact ⟨_, ok hok 3 _, sharesOf_toList h1, sharesOf_toList h2, answered rfl _⟩
  · intro hbm lpddr h
    have hok : (sharesOk hbm && sharesOk lpddr) = false := by
      refine Bool.eq_false_iff.2 fun hc => ?_
      rw [Bool.and_eq_true, sharesOk_iff, sharesOk_iff] at hc
      omega
    exact ⟨_, error hok 3 _, rfl, answered rfl _⟩
  -- the power cap and C3
  · intro w
    by_cases hw : w ≤ 1700
    · exact ⟨_, ok (decide_eq_true hw) 4 _, fun _ => ⟨rfl, answered rfl _⟩, fun h => absurd h (by omega)⟩
    · exact ⟨_, error (decide_eq_false hw) 4 _, fun h => absurd h hw, fun _ => ⟨rfl, answered rfl _⟩⟩
  · intro hcards hlaunches hqueues hhalted
    have hok : (s.idle && s.allCores.all fun c => !c.part.halted) = true := by
      have h1 : s.hm.queues.toList.all (fun x => !x.waits && x.held.isEmpty) = true := List.all_eq_true.2 fun x hx => by
        obtain ⟨hw, hh⟩ := hqueues x hx
        rw [hw, hh]
        rfl
      have h2 : s.allCores.all (fun c => !c.part.halted) = true := List.all_eq_true.2 fun c hc => by rw [hhalted c hc]; rfl
      rw [State.idle, hcards, hlaunches, h1, h2]
      rfl
    exact ⟨_, ok hok 4 _, rfl, answered rfl _⟩
  -- the hot-row cache
  · intro c slot hc hslot htasks
    have hok : ((c == 0 || (decide (30 ≤ c) && decide (c ≤ 38))) && [128, 256, 512, 1024, 2048, 4096].contains slot &&
        s.hm.tasks.all fun t => t.phase == .pooled || t.phase == .over) = true := by
      have h1 : (c == 0 || (decide (30 ≤ c) && decide (c ≤ 38))) = true := by
        rw [Bool.or_eq_true, Bool.and_eq_true, beq_iff_eq, decide_eq_true_iff, decide_eq_true_iff]
        exact hc
      have h2 : s.hm.tasks.all (fun t => t.phase == .pooled || t.phase == .over) = true := List.all_eq_true.2 fun t ht => by
        rw [Bool.or_eq_true, beq_iff_eq, beq_iff_eq]
        exact htasks t ht
      rw [h1, h2, List.contains_iff_mem.2 hslot]
      rfl
    refine ⟨_, ok hok 5 _, rfl, rfl, rfl, fun w hw hdirty => ?_, answered rfl _⟩
    exact List.mem_append_right _ (List.mem_filter.2 ⟨hw, hdirty⟩)
  -- snapshots
  · intro tid budget u hu hlen hsnap
    have hslot := State.freeSlot_eq (s := s.mapTask u.num fun t => t.rebudgeted u.cores budget) hsnap tid
    refine ⟨_, mgmtSnapshotRestore_runs hd hu hlen, ?_, ?_, ?_⟩
    · rw [hslot]
      exact answered rfl _
    · rw [hslot]
      exact fun x hx => mem_filter_ne hx
    · rw [hslot]
      intro v hv hn
      obtain ⟨t, rfl⟩ := State.mapTask_named (s := s) _ hv hn
      refine ⟨rfl, fun c hc r hr _ => ?_⟩
      obtain ⟨d, -, rfl⟩ := List.mem_map.1 hc
      rw [← hr]
      rfl
  · intro tid u hu hsnap
    obtain ⟨f, hf⟩ := s.unreported_only u.saved
    obtain ⟨c, r, cards, tasks, hend⟩ := (s.unreported u.saved).endTask_faulted { u with cause := subHostRetired * 2 ^ 16 }
    have hrun := mgmtSnapshotRetire_runs hd hu
    have hends {v : Task} (hv : v ∈ ((s.unreported u.saved).endTask { u with cause := subHostRetired * 2 ^ 16 } stFaulted).hm.tasks)
        (hn : v.num = u.num) : v.phase = .over ∧ v.status = 3 := State.endTask_ends hv hn
    generalize (s.unreported u.saved).endTask { u with cause := subHostRetired * 2 ^ 16 } stFaulted = w at hrun hend hends
    have hwait : w.hm.snapWait = [] := by rw [hend, hf]; exact hsnap
    have hhost : w.host = s.host := by rw [hend, hf]
    rw [State.freeSlot_eq hwait] at hrun
    exact ⟨_, hrun, answered hhost _, fun x hx => mem_filter_ne hx, fun v hv hn => hends hv hn⟩
  · intro tid budget hu
    refine ⟨s.withAnswer (.error 6), ?_, rfl, answered rfl _⟩
    show execMgmtSnapshotRestore tid budget s = _
    unfold execMgmtSnapshotRestore
    rw [hu]
    exact error rfl 6 _
  -- maps, logs and counts
  · exact ⟨_, State.answer_runs hd _ _, answered rfl _⟩
  · exact ⟨_, State.answer_runs hd _ _, answered rfl _⟩
  · exact ⟨_, State.answer_runs hd _ _, rfl, rfl, answered rfl _⟩
  · refine ⟨_, ok rfl 9 _, rfl, fun l hl => ?_, answered rfl _⟩
    obtain ⟨x, -, rfl⟩ := List.mem_map.1 hl
    rfl
  -- the host's attributes
  · intro page sa hdev
    refine ⟨_, ok hdev 0x0A _, fun q => ?_, rfl⟩
    show q ∈ (if sa then page :: s.host.attr.filter (· != page) else s.host.attr.filter (· != page)) ↔ _
    by_cases hq : q = page
    · subst hq
      cases sa <;> simp
    · cases sa <;> simp [hq]
  · exact fun base sa hbase => ⟨_, ok (beq_iff_eq.2 hbase) 0x0A _, rfl, rfl, rfl⟩
  · exact fun sa => ⟨_, ok rfl 0x0A _, rfl, rfl⟩
  -- the event ring
  · intro base k snapBase slots hsrc hk6 hk16 hbase hsb hs1 hs256 hp1 hp2 hp3 hp4 hback hwait hsnap hlost
    have hall : s.hm.queues.toList.all (fun x => x.cfg.src == 0) = true := List.all_eq_true.2 fun x hx => beq_iff_eq.2 (hsrc x hx)
    have hrun : exec (.mgmtEventRingSetup base k snapBase slots) s = _ := ok (by
      rw [hall, hp1, hp2, hp3, hp4, hbase, hsb, decide_eq_true hk6, decide_eq_true hk16, decide_eq_true hs1, decide_eq_true hs256]
      rfl) 0x0B _
    rw [State.caughtUp (by exact hback) (by exact hwait) (by exact hsnap) (by exact hlost)] at hrun
    exact ⟨_, hrun, rfl, answered rfl _⟩
  -- debug tokens
  · intro d hs hz hk hp hq hq64
    obtain ⟨f, -, hf⟩ := (s.unlocked d .customerDebug).haltCores_only
    have hrun := mgmtDebugToken_customer hd hs hz hk hp hq hq64
    rw [hf] at hrun
    exact ⟨_, hrun, rfl, rfl, rfl, rfl, rfl, answered rfl _⟩
  · intro d hs hz hp
    obtain ⟨f, hpool, hf⟩ := (s.scrub.unlocked d .vendorReturn).haltCores_only
    have hrun := mgmtDebugToken_vendor hd hs hz hp
    rw [hf] at hrun
    refine ⟨_, hrun, rfl, ?_, fun c hc => ?_, s.scrub_keys, State.mapAllCores_pool hpool fun c hc => State.scrub_pool (s := s) hc, answered rfl _⟩
    · show (s.pilot.fused || (d.zaevo && d.fuse)) = _
      rw [hz, Bool.true_and]
    · have hc' : c ∈ s.mem.filter fun c => !isDevice c.1 := hc
      have := (List.mem_filter.1 hc').2
      rwa [Bool.not_eq_true'] at this
  · exact fun f => ⟨_, ok rfl 0x0D _, rfl, answered rfl _⟩
  -- overflows
  · intro core tag n hnone
    have holds : ((s.allCores.filter fun c => c.id == core).flatMap fun c => c.copy.cmds.filterMap fun k => k.overflowOf tag) = [] := by
      refine List.flatMap_eq_nil_iff.2 fun c hc => List.filterMap_eq_nil_iff.2 fun k hk => ?_
      obtain ⟨hc, hid⟩ := List.mem_filter.1 hc
      exact hnone c hc (beq_iff_eq.1 hid) k hk
    have hrun := mgmtEnlargeOverflow_runs s core tag n holds.symm
    exact ⟨_, hrun.trans (error rfl 0x0E _), rfl, rfl, answered rfl _⟩
  · intro tag n old k hcores hcmds hold hle hn hheld
    have holds : [old] = (s.allCores.filter fun c => c.id == s.core.id).flatMap fun c => c.copy.cmds.filterMap fun k => k.overflowOf tag := by
      rw [hcores]
      simp [hcmds, hold]
    have hrun := mgmtEnlargeOverflow_runs s s.core.id tag n holds
    rw [ok (by simpa [hle] using hn), State.retryHeld_none (by exact hheld)] at hrun
    refine ⟨_, hrun, answered rfl _, fun k' hk' => ?_⟩
    have hk'' : k' ∈ (if s.core.id = s.core.id then ({ s.core with copy := { s.core.copy with
        cmds := s.core.copy.cmds.map fun k => k.enlarge tag n } } : Core) else s.core).copy.cmds := hk'
    rw [if_pos rfl] at hk''
    obtain ⟨x, hx, rfl⟩ := List.mem_map.1 hk''
    rw [hcmds, List.mem_singleton] at hx
    rw [hx]
    exact Command.enlarge_overflow hold n
  -- other codes
  · intro code hcode
    refine ⟨s.withAnswer (.error code), ?_, rfl, rfl, answered rfl _⟩
    show execMgmtUnknown code s = _
    unfold execMgmtUnknown
    rw [if_neg (by omega)]
    exact error rfl code s

end Sys2Proof

namespace Sys2Proof.Machine

/-! ### Lanes of a link (R281, R285) -/

theorem State.link_num (s : State) (n : Nat) : (s.link n).num = n := by
  unfold State.link
  cases h : s.links.find? fun l => l.num == n with
  | none => rfl
  | some l => exact (by simpa using List.find?_some h : l.num = n)

theorem State.link_congr {s t : State} (h : t.links = s.links) (n : Nat) : t.link n = s.link n := by
  unfold State.link
  rw [h]

theorem State.link_setLink (s : State) (l : Link) (m : Nat) : (s.setLink l).link m = if m = l.num then l else s.link m := by
  unfold State.link State.setLink
  by_cases hm : m = l.num
  · subst hm
    rw [if_pos rfl, List.find?_cons_of_pos (by exact beq_self_eq_true _)]
    rfl
  · rw [if_neg hm, List.find?_cons_of_neg (by rw [beq_iff_eq]; exact Ne.symm hm), List.find?_filter]
    have hcond : (fun x : Link => decide ((x.num != l.num) = true ∧ (x.num == m) = true)) = fun x => x.num == m := by
      funext x
      rw [Bool.eq_iff_iff, decide_eq_true_iff, bne_iff_ne, beq_iff_eq]
      exact ⟨fun h => h.2, fun h => ⟨by rw [h]; exact hm, h⟩⟩
    rw [hcond]

theorem laneErrors_addLane (l : List (Nat × Nat)) (lane m : Nat) : laneErrors (addLane l lane) m = laneErrors l m + if m = lane then 1 else 0 := by
  unfold addLane
  by_cases hm : m = lane
  · subst hm
    rw [if_pos rfl]
    conv => lhs; unfold laneErrors
    rw [List.find?_cons_of_pos (by exact beq_self_eq_true _)]
    rfl
  · rw [if_neg hm]
    unfold laneErrors
    rw [List.find?_cons_of_neg (by rw [beq_iff_eq]; exact Ne.symm hm), List.find?_filter]
    have hcond : (fun x : Nat × Nat => decide ((x.1 != lane) = true ∧ (x.1 == m) = true)) = fun x => x.1 == m := by
      funext x
      rw [Bool.eq_iff_iff, decide_eq_true_iff, bne_iff_ne, beq_iff_eq]
      exact ⟨fun h => h.2, fun h => ⟨by rw [h]; exact hm, h⟩⟩
    rw [hcond]
    rfl

theorem Link.crcError_errors (l : Link) (lane window m : Nat) : (l.crcError lane window).errors m = l.errors m + if m = lane then 1 else 0 :=
  laneErrors_addLane l.errs lane m

theorem flitReplay_runs {s : State} {n : Nat} (lane : Nat) (hn : n < 43) (hd : (s.link n).dead = false) :
    exec (.flitReplay n lane) s = .next (s.setLink ((s.link n).crcError lane (s.time / 1000000))) := by
  show execFlitReplay n lane s = _
  unfold execFlitReplay
  dsimp only
  rw [if_pos (by rw [hd, decide_eq_true (show n < linkCount from hn)]; rfl)]

/-- The outcomes of the repair of a lane over the threshold. -/
theorem laneRepair_eq {s : State} {n lane : Nat} (hn : n < 43) (hd : (s.link n).dead = false) (hlane : lane ∈ (s.link n).failed) (ok : Bool) :
    exec (.laneRepair n lane ok) s =
      if !(s.link n).spared && (s.link n).failed.all (· == lane) then .next (s.setLink { (s.link n).repaired lane with spared := true })
      else if ok then .next (s.setLink { (s.link n).retrained with spared := true })
      else if isFerryPort n then .next ((s.setLink { s.link n with dead := true }).failPort (n - 35))
      else .next (((s.setLink { s.link n with dead := true }).hm.tasks.foldl (fun s t => if t.status = 0 then s.faultContext cUncorrectable t else s)
        (s.setLink { s.link n with dead := true })).emit ⟨7, 0, 0, 0⟩) := by
  have hno : (decide (n ≥ linkCount) || (s.link n).dead || !(s.link n).failed.contains lane) = false := by
    rw [hd, List.contains_iff_mem.2 hlane, decide_eq_false (Nat.not_le.2 (show n < linkCount from hn))]
    rfl
  show execLaneRepair n lane ok s = _
  unfold execLaneRepair
  dsimp only
  rw [if_neg (Bool.eq_false_iff.1 hno)]

/-! ### A port that goes down (R209, R285) -/

/-- A path's failure touches the Ferry and the paths that tasks have used. -/
theorem State.failOver_only (s : State) (module : Nat) (path newPath : BitVec 4) : ∃ sent tasks,
    s.failOver module path newPath = { s with ferry := { s.ferry with sent := sent }, hm := { s.hm with tasks := tasks } } :=
  ⟨_, _, rfl⟩

theorem State.failOvers_only (l : List (Nat × BitVec 4)) (s : State) : ∃ sent tasks,
    l.foldl (fun s p => s.failOver p.1 p.2 (s.ferry.pathFor p.1 p.2)) s =
      { s with ferry := { s.ferry with sent := sent }, hm := { s.hm with tasks := tasks } } := by
  induction l generalizing s with
  | nil => exact ⟨_, _, rfl⟩
  | cons p l ih =>
    obtain ⟨sent, tasks, h⟩ := s.failOver_only p.1 p.2 (s.ferry.pathFor p.1 p.2)
    obtain ⟨sent', tasks', h'⟩ := ih (s.failOver p.1 p.2 (s.ferry.pathFor p.1 p.2))
    exact ⟨sent', tasks', by rw [List.foldl_cons, h', h]⟩

theorem State.failPort_only (s : State) (port : Nat) : ∃ sent tasks, s.failPort port =
    { s with ferry := { s.ferry with downPorts := port :: s.ferry.downPorts, sent := sent }, hm := { s.hm with tasks := tasks } } := by
  obtain ⟨sent, tasks, h⟩ := State.failOvers_only
    ((Ferry.usedPaths { s.ferry with downPorts := port :: s.ferry.downPorts }).filter fun p => Config.ferryPort p.1 p.2 % 8 == port)
    { s with ferry := { s.ferry with downPorts := port :: s.ferry.downPorts } }
  exact ⟨sent, tasks, h⟩

/-! ### A fault that is fatal to the module (R266, R285) -/

theorem State.Accessed.task_from {s t : State} (h : s.Accessed t) {v : Task} (hv : v ∈ t.hm.tasks) : ∃ u ∈ s.hm.tasks, v.standing = u.standing := by
  have hmem := List.mem_map_of_mem (f := Task.standing) hv
  rw [h.tasks] at hmem
  obtain ⟨u, hu, he⟩ := List.mem_map.1 hmem
  exact ⟨u, hu, he.symm⟩

theorem State.focus_hm (s : State) (n : Nat) : (s.focus n).hm = s.hm := by
  unfold State.focus
  split
  · rfl
  · split <;> rfl

theorem State.focus_links (s : State) (n : Nat) : (s.focus n).links = s.links := by
  unfold State.focus
  split
  · rfl
  · split <;> rfl

/-- What a stopped task's cores perform leaves every task standing. -/
theorem State.killTask_tasks (s : State) (n : Nat) (flush : Bool) :
    (s.killTask n flush).hm.tasks.map Task.standing = s.hm.tasks.map Task.standing := by
  have hone (s : State) (c : Nat) : (s.atCore c fun s => (s.flushStreams, ())).1.hm.tasks.map Task.standing = s.hm.tasks.map Task.standing := by
    show ((s.focus c).flushStreams.focus s.core.id).hm.tasks.map Task.standing = _
    rw [State.focus_hm, (s.focus c).flushStreams_accessed.tasks, State.focus_hm]
  have hfold (l : List Nat) (s : State) :
      (l.foldl (fun s c => (s.atCore c fun s => (s.flushStreams, ())).1) s).hm.tasks.map Task.standing = s.hm.tasks.map Task.standing := by
    induction l generalizing s with
    | nil => rfl
    | cons c l ih => exact (ih _).trans (hone s c)
  cases flush with
  | false => rfl
  | true => exact hfold _ s

theorem mem_of_standing {l m : List Task} (h : m.map Task.standing = l.map Task.standing) {v : Task} (hv : v ∈ m) :
    ∃ w ∈ l, w.standing = v.standing := by
  have hmem := List.mem_map_of_mem (f := Task.standing) hv
  rw [h] at hmem
  exact List.mem_map.1 hmem

/-- A task that runs and has met no fault. -/
def Task.sound (t : Task) : Prop := t.phase = .running ∧ t.status = 0

/-- The tasks that are left sound by a change of one task: those of another number, which were. -/
def State.soundFrom (s t : State) (n : Nat) : Prop := ∀ v ∈ t.hm.tasks, v.sound → v.num ≠ n ∧ ∃ w ∈ s.hm.tasks, w.num = v.num ∧ w.sound

theorem State.soundFrom_mapTask {s : State} {n : Nat} {f : Task → Task} (hf : ∀ t, ¬ (f t).sound) (hnum : ∀ t, t.num = n → (f t).num = n) :
    s.soundFrom (s.mapTask n f) n := by
  intro v hv hs
  obtain ⟨t, ht, he⟩ := List.mem_map.1 hv
  split at he
  · exact absurd (he ▸ hs) (hf t)
  · next hne =>
    subst he
    exact ⟨hne, t, ht, rfl, hs⟩

theorem State.soundFrom_congr {s t u : State} {n : Nat} (h : s.soundFrom t n) (hu : u.hm.tasks = t.hm.tasks) : s.soundFrom u n := by
  intro v hv
  rw [hu] at hv
  exact h v hv

theorem State.faultTask_sound (s : State) (t : Task) (code : Nat) : s.soundFrom (s.faultTask t code) t.num := by
  obtain ⟨k, hk⟩ : ∃ k, s.killTask t.num (!s.contained t) = k := ⟨_, rfl⟩
  have hkept : k.hm.tasks.map Task.standing = s.hm.tasks.map Task.standing := by rw [← hk]; exact s.killTask_tasks _ _
  have hmap : k.soundFrom (k.mapTask t.num fun t => { t.unstaged with status := stFaulted, cause := code }) t.num :=
    State.soundFrom_mapTask (fun _ h => absurd h.2 (by decide : ¬ stFaulted = 0)) fun _ h => h
  intro v hv hs
  have htasks : (s.faultTask t code).hm.tasks = (k.mapTask t.num fun t => { t.unstaged with status := stFaulted, cause := code }).hm.tasks := by
    rw [← hk]
    exact (State.emit_hm _ _).2.2
  rw [htasks] at hv
  obtain ⟨hne, w, hw, hnum, hphase, hstatus⟩ := hmap v hv hs
  obtain ⟨x, hx, he⟩ := mem_of_standing hkept hw
  have h1 : x.num = w.num := (congrArg Task.num he :)
  have h2 : x.phase = w.phase := (congrArg Task.phase he :)
  have h3 : x.status = w.status := (congrArg Task.status he :)
  exact ⟨hne, x, hx, h1.trans hnum, h2.trans hphase, h3.trans hstatus⟩

theorem State.endTask_tasks (s : State) (t : Task) :
    (s.endTask t stFaulted).hm.tasks = (s.mapTask t.num fun t => { t.unstaged with phase := .over, status := stFaulted, saved := [] }).hm.tasks := by
  unfold State.endTask
  dsimp only
  rw [if_pos rfl]
  split
  · split <;> rfl
  · rfl

theorem State.endTask_sound (s : State) (t : Task) : s.soundFrom (s.endTask t stFaulted) t.num :=
  State.soundFrom_congr (State.soundFrom_mapTask (f := fun t => { t.unstaged with phase := .over, status := stFaulted, saved := [] })
    (fun _ h => absurd h.2 (by decide : ¬ stFaulted = 0)) fun _ h => h) (s.endTask_tasks t)

theorem State.failLoad_sound (s : State) (t : Task) (cause : Nat) : s.soundFrom (s.failLoad t cause) t.num := by
  intro v hv hs
  obtain ⟨hne, w, hw, hnum, hsound⟩ := State.endTask_sound (s.mapTask t.num fun _ => { t with cause := cause, cores := [] }) { t with cause := cause, cores := [] } v hv hs
  obtain ⟨x, hx, he⟩ := List.mem_map.1 hw
  split at he
  · subst he
    exact absurd hnum.symm hne
  · subst he
    exact ⟨hne, x, hx, hnum, hsound⟩

/-- A fault of a context leaves sound only what was, and not a task of its number when it ran. -/
theorem State.faultContext_sound (s : State) (code : Nat) (t : Task) {v : Task} (hv : v ∈ (s.faultContext code t).hm.tasks) (hs : v.sound) :
    (t.phase = .running → v.num ≠ t.num) ∧ ∃ w ∈ s.hm.tasks, w.num = v.num ∧ w.sound := by
  have hof {u : State} (h : s.soundFrom u t.num) (hv : v ∈ u.hm.tasks) :
      (t.phase = .running → v.num ≠ t.num) ∧ ∃ w ∈ s.hm.tasks, w.num = v.num ∧ w.sound := ⟨fun _ => (h v hv hs).1, (h v hv hs).2⟩
  have hemit {u : State} (e : RawEvent) (h : s.soundFrom u t.num) : s.soundFrom (u.emit e) t.num := State.soundFrom_congr h (u.emit_hm e).2.2
  unfold State.faultContext at hv
  cases hp : t.phase <;> rw [hp] at hv <;> dsimp only at hv
  case running => exact hp ▸ hof (s.faultTask_sound t code) hv
  case stopping => exact hp ▸ hof (s.faultTask_sound t code) hv
  case preempted => exact hp ▸ hof (hemit _ (s.endTask_sound { t with cause := code })) hv
  case snapshot => exact hp ▸ hof (hemit _ (s.endTask_sound { t with cause := code })) hv
  case loading => exact hp ▸ hof (hemit _ (s.failLoad_sound t code)) hv
  all_goals exact ⟨nofun, v, hv, rfl, hs⟩

/-- After a fault of every context that had met none, no task that runs is without one. -/
theorem State.faultAll_sound (code : Nat) (l : List Task) (s : State)
    (h : ∀ v ∈ s.hm.tasks, v.sound → ∃ t ∈ l, t.num = v.num ∧ t.sound) :
    ∀ v ∈ (l.foldl (fun s t => if t.status = 0 then s.faultContext code t else s) s).hm.tasks, ¬ v.sound := by
  induction l generalizing s with
  | nil =>
    intro v hv hs
    obtain ⟨t, ht, -⟩ := h v hv hs
    exact absurd ht List.not_mem_nil
  | cons t l ih =>
    refine ih _ fun v hv hs => ?_
    dsimp only at hv
    split at hv
    · obtain ⟨hne, w, hw, hnum, hsound⟩ := s.faultContext_sound code t hv hs
      obtain ⟨x, hx, hxnum, hxs⟩ := h w hw hsound
      rcases List.mem_cons.1 hx with rfl | hx
      · exact absurd (hnum.symm.trans hxnum.symm) (hne hxs.1)
      · exact ⟨x, hx, hxnum.trans hnum, hxs⟩
    · next hne =>
      obtain ⟨x, hx, hxnum, hxs⟩ := h v hv hs
      rcases List.mem_cons.1 hx with rfl | hx
      · exact absurd hxs.2 hne
      · exact ⟨x, hx, hxnum, hxs⟩

/-- A fault of a context keeps the links. -/
theorem State.faultContext_links (s : State) (code : Nat) (t : Task) : (s.faultContext code t).links = s.links := by
  have hflush (l : List Nat) (s : State) : (l.foldl (fun s c => (s.atCore c fun s => (s.flushStreams, ())).1) s).links = s.links := by
    induction l generalizing s with
    | nil => rfl
    | cons c l ih =>
      refine (ih _).trans ?_
      show ((s.focus c).flushStreams.focus s.core.id).links = s.links
      rw [State.focus_links]
      exact (congrArg (fun b => b.2.2) (s.focus c).flushStreams_accessed.board : (s.focus c).flushStreams.links = (s.focus c).links).trans
        (s.focus_links c)
  have hkill (flush : Bool) : (s.killTask t.num flush).links = s.links := by
    cases flush with
    | false => rfl
    | true => exact hflush _ s
  have hemit (u : State) (e : RawEvent) : (u.emit e).links = u.links := (congrArg State.links (u.emit_unevented e) :)
  have hfault : (s.faultTask t code).links = s.links := (hemit _ _).trans (hkill _)
  have hend (s : State) (t : Task) : (s.endTask t stFaulted).links = s.links := by
    unfold State.endTask
    dsimp only
    rw [if_pos rfl]
    split
    · split <;> rfl
    · rfl
  unfold State.faultContext
  cases t.phase with
  | running => exact hfault
  | stopping => exact hfault
  | preempted => exact (hemit _ _).trans (hend _ _)
  | snapshot => exact (hemit _ _).trans (hend _ _)
  | loading => exact (hemit _ _).trans (hend _ _)
  | _ => rfl

theorem State.faultAll_links (code : Nat) (l : List Task) (s : State) :
    (l.foldl (fun s t => if t.status = 0 then s.faultContext code t else s) s).links = s.links := by
  induction l generalizing s with
  | nil => rfl
  | cons t l ih =>
    refine (ih _).trans ?_
    dsimp only
    split
    · exact s.faultContext_links code t
    · rfl

/-! ### Refresh (R286) -/

theorem State.store_quays {s : State} {pa : Nat} (h : placeOf pa = .host) (bs : List Byte) : (s.store pa bs).quays = s.quays := by
  have hcached : s.cached pa bs.length none = s := by
    unfold State.cached
    rw [h]
    split <;> rfl
  unfold State.store State.touch
  dsimp only
  rw [hcached]
  split
  · rfl
  · show (if s.windows.isEmpty then s else _ : State).quays = s.quays
    split <;> rfl

/-- Every slot of the event ring lies in host memory. -/
def State.ringInHost (s : State) : Prop := s.hm.ringK ≠ 0 → ∀ j, j < s.ringSize → placeOf (s.hm.ringBase + 64 * j) = .host

theorem placeOf_host_between {a b x : Nat} (ha : placeOf a = .host) (hb : placeOf b = .host) (h1 : a ≤ x) (h2 : x ≤ b) : placeOf x = .host := by
  have hiff (p : Nat) : placeOf p = .host ↔ 0x40000000000000 ≤ p ∧ p < 0x80000000000000 := by
    unfold placeOf
    constructor
    · intro h
      split_ifs at h
      omega
    · intro h
      rw [if_neg (by omega), if_neg (by omega), if_neg (by omega), if_pos (by omega)]
  rw [hiff] at ha hb ⊢
  omega

theorem State.ringInHost_of {s : State} (h : s.hm.ringK = 0 ∨ placeOf s.hm.ringBase = .host ∧
    placeOf (s.hm.ringBase + 64 * 2 ^ s.hm.ringK - 1) = .host) : s.ringInHost := by
  intro hk j hj
  obtain ⟨h1, h2⟩ := h.resolve_left hk
  have hj' : j < 2 ^ s.hm.ringK := hj
  exact placeOf_host_between h1 h2 (by omega) (by omega)

theorem State.ringInHost_congr {s t : State} (h : s.ringInHost) (hk : t.hm.ringK = s.hm.ringK) (hb : t.hm.ringBase = s.hm.ringBase) : t.ringInHost := by
  unfold State.ringInHost State.ringSize
  rw [hk, hb]
  exact h

theorem State.writeEvents_quays : ∀ (n : Nat) {s : State}, s.ringInHost → (s.writeEvents n).quays = s.quays
  | 0, _, _ => rfl
  | n + 1, s, h => by
    unfold State.writeEvents
    split
    · rfl
    · next e r _ =>
      split
      · next hring =>
        have hhost := h hring.1 ((e.evno - 1) % s.ringSize) (Nat.mod_lt _ (Nat.two_pow_pos _))
        have hhm : (s.store (s.hm.ringBase + 64 * ((e.evno - 1) % s.ringSize)) (eventBytes e)).hm = s.hm :=
          (congrArg State.hm (s.store_unstored (s.hm.ringBase + 64 * ((e.evno - 1) % s.ringSize)) (eventBytes e) false) :)
        have hquays := State.store_quays (s := s) hhost (eventBytes e)
        generalize s.store (s.hm.ringBase + 64 * ((e.evno - 1) % s.ringSize)) (eventBytes e) = u at hhm hquays
        dsimp only
        exact (State.writeEvents_quays n (s := { u with
          hm := { u.hm with backlog := r }, host := { u.host with msix := u.host.msix ++ [0] } })
          (State.ringInHost_congr h (congrArg Harbour.ringK hhm :) (congrArg Harbour.ringBase hhm :))).trans hquays
      · rfl

theorem State.emit_quays {s : State} (h : s.ringInHost) (e : RawEvent) : (s.emit e).quays = s.quays := by
  have hadd {s : State} (h : s.ringInHost) (e : RawEvent) : (s.addEvent e).quays = s.quays :=
    State.writeEvents_quays _ (State.ringInHost_congr h rfl rfl)
  have hring {s : State} (h : s.ringInHost) (e : RawEvent) : (s.addEvent e).ringInHost :=
    State.ringInHost_congr h (congrArg (·.hm.ringK) (s.addEvent_unevented e) :) (congrArg (·.hm.ringBase) (s.addEvent_unevented e) :)
  unfold State.emit State.number State.numberLost
  split
  · split
    · have hl : ({ s with hm := { s.hm with lost := 0 } } : State).ringInHost := State.ringInHost_congr h rfl rfl
      rw [hadd (hring hl _)]
      exact hadd hl _
    · exact hadd h e
  · split <;> rfl

theorem State.quay_get (s : State) (i : Fin 8) : s.quay i = s.quays.get i := vector_toList_getD _ i _

/-! ### Spares (R12, R194, R283) -/

theorem State.maps_setPhys {s : State} (c : Fin 224) (p : Option Nat) :
    s.setPhys c p = { s with maps := { s.maps with core := s.maps.core.set c p c.isLt } } := dif_pos c.isLt

theorem coreSpareSwap_eq {s : State} {c : Fin 224} {k : Core} (hk : s.coreOf c = some k) (hst : k.part.status = .none)
    (hberth : ∀ t ∈ s.hm.tasks, t.phase ≠ .over → c.val ∉ t.cores) (hmap : (s.maps.core.get c).isSome = true) :
    exec (.coreSpareSwap c) s = match s.maps.takeSpare c with
      | some (p, m) => .next (({ s with maps := m }).setPhys c (some p))
      | none => .next (s.setPhys c none) := by
  have hno : (s.hm.tasks.any fun t => t.phase != .over && t.cores.contains c.val) = false := by
    refine List.any_eq_false.2 fun t ht h => ?_
    rw [Bool.and_eq_true, bne_iff_ne, List.contains_iff_mem] at h
    exact hberth t ht h.1 h.2
  show execCoreSpareSwap c s = _
  simp only [execCoreSpareSwap, hk, hst, hno, vector_toList_getD, hmap, c.isLt, decide_true, beq_self_eq_true, Bool.not_false, Bool.and_self, if_true] <;> rfl

theorem sliceRehome_runs {s : State} {n : Fin 384} (hcores : ∀ c ∈ s.cores, c.part.status = .none)
    (htasks : ∀ t ∈ s.hm.tasks, t.phase ≠ .running ∧ t.phase ≠ .stopping ∧ t.phase ≠ .loading) (hmap : (s.maps.slice.get n).isSome = true) :
    exec (.sliceRehome n) s = .next { s with maps := s.maps.moveSlice n n.isLt } := by
  have h1 : s.cores.all (fun c => c.part.status == .none) = true := List.all_eq_true.2 fun c hc => beq_iff_eq.2 (hcores c hc)
  have h2 : s.hm.tasks.all (fun t => t.phase != .running && t.phase != .stopping && t.phase != .loading) = true :=
    List.all_eq_true.2 fun t ht => by
      obtain ⟨h1, h2, h3⟩ := htasks t ht
      rw [bne_iff_ne.2 h1, bne_iff_ne.2 h2, bne_iff_ne.2 h3]
      rfl
  show execSliceRehome n s = _
  unfold execSliceRehome
  dsimp only
  rw [dif_pos n.isLt, h1, h2, show s.maps.slice.get ⟨n.val, n.isLt⟩ = s.maps.slice.get n from rfl, hmap]
  rfl

end Sys2Proof.Machine

namespace Sys2Proof

open Machine

/-- Settles O53: the lanes of the links, heartbeats, the Quays' own refresh, and the power cap. -/
theorem linksPowerAndSpares : Obligations.LinksPowerAndSpares := by
  unfold Obligations.LinksPowerAndSpares
  refine ⟨fun s n lane hn hd => ⟨?_, fun ok hlane hsp hall => ?_, fun hlane hsec => ?_⟩, fun s => ?_, fun s i => ⟨fun hauto hlate hring => ?_, fun hauto hsoon => ?_⟩,
    fun s draw => ⟨fun h1 h2 => if_pos ⟨h1, h2⟩, fun h1 h2 => if_pos ⟨h1, h2⟩⟩⟩
  · have hnum : ((s.link n).crcError lane (s.time / 1000000)).num = n := s.link_num n
    refine ⟨_, flitReplay_runs lane hn hd, ?_, fun m hm => ?_, fun m hm => ?_, rfl, rfl⟩
    · rw [State.link_setLink, if_pos hnum.symm, Link.crcError_errors, if_pos rfl]
    · rw [State.link_setLink, if_pos hnum.symm, Link.crcError_errors, if_neg hm, Nat.add_zero]
    · rw [State.link_setLink, hnum, if_neg hm]
  · have hone : (!(s.link n).spared && (s.link n).failed.all (· == lane)) = true := by
      rw [hsp, List.all_eq_true.2 fun l hl => beq_iff_eq.2 (hall l hl)]
      rfl
    have hrun := laneRepair_eq hn hd hlane ok
    rw [if_pos hone] at hrun
    have hlink : (s.setLink { (s.link n).repaired lane with spared := true }).link n = { (s.link n).repaired lane with spared := true } := by
      rw [State.link_setLink]
      exact if_pos (s.link_num n).symm
    refine ⟨_, hrun, by rw [hlink], by rw [hlink]; exact hd, ?_, rfl, rfl⟩
    rw [hlink]
    exact List.filter_eq_nil_iff.2 fun l hl => by rw [bne_iff_ne, not_not]; exact hall l hl
  · have hno : ¬ (!(s.link n).spared && (s.link n).failed.all (· == lane)) = true := by
      rw [Bool.and_eq_true, Bool.not_eq_true', List.all_eq_true]
      rintro ⟨h1, h2⟩
      rcases hsec with h | ⟨l, hl, hne⟩
      · rw [h1] at h
        exact Bool.false_ne_true h
      · exact hne (beq_iff_eq.1 (h2 l hl))
    have hdead : (s.setLink { s.link n with dead := true }).link n = { s.link n with dead := true } := by
      rw [State.link_setLink]
      exact if_pos (s.link_num n).symm
    have hfail := laneRepair_eq hn hd hlane false
    rw [if_neg hno, if_neg Bool.false_ne_true] at hfail
    refine ⟨?_, fun h35 => ?_, fun h35 => ?_⟩
    · have hrun := laneRepair_eq hn hd hlane true
      rw [if_neg hno, if_pos rfl] at hrun
      have hlink : (s.setLink { (s.link n).retrained with spared := true }).link n = { (s.link n).retrained with spared := true } := by
        rw [State.link_setLink]
        exact if_pos (s.link_num n).symm
      exact ⟨_, hrun, by rw [hlink]; exact hd, by rw [hlink], by rw [hlink]; rfl, rfl, rfl⟩
    · rw [if_pos (show isFerryPort n = true from decide_eq_true h35)] at hfail
      obtain ⟨sent, tasks, hport⟩ := (s.setLink { s.link n with dead := true }).failPort_only (n - 35)
      rw [hport] at hfail
      refine ⟨_, hfail, ?_, List.mem_cons_self, rfl, rfl, rfl⟩
      show ((s.setLink { s.link n with dead := true }).link n).dead = true
      rw [hdead]
    · rw [if_neg (by rw [isFerryPort, decide_eq_true_iff]; omega)] at hfail
      have hsound := State.faultAll_sound cUncorrectable (s.setLink { s.link n with dead := true }).hm.tasks
        (s.setLink { s.link n with dead := true }) fun v hv hs => ⟨v, hv, rfl, hs⟩
      have hlinks := State.faultAll_links cUncorrectable (s.setLink { s.link n with dead := true }).hm.tasks
        (s.setLink { s.link n with dead := true })
      generalize (s.setLink { s.link n with dead := true }).hm.tasks.foldl
        (fun s t => if t.status = 0 then s.faultContext cUncorrectable t else s) (s.setLink { s.link n with dead := true }) = u at hfail hsound hlinks
      have hul : (u.emit ⟨7, 0, 0, 0⟩).links = (s.setLink { s.link n with dead := true }).links :=
        (congrArg State.links (u.emit_unevented ⟨7, 0, 0, 0⟩) :).trans hlinks
      refine ⟨_, hfail, ?_, fun v hv hp h0 => ?_⟩
      · have hlink : (u.emit ⟨7, 0, 0, 0⟩).link n = (s.setLink { s.link n with dead := true }).link n := State.link_congr hul n
        rw [hlink, hdead]
      · rw [(u.emit_hm ⟨7, 0, 0, 0⟩).2.2] at hv
        exact hsound v hv ⟨hp, h0⟩
  · refine ⟨_, rfl, rfl, rfl, fun i => ?_⟩
    show (s.quays.map fun (q : Quay) => { q with lastBeat := s.time }).get i = _
    exact Vector.getElem_map _ i.isLt
  · have hrun : exec (.quayRefreshTakeover i) s =
        .next (({ s.mapQuay i fun q => { q with auto := true } with pilot := { (s.mapQuay i fun q => { q with auto := true }).pilot with down := true } } :
          State).emit ⟨7, 0, 0, 0⟩) := by
      show execQuayRefreshTakeover i s = _
      unfold execQuayRefreshTakeover
      dsimp only
      rw [State.quay_get, if_pos]
      rw [hauto, decide_eq_true i.isLt, decide_eq_true (show s.time ≥ (s.quays.get i).lastBeat + beatLimit from hlate)]
      rfl
    obtain ⟨v, hv⟩ := s.mapQuay_only i fun q => { q with auto := true }
    have hget := State.mapQuay_get (s := s) i.isLt fun q => { q with auto := true }
    rw [hv] at hrun hget
    obtain ⟨u, hu⟩ : ∃ u : State, ({ s with quays := v, pilot := { s.pilot with down := true } } : State) = u := ⟨_, rfl⟩
    have hq : (u.emit ⟨7, 0, 0, 0⟩).quays = u.quays := State.emit_quays (by
      rw [← hu]
      exact State.ringInHost_congr (State.ringInHost_of hring) rfl rfl) _
    have hp : (u.emit ⟨7, 0, 0, 0⟩).pilot = u.pilot := (congrArg State.pilot (u.emit_unevented ⟨7, 0, 0, 0⟩) :)
    have hqs := (u.emit_hm ⟨7, 0, 0, 0⟩).1
    dsimp only at hrun
    rw [hu] at hrun
    have huq : u.quays = v := by rw [← hu]
    refine ⟨_, hrun, ?_, ?_, ?_, fun j hj => ?_⟩
    · rw [hq, huq, hget, if_pos rfl]
    · rw [hp, ← hu]
    · rw [hqs, ← hu]
    · rw [hq, huq, hget, if_neg fun h => hj (Fin.ext h)]
  · have hrun : exec (.refreshHandback i) s = .next (s.mapQuay i fun q => { q with auto := false }) := by
      show execRefreshHandback i s = _
      unfold execRefreshHandback
      dsimp only
      rw [State.quay_get, if_pos]
      rw [hauto, decide_eq_true i.isLt, decide_eq_true (show s.time < (s.quays.get i).lastBeat + beatLimit from hsoon)]
      rfl
    obtain ⟨v, hv⟩ := s.mapQuay_only i fun q => { q with auto := false }
    refine ⟨_, hrun, ?_, by rw [hv]⟩
    rw [State.mapQuay_get i.isLt, if_pos rfl]

/-- Settles O60: cores and slices take the next spare of their deck or are retired, and channels and rows are mapped elsewhere. -/
theorem sparesAndRemaps : Obligations.SparesAndRemaps := by
  unfold Obligations.SparesAndRemaps
  refine ⟨fun s c k p r hk hst hberth hmap => ⟨fun hsp => ?_, fun hsp => ?_⟩, fun s n hcores htasks hmap => ?_,
    fun s stack channel hstack hfree => ?_, fun s i row hlen hrow => ?_⟩
  · have hrun := coreSpareSwap_eq hk hst hberth hmap
    have htake : s.maps.takeSpare c = some (p, if onDeckB c then { s.maps with spareB := r } else { s.maps with spareA := r }) := by
      unfold Maps.takeSpare
      rw [hsp]
    rw [htake] at hrun
    dsimp only at hrun
    rw [State.maps_setPhys] at hrun
    refine ⟨_, hrun, ?_, ?_, fun j hj => ?_, rfl⟩
    · dsimp only
      rw [vector_set_get, if_pos rfl]
    · cases onDeckB c <;> rfl
    · dsimp only
      rw [vector_set_get, if_neg fun h => hj (Fin.ext h)]
      cases onDeckB c <;> rfl
  · have hrun := coreSpareSwap_eq hk hst hberth hmap
    have htake : s.maps.takeSpare c = none := by
      unfold Maps.takeSpare
      rw [hsp]
    rw [htake] at hrun
    dsimp only at hrun
    rw [State.maps_setPhys] at hrun
    refine ⟨_, hrun, ?_, rfl⟩
    dsimp only
    rw [vector_set_get, if_pos rfl]
  · refine ⟨_, sliceRehome_runs hcores htasks hmap, rfl, fun j hj => ?_, fun l hl => ?_⟩
    · unfold Maps.moveSlice
      have hset (p : Option Nat) : (s.maps.slice.set n.val p n.isLt).get j = s.maps.slice.get j := by
        rw [vector_set_get, if_neg fun h => hj (Fin.ext h)]
      dsimp only
      split
      · split <;> exact hset _
      · split <;> exact hset _
    · have hset (p : Option Nat) : (s.maps.slice.set n.val p n.isLt).get n = p := by rw [vector_set_get, if_pos rfl]
      unfold Maps.moveSlice
      dsimp only
      by_cases hn : n.val < 192
      · rw [if_pos hn] at hl ⊢
        rw [if_pos hn]
        subst hl
        split
        · next e => rw [e]; exact ⟨hset _, rfl⟩
        · next e => rw [e]; exact ⟨hset _, rfl⟩
      · rw [if_neg hn] at hl ⊢
        rw [if_neg hn]
        subst hl
        split
        · next e => rw [e]; exact ⟨hset _, rfl⟩
        · next e => rw [e]; exact ⟨hset _, rfl⟩
  · have hno : (s.maps.channels.any fun c => c.1 == stack) = false := List.any_eq_false.2 fun c hc h => hfree c hc (beq_iff_eq.1 h)
    show execHbmChannelSpare stack channel s = _
    unfold execHbmChannelSpare
    rw [hno, decide_eq_true hstack]
    rfl
  · have hrun : exec (.lpddrRowRemap i row) s = .next (s.mapQuay i fun q => { q with remap := row :: q.remap }) := by
      show execLpddrRowRemap i row s = _
      unfold execLpddrRowRemap
      dsimp only
      rw [State.quay_get, if_pos]
      have hno : (s.quays.get i).remap.contains row = false := by
        rw [← Bool.not_eq_true, List.contains_iff_mem]
        exact hrow
      rw [hno, decide_eq_true i.isLt, decide_eq_true hlen]
      rfl
    obtain ⟨v, hv⟩ := s.mapQuay_only i fun q => { q with remap := row :: q.remap }
    refine ⟨_, hrun, ?_, fun j hj => ?_, by rw [hv]⟩
    · rw [State.mapQuay_get i.isLt, if_pos rfl]
    · rw [State.mapQuay_get i.isLt, if_neg fun h => hj (Fin.ext h)]

end Sys2Proof
end

section
/-! PROOFS. Resets, scan tests and debug steps, and the step itself: ResetScanTestAndDebug, DecodeWords, StepRunsDecoded and ResetState. -/

namespace Sys2Proof.Machine

/-! ### Reset (R287, R289, R290) -/

/-- Nothing is left of the bytes that a filter drops. -/
theorem Mem.byte_filter_dropped (m : Mem) {p : Nat × Byte → Bool} {a : Nat} (h : ∀ b, p (a, b) = false) : Mem.byte (m.filter p) a = 0 := by
  have hnone : (m.filter p).find? (fun c => c.1 == a) = none := by
    refine List.find?_eq_none.2 fun c hc he => ?_
    obtain ⟨x, b⟩ := c
    obtain rfl : x = a := beq_iff_eq.1 he
    have hp := (List.mem_filter.1 hc).2
    rw [h b] at hp
    exact Bool.false_ne_true hp
  unfold Mem.byte
  rw [hnone]

theorem Mem.byte_wiped (m : Mem) {a : Nat} (h : isDevice a = true) : Mem.byte (m.filter fun c => !isDevice c.1) a = 0 :=
  Mem.byte_filter_dropped m fun _ => by rw [h]; rfl

/-- What the images that a reset starts leave as it is. -/
theorem Pilot.afterReset_keeps (p : Pilot) : ∃ boot isvn version digest recovery,
    p.afterReset = { p.fuses with boot := boot, imageSvn := isvn, version := version, digest := digest, recovery := recovery } := by
  unfold Pilot.afterReset
  dsimp only
  split <;> exact ⟨_, _, _, _, _, rfl⟩

theorem Pilot.afterReset_recovery (p : Pilot) : p.afterReset.recovery = !p.images.all p.passes := by
  unfold Pilot.afterReset
  dsimp only
  split <;> rfl

theorem Pilot.passes_iff (p : Pilot) (f : FirmwareImage) : p.passes f = true ↔ sha512 f.pubkey = toBytes 64 p.keyHash.toNat ∧ p.svn ≤ f.svn ∧
    pssVerifies f.pubkey f.signature (toBytes 64 (Config.signedHash f.version f.svn f.digest).toNat) = true := by
  rw [Pilot.passes, Bool.and_eq_true, Bool.and_eq_true, beq_iff_eq, decide_eq_true_iff, and_assoc]

theorem Pilot.images_staged {p : Pilot} {f : FirmwareImage} (hs : p.staged = [f]) (hb : p.boot = []) : p.images = [f] := by
  rw [Pilot.images, hs, hb]
  rfl

theorem Pilot.afterReset_pilot {p : Pilot} {f : FirmwareImage} (hi : p.images = [f]) (hpart : f.part = .pilot) :
    p.afterReset.version = f.version ∧ p.afterReset.digest = f.digest := by
  unfold Pilot.afterReset Pilot.image
  dsimp only
  rw [hi, List.find?_cons_of_pos (by rw [hpart]; rfl)]
  exact ⟨rfl, rfl⟩

theorem Pilot.afterReset_factory {p : Pilot} (hi : p.images = []) : p.afterReset.recovery = false ∧ p.afterReset.version = p.version := by
  unfold Pilot.afterReset Pilot.image
  dsimp only
  rw [hi]
  exact ⟨rfl, rfl⟩

theorem Move.revives_other {m : Move} (h : m ≠ .event .moduleReset) : m.revives = false := by
  unfold Move.revives
  split
  · exact absurd rfl h
  · rfl

/-! ### The in-field scan test (R283, R284) -/

theorem State.reread_accessed (s : State) (l : Load) : s.Accessed (s.reread l).1 := by
  unfold State.reread
  split
  · exact s.readLoad_accessed l
  · have hp := State.pieces_accessed .deck false (2 ^ l.size.toNat + 1) s l.va.toNat (2 ^ l.size.toNat)
    unfold State.holdLoad
    dsimp only
    generalize s.pieces .deck false (2 ^ l.size.toNat + 1) l.va.toNat (2 ^ l.size.toNat) = r at hp
    obtain ⟨u, (_ | c) | ps⟩ := r
    · exact hp
    · exact hp.trans (.onCore (f := fun k => k.fatal c) rfl)
    · exact hp.trans (.onCore (f := fun c => c.holdAccess c.fenceLeft (.load l.dest)) rfl)

theorem State.reissueFaulted_accessed (s : State) : s.Accessed s.reissueFaulted := by
  have hall (l : List Load) (a : State × List Load) : a.1.Accessed (l.foldl (fun (a : State × List Load) l =>
      let (s, l) := if l.fault.isSome then a.1.reread l else (a.1, l)
      (s, a.2 ++ [l])) a).1 := by
    induction l generalizing a with
    | nil => exact .refl _
    | cons x l ih =>
      refine .trans ?_ (ih _)
      dsimp only
      split
      · exact a.1.reread_accessed x
      · exact .refl _
  exact (hall s.core.loads (s, [])).trans (.core rfl)

/-- A core that resumes from STEST: it runs, with the status in s63 and every other scalar register as it was. -/
theorem State.resumeScan_core (s : State) (status : Nat) : (s.resumeScan status).core.part.status = .running ∧ (s.resumeScan status).core.part.scan = 0 ∧
    (∀ r, (s.resumeScan status).core.getS r = (s.core.setS 63 (BitVec.ofNat 64 status)).getS r) ∧ (s.resumeScan status).board = s.board := by
  obtain ⟨u, hu⟩ : ∃ u, (s.dropWalks s.root).onCore (fun c => { (c.stestResult status).restored with
    bound := { c.bound with preempt := s.core.bound.preempt } }) = u := ⟨_, rfl⟩
  have hrun : s.resumeScan status = u.reissueFaulted := by rw [← hu]; rfl
  have hacc := u.reissueFaulted_accessed
  rw [hrun]
  have hpart : u.reissueFaulted.core.part = u.core.part := (congrArg Core.part hacc.ground :)
  have hregs : u.reissueFaulted.core.regs = u.core.regs := (congrArg Core.regs hacc.ground :)
  have hupart : u.core.part = { s.core.part with status := .running, scan := 0 } := by rw [← hu]; rfl
  have huregs : u.core.regs = (s.core.setS 63 (BitVec.ofNat 64 status)).regs := by rw [← hu]; rfl
  refine ⟨by rw [hpart, hupart], by rw [hpart, hupart], fun r => ?_, hacc.board.trans (by rw [← hu]; rfl)⟩
  unfold Core.getS
  rw [hregs, huregs]

/-- Writing the scan log leaves the cores and the maps as they are. -/
theorem State.logScan_keeps (s : State) (outcome spare : Nat) : (s.logScan outcome spare).core.unmonitored = s.core.unmonitored ∧ (s.logScan outcome spare).maps = s.maps ∧
    (s.logScan outcome spare).pilot.scanIdx = (s.pilot.scanIdx + 1) % 1024 := by
  unfold State.logScan
  dsimp only
  generalize (RawEvent.mk 7 _ _ _) = e
  obtain ⟨u, hu⟩ : ∃ u : State, ({ s with pilot := { s.pilot with
    scanLog := s.pilot.scanLog.set s.pilot.scanIdx ⟨s.core.id, outcome, if onDeckB s.core.id then 1 else 0,
      ((s.maps.core.toList.getD s.core.id none)).getD 0, spare, s.core.ctl.task, s.core.part.scanAt, s.time⟩
    scanIdx := (s.pilot.scanIdx + 1) % 1024 } } : State) = u := ⟨_, rfl⟩
  rw [hu]
  have hcore : u.core = s.core := by rw [← hu]
  have hmaps : u.maps = s.maps := by rw [← hu]
  have hidx : u.pilot.scanIdx = (s.pilot.scanIdx + 1) % 1024 := by rw [← hu]
  exact ⟨(State.unevented_core (u.emit_unevented e)).trans (congrArg Core.unmonitored hcore), (congrArg State.maps (u.emit_unevented e) :).trans hmaps,
    (congrArg (·.pilot.scanIdx) (u.emit_unevented e) :).trans hidx⟩

theorem State.setPhys_at {s : State} {n : Nat} (h : n < 224) (p : Option Nat) : (s.setPhys n p).core = s.core ∧
    (s.setPhys n p).maps.core.toList.getD n none = p := by
  rw [State.maps_setPhys ⟨n, h⟩ p]
  refine ⟨rfl, (vector_toList_getD _ ⟨n, h⟩ none).trans ?_⟩
  dsimp only
  rw [vector_set_get, if_pos rfl]

theorem State.setAbortLine_maps (s : State) (code : Nat) : (s.setAbortLine code).maps = s.maps := by
  unfold State.setAbortLine
  dsimp only
  split
  · exact (congrArg State.maps (State.emit_unevented _ _) :)
  · rfl

theorem State.retireSaved_keeps (s : State) (n : Nat) : (s.retireSaved n).core.unmonitored = s.core.unmonitored ∧ (s.retireSaved n).maps = s.maps := by
  have hall (lost : Task → Bool) (l : List Task) (s : State) :
      (l.foldl (fun s t => if lost t = true then (s.mapTask t.num (Task.losePart n)).emit ⟨3, s.queueOf t, t.tid, 0x10000⟩
        else s.mapTask t.num (Task.losePart n)) s).core.unmonitored = s.core.unmonitored ∧
      (l.foldl (fun s t => if lost t = true then (s.mapTask t.num (Task.losePart n)).emit ⟨3, s.queueOf t, t.tid, 0x10000⟩
        else s.mapTask t.num (Task.losePart n)) s).maps = s.maps := by
    induction l generalizing s with
    | nil => exact ⟨rfl, rfl⟩
    | cons t l ih =>
      refine ⟨(ih _).1.trans ?_, (ih _).2.trans ?_⟩
      · dsimp only
        split
        · exact (State.unevented_core (State.emit_unevented _ _)).trans rfl
        · rfl
      · dsimp only
        split
        · exact (congrArg State.maps (State.emit_unevented _ _) :)
        · rfl
  exact hall _ _ s

theorem State.scanStart_pattern {s : State} (h : s.core.part.scan = 2) : s.scanStart = s := by
  have hscan : s.core.scanFrom s.time = s.core := by
    rw [Core.scanFrom, if_neg]
    rintro ⟨h1, -⟩
    omega
  show { s with core := s.core.scanFrom s.time } = s
  rw [hscan]

theorem State.scanStart_draining {s : State} (h : s.core.drained = false) : s.scanStart = s := by
  have hscan : s.core.scanFrom s.time = s.core := by
    rw [Core.scanFrom, if_neg]
    rintro ⟨-, h1⟩
    rw [h] at h1
    exact Bool.false_ne_true h1
  show { s with core := s.core.scanFrom s.time } = s
  rw [hscan]

/-- The outcomes of a pattern that has run its 200 microseconds. -/
theorem stestPatternEnd_eq {s : State} (hst : s.core.part.status = .scanning) (hscan : s.core.part.scan = 2)
    (hlate : s.core.part.scanAt + 200000 ≤ s.clock / 36) (hpre : s.core.bound.preempt = false) (pass : Bool) :
    exec (.stestPatternEnd pass) s =
      if pass then .next ((s.logScan 0 0).resumeScan 0)
      else match s.maps.takeSpare s.core.id with
        | some (p, m) => .next ((({ s.logScan 1 p with maps := m } : State).setPhys s.core.id (some p)).resumeScan 1)
        | none => .next (((((s.logScan 3 0).setPhys s.core.id none).setAbortLine 0x10000).onCore fun c =>
            { c.endPart true with part := { (c.endPart true).part with scan := 0 } }).retireSaved s.core.id) := by
  have hno : ¬ (s.core.bound.preempt || s.core.part.status != .scanning || s.core.part.scan != 2 || decide (s.time < s.core.part.scanAt + 200000)) = true := by
    rw [hst, hscan, hpre, decide_eq_false (Nat.not_lt.2 (show s.core.part.scanAt + 200000 ≤ s.time from hlate))]
    exact Bool.false_ne_true
  show execStestPatternEnd pass s = _
  unfold execStestPatternEnd
  dsimp only
  rw [State.scanStart_pattern hscan, if_neg hno]
  have hcore (p : Nat) (m : Maps) : ({ s.logScan 1 p with maps := m } : State).core.id = s.core.id := (congrArg Core.id (s.logScan_keeps 1 p).1 :)
  split
  · rfl
  · cases s.maps.takeSpare s.core.id with
    | none => rfl
    | some pm => exact congrArg (fun n => Host.Outcome.next (State.resumeScan (State.setPhys _ n _) 1)) (hcore pm.1 pm.2)

theorem stestDrainTimeout_runs {s : State} (hst : s.core.part.status = .scanning) (hscan : s.core.part.scan = 1) (hdr : s.core.drained = false)
    (hlate : s.core.part.scanAt + 1000000 < s.clock / 36) : exec .stestDrainTimeout s = .next ((s.logScan 2 0).resumeScan 2) := by
  show execStestDrainTimeout s = _
  unfold execStestDrainTimeout
  dsimp only
  rw [State.scanStart_draining hdr, if_pos]
  rw [hst, hscan, decide_eq_true (show s.core.part.scanAt + 1000000 < s.time from hlate)]
  rfl

theorem Maps.takeSpare_some {m : Maps} {core p : Nat} {r : List Nat} (h : (if onDeckB core then m.spareB else m.spareA) = p :: r) :
    ∃ n, m.takeSpare core = some (p, n) := by
  unfold Maps.takeSpare
  rw [h]
  exact ⟨_, rfl⟩

theorem Maps.takeSpare_none {m : Maps} {core : Nat} (h : (if onDeckB core then m.spareB else m.spareA) = []) : m.takeSpare core = none := by
  unfold Maps.takeSpare
  rw [h]

end Sys2Proof.Machine

namespace Sys2Proof

open Machine

/-- Settles O54: what survives a reset and the loss of power, the ends of a scan test, and the steps of a halted core. -/
theorem resetScanTestAndDebug : Obligations.ResetScanTestAndDebug := by
  unfold Obligations.ResetScanTestAndDebug
  refine ⟨⟨fun s => ?_, fun s => ?_, fun s hd3 hno => ?_⟩, fun s hst hscan hlate hpre => ⟨?_, fun p r hsp hid => ?_, fun hsp hid => ?_⟩,
    fun s hst hscan hdr hlate => ?_, fun s hhalt => ⟨fun hst hstep => ⟨?_, fun n h1 h2 => ?_⟩, fun deadline since calls hstep hdue hruns => ?_, ?_⟩⟩
  · obtain ⟨boot, isvn, version, digest, recovery, hp⟩ := s.pilot.afterReset_keeps
    refine ⟨_, rfl, rfl, rfl, rfl, rfl, ?_, ?_, ?_, ?_, ?_, fun hdbg a ha => ?_, fun f ok hstaged hboot hok => ?_, fun hstaged hboot => ?_⟩
    · exact (congrArg Pilot.svn hp :)
    · exact (congrArg Pilot.keyHash hp :)
    · exact (congrArg Pilot.fused hp :)
    · exact (congrArg Pilot.power hp :)
    · exact (congrArg Pilot.security hp :)
    · show Mem.byte (if _ then _ else _) a = 0
      rw [if_pos (.inl hdbg)]
      exact Mem.byte_wiped _ ha
    · have hi := Pilot.images_staged hstaged hboot
      have hrec : s.pilot.afterReset.recovery = !s.pilot.passes f := by rw [Pilot.afterReset_recovery, hi, List.all_cons, List.all_nil, Bool.and_true]
      rw [← Pilot.passes_iff] at hok
      subst hok
      refine ⟨fun h => ⟨hrec.trans (by rw [h]; rfl), fun hpart => Pilot.afterReset_pilot hi hpart⟩, fun h => hrec.trans ?_⟩
      rw [Bool.eq_false_iff.2 h]
      rfl
    · exact Pilot.afterReset_factory (by rw [Pilot.images, hstaged, hboot]; rfl)
  · exact ⟨_, rfl, rfl, rfl, rfl, rfl, rfl, rfl, rfl, rfl, fun a ha => Mem.byte_wiped _ ha⟩
  · unfold step
    cases hag : s.agenda with
    | nil => exact if_pos hd3
    | cons t r =>
      have hmove : t.move.revives = false := Move.revives_other (hno t (by rw [hag]; rfl))
      exact if_pos (by rw [hmove, hd3]; rfl)
  · obtain ⟨hcore, hmaps, hidx⟩ := s.logScan_keeps 0 0
    obtain ⟨hrun, hzero, hregs, hboard⟩ := (s.logScan 0 0).resumeScan_core 0
    refine ⟨_, (stestPatternEnd_eq hst hscan hlate hpre true).trans (if_pos rfl), hrun, hzero, ?_, fun r hr => ?_, ?_, ?_⟩
    · rw [hregs]
      exact (Core.getS_setS _ _ _ _).trans (if_pos ⟨rfl, by decide⟩)
    · rw [hregs]
      refine (Core.getS_setS _ _ _ _).trans ((if_neg fun h => hr h.1).trans ?_)
      exact (congrArg (fun c : Machine.Core => c.getS r) hcore :)
    · exact (congrArg (fun b => b.1) hboard :).trans hmaps
    · exact (congrArg (fun b => b.2.1.scanIdx) hboard :).trans hidx
  · obtain ⟨m, hm⟩ := Maps.takeSpare_some hsp
    have hend := stestPatternEnd_eq hst hscan hlate hpre false
    rw [if_neg Bool.false_ne_true, hm] at hend
    obtain ⟨u, hu⟩ : ∃ u, (({ s.logScan 1 p with maps := m } : State).setPhys s.core.id (some p)) = u := ⟨_, rfl⟩
    have hphys : u.maps.core.toList.getD s.core.id none = some p := by
      rw [← hu]
      exact (State.setPhys_at hid _).2
    dsimp only at hend
    rw [hu] at hend
    obtain ⟨hrun, -, hregs, hboard⟩ := u.resumeScan_core 1
    refine ⟨_, hend, hrun, ?_, ?_⟩
    · rw [hregs]
      exact (Core.getS_setS _ _ _ _).trans (if_pos ⟨rfl, by decide⟩)
    · have hmaps : (u.resumeScan 1).maps = u.maps := congrArg (fun b => b.1) hboard
      rw [hmaps]
      exact hphys
  · have hend := stestPatternEnd_eq hst hscan hlate hpre false
    rw [if_neg Bool.false_ne_true, Maps.takeSpare_none hsp] at hend
    have hphys := (State.setPhys_at (s := s.logScan 3 0) hid none).2
    dsimp only at hend
    generalize (s.logScan 3 0).setPhys s.core.id none = u at hend hphys
    have hmaps := u.setAbortLine_maps 0x10000
    generalize u.setAbortLine 0x10000 = v at hend hmaps
    obtain ⟨hcore, hkept⟩ := (v.onCore fun c => { c.endPart true with part := { (c.endPart true).part with scan := 0 } }).retireSaved_keeps s.core.id
    refine ⟨_, hend, ?_, ?_⟩
    · exact (congrArg (fun c : Machine.Core => c.part.status) hcore :)
    · rw [hkept]
      show v.maps.core.toList.getD s.core.id none = none
      rw [hmaps]
      exact hphys
  · obtain ⟨hrun, hzero, hregs, -⟩ := (s.logScan 2 0).resumeScan_core 2
    refine ⟨_, stestDrainTimeout_runs hst hscan hdr hlate, hrun, hzero, ?_⟩
    rw [hregs]
    exact (Core.getS_setS _ _ _ _).trans (if_pos ⟨rfl, by decide⟩)
  · have hcan : s.core.steppable = true := by
      unfold Core.steppable Core.stepWaits
      rw [hhalt, hst, hstep]
      rfl
    show execDebugStep none s = _
    unfold execDebugStep
    rw [hcan]
    rfl
  · have hcan : s.core.steppable = true := by
      unfold Core.steppable Core.stepWaits
      rw [hhalt, hst, hstep]
      rfl
    show execDebugStep (some n) s = _
    unfold execDebugStep
    rw [hcan]
    have hin : 1000 ≤ n ∧ n ≤ 10 ^ 9 := ⟨h1, h2⟩
    exact if_pos hin
  · obtain ⟨k, hk, hsince, hstop⟩ := hruns
    have hwaits : s.core.stepWaits = true := by
      unfold Core.stepWaits
      rw [hstep]
      dsimp only
      rw [List.any_eq_true.2 ⟨k, hk, by rw [decide_eq_true hsince, hstop]; rfl⟩, Bool.true_or]
    have hexp : s.stepExpired = true := by
      unfold State.stepExpired
      rw [hstep]
      exact decide_eq_true (show deadline ≤ s.time from hdue)
    show execDebugStepTimeout s = _
    unfold execDebugStepTimeout
    rw [hhalt, hwaits, hexp]
    rfl
  · exact if_pos hhalt

end Sys2Proof

namespace Sys2Proof.Machine

/-! ### Fetching and decoding a bundle (R67, R85) -/

/-- The slots that decode are those of the words that they were fetched from. -/
theorem decodeSlots_word : ∀ {ws : List SlotWord} {k : Nat} {r : List (Nat × Instr)}, decodeSlots k ws = .ok r →
    ∀ p ∈ r, ∃ i w, p.1 = k + i ∧ ws[i]? = some w ∧ decodeSlot w = .ok p.2
  | [], _, r, h, p, hp => by
    obtain rfl : [] = r := Except.ok.inj h
    exact absurd hp List.not_mem_nil
  | w :: ws, k, r, h, p, hp => by
    unfold decodeSlots at h
    cases hw : decodeSlot w with
    | error e =>
      rw [hw] at h
      exact nomatch h
    | ok i =>
      cases hws : decodeSlots (k + 1) ws with
      | error e =>
        rw [hw, hws] at h
        exact nomatch h
      | ok l =>
        rw [hw, hws] at h
        obtain rfl : (k, i) :: l = r := Except.ok.inj h
        rcases List.mem_cons.1 hp with rfl | hp
        · exact ⟨0, w, rfl, rfl, hw⟩
        · obtain ⟨j, v, hj, hv, hd⟩ := decodeSlots_word hws p hp
          exact ⟨j + 1, v, by omega, hv, hd⟩

theorem decodeBundle_word {ws : List SlotWord} {b : Bundle} (h : decodeBundle ws = .ok b) {p : Nat × Instr} (hp : p ∈ b.ops) :
    ∃ w, ws[p.1]? = some w ∧ decodeSlot w = .ok p.2 := by
  cases ws with
  | nil => exact nomatch h
  | cons w0 rest =>
    unfold decodeBundle at h
    dsimp only at h
    cases hh : decodeHeader w0 with
    | error e =>
      rw [hh] at h
      exact nomatch h
    | ok hd =>
      cases hd with
      | none =>
        rw [hh] at h
        dsimp only at h
        cases hs : decodeSlots 0 (w0 :: rest) with
        | error e =>
          rw [hs] at h
          exact nomatch h
        | ok r =>
          rw [hs] at h
          obtain rfl : _ = b := Except.ok.inj h
          obtain ⟨i, w, hi, hw, hd⟩ := decodeSlots_word hs p hp
          exact ⟨w, by rw [hi, Nat.zero_add]; exact hw, hd⟩
      | some x =>
        rw [hh] at h
        dsimp only at h
        cases hs : decodeSlots 1 rest with
        | error e =>
          rw [hs] at h
          dsimp only at h
          split at h <;> exact nomatch h
        | ok r =>
          rw [hs] at h
          dsimp only at h
          split at h
          · obtain rfl : _ = b := Except.ok.inj h
            obtain ⟨i, w, hi, hw, hd⟩ := decodeSlots_word hs p hp
            exact ⟨w, by rw [hi, Nat.add_comm, List.getElem?_cons_succ]; exact hw, hd⟩
          · exact nomatch h

/-! ### A core's turn -/

theorem State.focus_self (s : State) : s.focus s.core.id = s := if_pos rfl

/-- A step with a turn on the agenda. -/
theorem step_turn {s : State} {t : Turn} {r : List Turn} (ha : s.agenda = t :: r) (h : s.pilot.power ≠ .d3 ∨ t.move.revives = true) :
    step s = (({ s with agenda := r } : State).focus t.core).move t.move := by
  unfold step
  rw [ha]
  refine if_neg fun hd => ?_
  rw [Bool.and_eq_true, decide_eq_true_iff, Bool.not_eq_true'] at hd
  rcases h with h | h
  · exact h hd.1
  · rw [h] at hd
    exact Bool.noConfusion hd.2

/-- A running core at whose boundary nothing waits issues its bundle. -/
theorem State.issue_bundle {v u : State} (hst : v.core.part.status = .running) (hh : v.core.part.halted = false) (hu : u = v.beforeOrder)
    (hhalt : u.core.part.halted = false) (hheld : u.senderHeld = false) (hwork : u.boundaryWork = none) : v.issue = u.issueBundle := by
  have hissues : v.core.issues = true := beq_iff_eq.2 hst
  have hfrozen : v.core.frozen = false := by rw [Core.frozen, hh, Bool.false_and]
  unfold State.issue
  dsimp only
  rw [if_pos hissues, if_neg (Bool.eq_false_iff.1 hfrozen), ← hu, if_neg (Bool.eq_false_iff.1 hhalt), State.chargeHeld, hheld, Bool.false_and,
    if_neg Bool.false_ne_true, State.issueRunning, hwork]

theorem Core.startBundle_replay {c : Core} (h : c.fetch.replay = none) : c.startBundle.fetch.replay = none := by
  have hs : c.startBundle = Core.landReady { c with bound := { c.bound with sample := false } } := by
    unfold Core.startBundle
    dsimp only
    rw [h]
    rfl
  rw [hs]
  exact (congrArg (·.fetch.replay) (Core.landReady_settled _) :).trans h

/-- The statement's run of a slot is the model's. -/
theorem State.performSlot_eq (l : State) (h : Option Header) (ops : SlotOps) : Safety.slotRun l h ops = l.performSlot h ops := by
  funext x p
  obtain ⟨k, i⟩ := p
  unfold Safety.slotRun State.performSlot
  cases i <;> rfl

/-- A bundle that has landed its results, decodes and is composed, issues by what its checks answer. -/
theorem State.issueBundle_checked {u l : State} {b : Bundle} (hl : l = u.onCore Core.startBundle) (hlf : loopfBad l.core (headerOf (l.core.fetchWords l.core.fetch.pc)) = false)
    (hd : decodeBundle (l.core.fetchWords l.core.fetch.pc) = .ok b) (hr : l.core.fetch.replay = none) (hc : composition l.core b.ops = none) :
    u.issueBundle = match l.checkBundle b.header b.ops with
      | .instead t => t.tick
      | .stall => l.stallTick b.header b.ops
      | .go => l.traceBundle.performBundle b.header b.ops := by
  unfold State.issueBundle
  dsimp only
  rw [← hl, if_neg (Bool.eq_false_iff.1 hlf), hd]
  dsimp only
  rw [hr]
  dsimp only [Option.isSome_none]
  rw [if_neg Bool.false_ne_true, hc] <;> rfl

theorem State.traceBundle_off {s : State} (h : s.pilot.trace = false) : s.traceBundle = s := by
  rw [State.traceBundle, h, Bool.false_and, if_neg Bool.false_ne_true]

/-- A bundle that may issue runs its slots, and the cycle ends. -/
theorem State.performBundle_eq {l t : State} (h : Option Header) (ops : SlotOps) (hr : l.core.fetch.replay = none)
    (ht : t = (inRank ops).foldl (Safety.slotRun l h ops) l) : l.performBundle h ops =
      (if t.core.issue.flow = .moved then t else t.onCore fun c => c.finish (ops.any fun p => isBranch p.2)).tick := by
  have hrun : l.core.slotsToRun ops = ops := by rw [Core.slotsToRun, hr]
  rw [State.performBundle, hrun, ← State.performSlot_eq, ← ht]

/-- The micro-operation that the matrix unit's turn runs. -/
theorem State.matrixTurn_micro {u : State} {q : Run} {i : Instr} (hp : u.core.mx.pend = []) (hr : u.core.mx.run = some q) (hrel : u.core.mx.reloadFirst = false)
    (hdone : q.done = false) (hi : q.prog[q.pc]? = some i) : u.matrixTurn = exec i u := by
  have hread : u.readPending = none := by rw [State.readPending, hp]
  rw [State.matrixTurn, hread, hr]
  dsimp only
  rw [hrel, hdone, if_neg Bool.false_ne_true, if_neg Bool.false_ne_true, hi]

end Sys2Proof.Machine

namespace Sys2Proof

open Machine

/-- Settles O55: each word is decoded. -/
theorem decodeWords : Obligations.DecodeWords := by
  unfold Obligations.DecodeWords
  decide

/-- Settles O57: what a step at a turn of the agenda comes to. -/
theorem stepRunsDecoded : Obligations.StepRunsDecoded := by
  unfold Obligations.StepRunsDecoded
  refine ⟨fun s v u l r ha hpow hv hst hh hu => ⟨fun h => hu.trans (State.beforeOrder_none h),
    fun hhalt hheld hwork hreplay hl htrace ws hws hlf => ?_⟩, fun s u q i r ha hpow hu hp hr hrel hdone hi => ?_, fun s u i c r ha hpow hu => ?_⟩
  · subst hws
    have hstep : step s = .next u.issueBundle := by
      rw [step_turn ha (.inl hpow), ← hv]
      have hfocus : v.focus s.core.id = v := by
        rw [hv]
        exact State.focus_self _
      show Host.Outcome.next (v.focus s.core.id).issue = _
      rw [hfocus, State.issue_bundle hst hh hu hhalt hheld hwork]
    have hlr : l.core.fetch.replay = none := by
      rw [hl]
      exact Core.startBundle_replay hreplay
    refine ⟨fun e k hd => ?_, fun b k hd hc => ?_, fun b hd hc => ⟨fun p hp => decodeBundle_word hd hp, fun hcheck => ?_, fun t hcheck => ?_,
      fun hcheck t ht => ?_⟩⟩
    · rw [hstep]
      unfold State.issueBundle
      dsimp only
      rw [← hl, if_neg (Bool.eq_false_iff.1 hlf), hd]
      rfl
    · rw [hstep]
      unfold State.issueBundle
      dsimp only
      rw [← hl, if_neg (Bool.eq_false_iff.1 hlf), hd]
      dsimp only
      rw [hlr]
      dsimp only [Option.isSome_none]
      rw [if_neg Bool.false_ne_true, hc]
      rfl
    · rw [hstep, State.issueBundle_checked hl hlf hd hlr hc, hcheck]
    · rw [hstep, State.issueBundle_checked hl hlf hd hlr hc, hcheck]
    · rw [hstep, State.issueBundle_checked hl hlf hd hlr hc, hcheck]
      dsimp only
      rw [State.traceBundle_off htrace, State.performBundle_eq b.header b.ops hlr ht]
      exact ⟨fun hm => by rw [if_neg hm], fun hm => by rw [if_pos hm]⟩
  · rw [step_turn ha (.inl hpow), ← hu]
    have hfocus : u.focus s.core.id = u := by
      rw [hu]
      exact State.focus_self _
    show (u.focus s.core.id).matrixTurn = _
    rw [hfocus, State.matrixTurn_micro hp hr hrel hdone hi]
  · rw [step_turn ha (hpow.imp id fun h => by rw [h]; rfl), ← hu]
    rfl

/-- Settles O58: the fields of the reset state. -/
theorem resetState : Obligations.ResetState := by
  unfold Obligations.ResetState
  have hget {α : Type} {n : Nat} (x : α) (j : Fin n) : (Vector.replicate n x).get j = x := Vector.getElem_replicate j.isLt
  have hcore {c : Machine.Core} (hc : c ∈ State.reset.cores) : ∃ i, c = Core.reset i := by
    rcases List.mem_cons.1 hc with rfl | hc
    · exact ⟨0, rfl⟩
    · obtain ⟨i, -, rfl⟩ := List.mem_map.1 hc
      exact ⟨i + 1, rfl⟩
  refine ⟨memWf_reset, ?_, fun c hc => ?_, rfl, rfl, rfl, fun q => ?_, fun k j => ?_, fun j => ?_, rfl, rfl, rfl⟩
  · show 0 :: ((List.range 223).map fun i => Core.reset (i + 1)).map Core.id = _
    rw [List.map_map, List.range_succ_eq_map]
    exact congrArg (0 :: ·) (List.map_congr_left fun _ _ => rfl)
  · obtain ⟨i, rfl⟩ := hcore hc
    exact ⟨rfl, rfl, rfl, rfl, rfl, rfl, rfl, rfl, rfl, rfl, rfl, hget _, hget _, hget _⟩
  · exact congrArg Queue.cfg (hget _ q)
  · exact (congrArg (fun v : Vector _ 16 => v.get j) (hget _ k)).trans (hget _ j)
  · exact hget _ j

end Sys2Proof
end

section
/-! PROOFS. The canonical form of memory, and what keeps it: the operations that instructions, engines and micro-operations share. -/

namespace Sys2Proof.Machine

/-! ### The canonical form of every memory

A core, a saved context or a module is formed when its memories are in canonical form. Each operation of the model keeps it: the lemmas follow
the model file by file, and `grind` goes through the branches of each definition with those of the operations it calls. -/

def Core.Formed (c : Core) : Prop := Safety.coreMem c = true

def Core.AllFormed (l : List Core) : Prop := ∀ c ∈ l, c.Formed

def Task.Formed (t : Task) : Prop := Core.AllFormed t.saved

def Task.AllFormed (l : List Task) : Prop := ∀ t ∈ l, t.Formed

def State.Formed (s : State) : Prop := Safety.memWf s = true

theorem Core.formed_iff (c : Core) : c.Formed ↔ c.pool.wf = true ∧ c.fetch.bank0.wf = true ∧ c.fetch.bank1.wf = true := coreMem_iff c

theorem Task.formed_iff (t : Task) : t.Formed ↔ Core.AllFormed t.saved := Iff.rfl

theorem State.formed_iff (s : State) : s.Formed ↔ s.mem.wf = true ∧ s.core.Formed ∧ Core.AllFormed s.rest ∧ Task.AllFormed s.hm.tasks := memWf_iff s

theorem Core.reset_formed (n : Nat) : (Core.reset n).Formed := coreMem_reset n

theorem Core.AllFormed.nil : Core.AllFormed [] := fun _ h => absurd h List.not_mem_nil

theorem Core.AllFormed.map {l : List Core} (h : Core.AllFormed l) {f : Core → Core} (hf : ∀ c, c.Formed → (f c).Formed) : Core.AllFormed (l.map f) :=
  by
  intro c hc
  obtain ⟨d, hd, rfl⟩ := List.mem_map.1 hc
  exact hf d (h d hd)

theorem Core.AllFormed.filter {l : List Core} (h : Core.AllFormed l) (p : Core → Bool) : Core.AllFormed (l.filter p) :=
  fun c hc => h c (List.mem_of_mem_filter hc)

theorem Core.AllFormed.append {l m : List Core} (h : Core.AllFormed l) (hm : Core.AllFormed m) : Core.AllFormed (l ++ m) :=
  fun c hc => (List.mem_append.1 hc).elim (h c) (hm c)

theorem Core.AllFormed.find {l : List Core} (h : Core.AllFormed l) {p : Core → Bool} {c : Core} (hc : l.find? p = some c) : c.Formed :=
  h c (List.mem_of_find?_eq_some hc)

theorem Task.AllFormed.map {l : List Task} (h : Task.AllFormed l) {f : Task → Task} (hf : ∀ t, t.Formed → (f t).Formed) : Task.AllFormed (l.map f) :=
  by
  intro t ht
  obtain ⟨u, hu, rfl⟩ := List.mem_map.1 ht
  exact hf u (h u hu)

theorem Task.AllFormed.filter {l : List Task} (h : Task.AllFormed l) (p : Task → Bool) : Task.AllFormed (l.filter p) :=
  fun t ht => h t (List.mem_of_mem_filter ht)

theorem Task.AllFormed.append {l m : List Task} (h : Task.AllFormed l) (hm : Task.AllFormed m) : Task.AllFormed (l ++ m) :=
  fun t ht => (List.mem_append.1 ht).elim (h t) (hm t)

theorem Task.AllFormed.find {l : List Task} (h : Task.AllFormed l) {p : Task → Bool} {t : Task} (ht : l.find? p = some t) : t.Formed :=
  h t (List.mem_of_find?_eq_some ht)

theorem State.Formed.core {s : State} (h : s.Formed) : s.core.Formed := ((State.formed_iff s).1 h).2.1

theorem State.Formed.rest {s : State} (h : s.Formed) : Core.AllFormed s.rest := ((State.formed_iff s).1 h).2.2.1

theorem State.Formed.tasks {s : State} (h : s.Formed) : Task.AllFormed s.hm.tasks := ((State.formed_iff s).1 h).2.2.2

theorem State.Formed.cores {s : State} (h : s.Formed) : Core.AllFormed s.cores :=
  fun c hc => (List.mem_cons.1 hc).elim (fun e => e ▸ h.core) (h.rest c)

theorem State.Accessed.formed {s t : State} (ha : s.Accessed t) (h : s.Formed) : t.Formed := ha.wf h

/-- A change of what is not memory. -/
theorem State.Formed.congr {s t : State} (h : s.Formed) (hmem : t.mem = s.mem) (hcore : t.core = s.core) (hrest : t.rest = s.rest)
    (htasks : t.hm.tasks = s.hm.tasks) : t.Formed := memWf_congr h hmem hcore hrest htasks

theorem Core.Formed.congr {c d : Core} (h : c.Formed) (hpool : d.pool = c.pool) (h0 : d.fetch.bank0 = c.fetch.bank0) (h1 : d.fetch.bank1 =
  c.fetch.bank1) :
    d.Formed := (coreMem_congr hpool h0 h1).trans h

theorem Core.Formed.of_settled {c d : Core} (h : c.Formed) (he : d.settled = c.settled) : d.Formed :=
  h.congr (congrArg Core.pool he :) (congrArg (·.fetch.bank0) he :) (congrArg (·.fetch.bank1) he :)

theorem State.foldl_formed {α : Type} {f : State → α → State} (hf : ∀ s a, s.Formed → (f s a).Formed) (l : List α) {s : State} (h : s.Formed) :
    (l.foldl f s).Formed := State.foldl_wf hf l h

theorem State.foldl_fst_formed {α β : Type} {f : State × β → α → State × β} (hf : ∀ x a, x.1.Formed → (f x a).1.Formed) :
    ∀ (l : List α) {x : State × β}, x.1.Formed → (l.foldl f x).1.Formed
  | [], _, h => h
  | a :: l, _, h => State.foldl_fst_formed hf l (hf _ a h)

theorem Core.foldl_formed {α : Type} {f : Core → α → Core} (hf : ∀ c a, c.Formed → (f c a).Formed) : ∀ (l : List α) {c : Core}, c.Formed → (l.foldl f
  c).Formed
  | [], _, h => h
  | a :: l, _, h => Core.foldl_formed hf l (hf _ a h)

theorem next_of_ite {p : Prop} [Decidable p] {a b : Outcome} {u : State} (h : (if p then a else b) = .next u) : a = .next u ∨ b = .next u := by
  split at h
  · exact .inl h
  · exact .inr h

theorem Core.formed_ite {p : Prop} [Decidable p] {a b : Core} (ha : a.Formed) (hb : b.Formed) : (if p then a else b).Formed := by
  split
  · exact ha
  · exact hb

theorem Core.formed_dite {p : Prop} [Decidable p] {a : p → Core} {b : ¬ p → Core} (ha : ∀ h, (a h).Formed) (hb : ∀ h, (b h).Formed) :
    (if h : p then a h else b h).Formed := by
  split
  · exact ha _
  · exact hb _

/-! ### The state's operations -/

theorem State.onCore_formed {s : State} (h : s.Formed) {f : Core → Core} (hf : (f s.core).Formed) : (s.onCore f).Formed := by
  rw [State.formed_iff] at *
  exact ⟨h.1, hf, h.2.2⟩

theorem State.mapCores_formed {s : State} (h : s.Formed) {f : Core → Core} (hf : ∀ c, c.Formed → (f c).Formed) : (s.mapCores f).Formed :=
  State.mapCores_wf h hf

theorem State.mapTask_formed {s : State} (h : s.Formed) (n : Nat) {f : Task → Task} (hf : ∀ t, t.Formed → (f t).Formed) : (s.mapTask n f).Formed :=
  State.mapTask_wf h hf

theorem State.mapAllCores_formed {s : State} (h : s.Formed) {f : Core → Core} (hf : ∀ c, c.Formed → (f c).Formed) : (s.mapAllCores f).Formed := by
  have hm := State.mapCores_formed h hf
  rw [State.formed_iff] at hm ⊢
  obtain ⟨hmem, hcore, hrest, htasks⟩ := hm
  exact ⟨hmem, hcore, hrest, htasks.map fun _ ht => Core.AllFormed.map ht hf⟩

theorem State.focus_formed {s : State} (h : s.Formed) (n : Nat) : (s.focus n).Formed := State.focus_wf h n

theorem State.flow_formed {s : State} (h : s.Formed) (f : Flow) : (s.flow f).Formed := State.flow_wf h f

theorem State.taskOf_formed {s : State} (h : s.Formed) {n : Nat} {t : Task} (ht : s.taskOf n = some t) : t.Formed := h.tasks.find ht

end Sys2Proof.Machine

namespace Sys2Proof.Machine

/-! ### Memory and translation -/

theorem State.mapQuay_formed {s : State} (h : s.Formed) (q : Nat) (f : Quay → Quay) : (s.mapQuay q f).Formed := by
  unfold State.mapQuay
  split
  · exact h
  · exact h

theorem State.cached_formed {s : State} (h : s.Formed) (pa n : Nat) (alloc : Option Nat) : (s.cached pa n alloc).Formed :=
  (s.cached_accessed pa n alloc).formed h

theorem State.touch_formed {s : State} (h : s.Formed) (pa n : Nat) : (s.touch pa n).Formed := State.touch_wf h pa n

theorem State.store_formed {s : State} (h : s.Formed) (pa : Nat) (bs : List Byte) (bad : Bool) : (s.store pa bs bad).Formed := State.store_wf h pa
    bs bad

theorem State.storeRow_formed {s : State} (h : s.Formed) (home : List (Nat × Nat)) (data : List Byte) (bad : List Nat) :
    (s.storeRow home data bad).Formed := State.storeRow_wf h home data bad

theorem State.performRow_formed {s : State} (h : s.Formed) (r : StagedRow) : (s.performRow r).Formed := State.performRow_wf h r

theorem State.commit_formed {s : State} (h : s.Formed) (n : Nat) : (s.commit n).Formed := State.commit_wf h n

theorem State.uncontain_formed {s : State} (h : s.Formed) (n : Nat) : (s.uncontain n).Formed := State.uncontain_wf h n

theorem State.xlat_formed {s : State} (h : s.Formed) (via : Via) (va : Nat) : (s.xlat via va).1.Formed := State.xlat_wf h via va

theorem State.dropWalks_formed {s : State} (h : s.Formed) (root : Nat) : (s.dropWalks root).Formed := by
  grind [State.dropWalks, State.formed_iff]

theorem State.pieces_formed {s : State} (h : s.Formed) (via : Via) (write : Bool) (fuel va len : Nat) : (s.pieces via write fuel va len).1.Formed :=
  State.pieces_wf fuel via write va len h

theorem State.sendRemote_formed {s : State} (h : s.Formed) (module addr : Nat) (op : RemoteOp) : (s.sendRemote module addr op).Formed :=
  State.sendRemote_wf h module addr op

theorem State.readPiece_formed {s : State} (h : s.Formed) (p : Piece) : (s.readPiece p).1.Formed := State.readPiece_wf h p

theorem State.readPieces_formed {s : State} (h : s.Formed) (ps : List Piece) : (s.readPieces ps).1.Formed := State.readPieces_wf ps h

theorem State.readVa_formed {s : State} (h : s.Formed) (via : Via) (va len : Nat) : (s.readVa via va len).1.Formed := State.readVa_wf h via va len

theorem State.hinted_formed {s : State} (h : s.Formed) (ps : List Piece) (hint : Nat) : (s.hinted ps hint).Formed := (s.hinted_accessed ps
    hint).formed h

theorem State.writePiece_formed {s : State} (h : s.Formed) (p : Piece) (bs : List Byte) (bad : Bool) : (s.writePiece p bs bad).1.Formed :=
  State.writePiece_wf h p bs bad

theorem State.writePieces_formed {s : State} (h : s.Formed) (bad : Bool) (ps : List Piece) (bs : List Byte) : (s.writePieces bad ps bs).1.Formed :=
  State.writePieces_wf bad ps bs h

theorem State.writeVa_formed {s : State} (h : s.Formed) (via : Via) (va : Nat) (bs : List Byte) (bad : Bool) : (s.writeVa via va bs bad).1.Formed :=
  State.writeVa_wf h via va bs bad

theorem State.readOwn_formed {s : State} (h : s.Formed) (ps : List Piece) : (s.readOwn ps).1.Formed := State.readOwn_wf ps h

/-! ### A core's operations -/

theorem Core.setS_formed {c : Core} (h : c.Formed) (r : BitVec 6) (x : Word) : (c.setS r x).Formed := by
  grind [Core.setS, Core.formed_iff]

theorem Core.setV_formed {c : Core} (h : c.Formed) (r : BitVec 5) (x : VReg) : (c.setV r x).Formed := by
  grind [Core.setV, Core.formed_iff]

theorem Core.poolWrite_formed {c : Core} (h : c.Formed) (a : Nat) (bs : List Byte) (bad : Bool) : (c.poolWrite a bs bad).Formed :=
  Core.poolWrite_wf h a bs bad

theorem Core.spWrite_formed {c : Core} (h : c.Formed) (off : Nat) (bs : List Byte) (bad : Bool) : (c.spWrite off bs bad).Formed :=
  Core.spWrite_wf h off bs bad

theorem Core.fatal_formed {c : Core} (h : c.Formed) (code : Nat) : (c.fatal code).Formed := by
  grind [Core.fatal, Core.formed_iff]

theorem Core.caught_formed {c : Core} (h : c.Formed) (why code : Nat) : (c.caught why code).Formed := Core.caught_wf h why code

theorem Core.unitCaught_formed {c : Core} (h : c.Formed) (why : Nat) (code : Nat) : (c.unitCaught why code).Formed := by
  grind [Core.unitCaught, Core.formed_iff, Core.caught_formed]

theorem Core.unitUncorrectable_formed {c : Core} (h : c.Formed) : (c.unitUncorrectable).Formed := by
  grind [Core.unitUncorrectable, Core.unitCaught_formed]

theorem Core.unitFatal_formed {c : Core} (h : c.Formed) (code : Nat) : (c.unitFatal code).Formed := by
  grind [Core.unitFatal, Core.formed_iff, Core.fatal_formed, Core.unitUncorrectable_formed]

theorem Core.uncorrectable_formed {c : Core} (h : c.Formed) : (c.uncorrectable).Formed := by
  grind [Core.uncorrectable, Core.caught_formed]

theorem Core.consumed_formed {c : Core} (h : c.Formed) (bad : Bool) : (c.consumed bad).Formed := by
  grind [Core.consumed, Core.formed_iff, Core.uncorrectable_formed]

theorem Core.logAll_formed {c : Core} (h : c.Formed) (rs : List (Nat × Nat × List Byte)) : (c.logAll rs).1.Formed := Core.logAll_wf rs h

theorem Core.spStore_formed {c : Core} (h : c.Formed) (parts : List (Nat × List Byte × (Nat → Bool))) : (c.spStore parts).Formed :=
  Core.spStore_wf h parts

theorem Core.send_formed {c : Core} (h : c.Formed) (res : Result) (lat : Nat) (unit : Nat) (twin : Twin) (div : Bool) (slow : Bool) :
    (c.send res lat unit twin div slow).Formed := by
  grind [Core.send, Core.formed_iff]

theorem Core.dropSlow_formed {c : Core} (h : c.Formed) (d : BitVec 6) (issued : Nat) (slot : Nat) : (c.dropSlow d issued slot).Formed := by
  grind [Core.dropSlow, Core.formed_iff]

theorem Core.landThose_formed {c : Core} (h : c.Formed) (due : Flight → Bool) : (c.landThose due).Formed := h.of_settled (c.landThose_settled due)

theorem Core.landDue_formed {c : Core} (h : c.Formed) : (c.landDue).Formed := by
  grind [Core.landDue, Core.landThose_formed]

theorem Core.landReady_formed {c : Core} (h : c.Formed) : (c.landReady).Formed := by
  grind [Core.landReady, Core.landThose_formed]

theorem Core.returnLoad_formed {c : Core} (h : c.Formed) (l : Load) : (c.returnLoad l).Formed := by
  grind [Core.returnLoad, Core.formed_iff, Core.dropSlow_formed, Core.setS_formed, Core.uncorrectable_formed]

theorem Core.holdAccess_formed {c : Core} (h : c.Formed) (after : List Nat) (op : FencedOp) : (c.holdAccess after op).Formed := by
  grind [Core.holdAccess, Core.formed_iff]

theorem Core.dropHeld_formed {c : Core} (h : c.Formed) (kind : FencedOp → Bool) : (c.dropHeld kind).Formed := by
  unfold Core.dropHeld
  split
  · exact h
  · exact h

theorem Core.settleLoads_formed {c : Core} (h : c.Formed) : c.settleLoads.Formed :=
  Core.foldl_formed (fun _ l hc => Core.returnLoad_formed hc l) _ (c := { c with loads := c.loads.filter fun l => !(l.fault.isNone && !l.late) }) h

theorem Core.drainLoads_formed {c : Core} (h : c.Formed) : (c.drainLoads).Formed := by
  grind [Core.drainLoads, Core.formed_iff, Core.dropHeld_formed, Core.settleLoads_formed]

theorem Core.endPart_formed {c : Core} (h : c.Formed) (aborted : Bool) : (c.endPart aborted).Formed := by
  grind [Core.endPart, Core.formed_iff, Core.dropHeld_formed]

theorem Core.sampleHere_formed {c : Core} (h : c.Formed) : (c.sampleHere).Formed := by
  grind [Core.sampleHere, Core.formed_iff]

theorem Core.takeTrap_formed {c : Core} (h : c.Formed) (t : TrapInfo) (epc : Nat) : (c.takeTrap t epc).Formed := by
  grind [Core.takeTrap, Core.formed_iff, Core.drainLoads_formed, Core.fatal_formed, Core.landDue_formed, Core.spWrite_formed]

theorem State.trapAt_formed {s : State} (h : s.Formed) (code : Nat) (slot : Nat) : (s.trapAt code slot).Formed := by
  grind [State.trapAt, State.Formed.core, Core.takeTrap_formed, State.flow_formed, State.onCore_formed]

theorem State.slot_formed {s : State} (h : s.Formed) (on : Bool) (bad : Option Nat) (stall : Bool) {effect : State → State}
    (he : ∀ u, u.Formed → (effect u).Formed) : (s.slot on bad stall effect).Formed := by
  have hran := State.flow_formed h .ran
  unfold State.slot
  split
  · exact hran
  · split
    · exact he _ hran
    · split
      · exact State.trapAt_formed h _ _
      · split
        · exact State.flow_formed h .stalled
        · exact he _ hran

theorem Core.slotFault_formed {c : Core} (h : c.Formed) (code : Nat) (va : Nat) (l : Latch) : (c.slotFault code va l).Formed := by
  grind [Core.slotFault, Core.formed_iff]

theorem Core.memFault_formed {c : Core} (h : c.Formed) (e : MemErr) (l : Latch) : (c.memFault e l).Formed := by
  cases e with
  | trans code va => exact Core.slotFault_formed h code va l
  | fatal code => grind [Core.memFault, Core.fatal_formed, Core.uncorrectable_formed]

theorem Core.addStrides_formed {c : Core} (h : c.Formed) (l : List (BitVec 6 × Int)) : (c.addStrides l).Formed := h.of_settled
    (Core.addStrides_settled l c)

theorem Core.sequence_formed (pc : Nat) : ∀ (fuel : Nat) {c : Core}, c.Formed → (c.sequence pc fuel).Formed
  | 0, _, h => h
  | fuel + 1, c, h => by
    have ih := @Core.sequence_formed pc fuel
    unfold Core.sequence
    grind [Core.formed_iff, Core.addStrides_formed, Core.sampleHere]

theorem Core.redirectTo_formed {c : Core} (h : c.Formed) (r : Redirect) : (c.redirectTo r).Formed := by
  grind [Core.redirectTo, Core.formed_iff]

theorem Core.advance_formed {c : Core} (h : c.Formed) (branchy : Bool) : (c.advance branchy).Formed := by
  grind [Core.advance, Core.formed_iff, Core.redirectTo_formed, Core.sampleHere_formed, Core.sequence_formed]

theorem Core.finish_formed {c : Core} (h : c.Formed) (branchy : Bool) (land : Bool) : (c.finish branchy land).Formed := by
  grind [Core.finish, Core.formed_iff, Core.advance_formed, Core.landReady_formed, Core.takeTrap_formed]

theorem State.boundaryAct_formed {s : State} (h : s.Formed) {act : Core → Core} (land : Bool) (ha : ∀ c, c.Formed → (act c).Formed) :
    (s.boundaryAct act land).Formed := by
  unfold State.boundaryAct
  split
  · refine State.flow_formed (State.onCore_formed h ?_) _
    have hf := Core.finish_formed h.core false land
    dsimp only
    split
    · exact hf
    · exact ha _ hf
  · exact State.flow_formed (State.onCore_formed h (Core.finish_formed (Core.slotFault_formed h.core _ _ _) _ _)) _

theorem Core.loadFrame_formed {c : Core} (h : c.Formed) : (c.loadFrame).Formed := by
  grind [Core.loadFrame, Core.formed_iff]

theorem State.reread_formed {s : State} (h : s.Formed) (l : Load) : (s.reread l).1.Formed := (s.reread_accessed l).formed h

theorem State.reissue_formed {s : State} (h : s.Formed) (l : Load) (e : Nat) : (s.reissue l e).1.Formed := by
  grind [State.reissue, State.reread_formed]

theorem State.reissueAll_formed : ∀ (l : List (Load × Nat)) {s : State}, s.Formed → (s.reissueAll l).1.Formed
  | [], _, h => h
  | (l, e) :: r, s, h => by
    have ih := @State.reissueAll_formed r
    unfold State.reissueAll
    grind [State.reissue_formed]

theorem Core.faultAgain_formed {c : Core} (h : c.Formed) (code : Nat) (va : Nat) (slot : Nat) : (c.faultAgain code va slot).Formed := by
  grind [Core.faultAgain, Core.formed_iff, Core.fatal_formed, Core.spWrite_formed]

theorem State.trapReturn_formed {s : State} (h : s.Formed) : (s.trapReturn).Formed := by
  grind [State.trapReturn, Core.formed_iff, State.Formed.core, Core.dropHeld_formed, Core.fatal_formed, Core.faultAgain_formed,
    Core.loadFrame_formed, State.onCore_formed, State.reissueAll_formed]

/-! ### Events and cards -/

theorem Core.scanFrom_formed {c : Core} (h : c.Formed) (t : Nat) : (c.scanFrom t).Formed := by
  grind [Core.scanFrom, Core.formed_iff]

theorem State.scanStart_formed {s : State} (h : s.Formed) : (s.scanStart).Formed := by
  grind [State.scanStart, State.Formed.core, Core.scanFrom_formed, State.onCore_formed]

theorem State.writeEvents_formed (n : Nat) {s : State} (h : s.Formed) : (s.writeEvents n).Formed := by
  induction n generalizing s with
  | zero => exact h
  | succ n ih =>
    unfold State.writeEvents
    grind [State.store_formed, State.formed_iff]

theorem State.addEvent_formed {s : State} (h : s.Formed) (e : RawEvent) : (s.addEvent e).Formed := by
  grind [State.addEvent, State.formed_iff, State.writeEvents_formed]

theorem State.numberLost_formed {s : State} (h : s.Formed) : (s.numberLost).Formed := by
  grind [State.numberLost, State.formed_iff, State.addEvent_formed]

theorem State.number_formed {s : State} (h : s.Formed) (e : RawEvent) : (s.number e).Formed := by
  grind [State.number, State.addEvent_formed, State.numberLost_formed]

theorem State.emit_formed {s : State} (h : s.Formed) (e : RawEvent) : (s.emit e).Formed := by
  grind [State.emit, State.formed_iff, State.number_formed]

theorem State.emitWaiting_formed (n : Nat) {s : State} (h : s.Formed) : (s.emitWaiting n).Formed := by
  induction n generalizing s with
  | zero => exact h
  | succ n ih =>
    unfold State.emitWaiting
    grind [State.number_formed, State.formed_iff]

/-! ### Operands -/

theorem Core.postInc_formed {c : Core} (h : c.Formed) (x : SMem) : (c.postInc x).Formed := by
  grind [Core.postInc, Core.formed_iff, Core.send_formed]

end Sys2Proof.Machine

namespace Sys2Proof.Machine

/-! ### Streams -/

theorem Core.setStream_formed {c : Core} (h : c.Formed) (w : BitVec 3) (x : Stream) : (c.setStream w x).Formed := by
  grind [Core.setStream, Core.formed_iff]

theorem State.fillStream_formed {s : State} (h : s.Formed) (w : BitVec 3) (b : StreamBind) : (s.fillStream w b).Formed := by
  grind [State.fillStream, State.Formed.core, Core.fatal_formed, Core.setStream_formed, State.hinted_formed, State.onCore_formed,
    State.pieces_formed, State.readPieces_formed]

theorem Core.supersede_formed {c : Core} (h : c.Formed) (num va len : Nat) : (c.supersede num va len).Formed := by
  have hg := Core.supersede_ground c num va len
  exact h.congr (congrArg Core.pool hg :) (congrArg (·.fetch.bank0) hg :) (congrArg (·.fetch.bank1) hg :)

theorem Core.holdStore_formed {c : Core} (h : c.Formed) (num depth : Nat) (ps : List Piece) (bs : List Byte) (cost : Nat) :
    (c.holdStore num depth ps bs cost).Formed := h

theorem State.performStore_formed {s : State} (h : s.Formed) (num : Nat) (ps : List Piece) (bs : List Byte) : (s.performStore num ps bs).Formed :=
  (s.performStore_accessed num ps bs).formed h

theorem State.atomicAt_formed {s : State} (h : s.Formed) (own : Bool) (ps : List Piece) (va n : Nat) (op : RemoteOp) (new : Nat → Option Nat)
    (dirty : Bool) : (s.atomicAt own ps va n op new dirty).1.Formed := (s.atomicAt_accessed own ps va n op new dirty).formed h

theorem State.systemAtomic_formed {s : State} (h : s.Formed) (ps : List Piece) : (s.systemAtomic ps).Formed := (s.systemAtomic_accessed ps).formed h

theorem State.ownStore_formed {s : State} (h : s.Formed) (ps : List Piece) (bs : List Byte) (cost : Nat) : (s.ownStore ps bs cost).Formed := by
  have hown : (ps.foldl (fun s p => s.onCore fun c => c.supersede c.stamp p.va p.len) s).Formed :=
    State.foldl_formed (fun _ _ hu => State.onCore_formed hu (Core.supersede_formed hu.core _ _ _)) ps h
  grind [State.ownStore, State.onCore_formed, State.Formed.core, Core.caught_formed, Core.holdStore_formed, State.performStore_formed,
    Core.holdAccess_formed]

theorem State.drainStream_formed {s : State} (h : s.Formed) (w : BitVec 3) : (s.drainStream w).Formed := (s.drainStream_accessed w).formed h

theorem State.performBuffered_formed {s : State} (h : s.Formed) (l : List BufStore) : (s.performBuffered l).Formed :=
  (State.performBuffered_accessed l s).formed h

theorem State.performAtomic_formed {s : State} (h : s.Formed) (va n : Nat) (op : RemoteOp) (ps : List Piece) : (s.performAtomic va n op
    ps).1.Formed :=
  (s.performAtomic_accessed va n op ps).formed h

theorem Core.arm_formed {c : Core} (h : c.Formed) (line : Nat) (nothing : Bool) (num : Nat) : (c.arm line nothing num).Formed := by
  grind [Core.arm, Core.formed_iff]

theorem State.releaseAll_formed {s : State} (h : s.Formed) : s.releaseAll.Formed := s.releaseAll_accessed.formed h

theorem State.flushBefore_formed {s : State} (h : s.Formed) (num : Nat) : (s.flushBefore num).Formed := (s.flushBefore_accessed num).formed h

theorem State.flushStreams_formed {s : State} (h : s.Formed) : s.flushStreams.Formed := s.flushStreams_accessed.formed h

/-! ### Scalar instructions -/

theorem Core.sendS_formed {c : Core} (h : c.Formed) (dup : Bool) (d : BitVec 6) (x : Word) (cls : Nat) (lat : Nat) (div : Bool) :
    (c.sendS dup d x cls lat div).Formed := by
  grind [Core.sendS, Core.send_formed]

theorem State.execS3_formed {s : State} (h : s.Formed) {x : S3} {on : Bool} {bad : Option Nat} {cls lat : Nat} {div : Bool}
    {f : Core → Word → Word → Word} {old : Bool} {u : State} (hu : s.execS3 x on bad cls lat div f old = .next u) : u.Formed := by
  obtain rfl := Host.Outcome.next.inj hu
  exact State.slot_formed h _ _ _ fun _ hv => State.onCore_formed hv (Core.sendS_formed hv.core _ _ _ _ _ _)

theorem State.execS2_formed {s : State} (h : s.Formed) {x : S2} {f : Word → Word} {u : State} (hu : s.execS2 x f = .next u) : u.Formed := by
  obtain rfl := Host.Outcome.next.inj hu
  exact State.slot_formed h _ _ _ fun _ hv => State.onCore_formed hv (Core.sendS_formed hv.core _ _ _ _ _ _)

theorem Core.sendQ_formed {c : Core} (h : c.Formed) (dup : Bool) (d : BitVec 4) (x : Bool) : (c.sendQ dup d x).Formed := by
  grind [Core.sendQ, Core.send_formed]

theorem execMovi_formed (x : SMovi) {s : State} (h : s.Formed) {u : State} (hu : execMovi x s = .next u) : u.Formed := by
  grind [execMovi, State.Formed.core, Core.sendS_formed, State.onCore_formed, State.slot_formed]

theorem execLea_formed (x : SLea) {s : State} (h : s.Formed) {u : State} (hu : execLea x s = .next u) : u.Formed := by
  grind [execLea, State.Formed.core, Core.sendS_formed, State.onCore_formed, State.slot_formed]

theorem execCmp_formed (x : SCmp) {s : State} (h : s.Formed) {u : State} (hu : execCmp x s = .next u) : u.Formed := by
  grind [execCmp, State.Formed.core, Core.sendQ_formed, State.onCore_formed, State.slot_formed]

theorem execPlog_formed (x : SPlog) {s : State} (h : s.Formed) {u : State} (hu : execPlog x s = .next u) : u.Formed := by
  grind [execPlog, State.Formed.core, Core.sendQ_formed, State.onCore_formed, State.slot_formed]

theorem execChk_formed (x : SChk) {s : State} (h : s.Formed) {u : State} (hu : execChk x s = .next u) : u.Formed := by
  grind [execChk, Core.formed_iff, State.Formed.core, Core.caught_formed, State.onCore_formed, State.slot_formed]

theorem Core.addLoad_formed {c : Core} (h : c.Formed) (x : SMem) (va : Word) (atomic : Bool) (value : Nat) (fault : Option (Nat × Nat))
    (poison : Bool) (late : Bool) : (c.addLoad x va atomic value fault poison late).Formed := by
  grind [Core.addLoad, Core.formed_iff]

theorem execLd_formed (x : SMem) {s : State} (h : s.Formed) {u : State} (hu : execLd x s = .next u) : u.Formed := by
  grind [execLd, State.Formed.core, Core.addLoad_formed, Core.fatal_formed, Core.holdAccess_formed, Core.postInc_formed, State.flushStreams_formed,
    State.onCore_formed, State.pieces_formed, State.readOwn_formed, State.slot_formed]

theorem execSt_formed (x : SMem) {s : State} (h : s.Formed) {u : State} (hu : execSt x s = .next u) : u.Formed := by
  grind [execSt, State.Formed.core, Core.memFault_formed, Core.postInc_formed, Core.spStore_formed, State.flushBefore_formed, State.onCore_formed,
    State.ownStore_formed, State.pieces_formed, State.slot_formed]

theorem State.execAtomic_formed {s : State} (h : s.Formed) (x : SMem) (badCode : Bool) (opnd1 : Word) (opnd2 : Word) (op : RemoteOp) {u : State}
    (hu : s.execAtomic x badCode opnd1 opnd2 op = .next u) : u.Formed := by
  grind [State.execAtomic, State.Formed.core, Core.addLoad_formed, Core.holdAccess_formed, Core.memFault_formed, Core.postInc_formed,
    Core.spStore_formed, State.flushBefore_formed, State.onCore_formed, State.performAtomic_formed, State.pieces_formed, State.slot_formed,
    State.uncontain_formed]

theorem execAtom_formed (x : SMem) {s : State} (h : s.Formed) {u : State} (hu : execAtom x s = .next u) : u.Formed := by
  grind [execAtom, State.execAtomic_formed]

theorem execCas_formed (x : SMem) {s : State} (h : s.Formed) {u : State} (hu : execCas x s = .next u) : u.Formed := by
  grind [execCas, State.execAtomic_formed]

/-! ### Control flow -/

theorem Core.branchTo_formed {c : Core} (h : c.Formed) (t : Nat) (flip : Bool) : (c.branchTo t flip).Formed := by
  grind [Core.branchTo, Core.formed_iff]

theorem Core.link_formed {c : Core} (h : c.Formed) : (c.link).Formed := by
  grind [Core.link, Core.send_formed]

theorem State.execBranch_formed {s : State} (h : s.Formed) {g : Guard} {t : Nat} {pend stall : Bool} {f : Core → Core}
    (hf : ∀ c, c.Formed → (f c).Formed) {u : State} (hu : s.execBranch g t pend stall f = .next u) : u.Formed := by
  obtain rfl := Host.Outcome.next.inj hu
  exact State.slot_formed h _ _ _ fun _ hv => State.onCore_formed hv (hf _ (Core.branchTo_formed hv.core _ _))

theorem execBr_formed (x : BrF) {s : State} (h : s.Formed) {u : State} (hu : execBr x s = .next u) : u.Formed := by
  grind [execBr, State.execBranch_formed]

theorem execJmp_formed (x : JmpF) {s : State} (h : s.Formed) {u : State} (hu : execJmp x s = .next u) : u.Formed := by
  grind [execJmp, State.execBranch_formed]

theorem execJmpReg_formed (x : GReg) {s : State} (h : s.Formed) {u : State} (hu : execJmpReg x s = .next u) : u.Formed := by
  grind [execJmpReg, State.execBranch_formed]

theorem execCall_formed (x : JmpF) {s : State} (h : s.Formed) {u : State} (hu : execCall x s = .next u) : u.Formed := by
  grind [execCall, Core.link_formed, State.execBranch_formed]

theorem execCallReg_formed (x : GReg) {s : State} (h : s.Formed) {u : State} (hu : execCallReg x s = .next u) : u.Formed := by
  grind [execCallReg, Core.link_formed, State.execBranch_formed]

theorem execRet_formed (x : Guard) {s : State} (h : s.Formed) {u : State} (hu : execRet x s = .next u) : u.Formed := by
  grind [execRet, State.execBranch_formed]

theorem execIbank_formed (x : GReg) {s : State} (h : s.Formed) {u : State} (hu : execIbank x s = .next u) : u.Formed := by
  grind [execIbank, State.Formed.core, Core.branchTo_formed, State.onCore_formed, State.slot_formed]

theorem execIfence_formed (x : Guard) {s : State} (h : s.Formed) {u : State} (hu : execIfence x s = .next u) : u.Formed := by
  grind [execIfence, Core.formed_iff, State.Formed.core, State.onCore_formed, State.slot_formed]

theorem execBsel_formed (x : GReg2) {s : State} (h : s.Formed) {u : State} (hu : execBsel x s = .next u) : u.Formed := by
  grind [execBsel, Core.formed_iff, State.Formed.core, Core.branchTo_formed, Core.consumed_formed, State.onCore_formed, State.slot_formed]

theorem execLoop_formed (x : LoopF) {s : State} (h : s.Formed) {u : State} (hu : execLoop x s = .next u) : u.Formed := by
  grind [execLoop, Core.formed_iff, State.Formed.core, Core.consumed_formed, State.onCore_formed, State.slot_formed]

theorem execNop_formed {s : State} (h : s.Formed) {u : State} (hu : execNop s = .next u) : u.Formed := by
  grind [execNop, State.flow_formed]

theorem execTend_formed (x : Guard) {s : State} (h : s.Formed) {u : State} (hu : execTend x s = .next u) : u.Formed := by
  grind [execTend, Core.endPart_formed, State.boundaryAct_formed, State.flushStreams_formed, State.slot_formed]

theorem Core.lineSet_formed {me : Core} (h : me.Formed) (code : Nat) {c : Core} (h1 : c.Formed) : (me.lineSet code c).Formed := by
  grind [Core.lineSet, Core.formed_iff]

theorem Task.firstCode_formed (code : Nat) {t : Task} (h : t.Formed) : (t.firstCode code).Formed := by
  grind [Task.firstCode, Task.formed_iff]

theorem State.setAbortLine_formed {s : State} (h : s.Formed) (code : Nat) : (s.setAbortLine code).Formed := by
  grind [State.setAbortLine, State.Formed.core, Core.lineSet_formed, State.emit_formed, State.mapCores_formed, State.mapTask_formed,
    Task.firstCode_formed]

theorem execCabort_formed (x : Imm16F) {s : State} (h : s.Formed) {u : State} (hu : execCabort x s = .next u) : u.Formed := by
  grind [execCabort, State.Formed.core, Core.sampleHere_formed, State.onCore_formed, State.setAbortLine_formed, State.slot_formed]

theorem execYield_formed (x : Guard) {s : State} (h : s.Formed) {u : State} (hu : execYield x s = .next u) : u.Formed := by
  grind [execYield, State.slot_formed]

theorem Core.softTrap_formed {c : Core} (h : c.Formed) (code : Nat) (slot : Nat) (imm : Nat) : (c.softTrap code slot imm).Formed := by
  grind [Core.softTrap, Core.takeTrap_formed]

theorem execBrkpt_formed (x : Imm16F) {s : State} (h : s.Formed) {u : State} (hu : execBrkpt x s = .next u) : u.Formed := by
  grind [execBrkpt, Core.formed_iff, Core.softTrap_formed, State.boundaryAct_formed, State.slot_formed]

theorem execTrap_formed (x : Imm16F) {s : State} (h : s.Formed) {u : State} (hu : execTrap x s = .next u) : u.Formed := by
  grind [execTrap, Core.softTrap_formed, State.boundaryAct_formed, State.slot_formed]

theorem execTret_formed (x : Guard) {s : State} (h : s.Formed) {u : State} (hu : execTret x s = .next u) : u.Formed := by
  grind [execTret, State.boundaryAct_formed, State.flow_formed, State.flushStreams_formed, State.slot_formed, State.trapReturn_formed]

end Sys2Proof.Machine

namespace Sys2Proof.Machine

/-! ### Synchronisation -/

theorem State.syncPiece_formed {s : State} (h : s.Formed) (va : Nat) (scope : Nat) : (s.syncPiece va scope).1.Formed := by
  grind [State.syncPiece, State.xlat_formed]

theorem State.readSync_formed {s : State} (h : s.Formed) (p : Piece) : (s.readSync p).1.Formed := by
  grind [State.readSync, State.readPiece_formed]

theorem State.writeSync_formed {s : State} (h : s.Formed) (p : Piece) (o : SyncObj) (op : RemoteOp) : (s.writeSync p o op).1.Formed := by
  grind [State.writeSync, State.sendRemote_formed, State.uncontain_formed, State.writePiece_formed]

theorem State.acqProbe_formed {s : State} (h : s.Formed) (va : Nat) (scope : Nat) : (s.acqProbe va scope).1.Formed := by
  grind [State.acqProbe, State.readSync_formed, State.syncPiece_formed]

theorem State.acquire_formed {s : State} (h : s.Formed) (p : Piece) (o : SyncObj) : (s.acquire p o).1.Formed := by
  grind [State.acquire, State.writeSync_formed]

theorem execAcq_formed (x : SyncF) {s : State} (h : s.Formed) {u : State} (hu : execAcq x s = .next u) : u.Formed := by
  grind [execAcq, State.Formed.core, Core.memFault_formed, State.acqProbe_formed, State.acquire_formed, State.flow_formed, State.flushStreams_formed,
    State.onCore_formed, State.slot_formed]

theorem execRel_formed (x : SyncF) {s : State} (h : s.Formed) {u : State} (hu : execRel x s = .next u) : u.Formed := by
  grind [execRel, Core.formed_iff, State.Formed.core, Core.memFault_formed, State.flushStreams_formed, State.onCore_formed, State.slot_formed,
    State.syncPiece_formed, State.uncontain_formed]

theorem State.sendMarkers_formed {s : State} (h : s.Formed) : (s.sendMarkers).1.Formed := by
  grind [State.sendMarkers, State.formed_iff, State.Formed.core, Task.formed_iff, State.mapTask_formed]

theorem State.releaseNow_formed {s : State} (h : s.Formed) (r : Release) : (s.releaseNow r).Formed := by
  grind [State.releaseNow, State.Formed.core, Core.fatal_formed, State.onCore_formed, State.readSync_formed, State.writeSync_formed]

theorem execReleasePerform_formed (k : Nat) {s : State} (h : s.Formed) {u : State} (hu : execReleasePerform k s = .next u) : u.Formed := by
  grind [execReleasePerform, Core.formed_iff, State.Formed.core, State.onCore_formed, State.releaseNow_formed, State.sendMarkers_formed]

theorem Core.fenceHere_formed {c : Core} (h : c.Formed) : (c.fenceHere).Formed := by
  grind [Core.fenceHere, Core.formed_iff]

theorem execFence_formed (x : FenceF) {s : State} (h : s.Formed) {u : State} (hu : execFence x s = .next u) : u.Formed := by
  grind [execFence, State.Formed.core, Core.fenceHere_formed, State.flushStreams_formed, State.onCore_formed, State.slot_formed]

theorem Core.setCounts_formed {c : Core} (h : c.Formed) (lo : Nat) (block : Nat) : (c.setCounts lo block).Formed := by
  grind [Core.setCounts, Core.formed_iff]

theorem execLcnt_formed (x : LcntF) {s : State} (h : s.Formed) {u : State} (hu : execLcnt x s = .next u) : u.Formed := by
  obtain rfl := Host.Outcome.next.inj hu
  refine State.slot_formed h _ _ _ fun v hv => ?_
  have hp := State.acqProbe_formed (State.flushStreams_formed hv) (s.core.srcAddr x.a).toNat 3
  dsimp only
  generalize v.flushStreams.acqProbe (s.core.srcAddr x.a).toNat 3 = r at hp
  obtain ⟨w, e | _ | ⟨p, o⟩⟩ := r
  · exact State.onCore_formed hp (Core.memFault_formed hp.core _ _)
  · exact State.flow_formed hp _
  · grind [State.pieces_formed, State.acquire_formed, State.readOwn_formed, State.onCore_formed, Core.memFault_formed, State.Formed.core,
    Core.setCounts_formed, Core.uncorrectable_formed]

theorem Core.monitor_formed {c : Core} (h : c.Formed) (line : Nat) (nothing : Bool) : (c.monitor line nothing).Formed := by
  grind [Core.monitor, Core.formed_iff, Core.arm_formed, Core.dropHeld_formed, Core.holdAccess_formed]

theorem execMon_formed (x : GReg) {s : State} (h : s.Formed) {u : State} (hu : execMon x s = .next u) : u.Formed := by
  grind [execMon, State.Formed.core, Core.fatal_formed, Core.memFault_formed, Core.monitor_formed, State.flushStreams_formed, State.onCore_formed,
    State.slot_formed, State.xlat_formed]

theorem State.sampling_formed {s : State} (h : s.Formed) {g : Guard} {k : Outcome} (hk : ∀ v, k = .next v → v.Formed) {u : State}
    (hu : s.sampling g k = .next u) : u.Formed := by
  unfold State.sampling at hu
  split at hu
  · obtain rfl := Host.Outcome.next.inj hu
    have hf := State.flushStreams_formed h
    have he : (s.flushStreams.onCore fun c => c.endPart true).Formed := State.onCore_formed hf (Core.endPart_formed hf.core true)
    exact State.flow_formed he .moved
  · exact hk u hu

theorem execMwait_formed (x : GReg) {s : State} (h : s.Formed) {u : State} (hu : execMwait x s = .next u) : u.Formed := by
  grind [execMwait, Core.formed_iff, State.Formed.core, Core.dropHeld_formed, Core.send_formed, State.onCore_formed, State.sampling_formed,
    State.slot_formed]

theorem State.groupClash_formed {s : State} (h : s.Formed) (level : Nat) (d : Word) : (s.groupClash level d).Formed := by
  grind [State.groupClash, State.Formed.core, Core.fatal_formed, State.mapAllCores_formed, State.onCore_formed]

theorem State.joinFabric_formed {s : State} (h : s.Formed) (level : Nat) (k : Nat) (d : Word) : (s.joinFabric level k d).Formed := by
  grind [State.joinFabric, State.formed_iff, Task.formed_iff, State.mapTask_formed]

theorem State.joinEnded_formed {s : State} (h : s.Formed) : s.joinEnded.Formed :=
  State.foldl_formed (fun _ p hu => State.joinFabric_formed hu 3 p.1 p.2) _ h

theorem State.arrive_formed {s : State} (h : s.Formed) (level : BitVec 2) : (s.arrive level).1.Formed := by
  grind [State.arrive, State.onCore_formed, State.Formed.core, Core.formed_iff, Core.fatal_formed, State.groupClash_formed]

theorem execDbar_formed (x : DbarF) {s : State} (h : s.Formed) {u : State} (hu : execDbar x s = .next u) : u.Formed := by
  grind [execDbar, Core.formed_iff, State.Formed.core, State.arrive_formed, State.flow_formed, State.joinFabric_formed, State.onCore_formed,
    State.sampling_formed]

/-! ### Tiles and rings -/

theorem Core.setTile_formed {c : Core} (h : c.Formed) (t : BitVec 6) (x : Tile) : (c.setTile t x).Formed := by
  grind [Core.setTile, Core.formed_iff]

theorem Core.setTileState_formed {c : Core} (h : c.Formed) (t : Nat) (x : TileState) : (c.setTileState t x).Formed := by
  grind [Core.setTileState, Core.setTile_formed]

theorem Core.noteFills_formed {c : Core} (h : c.Formed) (ts : List Nat) : (c.noteFills ts).Formed := by
  grind [Core.noteFills, Core.formed_iff]

theorem Core.tileWrite_formed {c : Core} (h : c.Formed) (r : TileRef) (off : Nat) (bs : List Byte) (bad : Bool) :
    (c.tileWrite r off bs bad).Formed := by
  grind [Core.tileWrite, Core.formed_iff, Core.poolWrite_formed]

theorem Core.spoil_formed {c : Core} (h : c.Formed) (t : Nat) : (c.spoil t).Formed := by
  grind [Core.spoil, Core.formed_iff]

theorem Core.tileReady_formed {c : Core} (h : c.Formed) (inRegion : Bool) (r : TileRef) : (c.tileReady inRegion r).Formed := by
  grind [Core.tileReady, Core.formed_iff, Core.fatal_formed, Core.setTileState_formed, Core.spoil_formed, Core.unitCaught_formed]

theorem execTlset_formed (x : TlSetF) {s : State} (h : s.Formed) {u : State} (hu : execTlset x s = .next u) : u.Formed := by
  grind [execTlset, State.Formed.core, Core.setTile_formed, State.onCore_formed, State.slot_formed]

theorem Core.setRing_formed {c : Core} (h : c.Formed) (h : BitVec 4) (r : Ring) : (c.setRing h r).Formed := by
  grind [Core.setRing, Core.formed_iff]

theorem execCbadvProd_formed (x : CbAdvF) {s : State} (h : s.Formed) {u : State} (hu : execCbadvProd x s = .next u) : u.Formed := by
  grind [execCbadvProd, State.Formed.core, Core.setRing_formed, State.onCore_formed, State.slot_formed]

theorem execCbadvCons_formed (x : CbAdvF) {s : State} (h : s.Formed) {u : State} (hu : execCbadvCons x s = .next u) : u.Formed := by
  obtain rfl := Host.Outcome.next.inj hu
  refine State.slot_formed h _ _ _ fun v hv => State.onCore_formed hv (Core.setRing_formed ?_ _ _)
  refine Core.foldl_formed (fun c t hc => ?_) _ hv.core
  split
  · exact Core.setTileState_formed hc t _
  · exact hc

theorem execCbwait_formed (x : CbWaitF) {s : State} (h : s.Formed) {u : State} (hu : execCbwait x s = .next u) : u.Formed := by
  grind [execCbwait, State.Formed.core, Core.endPart_formed, State.flow_formed, State.flushStreams_formed, State.onCore_formed, State.slot_formed]

theorem execKbar_formed (x : KBarF) {s : State} (h : s.Formed) {u : State} (hu : execKbar x s = .next u) : u.Formed := by
  grind [execKbar, Core.formed_iff, State.Formed.core, State.flushStreams_formed, State.onCore_formed, State.slot_formed]

theorem State.command_formed {s : State} (h : s.Formed) {x : Cmd} {op : Instr} {inRegion : Nat → Bool} {bad : Core → Nat → List (Bool × Nat)}
    {named : Nat → Named} {unc : Bool} {bank : Nat → Bool} {u : State} (hu : s.command x op inRegion bad named unc bank = .next u) : u.Formed := by
  have hfold {c : Core} (hc : c.Formed) (ts : List Nat) (st : TileState) : (ts.foldl (fun c t => c.setTileState t st) c).Formed :=
    Core.foldl_formed (fun _ t hd => Core.setTileState_formed hd t st) ts hc
  obtain rfl := Host.Outcome.next.inj hu
  refine State.slot_formed h _ _ _ fun v hv => ?_
  have hf := State.flushStreams_formed hv
  dsimp only
  generalize v.flushStreams = w at hf
  have hw : (if unc = true then w.uncontain w.core.part.task else w).Formed := by
    split
    · exact State.uncontain_formed hf _
    · exact hf
  generalize (if unc = true then w.uncontain w.core.part.task else w) = w at hw
  refine State.onCore_formed (s := { w with hm := { w.hm with nextNum := w.hm.nextNum + 1 } }) hw (Core.consumed_formed ?_ _)
  exact hfold (Core.noteFills_formed (hfold hw.core _ _) _) _ _

/-! ### Commands -/

theorem Core.mapCmd_formed {c : Core} (h : c.Formed) (id : Nat) (f : Command → Command) : (c.mapCmd id f).Formed := h

theorem Core.dropCmd_formed {c : Core} (h : c.Formed) (id : Nat) : (c.dropCmd id).Formed := by
  grind [Core.dropCmd, Core.formed_iff]

theorem Core.writeBack_formed {c : Core} (h : c.Formed) (k : Command) (fields : List (Nat × List Byte)) : (c.writeBack k fields).Formed := by
  grind [Core.writeBack, Core.formed_iff, Core.foldl_formed, Core.spWrite_formed]

theorem Core.releaseTiles_formed {c : Core} (h : c.Formed) (k : Command) : (c.releaseTiles k).Formed := by
  grind [Core.releaseTiles, Core.formed_iff, Core.foldl_formed, Core.setTileState_formed]

theorem State.failCmd_formed {s : State} (h : s.Formed) (k : Command) (code : Nat) : (s.failCmd k code).Formed := by
  grind [State.failCmd, State.Formed.core, Core.dropCmd_formed, Core.fatal_formed, Core.releaseTiles_formed, State.onCore_formed]

theorem State.stopCmd_formed {s : State} (h : s.Formed) (k : Command) (code : Nat) (va : Nat) : (s.stopCmd k code va).Formed := by
  grind [State.stopCmd, State.Formed.core, Core.mapCmd_formed, State.failCmd_formed, State.onCore_formed]

theorem State.memStop_formed {s : State} (h : s.Formed) (k : Command) (e : MemErr) : (s.memStop k e).Formed := by
  cases e with
  | trans code va => grind [State.memStop, State.failCmd_formed, State.stopCmd_formed]
  | fatal code => exact State.failCmd_formed h k code

theorem State.signalObj_formed {s : State} (h : s.Formed) (va : Nat) (scope : Nat) : (s.signalObj va scope).1.Formed := by
  grind [State.signalObj, State.readSync_formed, State.syncPiece_formed, State.writeSync_formed]

theorem Core.endCmd_formed {c : Core} (h : c.Formed) (k : Command) : (c.endCmd k).Formed := by
  grind [Core.endCmd, Core.formed_iff, Core.foldl_formed, Core.dropCmd_formed, Core.setTileState_formed, Core.tileReady_formed]

theorem State.completeCmd_go_formed {s : State} (h : s.Formed) (k : Command) {u : State} (hu : State.completeCmd.go k s = .next u) : u.Formed := by
  grind [State.completeCmd.go, State.Formed.core, Core.endCmd_formed, State.memStop_formed, State.onCore_formed, State.signalObj_formed,
    State.uncontain_formed]

theorem State.completeCmd_formed {s : State} (h : s.Formed) (k : Command) {u : State} (hu : s.completeCmd k = .next u) : u.Formed := by
  have hs := State.onCore_formed h (f := fun c => c.mapCmd k.id fun x => { x with sig := true }) (Core.mapCmd_formed h.core k.id _)
  grind [State.completeCmd, State.completeCmd_go_formed, State.Formed.core, Core.mapCmd_formed, State.onCore_formed, State.sendMarkers_formed]

theorem State.readHinted_formed {s : State} (h : s.Formed) (via : Via) (va : Nat) (n : Nat) (hint : Nat) : (s.readHinted via va n hint).1.Formed := by
  grind [State.readHinted, State.hinted_formed, State.pieces_formed, State.readPieces_formed]

theorem State.readChecked_formed {s : State} (h : s.Formed) (via : Via) (va : Nat) (n : Nat) : (s.readChecked via va n).1.Formed := by
  grind [State.readChecked, State.readHinted_formed]

theorem chain_formed {α β : Type} {r : State × Except MemErr α} {f : State → α → State × Except MemErr β} (hr : r.1.Formed)
    (hf : ∀ u a, u.Formed → (f u a).1.Formed) : (chain r f).1.Formed := by
  obtain ⟨u, _ | a⟩ := r
  · exact hr
  · exact hf u a hr

theorem State.runUnits_formed {f : State → Nat → State × Option MemErr} (hf : ∀ u i, u.Formed → (f u i).1.Formed) (n i : Nat) {s : State}
    (h : s.Formed) : (s.runUnits f n i).1.Formed := by
  induction n generalizing s i with
  | zero => exact h
  | succ n ih =>
    have hone := hf s i h
    unfold State.runUnits
    grind

theorem State.workUnits_formed {s : State} (h : s.Formed) {k : Command} {total : Nat} {f : State → Nat → State × Option MemErr}
    {done : State → Outcome} (hf : ∀ v i, v.Formed → (f v i).1.Formed) (hd : ∀ v w, v.Formed → done v = .next w → w.Formed) {u : State}
    (hu : s.workUnits k total f done = .next u) : u.Formed := by
  have hr := State.runUnits_formed hf (total - k.prog) k.prog h
  unfold State.workUnits at hu
  generalize s.runUnits f (total - k.prog) k.prog = r at hr hu
  obtain ⟨v, _ | ⟨i, e⟩⟩ := r
  · exact hd v u hr hu
  · obtain rfl := Host.Outcome.next.inj hu
    exact State.memStop_formed (State.onCore_formed hr (Core.mapCmd_formed hr.core _ _)) _ _

theorem State.atomicStep_formed {s : State} (h : s.Formed) (va n : Nat) (op : RemoteOp) (new : Nat → Option Nat) (dirty : Bool) :
    (s.atomicStep va n op new dirty).1.Formed := by
  grind [State.atomicStep, State.pieces_formed, State.uncontain_formed, State.systemAtomic_formed, State.atomicAt_formed]

theorem State.atomicRead_formed {s : State} (h : s.Formed) (va : Nat) (n : Nat) : (s.atomicRead va n).1.Formed := by
  grind [State.atomicRead, State.pieces_formed, State.readPieces_formed, State.systemAtomic_formed, chain_formed]

/-! ### Copies -/

theorem execKaq_formed (x : KaqF) {s : State} (h : s.Formed) {u : State} (hu : execKaq x s = .next u) : u.Formed := by
  grind [execKaq, State.formed_iff, Core.formed_iff, State.Formed.core, Core.send_formed, State.flushStreams_formed, State.onCore_formed,
    State.slot_formed]

theorem State.fetchRow_formed {s : State} (h : s.Formed) (g : GatherAddr) : (s.fetchRow g).1.Formed := by
  grind [State.fetchRow, State.Formed.core, Core.fatal_formed, State.onCore_formed, State.readHinted_formed]

theorem execGatherRowArrival_formed (q : Bool) {s : State} (h : s.Formed) {u : State} (hu : execGatherRowArrival q s = .next u) : u.Formed := by
  grind [execGatherRowArrival, Core.formed_iff, State.Formed.core, State.fetchRow_formed, State.onCore_formed]

theorem State.refetchRows_formed : ∀ (l : List GatherRow) {s : State}, s.Formed → (s.refetchRows l).1.Formed
  | [], _, h => h
  | r :: rest, s, h => by
    have ih := @State.refetchRows_formed rest
    unfold State.refetchRows
    grind [State.fetchRow_formed]

theorem Core.setDq_formed {c : Core} (h : c.Formed) (q : Bool) (l : List GatherRow) : (c.setDq q l).Formed := by
  grind [Core.setDq, Core.formed_iff]

theorem execKdq_formed (x : KdqF) {s : State} (h : s.Formed) {u : State} (hu : execKdq x s = .next u) : u.Formed := by
  grind [execKdq, State.Formed.core, Core.send_formed, Core.setDq_formed, Core.slotFault_formed, State.onCore_formed, State.refetchRows_formed,
    State.slot_formed]

theorem execKbind_formed (x : KBindF) {s : State} (h : s.Formed) {u : State} (hu : execKbind x s = .next u) : u.Formed := by
  grind [execKbind, State.Formed.core, Core.consumed_formed, Core.setStream_formed, State.flushStreams_formed, State.onCore_formed, State.slot_formed]

theorem execStreamFill_formed (w : BitVec 3) {s : State} (h : s.Formed) {u : State} (hu : execStreamFill w s = .next u) : u.Formed := by
  grind [execStreamFill, State.fillStream_formed]

theorem execStreamDrain_formed (w : BitVec 3) {s : State} (h : s.Formed) {u : State} (hu : execStreamDrain w s = .next u) : u.Formed := by
  grind [execStreamDrain, State.drainStream_formed, State.releaseAll_formed]

theorem State.copyRead_formed {s : State} (h : s.Formed) (k : Command) (cb : CopyBlock) (pos : Int) (n : Nat) : (s.copyRead k cb pos n).1.Formed := by
  grind [State.copyRead, State.readHinted_formed]

theorem State.copyWrite_formed {s : State} (h : s.Formed) (k : Command) (cb : CopyBlock) (pos : Int) (bs : List Byte) (bad : Bool) :
    (s.copyWrite k cb pos bs bad).1.Formed := by
  grind [State.copyWrite, State.Formed.core, Core.spWrite_formed, Core.tileWrite_formed, State.onCore_formed, State.writeVa_formed]

theorem State.copyCuts_formed (k : Command) (cb : CopyBlock) (pos : Int) (bs : List Byte) : ∀ (l : List (Nat × Nat × Bool)) {s : State}, s.Formed →
    (s.copyCuts k cb pos bs l).1.Formed
  | [], _, h => h
  | (o, n, bad) :: r, s, h => by
    have ih := @State.copyCuts_formed k cb pos bs r
    unfold State.copyCuts
    grind [State.copyWrite_formed]

theorem State.copyPut_formed {s : State} (h : s.Formed) (k : Command) (cb : CopyBlock) (src : Int) (pos : Int) (bs : List Byte) (bad : Bool) :
    (s.copyPut k cb src pos bs bad).1.Formed := by
  grind [State.copyPut, State.copyCuts_formed, State.copyWrite_formed, State.pieces_formed]

theorem State.copyChunks_formed (k : Command) (cb : CopyBlock) (fuel i : Nat) {s : State} (h : s.Formed) : (s.copyChunks k cb fuel i).1.Formed := by
  induction fuel generalizing s i with
  | zero => exact h
  | succ fuel ih =>
    unfold State.copyChunks
    grind [State.copyRead_formed, State.copyPut_formed]

theorem Core.writeIdle_formed {c : Core} (h : c.Formed) (off : Nat) (bs : List Byte) : (c.writeIdle off bs).Formed := by
  grind [Core.writeIdle, Core.formed_iff, Mem.write_wf]

theorem State.workKcopy_formed {s : State} (h : s.Formed) (k : Command) {u : State} (hu : s.workKcopy k = .next u) : u.Formed := by
  grind [State.workKcopy, State.Formed.core, Core.mapCmd_formed, Core.writeIdle_formed, State.completeCmd_formed, State.copyChunks_formed,
    State.copyRead_formed, State.failCmd_formed, State.memStop_formed, State.onCore_formed]

theorem Core.landPeer_formed {c : Core} (h : c.Formed) (h : BitVec 4) (bs : List Byte) (bad : List Nat) : (c.landPeer h bs bad).Formed := by
  grind [Core.landPeer, Core.formed_iff, Core.fatal_formed, Core.poolWrite_formed, Core.setRing_formed, Core.setTileState_formed]

theorem execKpeerArrival_formed (id : Nat) {s : State} (h : s.Formed) {u : State} (hu : execKpeerArrival id s = .next u) : u.Formed := by
  grind [execKpeerArrival, Core.formed_iff, State.Formed.core, Core.landPeer_formed, Core.mapCmd_formed, State.mapCores_formed, State.onCore_formed]

end Sys2Proof.Machine

namespace Sys2Proof.Machine

/-! ### The Harbourmaster -/

theorem State.setQueue_formed {s : State} (h : s.Formed) (q : Nat) (x : Queue) : (s.setQueue q x).Formed := by
  grind [State.setQueue, State.formed_iff]

theorem State.hmSend_formed {s : State} (h : s.Formed) (x : HmCtx) (module : Nat) (addr : Nat) (op : RemoteOp) :
    (s.hmSend x module addr op).Formed := by
  grind [State.hmSend, State.formed_iff]

theorem State.readsTo_formed {s t : State} (hr : s.readsTo t) (h : s.Formed) : t.Formed := by
  obtain ⟨_, _, _, _, _, _, _, _, -, rfl⟩ := hr
  exact h

theorem State.hmReadPieces_formed {s : State} (h : s.Formed) (x : HmCtx) (ps : List Piece) : (s.hmReadPieces x ps).1.Formed :=
  State.readsTo_formed (State.hmReadPieces_readsTo x ps s) h

theorem State.hmRead_formed {s : State} (h : s.Formed) (x : HmCtx) (va : Nat) (len : Nat) : (s.hmRead x va len).1.Formed := by
  grind [State.hmRead, State.hmReadPieces_formed, State.pieces_formed]

theorem State.hmWritePieces_formed (x : HmCtx) : ∀ (ps : List Piece) (bs : List Byte) {s : State}, s.Formed → (s.hmWritePieces x ps bs).1.Formed
  | [], _, _, h => h
  | p :: ps, bs, s, h => by
    have ih := @State.hmWritePieces_formed x ps
    unfold State.hmWritePieces
    grind [State.store_formed, State.hmSend_formed, State.formed_iff]

theorem State.hmWrite_formed {s : State} (h : s.Formed) (x : HmCtx) (va : Nat) (bs : List Byte) : (s.hmWrite x va bs).1.Formed := by
  grind [State.hmWrite, State.hmWritePieces_formed, State.pieces_formed]

theorem State.hmSignal_formed {s : State} (h : s.Formed) (x : HmCtx) (va : Nat) : (s.hmSignal x va).1.Formed := by
  have hp := State.pieces_formed h (.hm x.root) true 2 va 64
  unfold State.hmSignal
  generalize s.pieces (.hm x.root) true 2 va 64 = r at hp
  obtain ⟨u, e | ps⟩ := r
  · exact hp
  · have hr := State.hmReadPieces_formed hp x ps
    have hsend (m a : Nat) := State.hmSend_formed hp x m a .signal
    dsimp only
    split
    · split
      · exact hp
      · split
        · exact hsend _ _
        · exact hsend _ _
    · grind [State.hmWritePieces_formed]

theorem State.mapCard_formed {s : State} (h : s.Formed) (n : Nat) (f : Card → Card) : (s.mapCard n f).Formed := h

theorem State.dropPooled_formed {s : State} (h : s.Formed) (n status sub : Nat) (which : Task → Bool) : (s.dropPooled n status sub which).Formed := by
  refine State.mapCard_formed (s := { s with hm := { s.hm with tasks := s.hm.tasks.filter fun t => !(t.card == n && which t) } }) ?_ n _
  obtain ⟨hmem, hcore, hrest, htasks⟩ := (State.formed_iff s).1 h
  exact (State.formed_iff _).2 ⟨hmem, hcore, hrest, htasks.filter _⟩

theorem State.retireCard_formed {s : State} (h : s.Formed) (n : Nat) (sub : Nat) : (s.retireCard n sub).Formed := by
  grind [State.retireCard, State.dropPooled_formed]

theorem State.raggedList_formed {s : State} (h : s.Formed) (c : Card) : (s.raggedList c).1.Formed := by
  grind [State.raggedList, State.formed_iff, State.hmRead_formed]

theorem newTask_formed (c : Card) (cfg : QueueConfig) (num index grp row0 pad : Nat) : (newTask c cfg num index grp row0 pad).Formed :=
  Core.AllFormed.nil

theorem State.readPreds_formed {s : State} (h : s.Formed) (x : HmCtx) (l : List Nat) : (s.readPreds x l).1.Formed :=
  State.readsTo_formed (State.readPreds_readsTo x l s) h

theorem State.addTasks_formed {s : State} (h : s.Formed) (c : Card) (cfg : QueueConfig) (l : List (Nat × Nat × Nat)) :
    (s.addTasks c cfg l).Formed := by
  obtain ⟨hmem, hcore, hrest, htasks⟩ := (State.formed_iff s).1 h
  refine (State.formed_iff _).2 ⟨hmem, hcore, hrest, htasks.append fun t ht => ?_⟩
  obtain ⟨p, -, rfl⟩ := List.mem_map.1 ht
  exact newTask_formed c cfg _ _ _ _ _

theorem State.admitCard_formed {s : State} (h : s.Formed) (c : Card) (full : Bool) : (s.admitCard c full).Formed := by
  grind [State.admitCard, State.formed_iff, Core.formed_iff, State.addTasks_formed, State.emit_formed, State.mapCard_formed, State.readPreds_formed,
    State.retireCard_formed]

theorem State.expandCard_formed {s : State} (h : s.Formed) (c : Card) : (s.expandCard c).Formed := by
  grind [State.expandCard, State.formed_iff, Core.formed_iff, Task.AllFormed.filter, State.addTasks_formed, State.mapCard_formed,
    State.raggedList_formed, State.retireCard_formed]

theorem State.consume_formed {s : State} (h : s.Formed) (q : Nat) (raw : List Byte) (addr : Option Nat) : (s.consume q raw addr).Formed := by
  unfold State.consume
  grind [State.formed_iff, Core.formed_iff, State.admitCard_formed, State.setQueue_formed]

theorem State.launchCard_formed {s : State} (h : s.Formed) (q : Nat) (addr : Nat) (raw : List Byte) : (s.launchCard q addr raw).Formed := by
  grind [State.launchCard, State.formed_iff, State.consume_formed]

theorem execLaunch_formed (x : LaunchF) {s : State} (h : s.Formed) {u : State} (hu : execLaunch x s = .next u) : u.Formed := by
  grind [execLaunch, State.Formed.core, Core.holdAccess_formed, Core.memFault_formed, Core.uncorrectable_formed, State.flushStreams_formed,
    State.launchCard_formed, State.onCore_formed, State.pieces_formed, State.readOwn_formed, State.slot_formed, State.uncontain_formed]

theorem launchCore_formed (k : Card) (t : Task) (wbud : Word) (im : CodeImage) (entry id rank : Nat) (halted : Bool) :
    (launchCore k t wbud im entry id rank halted).Formed :=
  (Core.formed_iff _).2 ⟨rfl, Mem.write_wf rfl 0 im.bytes, rfl⟩

theorem State.launchTask_formed {s : State} (h : s.Formed) (k : Card) (t : Task) (im : CodeImage) (entry : Nat) :
    (s.launchTask k t im entry).Formed := by
  grind [State.launchTask, Task.formed_iff, State.mapCores_formed, State.mapTask_formed, launchCore_formed]

theorem Core.leave_formed {c : Core} (h : c.Formed) : (c.leave).Formed := by
  grind [Core.leave, Core.formed_iff, Core.reset_formed]

theorem State.freeBerth_formed {s : State} (h : s.Formed) (n : Nat) : (s.freeBerth n).Formed := by
  grind [State.freeBerth, Core.leave_formed, State.mapCores_formed]

theorem Task.unstaged_formed {t : Task} (h : t.Formed) : (t.unstaged).Formed := by
  grind [Task.unstaged, Task.formed_iff]

theorem State.endTask_formed {s : State} (h : s.Formed) (t : Task) (status : Nat) : (s.endTask t status).Formed := by
  grind [State.endTask, Core.AllFormed.nil, Task.formed_iff, State.commit_formed, State.freeBerth_formed, State.mapCard_formed, State.mapTask_formed]

theorem State.preemptTask_formed {s : State} (h : s.Formed) (n : Nat) : (s.preemptTask n).Formed := by
  grind [State.preemptTask, Core.formed_iff, Task.formed_iff, State.mapCores_formed, State.mapTask_formed]

/-! ### Lookups and the hot-row cache -/

theorem State.readTableDesc_formed {s : State} (h : s.Formed) (via : Via) (va : Nat) (bad : TableDesc → Bool) : (s.readTableDesc via va
    bad).1.Formed :=
  chain_formed (State.readVa_formed h via va 64) fun _ _ hu => by grind [State.xlat_formed]

theorem State.landBack_formed {s : State} (h : s.Formed) (w : Way) : (s.landBack w).Formed := by
  grind [State.landBack, State.formed_iff, State.storeRow_formed]

theorem State.settleBack_formed {s : State} (h : s.Formed) (key : Nat) : (s.settleBack key).Formed := by
  grind [State.settleBack, State.landBack_formed]

theorem State.setSketch_formed {s : State} (h : s.Formed) (q : Nat) (g : Nat) (k : Sketch) : (s.setSketch q g k).Formed := by
  grind [State.setSketch, State.mapQuay_formed]

theorem State.promote_formed {s : State} (h : s.Formed) (d : TableDesc) (r : Nat) (cand : Nat) (home : List (Nat × Nat)) (view : Option (List Byte)) :
    (s.promote d r cand home view).Formed := by
  unfold State.promote
  grind [State.formed_iff, State.foldl_formed, State.cached_formed, State.settleBack_formed, State.touch_formed]

theorem State.countRow_formed {s : State} (h : s.Formed) (d : TableDesc) (x : Nat × List (Nat × Nat) × Option (List Byte)) :
    (s.countRow d x).Formed := by
  grind [State.countRow, State.promote_formed, State.setSketch_formed]

theorem State.readHome_formed {s : State} (h : s.Formed) (d : TableDesc) (r : Nat) (ps : List Piece) : (s.readHome d r ps).1.Formed := by
  grind [State.readHome, State.readPieces_formed, chain_formed]

theorem State.readRow_formed {s : State} (h : s.Formed) (d : TableDesc) (r : Nat) : (s.readRow d r).1.Formed := by
  grind [State.readRow, State.hinted_formed, State.pieces_formed, State.readHome_formed, State.settleBack_formed, chain_formed]

theorem State.poolOne_formed {s : State} (h : s.Formed) (k : Command) (b : LookBlock) (d : TableDesc) (ordered : Bool) (g : Bag) (j : Nat) :
    (s.poolOne k b d ordered g j).1.Formed := by
  grind [State.poolOne, State.readRow_formed, chain_formed]

theorem State.poolAll_formed (k : Command) (b : LookBlock) (d : TableDesc) (ordered : Bool) (n j : Nat) (g : Bag) {s : State} (h : s.Formed) :
    (s.poolAll k b d ordered n j g).1.Formed := by
  induction n generalizing s j g with
  | zero => exact h
  | succ n ih => exact chain_formed (State.poolOne_formed h k b d ordered g j) fun _ g hu => ih (j + 1) g hu

theorem State.poolBag_formed {s : State} (h : s.Formed) (k : Command) (b : LookBlock) (d : TableDesc) (ordered : Bool) (i : Nat) :
    (s.poolBag k b d ordered i).1.Formed := by
  grind [State.poolBag, State.Formed.core, State.foldl_formed, Core.tileWrite_formed, State.countRow_formed, State.onCore_formed,
    State.poolAll_formed]

theorem State.workQpool_formed {s : State} (h : s.Formed) (k : Command) (ordered : Bool) {u : State} (hu : s.workQpool k ordered = .next u) :
    u.Formed := by
  grind [State.workQpool, State.completeCmd_formed, State.failCmd_formed, State.memStop_formed, State.poolBag_formed, State.readTableDesc_formed,
    State.workUnits_formed]

theorem State.gatherOne_formed {s : State} (h : s.Formed) (k : Command) (b : LookBlock) (d : TableDesc) (stride j : Nat) :
    (s.gatherOne k b d stride j).1.Formed := by
  have hput {u : State} (hu : u.Formed) (bs : List Byte) (bad : Bool) : (u.onCore fun c => c.tileWrite (dstAt k 0) (j * stride) bs bad).Formed :=
    State.onCore_formed hu (Core.tileWrite_formed hu.core _ _ _ _)
  unfold State.gatherOne
  dsimp only
  split
  · exact h
  · split
    · exact h
    · exact hput h _ _
    · next r _ =>
      have hr := State.readRow_formed h d r
      generalize s.readRow d r = x at hr
      obtain ⟨u, e | rd⟩ := x
      · exact hr
      · exact State.countRow_formed (hput hr _ _) _ _

theorem State.workQgath_formed {s : State} (h : s.Formed) (k : Command) {u : State} (hu : s.workQgath k = .next u) : u.Formed := by
  grind [State.workQgath, State.completeCmd_formed, State.failCmd_formed, State.gatherOne_formed, State.memStop_formed, State.readTableDesc_formed,
    State.workUnits_formed]

theorem State.skrdOne_formed {s : State} (h : s.Formed) (k : Command) (b : LookBlock) (d : TableDesc) (j : Nat) : (s.skrdOne k b d j).1.Formed := by
  unfold State.skrdOne
  split
  · exact h
  · split
    · exact h
    · exact h
    · next r _ =>
      have hp := State.pieces_formed h .pier false (d.rowSize + 1) (d.addr r) d.rowSize
      generalize s.pieces .pier false (d.rowSize + 1) (d.addr r) d.rowSize = x at hp
      obtain ⟨u, e | ps⟩ := x
      · exact hp
      · dsimp only
        split
        · exact hp
        · exact State.onCore_formed hp (Core.tileWrite_formed hp.core _ _ _ _)

theorem State.workSkrd_formed {s : State} (h : s.Formed) (k : Command) {u : State} (hu : s.workSkrd k = .next u) : u.Formed := by
  grind [State.workSkrd, State.completeCmd_formed, State.memStop_formed, State.readTableDesc_formed, State.skrdOne_formed, State.workUnits_formed]

theorem State.execHrctl_formed {s : State} (h : s.Formed) (x : Cmd) (op : Instr) {u : State} (hu : s.execHrctl x op = .next u) : u.Formed := by
  grind [State.execHrctl, State.command_formed]

theorem State.writeWays_formed {s : State} (h : s.Formed) (which : Way → Bool) : (s.writeWays which).Formed :=
  State.foldl_formed (fun _ w hu => State.storeRow_formed hu w.home w.data w.bad) _
    (State.foldl_formed (fun _ w hu => State.landBack_formed hu w) _ h)

theorem State.mapGroups_formed {s : State} (h : s.Formed) (g : Nat) (f : Sketch → Sketch) : (s.mapGroups g f).Formed :=
  State.foldl_formed (fun _ _ hu => State.setSketch_formed hu _ _ _) _ h

theorem State.workHrctl_formed {s : State} (h : s.Formed) (k : Command) (variant : Nat) {u : State} (hu : s.workHrctl k variant = .next u) :
    u.Formed := by
  have hways (which : Way → Bool) (hot : HotRows) : ({ s.writeWays which with hot := hot } : State).Formed := State.writeWays_formed h which
  refine State.completeCmd_formed ?_ k hu
  split
  · exact State.mapGroups_formed h _ _
  · exact hways _ _
  · exact hways _ _
  · exact State.mapGroups_formed h _ _

theorem State.signalRso_formed {s : State} (h : s.Formed) (w : Window) : (s.signalRso w).Formed := by
  grind [State.signalRso, State.emit_formed, State.hmSignal_formed]

theorem State.mapLines_formed {s : State} (h : s.Formed) (w : Window) (f : CacheLine → CacheLine) : (s.mapLines w f).Formed := h

theorem State.releaseWindow_formed {s : State} (h : s.Formed) (w : Window) : (s.releaseWindow w).Formed := by
  grind [State.releaseWindow, State.formed_iff, State.mapLines_formed, State.signalRso_formed]

theorem State.fadeTick_formed {s : State} (h : s.Formed) : (s.fadeTick).Formed := by
  grind [State.fadeTick, State.formed_iff, State.foldl_formed, State.releaseWindow_formed]

theorem State.finishWindow_formed {s : State} (h : s.Formed) (k : Command) (status : Nat) (wout : Option Nat) {u : State}
    (hu : s.finishWindow k status wout = .next u) : u.Formed := by
  unfold State.finishWindow at hu
  grind [State.Formed.core, Core.writeBack_formed, State.completeCmd_formed, State.onCore_formed]

theorem State.workWpin_formed {s : State} (h : s.Formed) (k : Command) (load : Bool) {u : State} (hu : s.workWpin k load = .next u) : u.Formed := by
  unfold State.workWpin at hu
  dsimp only at hu
  split at hu
  · exact State.finishWindow_formed h k _ _ hu
  · next num _ =>
    have hp := State.pieces_formed h .pier false (bitsOf k.block.toNat 120 64 / 65536 + 1) (bitsOf k.block.toNat 56 0) (bitsOf k.block.toNat 120 64)
    generalize s.pieces .pier false _ _ _ = x at hp hu
    obtain ⟨v, e | ps⟩ := x
    · exact State.finishWindow_formed hp k _ _ hu
    · have hcached {w : State} (hw : w.Formed) (span : List (Nat × Nat)) : (span.foldl (fun s r => s.cached r.1 r.2 none) w).Formed :=
        State.foldl_formed (fun _ r hx => State.cached_formed hx r.1 r.2 none) span hw
      dsimp only at hu
      split at hu
      · exact State.finishWindow_formed hp k _ _ hu
      · split at hu
        · exact State.finishWindow_formed hp k _ _ hu
        · refine State.finishWindow_formed ?_ k _ _ hu
          split
          · refine hcached ?_ _
            exact hp
          · exact hp

theorem State.workWunpin_formed {s : State} (h : s.Formed) (k : Command) {u : State} (hu : s.workWunpin k = .next u) : u.Formed := by
  grind [State.workWunpin, State.finishWindow_formed, State.releaseWindow_formed]

theorem State.l2opOne_formed {s : State} (h : s.Formed) (k : Command) (update : Bool) (j : Nat) : (s.l2opOne k update j).1.Formed := by
  grind [State.l2opOne, State.Formed.core, Core.tileWrite_formed, State.atomicRead_formed, State.atomicStep_formed, State.onCore_formed]

theorem State.workL2op_formed {s : State} (h : s.Formed) (k : Command) (update : Bool) {u : State} (hu : s.workL2op k update = .next u) :
    u.Formed := by
  grind [State.workL2op, State.completeCmd_formed, State.l2opOne_formed, State.workUnits_formed]

end Sys2Proof.Machine

namespace Sys2Proof.Machine

/-! ### Bonded trees -/

theorem State.mapLine_formed {s : State} (h : s.Formed) (region mark : Nat) (f : Line → Line) : (s.mapLine region mark f).Formed := h

theorem State.addCount_formed {s : State} (h : s.Formed) (region : Nat) (mark : Nat) : (s.addCount region mark).Formed := by
  grind [State.addCount, State.mapLine_formed]

theorem State.dropCount_formed {s : State} (h : s.Formed) (region : Nat) (mark : Nat) : (s.dropCount region mark).Formed := by
  grind [State.dropCount, State.mapLine_formed]

theorem State.queueDrop_formed {s : State} (h : s.Formed) (region : Nat) (mark : Nat) : (s.queueDrop region mark).Formed := by
  grind [State.queueDrop, State.mapQuay_formed]

theorem execReclaimDecrement_formed (quay : Nat) {s : State} (h : s.Formed) {u : State} (hu : execReclaimDecrement quay s = .next u) : u.Formed := by
  grind [execReclaimDecrement, State.dropCount_formed, State.mapQuay_formed]

theorem execLineFree_formed (region : Nat) (mark : BitVec 128) {s : State} (h : s.Formed) {u : State} (hu : execLineFree region mark s = .next u) :
    u.Formed := by
  grind [execLineFree, State.formed_iff, State.foldl_formed, State.queueDrop_formed]

theorem State.slotPiece_formed {s : State} (h : s.Formed) (va : Nat) (write : Bool) : (s.slotPiece va write).1.Formed := by
  grind [State.slotPiece, State.xlat_formed]

theorem State.readSlot_formed {s : State} (h : s.Formed) (va : Nat) : (s.readSlot va).1.Formed := by
  grind [State.readSlot, State.readPiece_formed, State.slotPiece_formed, chain_formed]

theorem State.bondRoot_formed {s : State} (h : s.Formed) (k : Command) (via : Bool) : (s.bondRoot k via).1.Formed := by
  grind [State.bondRoot, State.readSlot_formed]

theorem State.bondDone_formed {s : State} (h : s.Formed) (k : Command) (fields : List (Nat × List Byte)) {u : State}
    (hu : s.bondDone k fields = .next u) : u.Formed := by
  grind [State.bondDone, State.Formed.core, Core.writeBack_formed, State.completeCmd_formed, State.onCore_formed]

theorem State.lookLine_formed {s : State} (h : s.Formed) (region : Nat) (bs : List Byte) (interior : Bool) :
    (s.lookLine region bs interior).1.Formed := by
  grind [State.lookLine, State.formed_iff, State.foldl_formed, State.addCount_formed]

theorem State.lookLines_formed (k : Command) (region : Nat) (interior : Bool) (n j : Nat) {s : State} (h : s.Formed) :
    (s.lookLines k region interior n j).1.Formed := by
  induction n generalizing s j with
  | zero => exact h
  | succ n ih =>
    unfold State.lookLines
    grind [State.lookLine_formed, State.onCore_formed, State.Formed.core, Core.tileWrite_formed]

theorem State.workBlook_formed {s : State} (h : s.Formed) (k : Command) (interior : Bool) {u : State} (hu : s.workBlook k interior = .next u) :
    u.Formed := by
  grind [State.workBlook, State.bondDone_formed, State.failCmd_formed, State.lookLines_formed]

theorem State.countMarks_formed (k : Command) (region : Nat) (up : Bool) (n j : Nat) {s : State} (h : s.Formed) :
    (s.countMarks k region up n j).1.Formed := by
  induction n generalizing s j with
  | zero => exact h
  | succ n ih =>
    unfold State.countMarks
    grind [State.addCount_formed, State.dropCount_formed]

theorem State.workMarks_formed {s : State} (h : s.Formed) (k : Command) (up : Bool) {u : State} (hu : s.workMarks k up = .next u) : u.Formed := by
  grind [State.workMarks, State.bondDone_formed, State.countMarks_formed, State.failCmd_formed]

theorem State.workBholdRoot_formed {s : State} (h : s.Formed) (k : Command) {u : State} (hu : s.workBholdRoot k = .next u) : u.Formed := by
  grind [State.workBholdRoot, State.addCount_formed, State.bondDone_formed, State.failCmd_formed, State.memStop_formed, State.readSlot_formed]

theorem State.workBwalk_formed {s : State} (h : s.Formed) (k : Command) (element : Bool) {u : State} (hu : s.workBwalk k element = .next u) :
    u.Formed := by
  grind [State.workBwalk, State.bondDone_formed, State.bondRoot_formed, State.failCmd_formed, State.memStop_formed]

theorem State.workBread_formed {s : State} (h : s.Formed) (k : Command) (verify : Bool) {u : State} (hu : s.workBread k verify = .next u) :
    u.Formed := by
  grind [State.workBread, State.Formed.core, Core.tileWrite_formed, State.bondDone_formed, State.failCmd_formed, State.onCore_formed]

theorem State.execBcopyAs_formed {s : State} (h : s.Formed) (x : Cmd) (op : Instr) {u : State} (hu : s.execBcopyAs x op = .next u) : u.Formed := by
  grind [State.execBcopyAs, State.command_formed]

theorem execBcopy_formed (x : Cmd) {s : State} (h : s.Formed) {u : State} (hu : execBcopy x s = .next u) : u.Formed := by
  grind [execBcopy, State.execBcopyAs_formed]

theorem execBcopyVerify_formed (x : Cmd) {s : State} (h : s.Formed) {u : State} (hu : execBcopyVerify x s = .next u) : u.Formed := by
  grind [execBcopyVerify, State.execBcopyAs_formed]

theorem State.copyLeaf_formed {s : State} (h : s.Formed) (k : Command) (r : RootRec) (verify : Bool) (i : Nat) :
    (s.copyLeaf k r verify i).1.Formed := by
  grind [State.copyLeaf, State.Formed.core, Core.tileWrite_formed, State.onCore_formed, State.writeVa_formed]

theorem State.copyLeaves_formed (k : Command) (r : RootRec) (verify : Bool) (n i : Nat) {s : State} (h : s.Formed) :
    (s.copyLeaves k r verify n i).1.Formed := by
  induction n generalizing s i with
  | zero => exact h
  | succ n ih =>
    unfold State.copyLeaves
    grind [State.copyLeaf_formed]

theorem State.copyBank_formed {s : State} (h : s.Formed) (k : Command) (r : RootRec) (verify : Bool) {u : State}
    (hu : s.copyBank k r verify = .next u) : u.Formed := by
  grind [State.copyBank, State.Formed.core, Core.writeIdle_formed, State.bondDone_formed, State.onCore_formed]

theorem State.workBcopy_formed {s : State} (h : s.Formed) (k : Command) (verify : Bool) {u : State} (hu : s.workBcopy k verify = .next u) :
    u.Formed := by
  grind [State.workBcopy, State.Formed.core, Core.mapCmd_formed, State.bondDone_formed, State.bondRoot_formed, State.copyBank_formed,
    State.copyLeaves_formed, State.failCmd_formed, State.memStop_formed, State.onCore_formed]

theorem State.workBswap_formed {s : State} (h : s.Formed) (k : Command) {u : State} (hu : s.workBswap k = .next u) : u.Formed := by
  have hp := State.slotPiece_formed h (bitsOf k.block.toNat 56 0) true
  unfold State.workBswap at hu
  dsimp only at hu
  generalize s.slotPiece (bitsOf k.block.toNat 56 0) true = x at hp hu
  obtain ⟨v, e | p⟩ := x
  · grind [State.memStop_formed]
  · have hr := State.readPiece_formed hp p
    dsimp only at hu hr
    generalize v.readPiece p = x at hr hu
    obtain ⟨w, e | bs⟩ := x
    · grind [State.memStop_formed, State.failCmd_formed, State.bondDone_formed]
    · grind [State.addCount_formed, State.bondDone_formed, State.failCmd_formed, State.memStop_formed, State.queueDrop_formed,
      State.writePiece_formed]

end Sys2Proof.Machine

namespace Sys2Proof.Machine

/-! ### Exchanges -/

theorem State.atCore_formed {α : Type} {s : State} (h : s.Formed) (c : Nat) {f : State → State × α} (hf : ∀ u, u.Formed → (f u).1.Formed) :
    (s.atCore c f).1.Formed := State.focus_formed (hf _ (State.focus_formed h c)) _

theorem State.taker_formed {s : State} (h : s.Formed) (p : XPkt) : (s.taker p).1.Formed := by
  grind [State.taker, State.formed_iff]

theorem State.keyError_formed {s : State} (h : s.Formed) (queue : Nat) (src : Nat) : (s.keyError queue src).Formed := by
  grind [State.keyError, State.formed_iff, State.emit_formed]

theorem State.dropReport_formed {s : State} (h : s.Formed) (core : Nat) (tag : BitVec 32) : (s.dropReport core tag).Formed := by
  grind [State.dropReport, State.formed_iff]

theorem State.ackLocal_formed {s : State} (h : s.Formed) (p : XPkt) : (s.ackLocal p).Formed := by
  grind [State.ackLocal, State.dropReport_formed]

theorem State.receive_formed {s : State} (h : s.Formed) (module psn : Nat) {f : State → State} (hf : ∀ u, u.Formed → (f u).Formed) :
    (s.receive module psn f).Formed := by
  unfold State.receive
  split
  · exact h
  · exact hf _ h

theorem Core.setFx_formed {c : Core} (h : c.Formed) (id : Nat) (x : Exchange) : (c.setFx id x).Formed := by
  grind [Core.setFx, Core.mapCmd_formed]

theorem State.takeCount_formed {s : State} (h : s.Formed) (k : Command) (x : Exchange) (p : XPkt) : (s.takeCount k x p).Formed := by
  grind [State.takeCount, State.Formed.core, Core.setFx_formed, Core.tileWrite_formed, State.failCmd_formed, State.keyError_formed,
    State.onCore_formed]

theorem State.putEntries_formed (k : Command) (x : Exchange) : ∀ (pos : Nat) (es : List (List Byte)) {s : State}, s.Formed →
    (s.putEntries k x pos es).1.Formed
  | _, [], _, h => h
  | pos, e :: es, s, h => by
    have ih := @State.putEntries_formed k x (pos + 1) es
    unfold State.putEntries
    grind [State.onCore_formed, State.Formed.core, Core.tileWrite_formed, State.writeVa_formed]

theorem State.takePayload_formed {s : State} (h : s.Formed) (k : Command) (x : Exchange) (p : XPkt) : (s.takePayload k x p).1.Formed := by
  grind [State.takePayload, State.Formed.core, Core.setFx_formed, State.ackLocal_formed, State.failCmd_formed, State.memStop_formed,
    State.onCore_formed, State.pieces_formed, State.putEntries_formed]

theorem State.takePart_formed {s : State} (h : s.Formed) (k : Command) (x : Exchange) (p : XPkt) : (s.takePart k x p).1.Formed := by
  grind [State.takePart, State.Formed.core, Core.setFx_formed, State.ackLocal_formed, State.failCmd_formed, State.onCore_formed]

theorem State.keepPayload_formed {s : State} (h : s.Formed) (p : XPkt) : (s.keepPayload p).1.Formed := by
  grind [State.keepPayload, State.formed_iff, State.ackLocal_formed, State.keyError_formed]

theorem State.tryPayload_formed {s : State} (h : s.Formed) (p : XPkt) : (s.tryPayload p).1.Formed := by
  have ht := State.taker_formed h p
  unfold State.tryPayload
  generalize s.taker p = x at ht
  obtain ⟨v, _ | id⟩ := x
  · grind [State.keyError_formed, State.keepPayload_formed]
  · split
    · exact State.keyError_formed h _ _
    · refine State.atCore_formed ht p.core fun u hu => ?_
      grind [State.keyError_formed, State.failCmd_formed, State.takePart_formed, State.takePayload_formed]

theorem State.report_formed {s : State} (h : s.Formed) (p : XPkt) (x : Option Exchange) : (s.report p x).Formed := by
  unfold State.report
  grind [State.formed_iff]

theorem State.reportAgain_formed {s : State} (h : s.Formed) (p : XPkt) (x : Option Exchange) : (s.reportAgain p x).Formed := by
  grind [State.reportAgain, State.report_formed]

theorem State.holdMessage_formed {s : State} (h : s.Formed) (p : XPkt) : (s.holdMessage p).Formed := by
  grind [State.holdMessage, State.formed_iff]

theorem State.arrivePayload_formed {s : State} (h : s.Formed) (p : XPkt) : (s.arrivePayload p).Formed := by
  grind [State.arrivePayload, State.holdMessage_formed, State.report_formed, State.tryPayload_formed]

theorem State.retryList_formed : ∀ (l : List XPkt) {s : State}, s.Formed → (s.retryList l).Formed
  | [], _, h => h
  | p :: r, s, h => by
    have ih := @State.retryList_formed r
    have ht (f : Ferry) := State.tryPayload_formed (s := { s with ferry := f }) h p
    unfold State.retryList
    grind [State.holdMessage_formed, State.reportAgain_formed]

theorem State.dropOrphans_formed {s : State} (h : s.Formed) : (s.dropOrphans).Formed := by
  grind [State.dropOrphans, State.formed_iff]

theorem State.retryHeld_formed {s : State} (h : s.Formed) : (s.retryHeld).Formed := by
  grind [State.retryHeld, State.formed_iff, State.dropOrphans_formed, State.retryList_formed]

theorem State.tryCount_formed {s : State} (h : s.Formed) (p : XPkt) {u : State} (hu : s.tryCount p = some u) : u.Formed := by
  have ht := State.taker_formed h p
  unfold State.tryCount at hu
  generalize s.taker p = x at ht hu
  split at hu
  · obtain rfl := Option.some.inj hu
    exact State.keyError_formed h _ _
  · obtain ⟨v, _ | id⟩ := x
    · exact nomatch hu
    · obtain rfl := Option.some.inj hu
      refine State.atCore_formed ht p.core fun w hw => ?_
      grind [State.takeCount_formed]

theorem State.arriveCount_formed {s : State} (h : s.Formed) (p : XPkt) : (s.arriveCount p).Formed := by
  grind [State.arriveCount, State.formed_iff, State.retryHeld_formed, State.tryCount_formed]

theorem State.absorbKept_formed {s : State} (h : s.Formed) : (s.absorbKept).Formed := by
  grind [State.absorbKept, State.formed_iff, State.foldl_formed, State.arriveCount_formed, State.retryHeld_formed, State.tryPayload_formed]

theorem State.peerTable_formed {s : State} (h : s.Formed) (f : FxBlock) : (s.peerTable f).1.Formed := by
  grind [State.peerTable, State.readVa_formed, chain_formed]

theorem State.sprayPaths_formed {s : State} (h : s.Formed) (m : Nat) : (s.sprayPaths m).1.Formed := by
  grind [State.sprayPaths, State.formed_iff, Task.formed_iff, State.mapTask_formed]

theorem State.sendMessage_formed {s : State} (h : s.Formed) (id : Nat) (x : Exchange) (d : Nat) (seq : Nat) (last : Bool)
    (entries : List (List Byte)) : (s.sendMessage id x d seq last entries).Formed := by
  grind [State.sendMessage, State.formed_iff, Core.formed_iff, Core.mapCmd_formed, State.arrivePayload_formed, State.onCore_formed,
    State.sprayPaths_formed]

theorem State.sendAll_formed (id : Nat) (x : Exchange) (d per : Nat) (fuel seq : Nat) (es : List (List Byte)) {s : State} (h : s.Formed) :
    (s.sendAll id x d per fuel seq es).Formed := by
  induction fuel generalizing s seq es with
  | zero => exact h
  | succ fuel ih =>
    unfold State.sendAll
    grind [State.sendMessage_formed]

theorem State.startFxch_formed {s : State} (h : s.Formed) (k : Command) (var : Nat) {u : State} (hu : s.startFxch k var = .next u) : u.Formed := by
  have hp := State.peerTable_formed h (fxchBlock k.block.toNat)
  unfold State.startFxch at hu
  dsimp only at hu
  generalize s.peerTable (fxchBlock k.block.toNat) = x at hp hu
  obtain ⟨v, e | tab⟩ := x
  · obtain rfl := Host.Outcome.next.inj hu
    exact State.memStop_formed hp k e
  · have hs (x : Exchange) : (v.dropOrphans.onCore fun c => c.setFx k.id x).Formed :=
      State.onCore_formed (State.dropOrphans_formed hp) (Core.setFx_formed (State.dropOrphans_formed hp).core _ _)
    dsimp only at hu
    split at hu
    · obtain rfl := Host.Outcome.next.inj hu
      exact State.failCmd_formed hp k _
    · rcases next_of_ite hu with hu | hu
      · obtain rfl := Host.Outcome.next.inj hu
        exact State.failCmd_formed hp k _
      · obtain rfl := Host.Outcome.next.inj hu
        refine State.absorbKept_formed (State.foldl_fst_formed (fun _ _ ha => State.sendAll_formed _ _ _ _ _ _ _ ha) _ ?_)
        split
        · refine State.foldl_formed (fun w d hw => ?_) _ (hs _)
          split
          · exact State.arriveCount_formed (s := { w with ferry := w.ferry.nextPsn }) hw _
          · exact hw
        · exact hs _

theorem State.workFxch_formed {s : State} (h : s.Formed) (k : Command) (var : Nat) {u : State} (hu : s.workFxch k var = .next u) : u.Formed := by
  grind [State.workFxch, State.Formed.core, Core.writeBack_formed, State.absorbKept_formed, State.completeCmd_formed, State.failCmd_formed,
    State.onCore_formed, State.startFxch_formed]

theorem State.startFred_formed {s : State} (h : s.Formed) (k : Command) (toRoot : Bool) {u : State} (hu : s.startFred k toRoot = .next u) :
    u.Formed := by
  grind [State.startFred, State.formed_iff, State.foldl_formed, Core.setFx_formed, State.absorbKept_formed, State.dropOrphans_formed,
    State.failCmd_formed, State.memStop_formed, State.onCore_formed, State.peerTable_formed, State.sendAll_formed]

theorem State.workFred_formed {s : State} (h : s.Formed) (k : Command) (toRoot : Bool) {u : State} (hu : s.workFred k toRoot = .next u) :
    u.Formed := by
  grind [State.workFred, State.Formed.core, Core.tileWrite_formed, State.absorbKept_formed, State.completeCmd_formed, State.failCmd_formed,
    State.onCore_formed, State.startFred_formed]

/-! ### Table updates -/

theorem State.execCupd_formed {s : State} (h : s.Formed) (x : Cmd) (op : Instr) {u : State} (hu : s.execCupd x op = .next u) : u.Formed := by
  grind [State.execCupd, State.command_formed]

theorem State.rowPieces_formed {s : State} (h : s.Formed) (d : TableDesc) (r : Nat) (base : Nat) (stride : Nat) (n : Nat) :
    (s.rowPieces d r base stride n).1.Formed := by
  grind [State.rowPieces, State.pieces_formed, chain_formed]

theorem State.writeRow_formed {s : State} (h : s.Formed) (r : StagedRow) : (s.writeRow r).Formed := by
  grind [State.writeRow, Task.formed_iff, State.mapTask_formed, State.performRow_formed, State.uncontain_formed]

theorem State.cupdOne_formed {s : State} (h : s.Formed) (k : Command) (variant : Nat) (b : CupdBlock) (d : TableDesc) (x : Grad) :
    (s.cupdOne k variant b d x).1.Formed := by
  grind [State.cupdOne, State.Formed.core, Core.mapCmd_formed, State.hinted_formed, State.onCore_formed, State.readHome_formed,
    State.readPieces_formed, State.rowPieces_formed, State.settleBack_formed, State.writePieces_formed, State.writeRow_formed, chain_formed]

theorem State.workCupd_formed {s : State} (h : s.Formed) (k : Command) (variant : Nat) {u : State} (hu : s.workCupd k variant = .next u) :
    u.Formed := by
  have hp : (chain (s.readTableDesc .deck (cupdBlock k.block.toNat).tdesc (cupdDescBad variant)) fun s d =>
      if d.bonded then (s, .error (.fatal cLkDesc)) else (s, .ok d)).1.Formed :=
    chain_formed (State.readTableDesc_formed h _ _ _) fun v d hv => by
      split
      · exact hv
      · exact hv
  unfold State.workCupd at hu
  dsimp only at hu
  generalize chain _ _ = x at hp hu
  obtain ⟨v, e | d⟩ := x
  · obtain rfl := Host.Outcome.next.inj hu
    exact State.memStop_formed hp k e
  · dsimp only at hu
    split at hu
    · obtain rfl := Host.Outcome.next.inj hu
      exact State.memStop_formed hp k _
    · exact State.workUnits_formed hp (fun w i hw => State.cupdOne_formed hw _ _ _ _ _)
        (fun w x hw => State.completeCmd_formed (State.onCore_formed hw (Core.writeBack_formed hw.core _ _)) k) hu

theorem State.execFbkt_formed {s : State} (h : s.Formed) (x : Cmd) (variant : Nat) (op : Instr) {u : State} (hu : s.execFbkt x variant op = .next u) :
    u.Formed := by
  grind [State.execFbkt, State.command_formed]

theorem execFbktMod_formed (x : Cmd) {s : State} (h : s.Formed) {u : State} (hu : execFbktMod x s = .next u) : u.Formed := by
  grind [execFbktMod, State.execFbkt_formed]

theorem execFbktRange_formed (x : Cmd) {s : State} (h : s.Formed) {u : State} (hu : execFbktRange x s = .next u) : u.Formed := by
  grind [execFbktRange, State.execFbkt_formed]

theorem execFbktHash_formed (x : Cmd) {s : State} (h : s.Formed) {u : State} (hu : execFbktHash x s = .next u) : u.Formed := by
  grind [execFbktHash, State.execFbkt_formed]

theorem State.workFbkt_formed {s : State} (h : s.Formed) (k : Command) (variant : Nat) {u : State} (hu : s.workFbkt k variant = .next u) :
    u.Formed := by
  grind [State.workFbkt, State.Formed.core, Core.tileWrite_formed, State.completeCmd_formed, State.failCmd_formed, State.memStop_formed,
    State.onCore_formed, State.readVa_formed]

/-! ### The completion of commands -/

theorem State.work_formed {s : State} (h : s.Formed) (k : Command) {u : State} (hu : s.work k = .next u) : u.Formed := by
  grind [State.work, State.workBcopy_formed, State.workBholdRoot_formed, State.workBlook_formed, State.workBread_formed, State.workBswap_formed,
    State.workBwalk_formed, State.workCupd_formed, State.workFbkt_formed, State.workFred_formed, State.workFxch_formed, State.workHrctl_formed,
    State.workKcopy_formed, State.workL2op_formed, State.workMarks_formed, State.workQgath_formed, State.workQpool_formed, State.workSkrd_formed,
    State.workWpin_formed, State.workWunpin_formed]

theorem execCommandComplete_formed (id : Nat) {s : State} (h : s.Formed) {u : State} (hu : execCommandComplete id s = .next u) : u.Formed := by
  grind [execCommandComplete, State.completeCmd_formed, State.scanStart_formed, State.work_formed]

end Sys2Proof.Machine

namespace Sys2Proof.Machine

/-! ### Matrix calls and system instructions -/

theorem Core.setDepth_formed {c : Core} (h : c.Formed) (d : Nat) : (c.setDepth d).Formed := by
  grind [Core.setDepth, Core.formed_iff]

theorem execRopen_formed (x : GReg2) {s : State} (h : s.Formed) {u : State} (hu : execRopen x s = .next u) : u.Formed := by
  grind [execRopen, Core.formed_iff, State.Formed.core, Core.setDepth_formed, State.flushStreams_formed, State.onCore_formed, State.slot_formed]

theorem execRkeep_formed (x : RkeepF) {s : State} (h : s.Formed) {u : State} (hu : execRkeep x s = .next u) : u.Formed := by
  grind [execRkeep, State.Formed.core, Core.logAll_formed, State.onCore_formed, State.slot_formed]

theorem Core.joinRegion_formed {c : Core} (h : c.Formed) : (c.joinRegion).Formed := by
  grind [Core.joinRegion, Core.formed_iff]

theorem State.commitStores_formed {s : State} (h : s.Formed) (buf : List BufStore) : (s.commitStores buf).Formed := by
  grind [State.commitStores, Core.formed_iff, State.Formed.core, State.onCore_formed, State.performBuffered_formed]

theorem execRclose_formed (x : Guard) {s : State} (h : s.Formed) {u : State} (hu : execRclose x s = .next u) : u.Formed := by
  grind [execRclose, Core.formed_iff, State.Formed.core, Core.joinRegion_formed, Core.setDepth_formed, State.commitStores_formed,
    State.flushStreams_formed, State.onCore_formed, State.slot_formed]

theorem execEinj_formed (x : EinjF) {s : State} (h : s.Formed) {u : State} (hu : execEinj x s = .next u) : u.Formed := by
  grind [execEinj, Core.formed_iff, State.Formed.core, State.onCore_formed, State.slot_formed]

theorem execStest_formed (x : Guard) {s : State} (h : s.Formed) {u : State} (hu : execStest x s = .next u) : u.Formed := by
  grind [execStest, Core.formed_iff, Core.settleLoads_formed, State.boundaryAct_formed, State.flushStreams_formed, State.scanStart_formed,
    State.slot_formed]

theorem execCrd_formed (x : CtlF) {s : State} (h : s.Formed) {u : State} (hu : execCrd x s = .next u) : u.Formed := by
  grind [execCrd, State.Formed.core, Core.send_formed, State.onCore_formed, State.slot_formed]

theorem Core.writeCtl_formed {c : Core} (h : c.Formed) (n : Nat) (v : Word) : (c.writeCtl n v).Formed :=
  Core.formed_ite h <| Core.formed_ite (Core.formed_ite h h) <| Core.formed_ite h <| Core.formed_ite h <| Core.formed_dite (fun _ => h) fun _ =>
    Core.formed_ite h <| Core.formed_ite h <| Core.formed_ite h <| Core.formed_dite (fun _ => h) fun _ => Core.formed_dite (fun _ => h) fun _ => h

theorem State.readTable_formed {s : State} (h : s.Formed) (tdt : Word) : (s.readTable tdt).1.Formed := by
  grind [State.readTable, State.readVa_formed]

theorem Core.lastReload_formed {c : Core} (h : c.Formed) (t : Vector (BitVec 512) 256) : (c.lastReload t).Formed := by
  grind [Core.lastReload, Core.formed_iff]

theorem execCwr_formed (x : CtlF) {s : State} (h : s.Formed) {u : State} (hu : execCwr x s = .next u) : u.Formed := by
  grind [execCwr, State.Formed.core, Core.lastReload_formed, Core.writeCtl_formed, State.flushStreams_formed, State.onCore_formed,
    State.readTable_formed, State.slot_formed]

theorem State.dropXlat_formed {s : State} (h : s.Formed) (gone : Xlat → Bool) : (s.dropXlat gone).Formed := h

theorem execXinvPage_formed (x : GReg) {s : State} (h : s.Formed) {u : State} (hu : execXinvPage x s = .next u) : u.Formed := by
  grind [execXinvPage, State.dropXlat_formed, State.flushStreams_formed, State.slot_formed]

theorem execXinvAll_formed (x : GReg) {s : State} (h : s.Formed) {u : State} (hu : execXinvAll x s = .next u) : u.Formed := by
  grind [execXinvAll, State.dropXlat_formed, State.flushStreams_formed, State.slot_formed]

/-! ### The matrix unit's operands -/

theorem execBklend_formed (x : MBank) {s : State} (h : s.Formed) {u : State} (hu : execBklend x s = .next u) : u.Formed := by
  grind [execBklend, Core.formed_iff, State.Formed.core, State.onCore_formed, State.slot_formed]

theorem execBklendRet_formed (x : MBank) {s : State} (h : s.Formed) {u : State} (hu : execBklendRet x s = .next u) : u.Formed := by
  grind [execBklendRet, Core.formed_iff, State.Formed.core, State.onCore_formed, State.slot_formed]

theorem execHstrd_formed (x : GReg) {s : State} (h : s.Formed) {u : State} (hu : execHstrd x s = .next u) : u.Formed := by
  grind [execHstrd, Core.formed_iff, State.Formed.core, Core.spStore_formed, State.onCore_formed, State.slot_formed]

theorem State.readReload_formed {s : State} (h : s.Formed) : (s.readReload).Formed := by
  grind [State.readReload, State.Formed.core, Core.lastReload_formed, State.onCore_formed, State.readTable_formed]

theorem Core.setDesc_formed {c : Core} (h : c.Formed) (d : BitVec 8) (x : BitVec 512) : (c.setDesc d x).Formed := by
  grind [Core.setDesc, Core.formed_iff]

theorem execTdset_formed (x : TdsetF) {s : State} (h : s.Formed) {u : State} (hu : execTdset x s = .next u) : u.Formed := by
  grind [execTdset, State.Formed.core, Core.consumed_formed, Core.memFault_formed, Core.setDesc_formed, State.flushStreams_formed,
    State.onCore_formed, State.ownStore_formed, State.pieces_formed, State.slot_formed]

theorem State.readScales_formed {s : State} (h : s.Formed) (t : ScaleTile) : (s.readScales t).1.Formed := by
  grind [State.readScales, State.readVa_formed]

theorem Core.putScales_formed {c : Core} (h : c.Formed) (t : ScaleTile) (bs : List Byte) : (c.putScales t bs).Formed := by
  grind [Core.putScales, Core.formed_iff]

theorem execScld_formed (x : ScldF) {s : State} (h : s.Formed) {u : State} (hu : execScld x s = .next u) : u.Formed := by
  grind [execScld, Core.formed_iff, State.Formed.core, Core.send_formed, Core.unitFatal_formed, State.flushStreams_formed, State.onCore_formed,
    State.readReload_formed, State.readScales_formed, State.slot_formed]

theorem Core.dropItems_formed {c : Core} (h : c.Formed) : (c.dropItems).Formed := by
  grind [Core.dropItems, Core.formed_iff, Core.foldl_formed, Core.setTileState_formed]

theorem Core.mxPush_formed {c : Core} (h : c.Formed) (i : MxItem) : (c.mxPush i).Formed := by
  grind [Core.mxPush, Core.formed_iff]

theorem execMcall_formed (x : MCallF) {s : State} (h : s.Formed) {u : State} (hu : execMcall x s = .next u) : u.Formed := by
  grind [execMcall, State.Formed.core, Core.mxPush_formed, Core.noteFills_formed, Core.setTileState_formed, Core.slotFault_formed,
    State.flushStreams_formed, State.onCore_formed, State.readReload_formed, State.slot_formed]

theorem execMload_formed (x : MLoadF) {s : State} (h : s.Formed) {u : State} (hu : execMload x s = .next u) : u.Formed := by
  grind [execMload, State.Formed.core, Core.mxPush_formed, Core.unitUncorrectable_formed, State.onCore_formed, State.slot_formed]

theorem execMswap_formed (x : Guard) {s : State} (h : s.Formed) {u : State} (hu : execMswap x s = .next u) : u.Formed := by
  grind [execMswap, State.Formed.core, Core.mxPush_formed, State.onCore_formed, State.slot_formed]

theorem execMsync_formed (x : Guard) {s : State} (h : s.Formed) {u : State} (hu : execMsync x s = .next u) : u.Formed := by
  grind [execMsync, State.slot_formed]

theorem execMcomp_formed (x : MCompF) {s : State} (h : s.Formed) {u : State} (hu : execMcomp x s = .next u) : u.Formed := by
  grind [execMcomp, State.Formed.core, Core.mxPush_formed, Core.noteFills_formed, Core.setTileState_formed, State.onCore_formed, State.slot_formed]

/-! ### Micro-operations -/

theorem Core.mxFail_formed {c : Core} (h : c.Formed) (code : Nat) : (c.mxFail code).Formed := by
  grind [Core.mxFail, Core.formed_iff, Core.dropItems_formed, Core.fatal_formed]

theorem Core.mxStop_formed {c : Core} (h : c.Formed) (code : Nat) (va : Nat) : (c.mxStop code va).Formed := by
  grind [Core.mxStop, Core.formed_iff, Core.mxFail_formed]

/-- The state that a micro-operation leaves. -/
def Micro.left : Micro → State
  | .go s _ _ => s
  | .stop s _ _ => s
  | .fail s _ => s
  | .wait s => s

theorem State.micro_formed {s : State} {name : String} {f : State → Run → Micro} (hf : ∀ r, (f s r).left.Formed) {u : State}
    (hu : s.micro name f = .next u) : u.Formed := by
  unfold State.micro at hu
  split at hu
  · exact nomatch hu
  · next r _ =>
    have hr := hf r
    generalize f s r = m at hr hu
    rcases next_of_ite hu with hu | hu
    · exact nomatch hu
    · cases m with
      | go v r pc =>
        rcases next_of_ite hu with hu | hu
        · obtain rfl := Host.Outcome.next.inj hu
          exact State.onCore_formed hr (Core.mxFail_formed (State.Formed.core hr) _)
        · obtain rfl := Host.Outcome.next.inj hu
          exact hr
      | stop v code va =>
        obtain rfl := Host.Outcome.next.inj hu
        exact State.onCore_formed hr (Core.mxStop_formed (State.Formed.core hr) _ _)
      | fail v code =>
        obtain rfl := Host.Outcome.next.inj hu
        exact State.onCore_formed hr (Core.mxFail_formed (State.Formed.core hr) _)
      | wait v =>
        obtain rfl := Host.Outcome.next.inj hu
        exact hr

theorem Run.on_formed (r : Run) {s : State} (h : s.Formed) : (r.on s).left.Formed := h

theorem Core.callWrite_formed {c : Core} (h : c.Formed) (k : Call) (t : TileRef) (a : Nat) (bs : List Byte) : (c.callWrite k t a bs).Formed := by
  grind [Core.callWrite, Core.formed_iff, Core.poolWrite_formed, Core.tileWrite_formed]

theorem Core.putAccRow_formed {c : Core} (h : c.Formed) (k : Call) (m : MRef) (at' : Nat) (vals : List Num) : (c.putAccRow k m at' vals).Formed := by
  grind [Core.putAccRow, Core.callWrite_formed]

theorem State.elemAt_formed {s : State} (h : s.Formed) (o : Operand) (a : Nat) (b : Nat) : (s.elemAt o a b).1.Formed := by
  grind [State.elemAt, State.readChecked_formed]

theorem State.elem_formed {s : State} (h : s.Formed) (o : Operand) (scales : Scales) (i : Nat) (j : Nat) : (s.elem o scales i j).1.Formed := by
  grind [State.elem, State.Formed.core, Core.unitUncorrectable_formed, State.elemAt_formed, State.onCore_formed]

theorem State.elemRow_formed (o : Operand) (scales : Scales) (i n j : Nat) {s : State} (h : s.Formed) : (s.elemRow o scales i n j).1.Formed := by
  induction n generalizing s j with
  | zero => exact h
  | succ n ih =>
    unfold State.elemRow
    grind [State.elem_formed]

theorem State.elemRows_formed (o : Operand) (scales : Scales) (skip : Nat → Bool) (width j n i : Nat) {s : State} (h : s.Formed) :
    (s.elemRows o scales skip width j n i).1.Formed := by
  induction n generalizing s i with
  | zero => exact h
  | succ n ih =>
    unfold State.elemRows
    grind [State.elemRow_formed]

theorem State.scalesFor_formed {s : State} (h : s.Formed) (k : Call) (side : Bool) (o : Operand) (firstK : Nat) :
    (s.scalesFor k side o firstK).1.Formed := by
  grind [State.scalesFor, State.Formed.core, Core.putScales_formed, State.onCore_formed, State.readScales_formed]

theorem microErr_formed {s : State} (h : s.Formed) (e : MemErr) : (microErr s e).left.Formed := by
  cases e with
  | trans code va => exact h
  | fatal code => exact h

theorem execMxEnd_formed {s : State} (h : s.Formed) {u : State} (hu : execMxEnd s = .next u) : u.Formed := by
  refine State.micro_formed ?_ hu
  intro r
  grind [Micro.left]

theorem execMxNop_formed {s : State} (h : s.Formed) {u : State} (hu : execMxNop s = .next u) : u.Formed := by
  refine State.micro_formed ?_ hu
  intro r
  grind [Run.on_formed]

theorem execSets_formed (xs : BitVec 4) {s : State} (h : s.Formed) {u : State} (hu : execSets xs s = .next u) : u.Formed := by
  refine State.micro_formed ?_ hu
  intro r
  grind [Run.on_formed]

theorem execSetr_formed (mode : BitVec 3) (sat : Bool) (xr : BitVec 4) {s : State} (h : s.Formed) {u : State}
    (hu : execSetr mode sat xr s = .next u) : u.Formed := by
  refine State.micro_formed ?_ hu
  intro r
  grind [Run.on_formed, Micro.left]

theorem execSetx_formed (xd : BitVec 4) (imm : BitVec 55) {s : State} (h : s.Formed) {u : State} (hu : execSetx xd imm s = .next u) : u.Formed := by
  refine State.micro_formed ?_ hu
  intro r
  grind [Run.on_formed]

theorem execMovx_formed (xd : BitVec 4) (xa : BitVec 4) {s : State} (h : s.Formed) {u : State} (hu : execMovx xd xa s = .next u) : u.Formed := by
  refine State.micro_formed ?_ hu
  intro r
  grind [Run.on_formed]

theorem execAddx_formed (xd : BitVec 4) (fld : BitVec 2) (imm : BitVec 32) {s : State} (h : s.Formed) {u : State}
    (hu : execAddx xd fld imm s = .next u) : u.Formed := by
  refine State.micro_formed ?_ hu
  intro r
  grind [Run.on_formed]

theorem execLoopx_formed (xc : BitVec 4) (target : BitVec 6) {s : State} (h : s.Formed) {u : State} (hu : execLoopx xc target s = .next u) :
    u.Formed := by
  refine State.micro_formed ?_ hu
  intro r
  grind [Run.on_formed, Micro.left]

theorem execZacc_formed (xc : BitVec 4) (n : BitVec 6) {s : State} (h : s.Formed) {u : State} (hu : execZacc xc n s = .next u) : u.Formed := by
  refine State.micro_formed ?_ hu
  intro r
  grind [State.Formed.core, Core.callWrite_formed, Run.on_formed, State.onCore_formed, Micro.left]

theorem Core.putAccRows_formed (k : Call) (m : MRef) : ∀ (rs : List (List Num)) (a : Nat) {c : Core}, c.Formed → (c.putAccRows k m a rs).Formed
  | [], _, _, h => h
  | r :: rs, a, c, h => by
    have ih := @Core.putAccRows_formed k m rs
    unfold Core.putAccRows
    grind [Core.putAccRow_formed]

theorem execLdacc_formed (xc : BitVec 4) (xa : BitVec 4) (n : BitVec 6) {s : State} (h : s.Formed) {u : State} (hu : execLdacc xc xa n s = .next u) :
    u.Formed := by
  refine State.micro_formed ?_ hu
  intro r
  grind [State.Formed.core, Core.putAccRows_formed, Run.on_formed, State.elemRows_formed, State.onCore_formed, State.scalesFor_formed,
    microErr_formed, Micro.left]

theorem execMxSwap_formed {s : State} (h : s.Formed) {u : State} (hu : execMxSwap s = .next u) : u.Formed := by
  refine State.micro_formed ?_ hu
  intro r
  grind [Core.formed_iff, State.Formed.core, Run.on_formed, State.onCore_formed, Micro.left]

theorem Run.loadBank_formed (r : Run) {s : State} (h : s.Formed) (fmt : Nat) {read : State → State × Except MemErr (List (List Num))}
    (hread : (read s).1.Formed) : (r.loadBank s fmt read).left.Formed := by
  unfold Run.loadBank
  dsimp only
  generalize read s = x at hread
  split
  · exact h
  · obtain ⟨v, e | w⟩ := x
    · exact microErr_formed hread e
    · exact hread

theorem execLdw_formed (xw : BitVec 4) {s : State} (h : s.Formed) {u : State} (hu : execLdw xw s = .next u) : u.Formed := by
  refine State.micro_formed ?_ hu
  intro r
  grind [Run.loadBank_formed, State.elemRows_formed, State.scalesFor_formed, Micro.left]

theorem State.sparseColumn_formed {s : State} (h : s.Formed) (o : Operand) (nm : BitVec 2) (scales : Scales) (row : Nat) :
    (s.sparseColumn o nm scales row).1.Formed := by
  grind [State.sparseColumn, State.Formed.core, Core.unitUncorrectable_formed, State.onCore_formed]

theorem State.sparseColumns_formed (o : Operand) (nm : BitVec 2) (scales : Scales) (n row : Nat) {s : State} (h : s.Formed) :
    (s.sparseColumns o nm scales n row).1.Formed := by
  induction n generalizing s row with
  | zero => exact h
  | succ n ih =>
    unfold State.sparseColumns
    grind [State.sparseColumn_formed]

theorem execLdwSparse_formed (xw : BitVec 4) (nm : BitVec 2) {s : State} (h : s.Formed) {u : State} (hu : execLdwSparse xw nm s = .next u) :
    u.Formed := by
  refine State.micro_formed ?_ hu
  intro r
  grind [Run.loadBank_formed, State.scalesFor_formed, State.sparseColumns_formed, Micro.left]

theorem Core.streamRows_formed (k : Call) (m : MRef) (narrow : Bool) (cols : List (List Num)) : ∀ (xs : List (List Num)) (a : Nat) {c : Core},
    c.Formed → (c.streamRows k m narrow cols a xs).Formed
  | [], _, _, h => h
  | x :: xs, a, c, h => by
    have ih := @Core.streamRows_formed k m narrow cols xs
    unfold Core.streamRows
    grind [Core.putAccRow_formed]

theorem execStrm_formed (xa xc : BitVec 4) (n : BitVec 6) {s : State} (h : s.Formed) {u : State} (hu : execStrm xa xc n s = .next u) : u.Formed := by
  refine State.micro_formed ?_ hu
  intro r
  dsimp only
  split
  · next b o a _ _ _ =>
    have hs := State.scalesFor_formed h r.call false o o.ref.col0
    generalize s.scalesFor r.call false o o.ref.col0 = x at hs ⊢
    obtain ⟨s', e | sc⟩ := x
    all_goals split
    · exact h
    · exact microErr_formed hs e
    · exact h
    · dsimp only
      have hr := State.elemRows_formed o sc (o.padRow r.call) (s.core.mx.bank b).w.length o.ref.col0 (n.toNat + 1) o.ref.row0 hs
      generalize s'.elemRows o sc (o.padRow r.call) (s.core.mx.bank b).w.length o.ref.col0 (n.toNat + 1) o.ref.row0 = y at hr ⊢
      obtain ⟨t, e | rows⟩ := y
      · exact microErr_formed hr e
      · refine State.onCore_formed (f := fun c =>
          let c := c.streamRows r.call _ _ _ a rows
          { c with mx := _ }) hr ?_
        exact Core.streamRows_formed r.call _ _ _ rows a (State.Formed.core hr)
  · exact h

theorem Core.countHist_formed {c : Core} (h : c.Formed) (x : Num) (e0 : Int) : (c.countHist x e0).Formed := by
  grind [Core.countHist, Core.formed_iff]

theorem Core.putDest_formed {c : Core} (h : c.Formed) (k : Call) (o : Operand) (i : Nat) (j : Nat) (code : Nat) {u : Core}
    (hu : c.putDest k o i j code = some u) : u.Formed := by
  grind [Core.putDest, Core.formed_iff, Core.callWrite_formed, Core.setV_formed]

theorem Core.drainOne_formed {c : Core} (h : c.Formed) (r : Run) (o : Operand) (i : Nat) (j : Nat) (x : Num) {u : Core}
    (hu : c.drainOne r o i j x = some u) : u.Formed := by
  grind [Core.drainOne, Core.formed_iff, Core.countHist_formed, Core.putDest_formed]

theorem Core.drainCols_formed (r : Run) (o : Operand) (i : Nat) : ∀ (xs : List Num) (j : Nat) {c d : Core}, c.Formed →
    c.drainCols r o i j xs = some d → d.Formed
  | [], _, _, _, h, hd => Option.some.inj hd ▸ h
  | x :: xs, j, c, d, h, hd => by
    have ih := @Core.drainCols_formed r o i xs
    unfold Core.drainCols at hd
    grind [Core.drainOne_formed]

theorem Core.drainRows_formed (r : Run) (m : MRef) (o : Operand) (a n i : Nat) {c d : Core} (h : c.Formed) (hd : c.drainRows r m o a n i = some d) :
    d.Formed := by
  induction n generalizing c i with
  | zero => exact Option.some.inj hd ▸ h
  | succ n ih =>
    unfold Core.drainRows at hd
    grind [Core.drainCols_formed, Core.unitUncorrectable_formed]

theorem execDrain_formed (xc : BitVec 4) (xd : BitVec 4) (n : BitVec 6) {s : State} (h : s.Formed) {u : State} (hu : execDrain xc xd n s = .next u) :
    u.Formed := by
  refine State.micro_formed ?_ hu
  intro r
  grind [State.Formed.core, Core.drainRows_formed, Run.on_formed, State.onCore_formed, Micro.left]

theorem State.startCall_formed {s : State} (h : s.Formed) (k : Call) : (s.startCall k).Formed := by
  grind [State.startCall, Core.formed_iff, State.Formed.core, Core.mxFail_formed, State.onCore_formed]

theorem Core.popItem_formed {c : Core} (h : c.Formed) : (c.popItem).Formed := by
  grind [Core.popItem, Core.formed_iff]

theorem Core.endCall_formed {c : Core} (h : c.Formed) (k : Call) : (c.endCall k).Formed := by
  grind [Core.endCall, Core.formed_iff, Core.popItem_formed, Core.setTileState_formed, Core.tileReady_formed]

theorem State.runMcomp_formed {s : State} (h : s.Formed) (src : TileRef) (dst : TileRef) (nm : BitVec 2) (fmt : BitVec 5) :
    (s.runMcomp src dst nm fmt).Formed := by
  grind [State.runMcomp, State.Formed.core, Core.tileWrite_formed, Core.unitUncorrectable_formed, State.onCore_formed]

theorem State.readPending_formed {s : State} (h : s.Formed) {u : State} (hu : s.readPending = some u) : u.Formed := by
  grind [State.readPending, Core.formed_iff, State.Formed.core, Core.mxStop_formed, Core.putScales_formed, Core.unitFatal_formed,
    State.onCore_formed, State.readScales_formed]

theorem State.completeItem_formed {s : State} (h : s.Formed) {u : State} (hu : s.completeItem = .next u) : u.Formed := by
  grind [State.completeItem, Core.formed_iff, State.Formed.core, Core.endCall_formed, Core.popItem_formed, Core.tileReady_formed,
    State.onCore_formed, State.runMcomp_formed]

theorem execMatrixCallComplete_formed {s : State} (h : s.Formed) {u : State} (hu : execMatrixCallComplete s = .next u) : u.Formed := by
  grind [execMatrixCallComplete, State.completeItem_formed, State.scanStart_formed]

theorem execBankDrained_formed {s : State} (h : s.Formed) {u : State} (hu : execBankDrained s = .next u) : u.Formed := by
  grind [execBankDrained, Core.formed_iff, State.Formed.core, State.onCore_formed]

theorem Core.endReload_formed {c : Core} (h : c.Formed) (t : Vector (BitVec 512) 256) (o : List (Nat × BitVec 512)) : (c.endReload t o).Formed := by
  grind [Core.endReload, Core.formed_iff]

theorem execDescriptorReload_formed {s : State} (h : s.Formed) {u : State} (hu : execDescriptorReload s = .next u) : u.Formed := by
  grind [execDescriptorReload, State.Formed.core, Core.endReload_formed, Core.mxFail_formed, Core.mxStop_formed, State.onCore_formed,
    State.readTable_formed]

end Sys2Proof.Machine
end

section
/-! PROOFS. Every step keeps memory in its canonical form: StepKeepsMemoryForm. -/

namespace Sys2Proof.Machine

/-! ### The events of a core -/

theorem execResultLand_formed {s : State} (h : s.Formed) {u : State} (hu : execResultLand s = .next u) : u.Formed := by
  grind [execResultLand, State.Formed.core, Core.landDue_formed, State.onCore_formed]

theorem execLoadReturn_formed (k : Nat) {s : State} (h : s.Formed) {u : State} (hu : execLoadReturn k s = .next u) : u.Formed := by
  grind [execLoadReturn, Core.formed_iff, State.Formed.core, Core.returnLoad_formed, State.onCore_formed]

theorem Core.matrixReport_formed {c d : Core} (h : c.Formed) {a b n : Nat} (hd : c.matrixReport = some (a, b, n, d)) : d.Formed := by
  unfold Core.matrixReport at hd
  grind [Core.formed_iff, Option.map_eq_some_iff]

theorem Core.unreported_formed {c d : Core} (h : c.Formed) {a b n : Nat} (hd : c.unreported = some (a, b, n, d)) : d.Formed := by
  unfold Core.unreported at hd
  split at hd
  · obtain ⟨p, -, he⟩ := Option.map_eq_some_iff.1 hd
    simp only [Prod.mk.injEq] at he
    obtain ⟨-, -, -, rfl⟩ := he
    exact Core.mapCmd_formed h _ _
  · rcases Option.or_eq_some_iff.1 hd with hd | ⟨-, hd⟩
    · exact Core.matrixReport_formed h hd
    · obtain ⟨i, -, hi⟩ := List.exists_of_findSome?_eq_some hd
      dsimp only at hi
      split at hi
      · exact nomatch hi
      · obtain ⟨p, -, he⟩ := Option.map_eq_some_iff.1 hi
        simp only [Prod.mk.injEq] at he
        obtain ⟨-, -, -, rfl⟩ := he
        exact Core.setStream_formed h _ _

theorem Core.reportDue_formed {c d : Core} (h : c.Formed) {a b n : Nat} (hd : c.reportDue = some (a, b, n, d)) : d.Formed := by
  unfold Core.reportDue at hd
  split at hd
  · exact Core.unreported_formed h hd
  · split at hd
    · exact Core.matrixReport_formed h hd
    · exact nomatch hd

theorem execEngineFaultReport_formed {s : State} (h : s.Formed) {u : State} (hu : execEngineFaultReport s = .next u) : u.Formed := by
  grind [execEngineFaultReport, State.Formed.core, Core.reportDue_formed, Core.takeTrap_formed, State.onCore_formed]

theorem Core.kill_formed {c : Core} (h : c.Formed) : (c.kill).Formed := by
  grind [Core.kill, Core.formed_iff, Core.foldl_formed, Core.dropItems_formed, Core.endPart_formed, Core.releaseTiles_formed]

theorem State.killTask_formed {s : State} (h : s.Formed) (n : Nat) (flush : Bool) : (s.killTask n flush).Formed := by
  grind [State.killTask, State.formed_iff, State.foldl_formed, Core.kill_formed, State.atCore_formed, State.flushStreams_formed,
    State.mapCores_formed]

theorem State.faultTask_formed {s : State} (h : s.Formed) (t : Task) (code : Nat) : (s.faultTask t code).Formed := by
  grind [State.faultTask, Task.formed_iff, State.emit_formed, State.killTask_formed, State.mapTask_formed, Task.unstaged_formed]

theorem execImpreciseFault_formed {s : State} (h : s.Formed) {u : State} (hu : execImpreciseFault s = .next u) : u.Formed := by
  grind [execImpreciseFault, Core.formed_iff, State.Formed.core, State.faultTask_formed, State.onCore_formed]

theorem execContainedRequeue_formed {s : State} (h : s.Formed) {u : State} (hu : execContainedRequeue s = .next u) : u.Formed := by
  grind [execContainedRequeue, State.formed_iff, Core.formed_iff, Core.AllFormed.nil, Task.formed_iff, State.faultTask_formed,
    State.freeBerth_formed, State.killTask_formed, State.mapCard_formed, State.mapTask_formed]

theorem Core.undo_formed {c : Core} (h : c.Formed) (r : Nat × Nat × List Byte) : (c.undo r).Formed := by
  have hrows (n : Nat) (xs : List VReg) : (c.setRows n xs).Formed := h.of_settled (Core.setRows_settled _ _ _)
  grind [Core.undo, Core.setS_formed, Core.spWrite_formed]

theorem Core.rollBack_formed {c : Core} (h : c.Formed) (why : Nat) (r : Region) : (c.rollBack why r).Formed := by
  grind [Core.rollBack, Core.formed_iff, Core.foldl_formed, Core.dropCmd_formed, Core.releaseTiles_formed, Core.setTileState_formed, Core.undo_formed]

theorem State.afterRollback_formed {s : State} (h : s.Formed) (stores : Bool) : (s.afterRollback stores).Formed := by
  grind [State.afterRollback, Core.formed_iff, State.Formed.core, State.dropWalks_formed, State.onCore_formed, State.releaseAll_formed]

theorem execRollback_formed {s : State} (h : s.Formed) {u : State} (hu : execRollback s = .next u) : u.Formed := by
  grind [execRollback, State.Formed.core, Core.rollBack_formed, State.afterRollback_formed, State.onCore_formed]

theorem execCorePartEnd_formed {s : State} (h : s.Formed) {u : State} (hu : execCorePartEnd s = .next u) : u.Formed := by
  grind [execCorePartEnd, Core.formed_iff, State.Formed.core, State.endTask_formed, State.faultTask_formed, State.joinEnded_formed,
    State.onCore_formed]

theorem execPoolClearDone_formed {s : State} (h : s.Formed) {u : State} (hu : execPoolClearDone s = .next u) : u.Formed := by
  rcases next_of_ite hu with hu | hu
  · obtain rfl := Host.Outcome.next.inj hu
    have hc := (Core.formed_iff _).1 h.core
    exact State.onCore_formed h ((Core.formed_iff _).2 ⟨rfl, hc.2⟩)
  · exact nomatch hu

theorem execWaitingBudgetExhausted_formed {s : State} (h : s.Formed) {u : State} (hu : execWaitingBudgetExhausted s = .next u) : u.Formed := by
  grind [execWaitingBudgetExhausted, State.formed_iff, State.Formed.core, State.preemptTask_formed]

theorem Core.stestResult_formed {c : Core} (h : c.Formed) (st : Nat) : (c.stestResult st).Formed := by
  grind [Core.stestResult, Core.formed_iff, Core.setS_formed]

theorem Core.restored_formed {c : Core} (h : c.Formed) : (c.restored).Formed := by
  grind [Core.restored, Core.formed_iff]

theorem State.reissueFaulted_formed {s : State} (h : s.Formed) : s.reissueFaulted.Formed := by
  have hf := State.foldl_fst_formed (f := fun (s, ls) l =>
    let (s, l) := if l.fault.isSome then s.reread l else (s, l)
    (s, ls ++ [l])) (fun x l hx => by grind [State.reread_formed]) s.core.loads (x := (s, ([] : List Load))) h
  exact State.onCore_formed (f := fun c => { c with loads := _ }) hf (State.Formed.core hf)

theorem State.resumeScan_formed {s : State} (h : s.Formed) (status : Nat) : (s.resumeScan status).Formed := by
  grind [State.resumeScan, Core.formed_iff, State.Formed.core, Core.restored_formed, Core.stestResult_formed, State.dropWalks_formed,
    State.onCore_formed, State.reissueFaulted_formed]

theorem State.logScan_formed {s : State} (h : s.Formed) (outcome : Nat) (spare : Nat) : (s.logScan outcome spare).Formed := by
  grind [State.logScan, State.formed_iff, State.emit_formed]

theorem execCorePreemptStop_formed {s : State} (h : s.Formed) {u : State} (hu : execCorePreemptStop s = .next u) : u.Formed := by
  grind [execCorePreemptStop, Core.formed_iff, State.Formed.core, Core.settleLoads_formed, Core.stestResult_formed, State.logScan_formed,
    State.onCore_formed]

theorem State.setPhys_formed {s : State} (h : s.Formed) (core : Nat) (p : Option Nat) : (s.setPhys core p).Formed := by
  grind [State.setPhys, State.formed_iff]

theorem Task.losePart_formed (n : Nat) {t : Task} (h : t.Formed) : (t.losePart n).Formed := by
  unfold Task.losePart
  split
  · exact h
  · next k hk =>
    refine Core.AllFormed.map h fun c hc => ?_
    have hl := Core.lineSet_formed (Core.AllFormed.find h hk) 0x10000 hc
    generalize k.lineSet 0x10000 c = x at hl ⊢
    dsimp only
    split
    · exact Core.kill_formed hl
    · exact hl

theorem State.retireSaved_formed {s : State} (h : s.Formed) (n : Nat) : (s.retireSaved n).Formed := by
  grind [State.retireSaved, State.foldl_formed, State.emit_formed, State.mapTask_formed, Task.losePart_formed]

theorem execStestPatternEnd_formed (pass : Bool) {s : State} (h : s.Formed) {u : State} (hu : execStestPatternEnd pass s = .next u) : u.Formed := by
  grind [execStestPatternEnd, State.formed_iff, Core.formed_iff, Core.endPart_formed, State.logScan_formed, State.onCore_formed,
    State.resumeScan_formed, State.retireSaved_formed, State.scanStart_formed, State.setAbortLine_formed, State.setPhys_formed]

theorem execStestDrainTimeout_formed {s : State} (h : s.Formed) {u : State} (hu : execStestDrainTimeout s = .next u) : u.Formed := by
  grind [execStestDrainTimeout, State.logScan_formed, State.resumeScan_formed, State.scanStart_formed]

end Sys2Proof.Machine

namespace Sys2Proof.Machine

/-! ### The events of the Ferry -/

theorem execCountMessage_formed (p : XPkt) {s : State} (h : s.Formed) {u : State} (hu : execCountMessage p s = .next u) : u.Formed := by
  grind [execCountMessage, State.arriveCount_formed, State.receive_formed]

theorem execPayloadMessage_formed (p : XPkt) {s : State} (h : s.Formed) {u : State} (hu : execPayloadMessage p s = .next u) : u.Formed := by
  grind [execPayloadMessage, State.arrivePayload_formed, State.receive_formed]

theorem execFredContribution_formed (p : XPkt) {s : State} (h : s.Formed) {u : State} (hu : execFredContribution p s = .next u) : u.Formed := by
  grind [execFredContribution, State.arrivePayload_formed, State.receive_formed]

theorem execPayloadAck_formed (id : Nat) {s : State} (h : s.Formed) {u : State} (hu : execPayloadAck id s = .next u) : u.Formed := by
  grind [execPayloadAck, Core.mapCmd_formed, State.dropReport_formed, State.mapAllCores_formed]

theorem execRefusalReport_formed (p : RefusalPkt) {s : State} (h : s.Formed) {u : State} (hu : execRefusalReport p s = .next u) : u.Formed := by
  grind [execRefusalReport, State.formed_iff, State.dropReport_formed, State.receive_formed]

theorem execFlushMarker_formed (m : MarkerPkt) {s : State} (h : s.Formed) {u : State} (hu : execFlushMarker m s = .next u) : u.Formed := by
  grind [execFlushMarker, State.formed_iff, State.keyError_formed, State.receive_formed]

theorem Core.acked_formed {c : Core} (h : c.Formed) (a : Nat × BitVec 32) : (c.acked a).Formed := by
  grind [Core.acked, Core.formed_iff]

theorem execFlushAck_formed (task : Nat) (module : Nat) (epoch : BitVec 32) {s : State} (h : s.Formed) {u : State}
    (hu : execFlushAck task module epoch s = .next u) : u.Formed := by
  grind [execFlushAck, Core.acked_formed, State.mapAllCores_formed]

theorem State.failOver_formed {s : State} (h : s.Formed) (module : Nat) (path newPath : BitVec 4) : (s.failOver module path newPath).Formed := by
  rw [State.formed_iff] at h ⊢
  obtain ⟨hmem, hcore, hrest, htasks⟩ := h
  exact ⟨hmem, hcore, hrest, htasks.map fun _ ht => ht⟩

theorem execPathFailure_formed (module : Nat) (path newPath : BitVec 4) {s : State} (h : s.Formed) {u : State}
    (hu : execPathFailure module path newPath s = .next u) : u.Formed := by
  rcases next_of_ite hu with hu | hu
  · exact nomatch hu
  · obtain rfl := Host.Outcome.next.inj hu
    exact State.failOver_formed h module path newPath

theorem State.failPort_formed {s : State} (h : s.Formed) (port : Nat) : (s.failPort port).Formed := by
  grind [State.failPort, State.formed_iff, State.foldl_formed, State.failOver_formed]

theorem Core.fence_formed {c : Core} (h : c.Formed) (key : BitVec 32) : (c.fence key).Formed := by
  grind [Core.fence, Core.formed_iff, Core.foldl_formed, Core.dropCmd_formed, Core.fatal_formed, Core.releaseTiles_formed]

theorem execRevocationNotice_formed (key : BitVec 32) {s : State} (h : s.Formed) {u : State} (hu : execRevocationNotice key s = .next u) :
    u.Formed := by
  grind [execRevocationNotice, State.formed_iff, Core.fence_formed, State.mapAllCores_formed, State.retryHeld_formed]

theorem execRemoteAccessPacket_formed (p : RemotePkt) {s : State} (h : s.Formed) {u : State} (hu : execRemoteAccessPacket p s = .next u) :
    u.Formed := by
  grind [execRemoteAccessPacket, State.formed_iff, State.keyError_formed, State.receive_formed, State.store_formed, State.touch_formed]

theorem State.joinForEnded_formed {s : State} (h : s.Formed) (group : Nat) : (s.joinForEnded group).Formed := by
  grind [State.joinForEnded, State.atCore_formed, State.joinEnded_formed]

theorem execFabricBarrierArrival_formed (group : Nat) (src : PacketId) (inst : Nat) {s : State} (h : s.Formed) {u : State}
    (hu : execFabricBarrierArrival group src inst s = .next u) : u.Formed := by
  grind [execFabricBarrierArrival, State.formed_iff, State.joinForEnded_formed, State.receive_formed]

end Sys2Proof.Machine

namespace Sys2Proof.Machine

/-! ### The events of the Harbourmaster -/

theorem State.queueFault_formed {s : State} (h : s.Formed) (q : Nat) (code : Nat) : (s.queueFault q code).Formed := by
  grind [State.queueFault, State.emit_formed, State.setQueue_formed]

theorem State.wake_formed {s : State} (h : s.Formed) : (s.wake).Formed := by
  grind [State.wake, State.formed_iff]

theorem execQueueDoorbell_formed (queue : Nat) (prod : BitVec 32) {s : State} (h : s.Formed) {u : State}
    (hu : execQueueDoorbell queue prod s = .next u) : u.Formed := by
  grind [execQueueDoorbell, State.queueFault_formed, State.setQueue_formed, State.wake_formed]

theorem State.readRecord_formed {s : State} (h : s.Formed) (q : Nat) : (s.readRecord q).Formed := by
  grind [State.readRecord, State.consume_formed, State.queueFault_formed, State.setQueue_formed, State.store_formed]

theorem State.consumeHeld_formed {s : State} (h : s.Formed) (q : Nat) {u : State} (hu : s.consumeHeld q = some u) : u.Formed := by
  grind [State.consumeHeld, State.consume_formed, State.setQueue_formed]

theorem State.consumeLaunch_formed {s : State} (h : s.Formed) (q : Nat) {u : State} (hu : s.consumeLaunch q = some u) : u.Formed := by
  grind [State.consumeLaunch, State.formed_iff, State.consume_formed]

theorem execRecordRead_formed (queue : Nat) {s : State} (h : s.Formed) {u : State} (hu : execRecordRead queue s = .next u) : u.Formed := by
  grind [execRecordRead, State.consumeHeld_formed, State.consumeLaunch_formed, State.readRecord_formed]

theorem execRecordReread_formed (queue : Nat) {s : State} (h : s.Formed) {u : State} (hu : execRecordReread queue s = .next u) : u.Formed := by
  grind [execRecordReread, State.readRecord_formed]

theorem State.takeLaunch_formed {s : State} (h : s.Formed) (p : LaunchPkt) : (s.takeLaunch p).Formed := by
  have hheld (t : State) (ht : t.Formed) (q : Nat) : ((t.consumeHeld q).getD t).Formed := by
    cases hc : t.consumeHeld q with
    | none => exact ht
    | some u => exact State.consumeHeld_formed ht q hc
  unfold State.takeLaunch
  dsimp only
  split
  · exact State.keyError_formed h _ _
  · split
    · exact h
    · split
      · exact hheld _ (State.setQueue_formed h _ _) _
      · exact State.setQueue_formed h _ _

theorem execLaunchPacket_formed (p : LaunchPkt) {s : State} (h : s.Formed) {u : State} (hu : execLaunchPacket p s = .next u) : u.Formed := by
  grind [execLaunchPacket, State.receive_formed, State.takeLaunch_formed, State.wake_formed]

theorem State.readyTask_eq {s : State} {t : Task} {x : Nat × Card × Task} (hx : s.readyTask t = some x) : x.2.2 = t := by
  grind [State.readyTask]

theorem State.firstReady_formed {s : State} (h : s.Formed) {c : Card} {t : Task} (hf : s.firstReady = some (c, t)) : t.Formed := by
  obtain ⟨x, hx, he⟩ := Option.map_eq_some_iff.1 hf
  suffices hall : x.2.2.Formed by
    rw [he] at hall
    exact hall
  refine List.foldlRecOn (motive := fun b => ∀ x, b = some x → x.2.2.Formed) s.hm.tasks _ (fun _ hn => nomatch hn) ?_ x hx
  intro best hb t ht x hx
  have hr := @State.readyTask_eq s t
  grind [h.tasks t ht]

theorem State.failLoad_formed {s : State} (h : s.Formed) {t : Task} (ht : t.Formed) (cause : Nat) : (s.failLoad t cause).Formed := by
  have hm := State.mapTask_formed h t.num (f := fun _ => { t with cause := cause, cores := [] }) fun _ _ => ht
  unfold State.failLoad
  exact State.endTask_formed hm _ _

theorem State.launchWith_formed {s : State} (h : s.Formed) (c : Card) {t : Task} (ht : t.Formed) (raw : List Byte) :
    (s.launchWith c t raw).Formed := by
  grind [State.launchWith, State.formed_iff, State.failLoad_formed, State.launchTask_formed]

theorem State.startTask_formed {s : State} (h : s.Formed) (c : Card) {t : Task} (ht : t.Formed) (cores : List Nat) :
    (s.startTask c t cores).Formed := by
  unfold State.startTask
  dsimp only
  have hm := State.mapTask_formed h t.num
    (f := fun _ => { t with cores := cores, unc := false, status := 0, cause := 0, acode := none, phase := .loading }) fun _ _ => ht
  split
  · exact State.launchWith_formed hm c (t := { t with cores := cores, unc := false, status := 0, cause := 0, acode := none, phase := .loading })
      ht _
  · exact hm

theorem Core.takenBack_formed {t : Task} (ht : t.Formed) {c : Core} (h : c.Formed) :
    (match t.saved.find? fun k : Core => k.id == c.id with
      | some k => k.restored
      | none => c).Formed := by
  split
  · next k hk => exact Core.restored_formed (Core.AllFormed.find ht hk)
  · exact h

theorem State.reissueSaved_formed (l : List Core) {s : State} (h : s.Formed) :
    (l.foldl (fun s c => (s.atCore c.id fun s => (s.reissueFaulted, ())).1) s).Formed :=
  State.foldl_formed (fun _ c hu => State.atCore_formed (f := fun s => (s.reissueFaulted, ())) hu c.id fun _ hv => State.reissueFaulted_formed hv) l h

theorem State.restoreTask_formed {s : State} (h : s.Formed) {t : Task} (ht : t.Formed) : (s.restoreTask t).Formed := by
  have hread := State.reissueSaved_formed (t.saved.filter fun c => c.loads.any fun l => l.fault.isSome)
    (State.mapCores_formed (State.dropWalks_formed h t.root) fun _ hc => Core.takenBack_formed ht hc)
  unfold State.restoreTask
  dsimp only at hread ⊢
  generalize List.foldl _ _ _ = w at hread ⊢
  generalize List.filter _ w.ferry.sent = again
  have hrun := State.mapTask_formed (s := { w with ferry := { w.ferry with sent := w.ferry.sent ++ again } }) hread t.num
    (f := fun t => { t with phase := .running, saved := [] }) fun _ _ => Core.AllFormed.nil
  split
  · exact State.endTask_formed hrun _ _
  · exact hrun

theorem execDispatch_formed {s : State} (h : s.Formed) {u : State} (hu : execDispatch s = .next u) : u.Formed := by
  have hpre (l : List Task) : (l.foldl (fun s h => s.preemptTask h.num) s).Formed :=
    State.foldl_formed (fun _ k hu => State.preemptTask_formed hu k.num) l h
  have hfirst := @State.firstReady_formed s h
  grind [execDispatch, State.expandCard_formed, State.restoreTask_formed, State.startTask_formed]

theorem execCodeImageLoad_formed (task : Nat) {s : State} (h : s.Formed) {u : State} (hu : execCodeImageLoad task s = .next u) : u.Formed := by
  unfold execCodeImageLoad at hu
  split at hu
  · next t ht =>
    have htf := State.taskOf_formed h ht
    have hfail (v : State) (hv : v.Formed) (cause : Nat) := State.failLoad_formed hv htf cause
    have hlaunch (v : State) (hv : v.Formed) (c : Card) (raw : List Byte) := State.launchWith_formed hv c htf raw
    split at hu
    · next c _ =>
      rcases next_of_ite hu with hu | hu
      · exact nomatch hu
      · rcases next_of_ite hu with hu | hu
        · dsimp only at hu
          have hhead := State.hmRead_formed h ⟨t.root, t.key, none⟩ (c.bits 56 0) 64
          generalize s.hmRead ⟨t.root, t.key, none⟩ (c.bits 56 0) 64 = x at hhead hu
          obtain ⟨v, e | head⟩ := x
          · obtain rfl := Host.Outcome.next.inj hu
            exact hfail v hhead _
          · grind [State.hmRead_formed]
        · grind [State.emit_formed]
    · exact nomatch hu
  · exact nomatch hu

theorem State.writeSnaps_formed : ∀ (l : List (Nat × Nat)) {s : State}, s.Formed → (s.writeSnaps l).Formed
  | [], _, h => h
  | (n, core) :: r, s, h => by
    have ih := @State.writeSnaps_formed r
    unfold State.writeSnaps
    dsimp only
    split
    · split
      · generalize hw : s.store _ _ _ = w
        have hst : w.Formed := hw ▸ State.store_formed h _ _ _
        refine ih (State.emit_formed ?_ _)
        exact hst
      · exact ih h
    · exact ih h
    · exact ih h

theorem State.flushSnaps_formed {s : State} (h : s.Formed) : (s.flushSnaps).Formed := by
  grind [State.flushSnaps, State.writeSnaps_formed]

theorem State.catchUp_formed {s : State} (h : s.Formed) : (s.catchUp).Formed := by
  grind [State.catchUp, State.emitWaiting_formed, State.flushSnaps_formed, State.numberLost_formed]

theorem execPreemptionComplete_formed (task : Nat) {s : State} (h : s.Formed) {u : State} (hu : execPreemptionComplete task s = .next u) :
    u.Formed := by
  unfold execPreemptionComplete at hu
  split at hu
  · dsimp only at hu
    rcases next_of_ite hu with hu | hu
    · exact nomatch hu
    · obtain rfl := Host.Outcome.next.inj hu
      refine State.flushSnaps_formed (State.mapCores_formed (State.mapTask_formed h task fun _ _ => ?_) fun c hc => ?_)
      · exact h.cores.filter fun c => c.part.task == task && c.part.status != .none
      · have hr := Core.reset_formed c.id
        grind [Core.formed_iff]
  · exact nomatch hu

theorem execCardExpire_formed (k : Nat) {s : State} (h : s.Formed) {u : State} (hu : execCardExpire k s = .next u) : u.Formed := by
  grind [execCardExpire, State.dropPooled_formed]

theorem State.hmFailed_formed {s : State} (h : s.Formed) (c : Card) (e : Option MemErr) : (s.hmFailed c e).Formed := by
  unfold State.hmFailed
  grind [State.emit_formed]

theorem State.notifyCards_formed (pa : Nat) (done : Bool) : ∀ (l : List Card) {s : State}, s.Formed → (s.notifyCards pa done l).Formed
  | [], _, h => h
  | c :: r, s, h => by
    have ih := @State.notifyCards_formed pa done r
    unfold State.notifyCards
    grind [State.mapCard_formed, State.retireCard_formed]

theorem execCompletionRecordWrite_formed (k : Nat) {s : State} (h : s.Formed) {u : State} (hu : execCompletionRecordWrite k s = .next u) :
    u.Formed := by
  grind [execCompletionRecordWrite, State.formed_iff, State.Formed.core, State.foldl_formed, Task.AllFormed.filter, State.freeBerth_formed,
    State.hmFailed_formed, State.hmSignal_formed, State.hmWrite_formed, State.notifyCards_formed, State.number_formed, State.pieces_formed]

theorem execEventConsumerWrite_formed (n : BitVec 64) {s : State} (h : s.Formed) {u : State} (hu : execEventConsumerWrite n s = .next u) :
    u.Formed := by
  grind [execEventConsumerWrite, State.formed_iff, State.catchUp_formed, State.writeEvents_formed]

theorem execPromotionComplete_formed (k : Nat) {s : State} (h : s.Formed) {u : State} (hu : execPromotionComplete k s = .next u) : u.Formed := by
  grind [execPromotionComplete, State.formed_iff]

theorem execWriteBackArrival_formed (k : Nat) {s : State} (h : s.Formed) {u : State} (hu : execWriteBackArrival k s = .next u) : u.Formed := by
  grind [execWriteBackArrival, State.landBack_formed]

theorem execWindowFadeTick_formed {s : State} (h : s.Formed) {u : State} (hu : execWindowFadeTick s = .next u) : u.Formed := by
  grind [execWindowFadeTick, State.fadeTick_formed]

theorem execMemoryRequestServe_formed (ctrl : Nat) (pending : List (Requester × Nat)) {s : State} (h : s.Formed) {u : State}
    (hu : execMemoryRequestServe ctrl pending s = .next u) : u.Formed := by
  grind [execMemoryRequestServe, State.formed_iff]

end Sys2Proof.Machine

namespace Sys2Proof.Machine

/-! ### The host and the pilot core -/

theorem State.hostReply_formed {s : State} (h : s.Formed) (r : Response) : (s.hostReply r).Formed := by
  grind [State.hostReply, State.formed_iff]

theorem State.hostLog_formed {s : State} (h : s.Formed) (pa : Nat) : (s.hostLog pa).Formed := by
  grind [State.hostLog, State.formed_iff]

theorem execHostBar2Read_formed (off : Nat) (len : Nat) {s : State} (h : s.Formed) {u : State} (hu : execHostBar2Read off len s = .next u) :
    u.Formed := by
  grind [execHostBar2Read, State.hostReply_formed, State.touch_formed]

theorem execHostBar2Write_formed (off : Nat) (bytes : List Byte) {s : State} (h : s.Formed) {u : State}
    (hu : execHostBar2Write off bytes s = .next u) : u.Formed := by
  grind [execHostBar2Write, State.hostLog_formed, State.store_formed]

theorem execHostAtomicop_formed (addr : Nat) (op : BitVec 2) (wide : Bool) (operand : Word) (compare : Word) {s : State} (h : s.Formed) {u : State}
    (hu : execHostAtomicop addr op wide operand compare s = .next u) : u.Formed := by
  grind [execHostAtomicop, State.hostLog_formed, State.hostReply_formed, State.store_formed]

theorem State.answer_formed {s : State} {k : State × Response} {u : State} (hu : s.answer k = .next u) (h : s.Formed) (hk : k.1.Formed) :
    u.Formed := by
  rcases next_of_ite hu with hu | hu
  · obtain rfl := Host.Outcome.next.inj hu
    exact h
  · obtain rfl := Host.Outcome.next.inj hu
    exact hk

theorem State.applied_formed {s t : State} {code : Nat} {ok : Bool} {u : State} (hu : s.applied code ok t = .next u) (h : s.Formed) (ht : t.Formed) :
    u.Formed := by
  refine State.answer_formed hu h ?_
  split
  · exact ht
  · exact h

theorem execMgmtQueueConfig_formed (queue : Nat) (c : QueueConfig) {s : State} (h : s.Formed) {u : State}
    (hu : execMgmtQueueConfig queue c s = .next u) : u.Formed := State.applied_formed hu h (State.setQueue_formed h _ _)

theorem execMgmtRegionEntry_formed (region : Nat) (e : RegionEntry) {s : State} (h : s.Formed) {u : State}
    (hu : execMgmtRegionEntry region e s = .next u) : u.Formed := by
  refine State.applied_formed hu h ?_
  split
  · exact h
  · exact h

theorem execMgmtBandwidthShares_formed (hbm lpddr : List Nat) {s : State} (h : s.Formed) {u : State}
    (hu : execMgmtBandwidthShares hbm lpddr s = .next u) : u.Formed := State.applied_formed hu h h

theorem execMgmtPowerCap_formed (watts : Nat) {s : State} (h : s.Formed) {u : State} (hu : execMgmtPowerCap watts s = .next u) : u.Formed :=
  State.applied_formed hu h h

theorem execMgmtC3Entry_formed {s : State} (h : s.Formed) {u : State} (hu : execMgmtC3Entry s = .next u) : u.Formed := State.applied_formed hu h h

theorem execMgmtHotRowCache_formed (c slot : Nat) {s : State} (h : s.Formed) {u : State} (hu : execMgmtHotRowCache c slot s = .next u) :
    u.Formed := State.applied_formed hu h h

theorem State.freeSlot_formed {s : State} (h : s.Formed) (tid : Word) : (s.freeSlot tid).Formed := by
  grind [State.freeSlot, State.formed_iff, State.flushSnaps_formed]

theorem Core.setBudget_formed {c : Core} (h : c.Formed) (w : Word) : (c.setBudget w).Formed := by
  grind [Core.setBudget, Core.formed_iff]

theorem execMgmtSnapshotRestore_formed (task : Word) (budget : List Word) {s : State} (h : s.Formed) {u : State}
    (hu : execMgmtSnapshotRestore task budget s = .next u) : u.Formed := by
  unfold execMgmtSnapshotRestore at hu
  split at hu
  · exact State.applied_formed hu h h
  · next t _ =>
    refine State.applied_formed hu h (State.freeSlot_formed (State.mapTask_formed h t.num fun _ hk => ?_) task)
    exact Core.AllFormed.map hk fun _ hc => Core.setBudget_formed hc _

theorem execMgmtSnapshotRetire_formed (task : Word) {s : State} (h : s.Formed) {u : State} (hu : execMgmtSnapshotRetire task s = .next u) :
    u.Formed := by
  unfold execMgmtSnapshotRetire at hu
  split at hu
  · exact State.applied_formed hu h h
  · refine State.applied_formed hu h (State.freeSlot_formed (State.endTask_formed ?_ _ _) task)
    refine State.foldl_formed (fun v _ hv => ?_) _ h
    exact hv

theorem execMgmtReadLogicalMaps_formed {s : State} (h : s.Formed) {u : State} (hu : execMgmtReadLogicalMaps s = .next u) : u.Formed :=
  State.answer_formed hu h h

theorem execMgmtReadScanLog_formed {s : State} (h : s.Formed) {u : State} (hu : execMgmtReadScanLog s = .next u) : u.Formed :=
  State.answer_formed hu h h

theorem State.countErrors_formed {s : State} (h : s.Formed) : (s.countErrors).Formed := by
  grind [State.countErrors, State.formed_iff]

theorem execMgmtReadErrorCounts_formed {s : State} (h : s.Formed) {u : State} (hu : execMgmtReadErrorCounts s = .next u) : u.Formed :=
  State.answer_formed hu h (State.countErrors_formed h)

theorem execMgmtClearErrorCounts_formed {s : State} (h : s.Formed) {u : State} (hu : execMgmtClearErrorCounts s = .next u) : u.Formed :=
  State.applied_formed hu h h

theorem execMgmtHostAttributeMap_formed (page : HostItem) (sa : Bool) {s : State} (h : s.Formed) {u : State}
    (hu : execMgmtHostAttributeMap page sa s = .next u) : u.Formed := by
  unfold execMgmtHostAttributeMap at hu
  split at hu
  · exact State.applied_formed hu h h
  · exact State.applied_formed hu h h
  · exact State.applied_formed hu h h

theorem execMgmtEventRingSetup_formed (base k snapBase slots : Nat) {s : State} (h : s.Formed) {u : State}
    (hu : execMgmtEventRingSetup base k snapBase slots s = .next u) : u.Formed := by
  refine State.applied_formed hu h (State.catchUp_formed (State.writeEvents_formed _ ?_))
  exact h

theorem Core.scrubbed_formed (c : Core) : c.scrubbed.Formed := (Core.formed_iff _).2 ⟨rfl, rfl, rfl⟩

theorem Core.erased_formed (c : Core) : c.erased.Formed := Core.reset_formed c.id

theorem State.scrub_formed {s : State} (h : s.Formed) : s.scrub.Formed := by
  obtain ⟨hmem, hcore, hrest, htasks⟩ := (State.formed_iff s).1 h
  unfold State.scrub
  refine State.mapCores_formed ?_ fun c _ => Core.scrubbed_formed c
  rw [State.formed_iff]
  refine ⟨Mem.wfFrom_filter _ hmem, hcore, hrest, htasks.map fun t ht => ?_⟩
  exact Core.AllFormed.map ht fun c _ => Core.erased_formed c

theorem State.haltCores_formed {s : State} (h : s.Formed) : (s.haltCores).Formed := by
  grind [State.haltCores, Core.formed_iff, State.mapAllCores_formed]

theorem execMgmtDebugToken_formed (t : DebugToken) {s : State} (h : s.Formed) {u : State} (hu : execMgmtDebugToken t s = .next u) : u.Formed := by
  refine State.applied_formed hu h ?_
  dsimp only
  split
  · refine State.haltCores_formed ?_
    split
    · exact h
    · exact State.scrub_formed h
  · exact State.haltCores_formed h

theorem execDebugStep_formed (engineSync : Option Nat) {s : State} (h : s.Formed) {u : State} (hu : execDebugStep engineSync s = .next u) :
    u.Formed := by
  unfold execDebugStep at hu
  grind [Core.formed_iff, State.Formed.core, State.onCore_formed]

theorem execDebugStepTimeout_formed {s : State} (h : s.Formed) {u : State} (hu : execDebugStepTimeout s = .next u) : u.Formed := by
  grind [execDebugStepTimeout, Core.formed_iff, State.Formed.core, State.onCore_formed]

theorem execDebugResume_formed {s : State} (h : s.Formed) {u : State} (hu : execDebugResume s = .next u) : u.Formed := by
  grind [execDebugResume, Core.formed_iff, State.Formed.core, State.onCore_formed]

theorem execMgmtStageFirmware_formed (f : FirmwareImage) {s : State} (h : s.Formed) {u : State} (hu : execMgmtStageFirmware f s = .next u) :
    u.Formed := State.applied_formed hu h h

theorem State.reset_formed : State.reset.Formed := memWf_reset

theorem State.Formed.mem {s : State} (h : s.Formed) : s.mem.wf = true := ((State.formed_iff s).1 h).1

/-- A module that keeps nothing but the bytes of its memory. -/
theorem State.formed_of_reset {t : State} (hmem : t.mem.wf = true) (hcore : t.core = State.reset.core) (hrest : t.rest = State.reset.rest)
    (hhm : t.hm = State.reset.hm) : t.Formed := by
  obtain ⟨-, hc, hr, ht⟩ := (State.formed_iff _).1 State.reset_formed
  rw [State.formed_iff, hcore, hrest, hhm]
  exact ⟨hmem, hc, hr, ht⟩

theorem execModuleReset_formed {s : State} (h : s.Formed) {u : State} (hu : execModuleReset s = .next u) : u.Formed := by
  obtain rfl := Host.Outcome.next.inj hu
  refine State.formed_of_reset ?_ rfl rfl rfl
  dsimp only
  split
  · exact Mem.wfFrom_filter _ h.mem
  · exact h.mem

theorem execD3cold_formed {s : State} (h : s.Formed) {u : State} (hu : execD3cold s = .next u) : u.Formed := by
  obtain rfl := Host.Outcome.next.inj hu
  exact State.formed_of_reset (Mem.wfFrom_filter _ h.mem) rfl rfl rfl

theorem execMgmtEnlargeOverflow_formed (core : Nat) (tag : BitVec 32) (ovbytes : Nat) {s : State} (h : s.Formed) {u : State}
    (hu : execMgmtEnlargeOverflow core tag ovbytes s = .next u) : u.Formed := by
  refine State.applied_formed hu h (State.retryHeld_formed (State.mapAllCores_formed h fun c hc => ?_))
  exact Core.formed_ite hc hc

theorem execMgmtUnknown_formed (code : Nat) {s : State} (h : s.Formed) {u : State} (hu : execMgmtUnknown code s = .next u) : u.Formed := by
  rcases next_of_ite hu with hu | hu
  · exact nomatch hu
  · exact State.applied_formed hu h h

theorem State.spdm_formed {s t : State} {name : Nat} {bytes : List Byte} {u : State} (hu : s.spdm t name bytes = .next u) (h : s.Formed)
    (ht : t.Formed) : u.Formed := by
  rcases next_of_ite hu with hu | hu
  · obtain rfl := Host.Outcome.next.inj hu
    exact h
  · obtain rfl := Host.Outcome.next.inj hu
    exact ht

theorem State.spdmError_formed {s : State} {code : Byte} {u : State} (hu : s.spdmError code = .next u) (h : s.Formed) : u.Formed :=
  State.spdm_formed hu h h

theorem State.spdmAfter_formed {s : State} {name : Nat} {bytes : List Byte} {u : State} (hu : s.spdmAfter name bytes = .next u) (h : s.Formed) :
    u.Formed := by
  rcases next_of_ite hu with hu | hu
  · exact State.spdm_formed hu h h
  · exact State.spdmError_formed hu h

theorem execGetVersion_formed {s : State} (h : s.Formed) {u : State} (hu : execGetVersion s = .next u) : u.Formed := State.spdm_formed hu h h

theorem execGetCapabilities_formed {s : State} (h : s.Formed) {u : State} (hu : execGetCapabilities s = .next u) : u.Formed :=
  State.spdm_formed hu h h

theorem execNegotiateAlgorithms_formed (rsaPss4096Sha512 : Bool) {s : State} (h : s.Formed) {u : State}
    (hu : execNegotiateAlgorithms rsaPss4096Sha512 s = .next u) : u.Formed := by
  rcases next_of_ite hu with hu | hu
  · exact State.spdm_formed hu h h
  · exact State.spdmError_formed hu h

theorem execGetDigests_formed {s : State} (h : s.Formed) {u : State} (hu : execGetDigests s = .next u) : u.Formed := State.spdmAfter_formed hu h

theorem execGetCertificate_formed (r : SpdmReq) {s : State} (h : s.Formed) {u : State} (hu : execGetCertificate r s = .next u) : u.Formed := by
  rcases next_of_ite hu with hu | hu
  · exact State.spdmAfter_formed hu h
  · exact State.spdmError_formed hu h

theorem execChallenge_formed (r : SpdmReq) {s : State} (h : s.Formed) {u : State} (hu : execChallenge r s = .next u) : u.Formed := by
  rcases next_of_ite hu with hu | hu
  · exact State.spdmError_formed hu h
  · exact State.spdmAfter_formed hu h

theorem execGetMeasurements_formed (r : SpdmReq) {s : State} (h : s.Formed) {u : State} (hu : execGetMeasurements r s = .next u) : u.Formed := by
  rcases next_of_ite hu with hu | hu
  · exact State.spdmAfter_formed hu h
  · exact State.spdmError_formed hu h

theorem State.setLink_formed {s : State} (h : s.Formed) (l : Link) : (s.setLink l).Formed := by
  grind [State.setLink, State.formed_iff]

theorem execFlitReplay_formed (link : Nat) (lane : Nat) {s : State} (h : s.Formed) {u : State} (hu : execFlitReplay link lane s = .next u) :
    u.Formed := by
  grind [execFlitReplay, State.setLink_formed]

theorem State.faultContext_formed {s : State} (h : s.Formed) (code : Nat) {t : Task} (ht : t.Formed) : (s.faultContext code t).Formed := by
  unfold State.faultContext
  split
  · exact State.faultTask_formed h t code
  · exact State.faultTask_formed h t code
  · exact State.emit_formed (State.endTask_formed h _ _) _
  · exact State.emit_formed (State.endTask_formed h _ _) _
  · exact State.emit_formed (State.failLoad_formed h ht code) _
  · exact h

/-- Faulting each context of a list that the tasks hold keeps the canonical form. -/
theorem State.faultContexts_formed (code : Nat) : ∀ (l : List Task) {s : State}, s.Formed → Task.AllFormed l →
    (l.foldl (fun s t => if t.status = 0 then s.faultContext code t else s) s).Formed
  | [], _, h, _ => h
  | t :: l, s, h, hl => by
    refine State.faultContexts_formed code l ?_ fun k hk => hl k (List.mem_cons_of_mem _ hk)
    dsimp only
    split
    · exact State.faultContext_formed h code (hl t List.mem_cons_self)
    · exact h

theorem execLaneRepair_formed (link lane : Nat) (retrainOk : Bool) {s : State} (h : s.Formed) {u : State}
    (hu : execLaneRepair link lane retrainOk s = .next u) : u.Formed := by
  have hset (l : Link) := State.setLink_formed h l
  unfold execLaneRepair at hu
  dsimp only at hu
  rcases next_of_ite hu with hu | hu
  · exact nomatch hu
  · rcases next_of_ite hu with hu | hu
    · obtain rfl := Host.Outcome.next.inj hu
      exact hset _
    · rcases next_of_ite hu with hu | hu
      · obtain rfl := Host.Outcome.next.inj hu
        exact hset _
      · rcases next_of_ite hu with hu | hu
        · obtain rfl := Host.Outcome.next.inj hu
          exact State.failPort_formed (hset _) _
        · obtain rfl := Host.Outcome.next.inj hu
          exact State.emit_formed (State.faultContexts_formed _ _ (hset _) (hset _).tasks) _

theorem execHeartbeat_formed {s : State} (h : s.Formed) {u : State} (hu : execHeartbeat s = .next u) : u.Formed := by
  grind [execHeartbeat, State.formed_iff]

theorem execQuayRefreshTakeover_formed (quay : Nat) {s : State} (h : s.Formed) {u : State} (hu : execQuayRefreshTakeover quay s = .next u) :
    u.Formed := by
  grind [execQuayRefreshTakeover, State.formed_iff, State.emit_formed, State.mapQuay_formed]

theorem execRefreshHandback_formed (quay : Nat) {s : State} (h : s.Formed) {u : State} (hu : execRefreshHandback quay s = .next u) : u.Formed := by
  grind [execRefreshHandback, State.mapQuay_formed]

theorem execP1Entry_formed (draw : Nat) {s : State} (h : s.Formed) {u : State} (hu : execP1Entry draw s = .next u) : u.Formed := by
  grind [execP1Entry, State.formed_iff]

theorem execP1Exit_formed (draw : Nat) {s : State} (h : s.Formed) {u : State} (hu : execP1Exit draw s = .next u) : u.Formed := by
  grind [execP1Exit, State.formed_iff]

theorem execCoreSpareSwap_formed (c : Nat) {s : State} (h : s.Formed) {u : State} (hu : execCoreSpareSwap c s = .next u) : u.Formed := by
  grind [execCoreSpareSwap, State.formed_iff, State.setPhys_formed]

theorem execSliceRehome_formed (slice : Nat) {s : State} (h : s.Formed) {u : State} (hu : execSliceRehome slice s = .next u) : u.Formed := by
  grind [execSliceRehome, State.formed_iff]

theorem execHbmChannelSpare_formed (stack : Nat) (channel : Nat) {s : State} (h : s.Formed) {u : State}
    (hu : execHbmChannelSpare stack channel s = .next u) : u.Formed := by
  grind [execHbmChannelSpare, State.formed_iff]

theorem execLpddrRowRemap_formed (quay : Nat) (row : Nat) {s : State} (h : s.Formed) {u : State} (hu : execLpddrRowRemap quay row s = .next u) :
    u.Formed := by
  grind [execLpddrRowRemap, State.mapQuay_formed]

end Sys2Proof.Machine

namespace Sys2Proof.Machine

/-! ### The V class -/

theorem State.vslot_formed {s : State} {named : List (BitVec 5)} {bad : List (Bool × Nat)} {stall : Bool} {effect : Core → Core} {u : State}
    (hu : s.vslot named bad stall effect = .next u) (h : s.Formed) (he : ∀ k, k.Formed → (effect k).Formed) : u.Formed := by
  obtain rfl := Host.Outcome.next.inj hu
  exact State.slot_formed h _ _ _ fun v hv => State.onCore_formed hv (he _ hv.core)

theorem Core.sendV_formed {c : Core} (h : c.Formed) (dup : Bool) (d : BitVec 5) (x : VReg) (keep : VReg) (cls : Nat) (lat : Nat) :
    (c.sendV dup d x keep cls lat).Formed := by
  grind [Core.sendV, Core.send_formed]

theorem Core.sendPair_formed {c : Core} (h : c.Formed) (dup : Bool) (d : BitVec 5) (x : VReg) (y : VReg) (cls : Nat) (lat : Nat) :
    (c.sendPair dup d x y cls lat).Formed := by
  grind [Core.sendPair, Core.send_formed]

theorem State.execArith_formed {s : State} (h : s.Formed) (x : V3) (op : Arith) {u : State} (hu : s.execArith x op = .next u) : u.Formed :=
  State.vslot_formed hu h fun _ hk => Core.sendV_formed hk _ _ _ _ _ _

theorem State.execLanes_formed {s : State} (h : s.Formed) (x : V3) (f : Nat → Nat → Nat → Nat) {u : State} (hu : s.execLanes x f = .next u) :
    u.Formed := State.vslot_formed hu h fun _ hk => Core.sendV_formed hk _ _ _ _ _ _

theorem execVadd_formed (x : V3) {s : State} (h : s.Formed) {u : State} (hu : execVadd x s = .next u) : u.Formed :=
  State.execArith_formed h x _ hu

theorem execVsub_formed (x : V3) {s : State} (h : s.Formed) {u : State} (hu : execVsub x s = .next u) : u.Formed :=
  State.execArith_formed h x _ hu

theorem execVmul_formed (x : V3) {s : State} (h : s.Formed) {u : State} (hu : execVmul x s = .next u) : u.Formed :=
  State.execArith_formed h x _ hu

theorem execVfma_formed (x : V3) {s : State} (h : s.Formed) {u : State} (hu : execVfma x s = .next u) : u.Formed :=
  State.execArith_formed h x _ hu

theorem execVmax_formed (x : V3) {s : State} (h : s.Formed) {u : State} (hu : execVmax x s = .next u) : u.Formed :=
  State.execLanes_formed h x _ hu

theorem execVmin_formed (x : V3) {s : State} (h : s.Formed) {u : State} (hu : execVmin x s = .next u) : u.Formed :=
  State.execLanes_formed h x _ hu

theorem execVabs_formed (x : V2) {s : State} (h : s.Formed) {u : State} (hu : execVabs x s = .next u) : u.Formed :=
  State.vslot_formed hu h fun _ hk => Core.sendV_formed hk _ _ _ _ _ _

theorem execVbcast_formed (x : VS) {s : State} (h : s.Formed) {u : State} (hu : execVbcast x s = .next u) : u.Formed :=
  State.vslot_formed hu h fun _ hk => Core.sendV_formed hk _ _ _ _ _ _

theorem execVcmp_formed (x : VC) {s : State} (h : s.Formed) {u : State} (hu : execVcmp x s = .next u) : u.Formed :=
  State.vslot_formed hu h fun _ hk => Core.send_formed hk _ _ _ _ _ _

theorem execVcvt_formed (x : VCv) {s : State} (h : s.Formed) {u : State} (hu : execVcvt x s = .next u) : u.Formed :=
  State.vslot_formed hu h fun _ hk => Core.sendV_formed hk _ _ _ _ _ _

theorem State.execElementary_formed {s : State} (h : s.Formed) (x : V2) (fn : Nat) {u : State} (hu : s.execElementary x fn = .next u) : u.Formed :=
  State.vslot_formed hu h fun _ hk => Core.sendV_formed hk _ _ _ _ _ _

theorem execVexp_formed (x : V2) {s : State} (h : s.Formed) {u : State} (hu : execVexp x s = .next u) : u.Formed :=
  State.execElementary_formed h x _ hu

theorem execVlog_formed (x : V2) {s : State} (h : s.Formed) {u : State} (hu : execVlog x s = .next u) : u.Formed :=
  State.execElementary_formed h x _ hu

theorem execVrcp_formed (x : V2) {s : State} (h : s.Formed) {u : State} (hu : execVrcp x s = .next u) : u.Formed :=
  State.execElementary_formed h x _ hu

theorem execVrsq_formed (x : V2) {s : State} (h : s.Formed) {u : State} (hu : execVrsq x s = .next u) : u.Formed :=
  State.execElementary_formed h x _ hu

theorem Core.vPostInc_formed {c : Core} (h : c.Formed) (x : VMem) : (c.vPostInc x).Formed := by
  grind [Core.vPostInc, Core.formed_iff, Core.send_formed]

theorem Core.consume_formed {c : Core} (h : c.Formed) (a : Nat) (n : Nat) : (c.consume a n).Formed := by
  grind [Core.consume, Core.formed_iff, Core.uncorrectable_formed]

theorem execVld_formed (x : VMem) {s : State} (h : s.Formed) {u : State} (hu : execVld x s = .next u) : u.Formed :=
  State.vslot_formed hu h fun _ hk => Core.consume_formed (Core.vPostInc_formed (Core.send_formed hk _ _ _ _ _ _) _) _ _

theorem execVst_formed (x : VMem) {s : State} (h : s.Formed) {u : State} (hu : execVst x s = .next u) : u.Formed :=
  State.vslot_formed hu h fun _ hk => Core.vPostInc_formed (Core.spStore_formed hk _) _

theorem execVldStream_formed (x : VStr) {s : State} (h : s.Formed) {u : State} (hu : execVldStream x s = .next u) : u.Formed :=
  State.vslot_formed hu h fun k hk => by grind [Core.send_formed, Core.setStream_formed, Core.uncorrectable_formed]

theorem Core.pushElem_formed {c : Core} (h : c.Formed) (i : BitVec 3) (w : Stream) (e : StreamElem) : (c.pushElem i w e).Formed := by
  grind [Core.pushElem, Core.formed_iff, Core.caught_formed, Core.setStream_formed]

theorem execVstStream_formed (x : VStr) {s : State} (h : s.Formed) {u : State} (hu : execVstStream x s = .next u) : u.Formed :=
  State.vslot_formed hu h fun k hk => by grind [Core.pushElem_formed, Core.setStream_formed, Core.spStore_formed]

theorem execVldx_formed (x : VX) {s : State} (h : s.Formed) {u : State} (hu : execVldx x s = .next u) : u.Formed :=
  State.vslot_formed hu h fun k hk => by grind [Core.send_formed, Core.uncorrectable_formed]

theorem execVstx_formed (x : VX) {s : State} (h : s.Formed) {u : State} (hu : execVstx x s = .next u) : u.Formed :=
  State.vslot_formed hu h fun _ hk => Core.spStore_formed hk _

theorem execVmov_formed (x : V2) {s : State} (h : s.Formed) {u : State} (hu : execVmov x s = .next u) : u.Formed :=
  State.vslot_formed hu h fun _ hk => Core.sendV_formed hk _ _ _ _ _ _

theorem execVperm_formed (x : V3) {s : State} (h : s.Formed) {u : State} (hu : execVperm x s = .next u) : u.Formed :=
  State.vslot_formed hu h fun _ hk => Core.sendV_formed hk _ _ _ _ _ _

theorem execVsel_formed (x : V3) {s : State} (h : s.Formed) {u : State} (hu : execVsel x s = .next u) : u.Formed :=
  State.vslot_formed hu h fun _ hk => Core.sendV_formed hk _ _ _ _ _ _

theorem execVshf_formed (x : V3) {s : State} (h : s.Formed) {u : State} (hu : execVshf x s = .next u) : u.Formed :=
  State.vslot_formed hu h fun _ hk => Core.sendV_formed hk _ _ _ _ _ _

theorem execVred_formed (x : VR) {s : State} (h : s.Formed) {u : State} (hu : execVred x s = .next u) : u.Formed :=
  State.vslot_formed hu h fun _ hk => Core.sendV_formed hk _ _ _ _ _ _

theorem execVscan_formed (x : VR) {s : State} (h : s.Formed) {u : State} (hu : execVscan x s = .next u) : u.Formed :=
  State.vslot_formed hu h fun _ hk => Core.sendV_formed hk _ _ _ _ _ _

theorem execVmerge_formed (x : VG) {s : State} (h : s.Formed) {u : State} (hu : execVmerge x s = .next u) : u.Formed :=
  State.vslot_formed hu h fun _ hk => Core.sendPair_formed hk _ _ _ _ _ _

theorem execVtopk_formed (x : VK) {s : State} (h : s.Formed) {u : State} (hu : execVtopk x s = .next u) : u.Formed :=
  State.vslot_formed hu h fun _ hk => Core.sendPair_formed hk _ _ _ _ _ _

end Sys2Proof.Machine

namespace Sys2Proof.Machine

/-! ### Every instruction -/

theorem State.execAlu_formed {s : State} (h : s.Formed) {x : S3} {f : Word → Word → Word} {u : State} (hu : s.execAlu x f = .next u) : u.Formed :=
  State.execS3_formed h hu

theorem State.execDivide_formed {s : State} (h : s.Formed) {x : S3} {f : Word → Word → Word} {u : State} (hu : s.execDivide x f = .next u) :
    u.Formed := State.execS3_formed h hu

/-- Whatever the instruction, micro-operation or event, memory keeps its canonical form. -/
theorem exec_formed (i : Instr) {s : State} (h : s.Formed) {u : State} (hu : exec i s = .next u) : u.Formed := by
  cases i with
  | add x => exact State.execAlu_formed h (show execAdd x s = _ from hu)
  | and x => exact State.execAlu_formed h (show execAnd x s = _ from hu)
  | andn x => exact State.execAlu_formed h (show execAndn x s = _ from hu)
  | atom x => exact execAtom_formed x h hu
  | bfi x => exact State.execS3_formed h (show execBfi x s = _ from hu)
  | bfx x => exact State.execS3_formed h (show execBfx x s = _ from hu)
  | cas x => exact execCas_formed x h hu
  | chk x => exact execChk_formed x h hu
  | clz x => exact State.execS2_formed h (show execClz x s = _ from hu)
  | cmp x => exact execCmp_formed x h hu
  | div x => exact State.execDivide_formed h (show execDiv x s = _ from hu)
  | ld x => exact execLd_formed x h hu
  | lea x => exact execLea_formed x h hu
  | max x => exact State.execAlu_formed h (show execMax x s = _ from hu)
  | min x => exact State.execAlu_formed h (show execMin x s = _ from hu)
  | movi x => exact execMovi_formed x h hu
  | mul x => exact State.execS3_formed h (show execMul x s = _ from hu)
  | mulh x => exact State.execS3_formed h (show execMulh x s = _ from hu)
  | or x => exact State.execAlu_formed h (show execOr x s = _ from hu)
  | plog x => exact execPlog_formed x h hu
  | popc x => exact State.execS2_formed h (show execPopc x s = _ from hu)
  | rem x => exact State.execDivide_formed h (show execRem x s = _ from hu)
  | sar x => exact State.execAlu_formed h (show execSar x s = _ from hu)
  | sel x => exact State.execS3_formed h (show execSel x s = _ from hu)
  | shl x => exact State.execAlu_formed h (show execShl x s = _ from hu)
  | shr x => exact State.execAlu_formed h (show execShr x s = _ from hu)
  | st x => exact execSt_formed x h hu
  | sub x => exact State.execAlu_formed h (show execSub x s = _ from hu)
  | xor x => exact State.execAlu_formed h (show execXor x s = _ from hu)
  | vabs x => exact execVabs_formed x h hu
  | vadd x => exact execVadd_formed x h hu
  | vbcast x => exact execVbcast_formed x h hu
  | vcmp x => exact execVcmp_formed x h hu
  | vcvt x => exact execVcvt_formed x h hu
  | vexp x => exact execVexp_formed x h hu
  | vfma x => exact execVfma_formed x h hu
  | vld x => exact execVld_formed x h hu
  | vldStream x => exact execVldStream_formed x h hu
  | vldx x => exact execVldx_formed x h hu
  | vlog x => exact execVlog_formed x h hu
  | vmax x => exact execVmax_formed x h hu
  | vmerge x => exact execVmerge_formed x h hu
  | vmin x => exact execVmin_formed x h hu
  | vmov x => exact execVmov_formed x h hu
  | vmul x => exact execVmul_formed x h hu
  | vperm x => exact execVperm_formed x h hu
  | vrcp x => exact execVrcp_formed x h hu
  | vred x => exact execVred_formed x h hu
  | vrsq x => exact execVrsq_formed x h hu
  | vscan x => exact execVscan_formed x h hu
  | vsel x => exact execVsel_formed x h hu
  | vshf x => exact execVshf_formed x h hu
  | vst x => exact execVst_formed x h hu
  | vstStream x => exact execVstStream_formed x h hu
  | vstx x => exact execVstx_formed x h hu
  | vsub x => exact execVsub_formed x h hu
  | vtopk x => exact execVtopk_formed x h hu
  | bklend x => exact execBklend_formed x h hu
  | bklendRet x => exact execBklendRet_formed x h hu
  | hstrd x => exact execHstrd_formed x h hu
  | mcall x => exact execMcall_formed x h hu
  | mcomp x => exact execMcomp_formed x h hu
  | mload x => exact execMload_formed x h hu
  | mswap x => exact execMswap_formed x h hu
  | msync x => exact execMsync_formed x h hu
  | scld x => exact execScld_formed x h hu
  | tdset x => exact execTdset_formed x h hu
  | cbadvProd x => exact execCbadvProd_formed x h hu
  | cbadvCons x => exact execCbadvCons_formed x h hu
  | cbwait x => exact execCbwait_formed x h hu
  | kaq x => exact execKaq_formed x h hu
  | kbar x => exact execKbar_formed x h hu
  | kbind x => exact execKbind_formed x h hu
  | kcopy x => exact State.command_formed h (show execKcopy x s = _ from hu)
  | kdq x => exact execKdq_formed x h hu
  | kpeer x => exact State.command_formed h (show execKpeer x s = _ from hu)
  | tlset x => exact execTlset_formed x h hu
  | bcopy x => exact execBcopy_formed x h hu
  | bcopyVerify x => exact execBcopyVerify_formed x h hu
  | bdrop x => exact State.command_formed h (show execBdrop x s = _ from hu)
  | bholdList x => exact State.command_formed h (show execBholdList x s = _ from hu)
  | bholdRoot x => exact State.command_formed h (show execBholdRoot x s = _ from hu)
  | blookLeaf x => exact State.command_formed h (show execBlookLeaf x s = _ from hu)
  | blookInterior x => exact State.command_formed h (show execBlookInterior x s = _ from hu)
  | bread x => exact State.command_formed h (show execBread x s = _ from hu)
  | breadVerify x => exact State.command_formed h (show execBreadVerify x s = _ from hu)
  | bswap x => exact State.command_formed h (show execBswap x s = _ from hu)
  | bwalkLeaf x => exact State.command_formed h (show execBwalkLeaf x s = _ from hu)
  | bwalkElement x => exact State.command_formed h (show execBwalkElement x s = _ from hu)
  | cupdSgd x => exact State.execCupd_formed h x _ (show execCupdSgd x s = _ from hu)
  | cupdAdagrad x => exact State.execCupd_formed h x _ (show execCupdAdagrad x s = _ from hu)
  | cupdRowwiseAdagrad x => exact State.execCupd_formed h x _ (show execCupdRowwiseAdagrad x s = _ from hu)
  | cupdAdam x => exact State.execCupd_formed h x _ (show execCupdAdam x s = _ from hu)
  | fbktMod x => exact execFbktMod_formed x h hu
  | fbktRange x => exact execFbktRange_formed x h hu
  | fbktHash x => exact execFbktHash_formed x h hu
  | fredAll x => exact State.command_formed h (show execFredAll x s = _ from hu)
  | fredRoot x => exact State.command_formed h (show execFredRoot x s = _ from hu)
  | fxch x => exact State.command_formed h (show execFxch x s = _ from hu)
  | fxchPayload x => exact State.command_formed h (show execFxchPayload x s = _ from hu)
  | hrctlSetGroup x => exact State.execHrctl_formed h x _ (show execHrctlSetGroup x s = _ from hu)
  | hrctlInvalidateTable x => exact State.execHrctl_formed h x _ (show execHrctlInvalidateTable x s = _ from hu)
  | hrctlWriteBack x => exact State.execHrctl_formed h x _ (show execHrctlWriteBack x s = _ from hu)
  | hrctlClearSketch x => exact State.execHrctl_formed h x _ (show execHrctlClearSketch x s = _ from hu)
  | l2opUpdate x => exact State.command_formed h (show execL2opUpdate x s = _ from hu)
  | l2opGather x => exact State.command_formed h (show execL2opGather x s = _ from hu)
  | qgath x => exact State.command_formed h (show execQgath x s = _ from hu)
  | qpoolSplit x => exact State.command_formed h (show execQpoolSplit x s = _ from hu)
  | qpoolOrdered x => exact State.command_formed h (show execQpoolOrdered x s = _ from hu)
  | skrd x => exact State.command_formed h (show execSkrd x s = _ from hu)
  | wpin x => exact State.command_formed h (show execWpin x s = _ from hu)
  | wpinLoad x => exact State.command_formed h (show execWpinLoad x s = _ from hu)
  | wunpin x => exact State.command_formed h (show execWunpin x s = _ from hu)
  | br x => exact execBr_formed x h hu
  | jmp x => exact execJmp_formed x h hu
  | jmpReg x => exact execJmpReg_formed x h hu
  | call x => exact execCall_formed x h hu
  | callReg x => exact execCallReg_formed x h hu
  | ret x => exact execRet_formed x h hu
  | bsel x => exact execBsel_formed x h hu
  | loop x => exact execLoop_formed x h hu
  | lcnt x => exact execLcnt_formed x h hu
  | nop => exact execNop_formed h hu
  | tend x => exact execTend_formed x h hu
  | cabort x => exact execCabort_formed x h hu
  | yield x => exact execYield_formed x h hu
  | brkpt x => exact execBrkpt_formed x h hu
  | ifence x => exact execIfence_formed x h hu
  | ibank x => exact execIbank_formed x h hu
  | acq x => exact execAcq_formed x h hu
  | rel x => exact execRel_formed x h hu
  | fence x => exact execFence_formed x h hu
  | mon x => exact execMon_formed x h hu
  | mwait x => exact execMwait_formed x h hu
  | dbar x => exact execDbar_formed x h hu
  | ropen x => exact execRopen_formed x h hu
  | rkeep x => exact execRkeep_formed x h hu
  | rclose x => exact execRclose_formed x h hu
  | einj x => exact execEinj_formed x h hu
  | stest x => exact execStest_formed x h hu
  | trap x => exact execTrap_formed x h hu
  | tret x => exact execTret_formed x h hu
  | launch x => exact execLaunch_formed x h hu
  | crd x => exact execCrd_formed x h hu
  | cwr x => exact execCwr_formed x h hu
  | xinvPage x => exact execXinvPage_formed x h hu
  | xinvAll x => exact execXinvAll_formed x h hu
  | mxEnd => exact execMxEnd_formed h hu
  | mxNop => exact execMxNop_formed h hu
  | zacc xc n => exact execZacc_formed xc n h hu
  | ldacc xc xa n => exact execLdacc_formed xc xa n h hu
  | ldw xw => exact execLdw_formed xw h hu
  | ldwSparse xw nm => exact execLdwSparse_formed xw nm h hu
  | mxSwap => exact execMxSwap_formed h hu
  | strm xa xc n => exact execStrm_formed xa xc n h hu
  | drain xc xd n => exact execDrain_formed xc xd n h hu
  | sets xs => exact execSets_formed xs h hu
  | setr mode sat xr => exact execSetr_formed mode sat xr h hu
  | setx xd imm => exact execSetx_formed xd imm h hu
  | movx xd xa => exact execMovx_formed xd xa h hu
  | addx xd fld imm => exact execAddx_formed xd fld imm h hu
  | loopx xc target => exact execLoopx_formed xc target h hu
  | resultLand => exact execResultLand_formed h hu
  | loadReturn k => exact execLoadReturn_formed k h hu
  | engineFaultReport => exact execEngineFaultReport_formed h hu
  | impreciseFault => exact execImpreciseFault_formed h hu
  | rollback => exact execRollback_formed h hu
  | releasePerform k => exact execReleasePerform_formed k h hu
  | gatherRowArrival q => exact execGatherRowArrival_formed q h hu
  | kpeerArrival id => exact execKpeerArrival_formed id h hu
  | streamFill w => exact execStreamFill_formed w h hu
  | streamDrain w => exact execStreamDrain_formed w h hu
  | commandComplete id => exact execCommandComplete_formed id h hu
  | matrixCallComplete => exact execMatrixCallComplete_formed h hu
  | bankDrained => exact execBankDrained_formed h hu
  | descriptorReload => exact execDescriptorReload_formed h hu
  | promotionComplete k => exact execPromotionComplete_formed k h hu
  | reclaimDecrement quay => exact execReclaimDecrement_formed quay h hu
  | lineFree region mark => exact execLineFree_formed region mark h hu
  | windowFadeTick => exact execWindowFadeTick_formed h hu
  | memoryRequestServe ctrl pending => exact execMemoryRequestServe_formed ctrl pending h hu
  | queueDoorbell queue prod => exact execQueueDoorbell_formed queue prod h hu
  | recordRead queue => exact execRecordRead_formed queue h hu
  | recordReread queue => exact execRecordReread_formed queue h hu
  | launchPacket p => exact execLaunchPacket_formed p h hu
  | dispatch => exact execDispatch_formed h hu
  | corePreemptStop => exact execCorePreemptStop_formed h hu
  | preemptionComplete task => exact execPreemptionComplete_formed task h hu
  | cardExpire k => exact execCardExpire_formed k h hu
  | corePartEnd => exact execCorePartEnd_formed h hu
  | completionRecordWrite k => exact execCompletionRecordWrite_formed k h hu
  | eventConsumerWrite n => exact execEventConsumerWrite_formed n h hu
  | waitingBudgetExhausted => exact execWaitingBudgetExhausted_formed h hu
  | containedRequeue => exact execContainedRequeue_formed h hu
  | codeImageLoad task => exact execCodeImageLoad_formed task h hu
  | countMessage p => exact execCountMessage_formed p h hu
  | payloadMessage p => exact execPayloadMessage_formed p h hu
  | payloadAck id => exact execPayloadAck_formed id h hu
  | refusalReport p => exact execRefusalReport_formed p h hu
  | flushMarker m => exact execFlushMarker_formed m h hu
  | flushAck task module epoch => exact execFlushAck_formed task module epoch h hu
  | revocationNotice key => exact execRevocationNotice_formed key h hu
  | remoteAccessPacket p => exact execRemoteAccessPacket_formed p h hu
  | fabricBarrierArrival group src inst => exact execFabricBarrierArrival_formed group src inst h hu
  | fredContribution p => exact execFredContribution_formed p h hu
  | pathFailure module path newPath => exact execPathFailure_formed module path newPath h hu
  | hostBar2Read off len => exact execHostBar2Read_formed off len h hu
  | hostBar2Write off bytes => exact execHostBar2Write_formed off bytes h hu
  | hostAtomicop addr op wide operand compare => exact execHostAtomicop_formed addr op wide operand compare h hu
  | mgmtQueueConfig queue c => exact execMgmtQueueConfig_formed queue c h hu
  | mgmtRegionEntry region e => exact execMgmtRegionEntry_formed region e h hu
  | mgmtBandwidthShares hbm lpddr => exact execMgmtBandwidthShares_formed hbm lpddr h hu
  | mgmtPowerCap watts => exact execMgmtPowerCap_formed watts h hu
  | mgmtC3Entry => exact execMgmtC3Entry_formed h hu
  | mgmtHotRowCache c slot => exact execMgmtHotRowCache_formed c slot h hu
  | mgmtSnapshotRestore task budget => exact execMgmtSnapshotRestore_formed task budget h hu
  | mgmtSnapshotRetire task => exact execMgmtSnapshotRetire_formed task h hu
  | mgmtReadLogicalMaps => exact execMgmtReadLogicalMaps_formed h hu
  | mgmtReadScanLog => exact execMgmtReadScanLog_formed h hu
  | mgmtReadErrorCounts => exact execMgmtReadErrorCounts_formed h hu
  | mgmtClearErrorCounts => exact execMgmtClearErrorCounts_formed h hu
  | mgmtHostAttributeMap page sa => exact execMgmtHostAttributeMap_formed page sa h hu
  | mgmtEventRingSetup base k snapBase slots => exact execMgmtEventRingSetup_formed base k snapBase slots h hu
  | mgmtDebugToken t => exact execMgmtDebugToken_formed t h hu
  | mgmtStageFirmware f => exact execMgmtStageFirmware_formed f h hu
  | mgmtEnlargeOverflow core tag ovbytes => exact execMgmtEnlargeOverflow_formed core tag ovbytes h hu
  | mgmtUnknown code => exact execMgmtUnknown_formed code h hu
  | getVersion => exact execGetVersion_formed h hu
  | getCapabilities => exact execGetCapabilities_formed h hu
  | negotiateAlgorithms rsaPss4096Sha512 => exact execNegotiateAlgorithms_formed rsaPss4096Sha512 h hu
  | getDigests => exact execGetDigests_formed h hu
  | getCertificate r => exact execGetCertificate_formed r h hu
  | challenge r => exact execChallenge_formed r h hu
  | getMeasurements r => exact execGetMeasurements_formed r h hu
  | laneRepair link lane retrainOk => exact execLaneRepair_formed link lane retrainOk h hu
  | heartbeat => exact execHeartbeat_formed h hu
  | quayRefreshTakeover quay => exact execQuayRefreshTakeover_formed quay h hu
  | refreshHandback quay => exact execRefreshHandback_formed quay h hu
  | p1Entry draw => exact execP1Entry_formed draw h hu
  | p1Exit draw => exact execP1Exit_formed draw h hu
  | stestPatternEnd pass => exact execStestPatternEnd_formed pass h hu
  | stestDrainTimeout => exact execStestDrainTimeout_formed h hu
  | debugStep engineSync => exact execDebugStep_formed engineSync h hu
  | debugStepTimeout => exact execDebugStepTimeout_formed h hu
  | moduleReset => exact execModuleReset_formed h hu
  | d3cold => exact execD3cold_formed h hu
  | poolClearDone => exact execPoolClearDone_formed h hu
  | writeBackArrival k => exact execWriteBackArrival_formed k h hu
  | flitReplay link lane => exact execFlitReplay_formed link lane h hu
  | debugResume => exact execDebugResume_formed h hu
  | coreSpareSwap c => exact execCoreSpareSwap_formed c h hu
  | sliceRehome slice => exact execSliceRehome_formed slice h hu
  | hbmChannelSpare stack channel => exact execHbmChannelSpare_formed stack channel h hu
  | lpddrRowRemap quay row => exact execLpddrRowRemap_formed quay row h hu

end Sys2Proof.Machine

namespace Sys2Proof.Machine

/-! ### Issuing a bundle, boundaries and turns -/

theorem Core.atSlot_formed {c : Core} (hc : c.Formed) (h : Option Header) (ops : SlotOps) (p : Nat × Instr) (checked : Bool) :
    (c.atSlot h ops p checked).Formed := hc

theorem stateOr_formed {o : Outcome} {s : State} (ho : ∀ u, o = .next u → u.Formed) (hs : s.Formed) : (stateOr o s).Formed := by
  cases o with
  | next t => exact ho t rfl
  | fault _ => exact hs
  | refused _ => exact hs

theorem State.runSlot_formed {s : State} (hs : s.Formed) (h : Option Header) (ops : SlotOps) (checked : Bool) (p : Nat × Instr) :
    (s.runSlot h ops checked p).Formed :=
  stateOr_formed (fun _ hu => exec_formed p.2 (State.onCore_formed hs (Core.atSlot_formed hs.core h ops p checked)) hu) hs

theorem State.counted_formed {ahead : State} (h : ahead.Formed) {t : State} (h1 : t.Formed) (i : Instr) : (ahead.counted t i).Formed := by
  unfold State.counted
  grind [Core.formed_iff, State.Formed.core, Core.setStream_formed, State.onCore_formed]

theorem State.seenBy_formed {s : State} (h : s.Formed) {ahead : State} (h1 : ahead.Formed) (i : Instr) : (s.seenBy ahead i).Formed := by
  grind [State.seenBy, Core.formed_iff, State.Formed.core, State.onCore_formed]

theorem State.checkSlots_formed (h : Option Header) (ops : SlotOps) {s : State} (hs : s.Formed) {t : State} : ∀ (run : SlotOps) (ahead : State)
    (acc : Checked), ahead.Formed → (acc = .instead t → t.Formed) → State.checkSlots h ops s run ahead acc = .instead t → t.Formed
  | [], _, _, _, hacc, ht => hacc ht
  | p :: r, ahead, acc, ha, hacc, ht => by
    have ih := @State.checkSlots_formed h ops s hs t r
    have hrun := State.runSlot_formed (State.seenBy_formed hs ha p.2) h ops false p
    unfold State.checkSlots at ht
    dsimp only at ht
    have hv : (if ((s.seenBy ahead p.2).runSlot h ops false p).core.issue.flow = .ran ∧ s.lendCollides h ops p then s.trapAt cIllegalOperation p.1
        else (s.seenBy ahead p.2).runSlot h ops false p).Formed := by
      split
      · exact State.trapAt_formed hs _ _
      · exact hrun
    generalize (if ((s.seenBy ahead p.2).runSlot h ops false p).core.issue.flow = .ran ∧ s.lendCollides h ops p then s.trapAt cIllegalOperation p.1
      else (s.seenBy ahead p.2).runSlot h ops false p) = v at hv ht
    have hnext := State.counted_formed ha hv p.2
    split at ht
    · obtain rfl := Checked.instead.inj ht
      split
      · exact State.trapAt_formed hs _ _
      · exact hv
    · exact ih _ .stall hnext nofun ht
    · exact ih _ _ hnext hacc ht

theorem State.abortSampled_formed {s : State} (hs : s.Formed) (h : Option Header) (ops : SlotOps) {t : State} : ∀ (run : SlotOps),
    s.abortSampled h ops run = some t → t.Formed
  | [], ht => nomatch ht
  | p :: r, ht => by
    have ih := State.abortSampled_formed hs h ops (t := t) r
    have hrun := State.runSlot_formed hs h ops false p
    grind [State.abortSampled]

theorem State.checkBundle_formed {s : State} (hs : s.Formed) (h : Option Header) (ops : SlotOps) {t : State} (ht : s.checkBundle h ops = .instead t) :
    t.Formed := by
  have habort := State.abortSampled_formed hs h ops (t := t) (s.core.slotsToRun ops)
  have hslots := State.checkSlots_formed h ops hs (t := t) (s.core.slotsToRun ops) s .go hs nofun
  grind [State.checkBundle]

theorem State.tick_formed {s : State} (h : s.Formed) : (s.tick).Formed := by
  grind [State.tick, State.formed_iff, State.Formed.core, Core.scanFrom_formed, State.fadeTick_formed, State.mapCores_formed]

theorem Core.charge_formed {c : Core} (h : c.Formed) (t : Nat) : (c.charge t).Formed := by
  grind [Core.charge, Core.formed_iff]

theorem State.stallTick_formed {s : State} (hs : s.Formed) (h : Option Header) (ops : SlotOps) : (s.stallTick h ops).Formed := by
  unfold State.stallTick
  dsimp only
  have hfold := State.foldl_formed (f := fun (s : State) p =>
    match p.2 with
    | .dbar x =>
      let t := s.onCore fun c => c.atSlot h ops p false
      if t.core.active x.g then
        let (u, k, d) := t.arrive x.level
        u.joinFabric x.level.toNat k d
      else s
    | _ => s) (fun u p hu => by
      grind [State.arrive_formed, State.joinFabric_formed, State.onCore_formed, Core.atSlot_formed, State.Formed.core]) (s.core.slotsToRun ops) hs
  refine State.tick_formed (State.onCore_formed hfold ?_)
  exact Core.charge_formed (Core.formed_ite (State.Formed.core hfold) (Core.landDue_formed (State.Formed.core hfold))) _

theorem State.performSlot_formed {before : State} (hb : before.Formed) (h : Option Header) (ops : SlotOps) {s : State} (hs : s.Formed)
    (p : Nat × Instr) : (before.performSlot h ops s p).Formed := by
  unfold State.performSlot
  split
  · have hstood : (s.onCore fun c => { c with pool := before.core.pool, poison := before.core.poison }).Formed :=
      State.onCore_formed hs ((Core.formed_iff _).2 ⟨((Core.formed_iff _).1 hb.core).1, ((Core.formed_iff _).1 hs.core).2⟩)
    have hrun := State.runSlot_formed hstood h ops true p
    exact State.onCore_formed hrun ((Core.formed_iff _).2 ⟨((Core.formed_iff _).1 hs.core).1, ((Core.formed_iff _).1 hrun.core).2⟩)
  · exact State.runSlot_formed hs h ops true p

theorem State.performBundle_formed {s : State} (hs : s.Formed) (h : Option Header) (ops : SlotOps) : (s.performBundle h ops).Formed := by
  unfold State.performBundle
  have hfold := State.foldl_formed (f := s.performSlot h ops) (fun _ p hu => State.performSlot_formed hs h ops hu p)
    (inRank (s.core.slotsToRun ops)) hs
  refine State.tick_formed ?_
  split
  · exact hfold
  · exact State.onCore_formed hfold (Core.finish_formed (State.Formed.core hfold) _ _)

theorem State.traceBundle_formed {s : State} (h : s.Formed) : (s.traceBundle).Formed := by
  grind [State.traceBundle, State.formed_iff]

theorem Core.startBundle_formed {c : Core} (h : c.Formed) : (c.startBundle).Formed := by
  grind [Core.startBundle, Core.formed_iff, Core.landReady_formed]

theorem State.issueBundle_formed {s : State} (h : s.Formed) : s.issueBundle.Formed := by
  have hs := State.onCore_formed h (Core.startBundle_formed h.core)
  unfold State.issueBundle
  dsimp only
  generalize s.onCore Core.startBundle = v at hs ⊢
  split
  · exact State.tick_formed (State.trapAt_formed hs _ _)
  · split
    · exact State.tick_formed (State.trapAt_formed hs _ _)
    · split
      · exact State.tick_formed (State.trapAt_formed hs _ _)
      · split
        · next t ht => exact State.tick_formed (State.checkBundle_formed hs _ _ ht)
        · exact State.stallTick_formed hs _ _
        · exact State.performBundle_formed (State.traceBundle_formed hs) _ _

theorem State.takeFatal_formed {s : State} (h : s.Formed) : s.takeFatal.Formed := by
  unfold State.takeFatal
  split
  · next t ht => exact exec_formed _ h ht
  · exact stateOr_formed (fun _ hu => exec_formed _ h hu) h

theorem State.holdIssue_formed {s : State} (h : s.Formed) : (s.holdIssue).Formed := by
  grind [State.holdIssue, Core.formed_iff, State.Formed.core, Core.charge_formed, State.onCore_formed]

theorem State.rollbackWork_formed {s : State} (h : s.Formed) {u : State} (hu : s.rollbackWork = some u) : u.Formed := by
  have hwait := State.holdIssue_formed h
  have hrun (i : Instr) (v : State) (hv : exec i s = .next v) := exec_formed i h hv
  grind [State.rollbackWork]

theorem State.quietWork_formed {s : State} (h : s.Formed) {u : State} (hu : s.quietWork = some u) : u.Formed := by
  have hrun (i : Instr) (v : State) (hv : exec i s = .next v) := exec_formed i h hv
  grind [State.quietWork, State.Formed.core, Core.takeTrap_formed, State.onCore_formed]

theorem State.boundaryWork_formed {s : State} (h : s.Formed) {u : State} (hu : s.boundaryWork = some u) : u.Formed := by
  have hquiet := @State.quietWork_formed s h
  unfold State.boundaryWork at hu
  split at hu
  · obtain rfl := Option.some.inj hu
    exact State.takeFatal_formed h
  · split at hu
    · exact State.rollbackWork_formed h hu
    · rcases Option.or_eq_some_iff.1 hu with hq | ⟨-, ha⟩
      · exact hquiet hq
      · split at ha
        · obtain rfl := Option.some.inj ha
          exact State.onCore_formed h (Core.endPart_formed h.core _)
        · exact nomatch ha

theorem State.stepped_formed {s : State} (h : s.Formed) {t : State} (h1 : t.Formed) : (s.stepped t).Formed := by
  grind [State.stepped, Core.formed_iff, State.Formed.core, State.onCore_formed]

theorem State.chargeHeld_formed {s : State} (h : s.Formed) {t : State} (h1 : t.Formed) : (s.chargeHeld t).Formed := by
  grind [State.chargeHeld, State.Formed.core, Core.charge_formed, State.onCore_formed]

/-- A move that leaves memory in its canonical form. -/
def Keeps (f : State → Outcome) : Prop := ∀ s u : State, s.Formed → f s = .next u → u.Formed

@[simp] theorem exec_keeps (i : Instr) : Keeps (exec i) := fun _ _ hs hu => exec_formed i hs hu

theorem State.firstEnabled_formed {s : State} (h : s.Formed) {u : State} : ∀ (l : List (State → Outcome)), (∀ f ∈ l, Keeps f) →
    s.firstEnabled l = some u → u.Formed
  | [], _, hu => nomatch hu
  | f :: r, hl, hu => by
    obtain ⟨hf, hr⟩ := List.forall_mem_cons.1 hl
    unfold State.firstEnabled at hu
    split at hu
    · next t ht =>
      obtain rfl := Option.some.inj hu
      exact hf s t h ht
    · exact State.firstEnabled_formed h r hr hu

theorem State.unblock_formed {s : State} (h : s.Formed) {u : State} (hu : s.unblock = some u) : u.Formed := by
  refine State.firstEnabled_formed h _ ?_ hu
  intro f hf
  simp only [List.mem_append, List.mem_cons, List.mem_flatMap, List.not_mem_nil, or_false] at hf
  rcases hf with (rfl | rfl) | ⟨k, -, rfl | rfl⟩
  · exact exec_keeps _
  · exact exec_keeps _
  · exact exec_keeps _
  · exact exec_keeps _

theorem State.settlePushes_formed : ∀ (n : Nat) {s : State}, s.Formed → (State.settlePushes n s).Formed
  | 0, _, h => h
  | n + 1, s, h => by
    have ih := @State.settlePushes_formed n
    grind [State.settlePushes, State.unblock_formed, State.flushStreams_formed]

theorem State.beforeOrder_formed {s : State} (h : s.Formed) : s.beforeOrder.Formed := by
  unfold State.beforeOrder
  split
  · exact h
  · split
    · exact State.settlePushes_formed _ (State.flushStreams_formed h)
    · exact h

theorem State.issueRunning_formed {s : State} (h : s.Formed) : (s.issueRunning).Formed := by
  grind [State.issueRunning, State.boundaryWork_formed, State.issueBundle_formed, State.tick_formed]

theorem State.idleCycle_formed {s : State} (h : s.Formed) : (s.idleCycle).Formed := by
  grind [State.idleCycle, State.Formed.core, Core.charge_formed, State.onCore_formed, State.tick_formed]

theorem State.issue_formed {s : State} (h : s.Formed) : (s.issue).Formed := by
  grind [State.issue, State.beforeOrder_formed, State.boundaryWork_formed, State.chargeHeld_formed, State.idleCycle_formed, State.issueBundle_formed,
    State.issueRunning_formed, State.stepped_formed, State.takeFatal_formed, State.tick_formed]

theorem State.nextItem_formed {s : State} (h : s.Formed) {u : State} (hu : s.nextItem = .next u) : u.Formed := by
  have hrun (i : Instr) (v : State) (hv : exec i s = .next v) := exec_formed i h hv
  grind [State.nextItem, State.startCall_formed]

theorem State.matrixTurn_formed {s : State} (h : s.Formed) {u : State} (hu : s.matrixTurn = .next u) : u.Formed := by
  have hrun (i : Instr) (v : State) (hv : exec i s = .next v) := exec_formed i h hv
  grind [State.matrixTurn, State.nextItem_formed, State.readPending_formed]

theorem keeps_map {α : Type} (l : List α) {g : α → State → Outcome} (hg : ∀ a, Keeps (g a)) : ∀ f ∈ l.map g, Keeps f := by
  intro f hf
  obtain ⟨a, -, rfl⟩ := List.mem_map.1 hf
  exact hg a

theorem keeps_flatMap {α : Type} (l : List α) {g : α → List (State → Outcome)} (hg : ∀ a, ∀ f ∈ g a, Keeps f) : ∀ f ∈ l.flatMap g, Keeps f := by
  intro f hf
  obtain ⟨a, -, ha⟩ := List.mem_flatMap.1 hf
  exact hg a f ha

theorem keeps_pair (i j : Instr) : ∀ f ∈ [exec i, exec j], Keeps f := by simp

theorem keeps_unless (p : Prop) [Decidable p] (i : Instr) : ∀ f ∈ (if p then [] else [exec i]), Keeps f := by
  split <;> simp

theorem State.candidates_keep (s : State) : ∀ f ∈ s.candidates, Keeps f := by
  simp only [State.candidates, List.forall_mem_append]
  and_intros
  · exact keeps_unless _ _
  · exact keeps_map _ fun _ => exec_keeps _
  · exact keeps_unless _ _
  · exact keeps_flatMap _ fun _ => keeps_pair _ _
  · exact keeps_pair _ _
  · exact keeps_map _ fun _ => exec_keeps _
  · exact keeps_map _ fun _ => exec_keeps _
  · have hclear : Keeps execPoolClearDone := exec_keeps .poolClearDone
    simp [hclear]
  · refine keeps_flatMap _ fun q => ?_
    split
    · exact keeps_pair _ _
    · exact List.forall_mem_nil _
  · exact keeps_flatMap _ fun _ => keeps_pair _ _
  · exact keeps_flatMap _ fun _ => keeps_pair _ _
  · exact keeps_unless _ _
  · exact keeps_map _ fun _ => exec_keeps _
  · exact keeps_map _ fun k => exec_keeps (.writeBackArrival k)
  · exact keeps_map _ fun _ => exec_keeps _
  · exact keeps_map _ fun _ => exec_keeps _

theorem State.rotate_formed {s : State} (h : s.Formed) : s.rotate.Formed := by
  unfold State.rotate
  split
  · exact h
  · next k hk =>
    obtain ⟨hmem, hcore, hrest, htasks⟩ := (State.formed_iff s).1 h
    refine (State.formed_iff _).2 ⟨hmem, hrest.find hk, (hrest.filter _).append ?_, htasks⟩
    intro c hc
    rw [List.mem_singleton.1 hc]
    exact hcore

theorem State.other_formed {s : State} (h : s.Formed) {u : State} (hu : s.other = some u) : u.Formed := by
  have hfirst := State.firstEnabled_formed (u := u) h s.candidates s.candidates_keep
  grind [State.other, State.matrixTurn_formed]

theorem State.default_formed {s : State} (h : s.Formed) : s.default.Formed := by
  have hother (t : State) (ht : t.Formed) : (s.other.getD t).Formed := by
    cases ho : s.other with
    | none => exact ht
    | some u => exact State.other_formed h ho
  have hi := State.issue_formed h
  unfold State.default
  split
  · split
    · next u hu =>
      refine State.rotate_formed ?_
      split at hu
      · exact State.other_formed h hu
      · exact nomatch hu
    · dsimp only
      split
      · exact State.rotate_formed (hother _ hi)
      · exact State.rotate_formed hi
  · exact State.rotate_formed (hother _ hi)

/-! ### One step -/

theorem State.move_formed {s : State} (h : s.Formed) {m : Move} {u : State} (hu : s.move m = .next u) : u.Formed := by
  cases m with
  | issue =>
    obtain rfl := Host.Outcome.next.inj hu
    exact State.issue_formed h
  | matrix => exact State.matrixTurn_formed h hu
  | event i => exact exec_formed i h hu

theorem step_formed {s : State} (h : s.Formed) {u : State} (hu : step s = .next u) : u.Formed := by
  unfold step at hu
  split at hu
  · rcases next_of_ite hu with hu | hu
    · exact nomatch hu
    · obtain rfl := Host.Outcome.next.inj hu
      exact State.default_formed h
  · next t r _ =>
    rcases next_of_ite hu with hu | hu
    · exact nomatch hu
    · exact State.move_formed (State.focus_formed (s := { s with agenda := r }) h t.core) hu

end Sys2Proof.Machine

namespace Sys2Proof

open Machine

/-- Settles O59: every turn, and what the module does by itself, keeps the canonical form, whatever the instruction or event. -/
theorem stepKeepsMemoryForm : Obligations.StepKeepsMemoryForm := by
  unfold Obligations.StepKeepsMemoryForm
  intro s t hs ht
  exact step_formed hs ht

end Sys2Proof
end
